-- ==== Sys2Proof/Word.lean ====
section
/-!
DEFINITION. Word types: the byte, the scalar word, the descriptor register and the logical block (R13, R134, R400).
-/
namespace Sys2Proof

/-- One byte of device memory (R13). -/
abbrev Byte := BitVec 8
/-- A scalar register, and every 64-bit register of the module (R134). -/
abbrev W64 := BitVec 64
/-- A 32-bit element of a plain INT32 window, a loop counter (R134). -/
abbrev W32 := BitVec 32
/-- A descriptor register, 512 bits (R134, R139). -/
abbrev Desc := BitVec 512
/-- One 4 KiB logical block, byte 0 in bits 7..0 (R13, R400). -/
abbrev Blk := BitVec 32768

end Sys2Proof
end

