-- ==== Sys2Proof/Syntax.lean ====
section
/-!
DEFINITION. The commands of the block: one constructor of `Instr` per row of spec/opcode_table.json.
Jenun instructions name the compositor that issues them and carry the operand fields of their word
(R180); host and management commands carry their header and their dwords (R423, R591); events carry
what the world outside the module contributes to them.
-/
namespace Sys2Proof

/-- The predicate fields of an instruction word (R175, R176). -/
structure Pred where
  pen : Bool
  sense : Bool
  flag : Fin 64
  deriving DecidableEq, Repr, Inhabited

/-- Operand b of the SCL class: rb, or imm where bit 7 of the variant is set (R195). -/
inductive Src2 where
  | reg (rb : Fin 64)
  | imm (v : W64)
  deriving DecidableEq, Repr, Inhabited

/-- The field selectors of the DSC class (R200). -/
inductive DField where
  | base | fmt | layout | rank | bdim | esc | rnd | srBits | sat | slot | slotEn | pieces | ext | org | win
  deriving DecidableEq, Repr, Inhabited

/-- The four tiers (R204, R231). -/
inductive Tier where
  | t0 | t1 | t2 | t3
  deriving DecidableEq, Repr, Inhabited

/-- The hint codes (R204, R238). -/
inductive HintCode where
  | clear | keep | hot | cold | streamed
  deriving DecidableEq, Repr, Inhabited

/-- A completion flag: `none` is ev_en = 0 (R180, R184). -/
abbrev EvSel := Option (Fin 64)

/-- The fields of format E, used by IMP and ENG (R180). -/
structure EArgs where
  ta : Fin 32
  tb : Fin 32
  tc : Fin 32
  rp : Fin 64
  rn : Fin 64
  ev : EvSel
  recOff : W32
  imm32 : W32
  deriving DecidableEq, Repr, Inhabited

/-- The path a host or management command arrives on (R391, R590). -/
inductive Path where
  | ctrl (cntlid : Nat)
  | i3c
  | mgmtPort
  deriving DecidableEq, Repr, Inhabited

/-- A command's identity: its path, submission queue and command identifier (R397, R590). -/
structure Hdr where
  path : Path
  sq : Nat
  cid : Nat
  deriving DecidableEq, Repr, Inhabited

/-- A register selector: CDW10, CDW11 and the virtual address of CDW12 to CDW13 (R424). -/
structure RegSel where
  block : Nat
  index : Nat
  qual : W32
  addr : W64
  deriving DecidableEq, Repr, Inhabited

/-- The engines of the claim record, in its bit order (R152). -/
inductive Engine where
  | fabric | platen | galley | sieve | tally | cipher
  deriving DecidableEq, Repr, Inhabited

/-- One report sampled by the fault collector (R525, R528): its source, event code and location
field (R560), whether an injection caused it (R558), the execution whose step met it, and whether
the unit has a spare or remedy left (R534). -/
structure Report where
  src : Fin 256
  event : Nat
  whr : BitVec 24
  inj : Bool
  exec : Option Nat
  spareLeft : Bool
  deriving DecidableEq, Repr, Inhabited

/-- A failure of the cleared-valid-bit check at step start (R523). -/
inductive ClearFail where
  | tile (prow : Nat) (pcol : Nat)
  | bank (n : Nat)
  deriving DecidableEq, Repr, Inhabited

/-- Who issued a posted write (R546). -/
inductive Issuer where
  | compositor (c : Fin 16) (op : Nat)
  | hostDma (h : Hdr)
  | tierManager (mig : Nat)
  | bridge (b : Fin 16) (fixed : Bool)
  deriving DecidableEq, Repr, Inhabited

/-- Protection information of one block: a 64-bit guard, a 16-bit application tag and a 48-bit
reference tag (R404). -/
structure PInfo where
  guard : W64
  app : BitVec 16
  ref : BitVec 48
  deriving DecidableEq, Repr, Inhabited

/-- The protection information types of a namespace with metadata (R404). -/
inductive ProtType where
  | type1 | type3
  deriving DecidableEq, Repr, Inhabited

/-- A logical block as it arrives or leaves, with its protection information where the namespace
has metadata (R400, R404). -/
structure PBlk where
  data : Blk
  pi : Option PInfo
  deriving DecidableEq, Repr, Inhabited

/-- A NAND die: bridge, channel, position (R438). -/
structure Die where
  bridge : Fin 16
  chan : Fin 32
  pos : Fin 8
  deriving DecidableEq, Repr, Inhabited

/-- A physical place of a 4 KiB block: superblock, stripe, and its number among the stripe's 124
data blocks (R441, R442, R457). -/
structure Loc where
  sb : Nat
  stripe : Nat
  slot : Nat
  deriving DecidableEq, Repr, Inhabited

/-- What the dies return to a read: the first attempt's LDPC result, the threshold retry at which
it decodes, the soft read's result, whether every other page of the stripe decodes, whether the
partner's copy is good, and whether the internal block guard matches (R448, R519). -/
structure ReadFacts where
  first : Bool
  retry : Option (Fin 7)
  soft : Bool
  others : Bool
  partner : Bool
  guardOk : Bool
  deriving DecidableEq, Repr, Inhabited

/-- The reader of a flash block (R437, R469, R552). -/
inductive Reader where
  | host (h : Hdr)
  | step (exec : Nat)
  | patrol
  | runAhead (exec : Nat)
  deriving DecidableEq, Repr, Inhabited

/-- Zone Management Send actions (R401). -/
inductive ZoneAct where
  | close | finish | open | reset | offline | setExt
  deriving DecidableEq, Repr, Inhabited

/-- The units that can be reset alone (R547). -/
inductive ResetUnit where
  | bridge (b : Fin 16)
  | t1 (s : Fin 16)
  | t2 (g : Fin 16)
  | pipe (p : Fin 64)
  | hostPort (p : Fin 4)
  | cable (g : Fin 4)
  | comp (c : Fin 16)
  deriving DecidableEq, Repr, Inhabited

/-- Who waits on a reset unit (R550). -/
inductive Requester where
  | compositor (c : Fin 16)
  | ftl (b : Fin 16)
  | hostDma (h : Hdr)
  | tierManager (mig : Nat)
  deriving DecidableEq, Repr, Inhabited

/-- How a limit monitor moves (R563): above its soft threshold, to its fused limit, or back. -/
inductive MonLevel where
  | back | soft | fused
  deriving DecidableEq, Repr, Inhabited

/-- What the sensors read at a thermal-loop pass (R571, R601, R606 to R610): the two inlet and the
two outlet thermistors in °C, the flow in 0.1 L/min, and the temperature monitor hottest relative
to its soft threshold with its reading and margin below the threshold. -/
structure ThermIn where
  inA : Int
  inB : Int
  outA : Int
  outB : Int
  flow : Nat
  hotSrc : Fin 256
  hotC : Int
  flashC : Int
  margin : Int
  deriving DecidableEq, Repr, Inhabited

/-- Which memory a T1 or T2 word error met (R544, R552, R553). -/
inductive WordUse where
  | corrected
  | cleanCopy
  | dirty
  | firmwareReserve
  deriving DecidableEq, Repr, Inhabited

/-- The SRAM a parity error met (R540, R541). -/
inductive SramUnit where
  | tile (prow : Nat) (pcol : Nat)
  | bank (n : Fin 64)
  | ccCode
  | ccData
  | tlb
  | engine (e : Fin 6)
  | alwaysOn
  deriving DecidableEq, Repr, Inhabited

/-- What a plug-in module's CMIS data declares (R603, R604). -/
inductive PlugKind where
  | eth100x8
  | eth200x4
  | twin200x8
  | other
  deriving DecidableEq, Repr, Inhabited

/-- The tiers the scrubbers cover, in page 0xD4's order (R553, R555). -/
inductive ScrubTier where
  | store | t1 | t2 | ccSram | flash
  deriving DecidableEq, Repr, Inhabited

/-- What a scrub quota has mended (R543, R555): the words that it wrote back corrected, and how many clean uncorrectable ones
were fetched again. -/
structure ScrubMended where
  corrected : List Nat
  refetched : Nat := 0
  deriving DecidableEq, Repr, Inhabited

/-- Why the tier manager moves a page up by itself: engines or the fabric have read it so many times within 10 ms (R239), or
it is part of a forme of an execution and goes to a tier (R278). -/
inductive PromoteWhy where
  | read (times : Nat)
  | forme (exec : Nat) (tier : Tier)
  deriving DecidableEq, Repr, Inhabited

/-- A twin lane's training pattern: the far serial number, cage and lane it carries, and whether
polarity is inverted (R475). -/
structure TrainPat where
  serial : List Nat
  cage : Fin 4
  lane : Fin 8
  inverted : Bool
  deriving DecidableEq, Repr, Inhabited

/-- One change of control state carried by a state epoch (R484, R491): the records that the model
keeps of the partner's epochs. -/
structure PeerJob where
  cntlid : Nat
  sq : Nat
  cid : Nat
  ctx : Nat
  exec : Nat
  deadline : Nat
  deriving DecidableEq, Repr, Inhabited

/-- An allocation record as the epochs carry it (R484, R488). -/
structure PeerAlloc where
  id : Nat
  ctx : Nat
  pages : Nat
  flags : W32
  deriving DecidableEq, Repr, Inhabited

/-- A namespace record as the epochs carry it (R484). -/
structure PeerNs where
  nsid : Nat
  group : Nat
  blocks : Nat
  zoned : Bool
  pit : Option ProtType
  deriving DecidableEq, Repr, Inhabited

/-- A whole copy of the sender's control state (R491): its number, its firmware's major version (R586), its table epoch, its partition
table entries that differ from zero, its jobs and its allocations, its namespaces, the groups whose
declarer it is and those whose home it is, its host bindings and wrapped keys, and whether the trailer's digest
and count verify. -/
structure EpochImage where
  num : Nat
  fwMajor : Nat := 1
  nss : List PeerNs := []
  declares : List Nat := []
  homes : List Nat := []
  bind : List (List Nat × Fin 64) := []
  keys : List (Nat × BitVec 512) := []
  tableEpoch : Nat
  part : List (Fin 64 × BitVec 4096)
  jobs : List PeerJob
  allocs : List PeerAlloc
  whole : Bool
  verified : Bool
  deriving DecidableEq, Repr, Inhabited

/-- A completion queue entry: where it goes, its status code type and code, DW0 and DW1 (R434). -/
structure Cqe where
  hdr : Hdr
  sct : Nat
  sc : Nat
  dw0 : W32
  dw1 : W32
  deriving DecidableEq, Repr, Inhabited

/-- What a mirrored write does (R484): it writes its blocks, deallocates n blocks, runs a zone action, or writes
bytes to Subsystem Local Memory, with the context and the address in place of the namespace and the LBA (R488). -/
inductive MirOp where
  | write
  | deallocate (n : Nat)
  | zone (act : ZoneAct)
  | memory (data : List Byte)
  deriving DecidableEq, Repr, Inhabited

/-- A mirrored write on the link (R485): group, group sequence number, namespace, first block,
blocks. -/
structure MirWrite where
  group : Nat
  seq : Nat
  nsid : Nat
  lba : Nat
  blocks : List PBlk
  op : MirOp := .write
  deriving DecidableEq, Repr, Inhabited

/-- The firmware image a download carries once whole: version numbers and whether its signature
verifies (R6, R581, R582). -/
structure FwImage where
  major : Nat
  minor : Nat
  patch : Nat
  signed : Bool
  deriving DecidableEq, Repr, Inhabited

/-- Every command of the block: one constructor per row of spec/opcode_table.json, in its order. -/
inductive Instr where
  -- CTL (R189 to R194)
  | nop (c : Fin 16) (p : Pred)
  | br (c : Fin 16) (p : Pred) (target : W32)
  | call (c : Fin 16) (p : Pred) (target : W32)
  | ret (c : Fin 16) (p : Pred)
  | lcset (c : Fin 16) (p : Pred) (lc : Fin 8) (ra : Fin 64) (imm32 : W32)
  | lcseti (c : Fin 16) (p : Pred) (lc : Fin 8) (imm32 : W32)
  | blc (c : Fin 16) (p : Pred) (lc : Fin 8) (target : W32)
  | jend (c : Fin 16)
  -- SCL (R195 to R199)
  | add (c : Fin 16) (p : Pred) (rd ra : Fin 64) (b : Src2)
  | sub (c : Fin 16) (p : Pred) (rd ra : Fin 64) (b : Src2)
  | mul (c : Fin 16) (p : Pred) (rd ra : Fin 64) (b : Src2)
  | mulhu (c : Fin 16) (p : Pred) (rd ra : Fin 64) (b : Src2)
  | divu (c : Fin 16) (p : Pred) (rd ra : Fin 64) (b : Src2)
  | remu (c : Fin 16) (p : Pred) (rd ra : Fin 64) (b : Src2)
  | and (c : Fin 16) (p : Pred) (rd ra : Fin 64) (b : Src2)
  | or (c : Fin 16) (p : Pred) (rd ra : Fin 64) (b : Src2)
  | xor (c : Fin 16) (p : Pred) (rd ra : Fin 64) (b : Src2)
  | shl (c : Fin 16) (p : Pred) (rd ra : Fin 64) (b : Src2)
  | shr (c : Fin 16) (p : Pred) (rd ra : Fin 64) (b : Src2)
  | sra (c : Fin 16) (p : Pred) (rd ra : Fin 64) (b : Src2)
  | minu (c : Fin 16) (p : Pred) (rd ra : Fin 64) (b : Src2)
  | maxu (c : Fin 16) (p : Pred) (rd ra : Fin 64) (b : Src2)
  | mins (c : Fin 16) (p : Pred) (rd ra : Fin 64) (b : Src2)
  | maxs (c : Fin 16) (p : Pred) (rd ra : Fin 64) (b : Src2)
  | cmpeq (c : Fin 16) (p : Pred) (rd ra : Fin 64) (b : Src2) (evd : Fin 64)
  | cmpne (c : Fin 16) (p : Pred) (rd ra : Fin 64) (b : Src2) (evd : Fin 64)
  | cmpltu (c : Fin 16) (p : Pred) (rd ra : Fin 64) (b : Src2) (evd : Fin 64)
  | cmplts (c : Fin 16) (p : Pred) (rd ra : Fin 64) (b : Src2) (evd : Fin 64)
  | cmpgeu (c : Fin 16) (p : Pred) (rd ra : Fin 64) (b : Src2) (evd : Fin 64)
  | cmpges (c : Fin 16) (p : Pred) (rd ra : Fin 64) (b : Src2) (evd : Fin 64)
  | ldc (c : Fin 16) (p : Pred) (rd ra : Fin 64) (imm : W64)
  | lds (c : Fin 16) (p : Pred) (rd ra : Fin 64) (imm : W64)
  | sts (c : Fin 16) (p : Pred) (rb ra : Fin 64) (imm : W64)
  | rdstep (c : Fin 16) (p : Pred) (rd : Fin 64)
  | rdlc (c : Fin 16) (p : Pred) (rd : Fin 64) (rb : Fin 64)
  | slotw (c : Fin 16) (p : Pred) (ra : Fin 64) (slot : Fin 64)
  | slotr (c : Fin 16) (p : Pred) (rd : Fin 64) (slot : Fin 64)
  -- DSC (R200, R201)
  | dld (c : Fin 16) (p : Pred) (td : Fin 32) (imm : W64)
  | dcpy (c : Fin 16) (p : Pred) (td ts : Fin 32)
  | dset (c : Fin 16) (p : Pred) (td : Fin 32) (ra : Fin 64) (imm : W64) (f : DField) (dim : Fin 4)
  | dadv (c : Fin 16) (p : Pred) (td : Fin 32) (ra : Fin 64) (imm : W64) (dim : Fin 4)
  | dget (c : Fin 16) (p : Pred) (ra : Fin 64) (ts : Fin 32) (f : DField) (dim : Fin 4)
  | dnull (c : Fin 16) (p : Pred) (td : Fin 32)
  -- MOV (R202 to R206), CVT (R207 to R210), IMP (R211 to R215)
  | move (c : Fin 16) (p : Pred) (td ts : Fin 32) (ev : EvSel)
  | pref (c : Fin 16) (p : Pred) (ts : Fin 32) (tier : Tier) (ev : EvSel)
  | hint (c : Fin 16) (p : Pred) (ts : Fin 32) (code : HintCode) (ev : EvSel)
  | evict (c : Fin 16) (p : Pred) (ts : Fin 32) (tier : Tier) (ra : Fin 64) (ev : EvSel)
  | cvt (c : Fin 16) (p : Pred) (td ts : Fin 32) (ra : Fin 64) (ev : EvSel)
  | imp (c : Fin 16) (p : Pred) (a : EArgs)
  -- ENG (R216 to R220)
  | platenDec (c : Fin 16) (p : Pred) (a : EArgs)
  | sieveArm (c : Fin 16) (p : Pred) (a : EArgs)
  | sieveEval (c : Fin 16) (p : Pred) (a : EArgs)
  | sieveF (c : Fin 16) (p : Pred) (a : EArgs)
  | galleyScan (c : Fin 16) (p : Pred) (a : EArgs)
  | tallyTopk (c : Fin 16) (p : Pred) (a : EArgs)
  | tallyTopkF (c : Fin 16) (p : Pred) (a : EArgs)
  | tallyTopkM (c : Fin 16) (p : Pred) (a : EArgs)
  | tallyTopkFm (c : Fin 16) (p : Pred) (a : EArgs)
  | tallyArgmax (c : Fin 16) (p : Pred) (a : EArgs)
  | tallyArgmaxF (c : Fin 16) (p : Pred) (a : EArgs)
  | tallyHist (c : Fin 16) (p : Pred) (a : EArgs)
  | tallySample (c : Fin 16) (p : Pred) (a : EArgs)
  | tallySampleF (c : Fin 16) (p : Pred) (a : EArgs)
  | cipherEnc (c : Fin 16) (p : Pred) (a : EArgs)
  | cipherDec (c : Fin 16) (p : Pred) (a : EArgs)
  | cipherHash (c : Fin 16) (p : Pred) (a : EArgs)
  -- SYNC (R221 to R227)
  | fence (c : Fin 16) (p : Pred)
  | fenceMv (c : Fin 16) (p : Pred)
  | fenceFx (c : Fin 16) (p : Pred)
  | waitAll (c : Fin 16) (p : Pred) (mask : W64)
  | waitAny (c : Fin 16) (p : Pred) (mask : W64)
  | signalSet (c : Fin 16) (p : Pred) (mask : W64)
  | signalClr (c : Fin 16) (p : Pred) (mask : W64)
  | stepI (c : Fin 16) (claim : BitVec 16)
  -- completions, commits and grants
  | asyncOperationComplete (c : Fin 16) (op : Nat)
  | postedWriteResponse (c : Fin 16) (op : Nat)
  | poisonedResponse (i : Issuer)
  | commitPoint (c : Fin 16)
  | outputBankDrain (exec : Nat)
  | stepGrant (bad : List ClearFail)
  | stepAbandonForDeadline
  | executionResume (exec : Nat) (c : Fin 16)
  | waitBackstopExpiry (exec : Nat)
  | jobWithdraw (exec : Nat)
  | gangLaunch (gang : Nat)
  | executionComplete (exec : Nat)
  -- translation, tiers and the partition table
  | tlbWalkComplete (walk : Nat)
  | faultRecordAnswer (rec : Nat)
  | translationFaultTimeout (rec : Nat)
  | migrationSwitch (mig : Nat)
  | oldFrameFree (mig : Nat)
  | deferredEvictionProceed (d : Nat)
  | tierAutoPromote (alloc : Nat) (page : Nat) (why : PromoteWhy)
  | tierAutoDemote (alloc : Nat) (page : Nat)
  | tableEpochSwitch
  | revocationComplete
  -- the index and the stock
  | generationPagesDeallocate (nsid : Nat) (gen : Nat)
  | stockAppendResume (nsid : Nat)
  | stockAppendTimeout (nsid : Nat)
  -- transport
  | icreq (conn : Nat) (port : Fin 4) (pfv hpda maxr2t : Nat) (hdgst ddgst tls : Bool)
  | h2cData (conn : Nat) (h : Hdr) (off len : Nat) (digestOk : Bool)
  | badPdu (conn : Nat)
  | readyToTransferIssue (h : Hdr)
  | associationEnd (cntlid : Nat)
  -- Fabrics and admin commands
  | connect (conn : Nat) (cid : Nat) (nqn : List Nat) (cntlid qid sqsize kato : Nat)
  | propertyGet (h : Hdr) (off : Nat)
  | propertySet (h : Hdr) (off : Nat) (v : W64)
  | disconnect (h : Hdr)
  | authenticationSend (h : Hdr) (last : Bool) (valid : Bool)
  | authenticationReceive (h : Hdr)
  | keepAlive (h : Hdr)
  | identify (h : Hdr) (cns : Nat) (nsid : Nat)
  | getLogPage (h : Hdr) (page : Nat) (lsp : Nat) (off len : Nat)
  | asynchronousEventRequest (h : Hdr)
  | abort (h : Hdr) (sq cid : Nat)
  | unsupportedCommand (h : Hdr) (opc : Nat)
  -- NVM and zoned commands
  | read (h : Hdr) (nsid slba nlb : Nat)
  | write (h : Hdr) (nsid slba : Nat) (blocks : List PBlk)
  | writeZeroes (h : Hdr) (nsid slba nlb : Nat)
  | flush (h : Hdr)
  | verify (h : Hdr) (nsid slba nlb : Nat)
  | datasetManagement (h : Hdr) (nsid : Nat) (ranges : List (Nat × Nat)) (deallocate other : Bool)
  | zoneAppend (h : Hdr) (nsid zslba : Nat) (blocks : List PBlk)
  | zoneManagementSend (h : Hdr) (nsid slba : Nat) (act : ZoneAct) (all : Bool)
  | zoneManagementReceive (h : Hdr) (nsid slba : Nat)
  | namespaceManagement (h : Hdr) (create : Bool) (nsid group blocks : Nat) (zoned : Bool) (pit : Option ProtType)
  | namespaceAttachment (h : Hdr) (nsid : Nat) (cntlid : Nat) (attach : Bool)
  | formatNvm (h : Hdr) (nsid : Nat) (ses : Nat)
  | sanitize (h : Hdr) (action : Nat)
  -- programs and memory
  | loadProgram (h : Hdr) (prog off total : Nat) (data : List Byte)
  | programActivationManagement (h : Hdr) (prog : Nat) (sel : Nat)
  | executeProgram (h : Hdr) (prog : Nat) (params : List Byte) (deadline : W64) (cdw13 : W32) (mrs : Nat)
  | memoryRangeSetManagement (h : Hdr) (create : Bool)
  | memoryRead (h : Hdr) (addr : W64) (len : Nat)
  | memoryWrite (h : Hdr) (addr : W64) (data : List Byte)
  | ingestObject (h : Hdr) (nsid : Nat) (obj lba : W64) (cdw12 cdw13 : W32) (deadline : W64) (data : List Byte)
  | ingestObjectComplete (exec : Nat) (obj : W64)
  -- firmware commands
  | firmwareImageDownload (h : Hdr) (off : Nat) (len : Nat) (img : FwImage)
  | firmwareCommit (h : Hdr) (action slot : Nat)
  -- registers
  | registerRead (h : Hdr) (r : RegSel)
  | registerWrite (h : Hdr) (r : RegSel) (v : W64)
  | stepBudgetWrite (h : Hdr) (v : W64)
  | powerCapWrite (h : Hdr) (v : W64)
  | scaleSlotWrite (h : Hdr) (slot : Fin 64) (qual : W32) (v : W64)
  | faultFirstClear (h : Hdr) (v : W64)
  | faultStickyClear (h : Hdr) (n : Fin 4) (v : W64)
  | faultInjectionWrite (h : Hdr) (src : Fin 256) (v : W64)
  | traceControlWrite (h : Hdr) (v : W64)
  | traceEnableWrite (h : Hdr) (n : Fin 8) (v : W64)
  | lampWrite (h : Hdr) (v : W64)
  | phyStatClear (h : Hdr) (v : W64)
  -- Pair Control, Fault Inject, Partition Table Update, Settings
  | pair (h : Hdr) (serial : List Nat)
  | pairTimeout (matched trained : Bool)
  | unpair (h : Hdr) (cdw11 : W32)
  | startResilvering (h : Hdr) (cdw11 : W32)
  | returnDeclarerRoles (h : Hdr)
  | handGroup (h : Hdr) (cdw11 : W32)
  | clearPairRecords (h : Hdr) (n : Nat)
  | faultInject (h : Hdr) (src : Fin 256) (mask count : Nat)
  | partitionTableUpdate (h : Hdr) (ctx : Fin 64) (entry : BitVec 4096)
  | hostBindingSet (h : Hdr) (nqn : List Nat) (ctx : Fin 64)
  | hostBindingGet (h : Hdr) (ctx : Fin 64)
  | allocate (h : Hdr) (size : Nat) (flags : W32)
  | free (h : Hdr) (alloc : Nat)
  | tierHint (h : Hdr) (alloc first pages code : Nat)
  | tierEvict (h : Hdr) (alloc first pages code : Nat)
  | spillAreaSet (h : Hdr) (gib : Nat)
  | spillAreaGet (h : Hdr)
  | keyInstall (h : Hdr) (slot : Fin 256) (key : BitVec 512)
  | keyClear (h : Hdr) (slot : Fin 256)
  | timeSet (h : Hdr) (domain transport : Nat)
  | timeGet (h : Hdr)
  | soloWritePolicySet (h : Hdr) (refuse : Bool)
  | soloWritePolicyGet (h : Hdr)
  | witnessSet (h : Hdr) (data : List Byte)
  | witnessGet (h : Hdr)
  | ptpMessage (port : Fin 4) (domain : Nat) (master : Bool) (offset : W32)
  | ptpMasterLoss
  -- flash
  | flashReadComplete (rd : Reader) (nsid lba : Nat) (die : Die) (f : ReadFacts)
  | partnerBlockFetch (nsid lba : Nat)
  | flashProgramComplete (op : Nat) (verified : Bool)
  | flashEraseComplete (op : Nat)
  | blockOpenEraseVerify (sb : Nat) (chan : Fin 32) (over96 : Bool)
  | pslcFold (group : Fin 128)
  | garbageCollection
  | mapCheckpoint
  | dieFailure (die : Die)
  | dieGroupRetire (group : Fin 128)
  | holdupMeasurement (pct : Nat) (flushMib : Nat)
  | powerLoss
  | powerLossRestart
  | bridgeBrownoutTrip (b : Fin 16)
  | namespacesReady
  | bridgeReset (b : Fin 16) (cause : Bool)
  | bridgeResetComplete (b : Fin 16) (done : List Nat)
  | patrolRead (sb stripe : Nat) (retries iterPct : Nat)
  | readDisturbRefresh (sb : Nat) (chan : Fin 32)
  -- the twin link
  | laneTraining (cage : Fin 4) (lane : Fin 8) (pat : Option TrainPat)
  | laneErrorRetrain (cage : Fin 4) (lane : Fin 8)
  | heartbeatSend
  | heartbeatMiss (cage : Fin 4)
  | witnessProbe (addr : Nat)
  | witnessTimeout
  | witnessAnswer
  | failureAnnouncement
  | linkReturn (partnerDeclares : List Nat)
  | mirroredWriteReceive (w : MirWrite)
  | mirrorAcknowledgement (group seq : Nat)
  | allocationPageReceive (exec ctx : Nat) (key : Nat) (data : List Byte)
  | finishNote (exec pages : Nat) (cqe : Cqe) (cntlid : Nat) (deadline : Nat)
  | finishNoteAck (exec : Nat)
  | cancelNote (exec : Nat)
  | stateEpochSend
  | stateEpochAdopt (e : EpochImage)
  | resilverCopy (w : MirWrite)
  | twinCopy (exec prog ctx : Nat) (params : List Byte) (deadline : W64)
  | twinRefusal (exec : Nat) (sc : Nat) (dw0 dw1 : W32)
  | twinDigest (exec : Nat) (step : Nat) (digest : BitVec 256)
  | twinPreemptNote (exec : Nat) (step : Nat)
  -- faults
  | faultReport (rs : List Report)
  | latchedFaultHandle
  | sramParityError (u : SramUnit) (word : Nat) (dirty runAhead fails : Bool) (exec : Option Nat)
  | dramEccError (t2 : Bool) (unit : Fin 16) (key : Nat) (use : WordUse) (runAhead : Bool) (rd : Option Reader)
  | mergeBufferWriteback (t2 : Bool) (unit : Fin 16) (word : Nat) (badRead : Bool)
  | unitReset (u : ResetUnit)
  | unitResetComplete (u : ResetUnit)
  | targetUnitResetResponse (r : Requester) (u : ResetUnit)
  | staleReplyDiscard (u : ResetUnit) (epoch : Nat)
  | scrubQuota (t : ScrubTier) (bytes : Nat) (mended : ScrubMended) (poisoned yielded : Nat) (poisonKeys : List Nat)
  | checkerTest (failed : List (Fin 256))
  -- power and thermal
  | limitMonitorCrossing (src : Fin 256) (level : MonLevel)
  | hardwareCapStretch (avg : Nat)
  | hardwareCapRelease (avg : Nat)
  | powerLoopTick (p1 p100 : Nat)
  | thermalLoopTick (t : ThermIn)
  | watchdogRestart
  | watchdogExpiry
  | auxPowerOn (slotId : Fin 16) (checkersOk : Bool)
  | auxPowerLoss
  | startUp (selfTestFails : List (Nat × Nat)) (checkerFails : List (Fin 256)) (sigA sigB : Bool)
  | bootTimeout
  | pwrEnDeassert
  | runningJobShutdownEnd
  | pwrEnAssert
  | majorSelfReset
  | trialPass
  | trialTimeout
  | tracePointRecord (point : Fin 512) (comp : Option (Fin 16)) (idle : Bool)
  -- management
  | readNvmeMiDataStructure (h : Hdr) (kind : Nat)
  | nvmSubsystemHealthStatusPoll (h : Hdr)
  | controllerHealthStatusPoll (h : Hdr)
  | configurationGet (h : Hdr) (id : Nat)
  | configurationSet (h : Hdr) (id : Nat) (v : W32)
  | vpdRead (h : Hdr)
  | queueReset (h : Hdr)
  | rootBinding (h : Hdr) (nqn : List Nat) (secret : BitVec 512)
  | hostSecret (h : Hdr) (nqn : List Nat) (secret psk : BitVec 512)
  | moduleReset (h : Hdr)
  | moduleControlShutdown (h : Hdr)
  | settingsStoreReset (h : Hdr)
  | managementKey (h : Hdr) (key : BitVec 512)
  | trumpReport (h : Hdr)
  -- physical
  | faultNShort
  | senseOpen
  | contactResistanceLimit (tenths : Nat)
  | cageSupplyOvercurrent (twin : Bool) (cage : Fin 4)
  | cageModuleInsert (twin : Bool) (cage : Fin 4) (kind : PlugKind)
  | reverseFlow
  | forwardFlowRestore
  | thermistorFailure (outlet : Bool) (second : Bool)
  | inputReversed (aux : Bool)
  | sidebandCrossCheck (shorted : Bool)
  | linkDownLamp (twin : Bool) (cage : Fin 4)
  | minorRemedyTimeout
  | hostPortLinkChange (port : Fin 4) (up : Bool)
  | epochAdoptionNotice (num : Nat)
  deriving DecidableEq, Repr, Inhabited

end Sys2Proof
end

