-- ==== Sys2Proof/Decode.lean ====
section
/-!
DEFINITION. Commands spelled by table words. The rows of spec/opcode_table.json give no bits, so no word spells
a command: the block takes commands from its queue and has no decoder.
-/
namespace Sys2Proof

/-- The command that a word of nbits bits spells by the table: none, since no row of the table gives bits. -/
def decodeTableWord (_nbits _w : Nat) : Option Instr := none

end Sys2Proof
end

