-- ==== Sys2Proof/Config.lean ====
section
/-!
DEFINITION. What the hardware fixes (grades, capacities, limits) and the free values: what the spec leaves
open, as constants with no body, so that no proof can rest on what they are.
-/
namespace Sys2Proof

/-- The three grades (R2, R5). -/
inductive Grade where
  | g10k | g9k | g8k
  deriving DecidableEq, Repr, Inhabited

/-- Logical columns of the grade (R2). -/
def Grade.cols : Grade → Nat
  | .g10k => 125
  | .g9k => 120
  | .g8k => 112

/-- Logical rows of the grade (R2). -/
def Grade.rows : Grade → Nat
  | .g10k => 80
  | .g9k => 76
  | .g8k => 72

/-- Enabled tiles of the grade (R2). -/
def Grade.tiles (g : Grade) : Nat := g.cols * g.rows

/-- Physical rows that the grade leaves out of the logical array at test (R119). -/
def Grade.leftOut : Grade → Nat
  | .g10k => 0
  | .g9k => 4
  | .g8k => 8

/-- The Model Number of the grade in ASCII codes, left-justified in 40 bytes (R5). -/
def Grade.model : Grade → List Nat
  | .g10k => "LAESK DENEG GWYNOB 10K".toList.map Char.toNat ++ List.replicate 18 32
  | .g9k => "LAESK DENEG GWYNOB 9K".toList.map Char.toNat ++ List.replicate 19 32
  | .g8k => "LAESK DENEG GWYNOB 8K".toList.map Char.toNat ++ List.replicate 19 32

namespace Config

/-- 64 KiB: a page, and a sheet (R231). -/
def pageBytes : Nat := 65536
/-- SRAM of one tile in bytes (R89): operand store, two output banks, escape table and scratch. -/
def storeBytes : Nat := 131072
def bankBytes : Nat := 24576
def escapeBytes : Nat := 16384
def tileSram : Nat := storeBytes + 2 * bankBytes + escapeBytes
/-- The composing store in bytes: 64 banks of 4 MiB (R16). -/
def composingStore : Nat := 64 * 4194304
/-- Tile SRAM of a grade, and its on-chip total, in bytes (R2). -/
def gradeSram (g : Grade) : Nat := g.tiles * tileSram
def onChip (g : Grade) : Nat := gradeSram g + composingStore
/-- Pages grantable to contexts in T0, T1 and, before the map's share, T2 (R231). -/
def t0Pages : Nat := 3072
def t1Pages : Nat := 25149440
/-- Total T2 pages less the 64 GiB reserve (R231); the translation map's share comes off this. -/
def t2Pages : Nat := 50331648 - 1048576
/-- Namespaces (R391). -/
def maxNsid : Nat := 1024
/-- Largest sum of the I/O submission queues (R392). -/
def maxQueueSum : Nat := 262144
/-- Largest number of entries of one queue (R391). -/
def maxQueue : Nat := 4096
/-- MDTS in bytes, 8 MiB (R391). -/
def mdts : Nat := 8388608
/-- In-capsule data: transfers above it move under R2T (R389). -/
def inCapsule : Nat := 8192
/-- Most executions of the module (R378). -/
def maxExecs : Nat := 4096
/-- Most queued object commands of one ingest execution (R378). -/
def maxObjects : Nat := 65536
/-- Nanoseconds of one CK_AO cycle (R31). -/
def tickNs : Nat := 40
/-- User capacity in 4 KiB blocks, 917 TiB (R440). -/
def userBlocks : Nat := 917 * 268435456
/-- Superblocks (R441). -/
def superblocks : Nat := 262144
/-- Zone size in blocks (R401). -/
def zoneBlocks : Nat := 524288

/-- The channel of the die that a stripe program keeps busy at a time: program, time (R443, R444). -/
opaque programDie : Nat → Nat → Fin 32
/-- The µs that a die operation has left at a time: operation, time (R444). -/
opaque dieLeft : Nat → Nat → W32

/-- tied_beyond of a row of a merge whose tb does not hold the ledger's last records (R343): unspecified. The arguments are the
free counter, the operation and the row. -/
opaque tiedUnstated : Nat → Nat → Nat → Nat

/-- A word of free value number n: a value the spec does not state, one per number. -/
opaque freeWord : Nat → W64
/-- What a read of a deallocated or never written block returns (R405). -/
opaque freeBlock : Nat → Nat → Nat → Blk
/-- The protection information such a read returns (R405). -/
opaque freePi : Nat → Nat → Nat → PInfo
/-- The physical frame number or table address firmware chose (R621). -/
opaque frame : Nat → Nat → BitVec 34
/-- The low bits of a next-level table's address (R249, R621). -/
opaque tableLo : Nat → Nat → BitVec 8

/-- A coolant temperature from the two thermistors at a point when they differ (R610 does not say how). -/
opaque thermPair : Int → Int → Int

/-- Firmware of the second image can translate a settings record of the first (R584): no rule says which can. -/
opaque translates : FwImage → FwImage → Bool

/-- The T1 rate that firmware measures over the last 100 ms of forme streaming, in bytes per second less one (R106). -/
opaque formeMeasured : Nat → Nat

/-- The message code, severity and core pair of a log ring entry for event n (R589 states none). -/
opaque logCode : Nat → BitVec 16
opaque logSev : Nat → BitVec 8
opaque logPair : Nat → BitVec 8

/-- Bits that 32 weight elements of a model take in T1 (R106 speaks of the bytes per weight element; no
rule says where the module finds them). -/
opaque weightBits : W64 → Nat

/-! ### Media (R284 to R301)

The media formats are set out by standards outside the spec. What those standards say of an object's bytes is uninterpreted here:
what its headers state, and the codes of its pictures and the samples of its sound. What Platen makes of them the model says
(Machine/Media.lean). -/

/-- HEVC profiles as R284 and R285 tell them apart; the tier is Main or High. -/
inductive HevcProfile where
  | main | main10 | mainStill | other
  deriving DecidableEq, Repr, Inhabited

/-- H.264 profiles as R285 tells them apart. -/
inductive AvcProfile where
  | constrainedBaseline | main | high | other
  deriving DecidableEq, Repr, Inhabited

/-- How a picture or a track is coded, with what R284 to R286 ask of its headers. Levels are in tenths; sub is the horizontal and
vertical sub-sampling of chroma. -/
inductive Coding where
  | jpeg (sof depth comps : Nat) (sub : Nat × Nat) (arithmetic : Bool)
  | jpeg2000 (comps bits : Nat) (part2 : Bool)
  | png
  | tiff (compression bits samples : Nat)
  | heif (profile : HevcProfile) (tiles : Nat) (aux : Bool)
  | h264 (profile : AvcProfile) (depth level : Nat)
  | hevc (profile : HevcProfile) (level : Nat)
  | av1 (main : Bool) (depth level : Nat) (grain : Bool)
  | pcm (bits : Nat) (float : Bool)
  | flac (bits : Nat)
  | aac (lc sbr : Bool)
  | opus
  | other
  deriving DecidableEq, Repr, Inhabited

/-- What the components of a picture are. -/
inductive Colour where
  | grey | rgb | ycc
  deriving DecidableEq, Repr, Inhabited

/-- A track of an object, a still picture being a track of one picture. kind is that of R294; chroma is 0 for monochrome, 1 for
4:2:0, 2 for 4:2:2 and 3 for 4:4:4; matrix is 0 where none is signalled, 1 BT.601, 2 BT.709, 3 BT.2020; orient is the Exif
orientation less one; levels counts the coarser DCT scales or resolution levels; pts are the presentation times of the pictures
and dur the end of the stream, in µs from the first presented one; damaged says that the sound has errors. -/
structure Track where
  num : Nat
  kind : Nat
  coding : Coding
  encrypted : Bool := false
  laced : Bool := false
  w : Nat := 0
  h : Nat := 0
  chroma : Nat := 1
  colour : Colour := .ycc
  matrix : Nat := 0
  orient : Fin 8 := 0
  levels : Nat := 0
  channels : Nat := 0
  rate : Nat := 0
  pts : List Nat := []
  dur : Nat := 0
  damaged : Bool := false
  deriving DecidableEq, Repr, Inhabited

/-- What an object's bytes are: the format code of its container, or of its coding where it has none (R284 to R286), whether an
MXF file has the operational pattern OP1a, whether the container has an index, whether its headers are malformed. -/
structure Media where
  code : Nat
  op1a : Bool := true
  indexed : Bool := true
  malformed : Bool := false
  tracks : List Track := []
  deriving DecidableEq, Repr, Inhabited

/-- One picture of a track: what the headers that govern it state, its depth, its units (macroblocks, coding tree units,
superblocks or restart intervals), those with errors, whether it is intra coded, its nearest reference picture, the pictures that
it depends on from the last random-access point on, itself among them, whether it is such a point, and its compressed bytes. -/
structure Picture where
  coding : Coding
  w : Nat
  h : Nat
  depth : Nat
  units : Nat := 1
  lost : List Nat := []
  intra : Bool := true
  ref : Nat := 0
  deps : List Nat := []
  access : Bool := true
  bytes : Nat := 0
  deriving DecidableEq, Repr, Inhabited

/-- What an object's bytes are; none where the format is not recognised. -/
opaque media : List Byte → Option Media
/-- A picture of a track: object, track number, picture. -/
opaque picture : List Byte → Nat → Nat → Picture
/-- The unit that holds a pixel: object, track, picture, column, row. -/
opaque unitOf : List Byte → Nat → Nat → Nat → Nat → Nat
/-- The code of a component at a pixel of a picture decoded at a level: object, track, picture, level, column, row, component. -/
opaque pixel : List Byte → Nat → Nat → Nat → Nat → Nat → Nat → Nat
/-- A sound sample of a channel: object, track, channel, sample. -/
opaque sound : List Byte → Nat → Nat → Nat → Rat
/-- Compressed bytes of a span of sound: object, track, first µs, length in µs. -/
opaque soundBytes : List Byte → Nat → Nat → Nat → Nat
/-- T2 pages that an entry's decode context takes (R297). -/
opaque contextPages : List Byte → Nat
/-- A value held to some fractional bits rounds up; no rule says when (R288). -/
opaque roundsUp : Nat → Rat → Bool
/-- sinc(x) · sinc(x / 3) for |x| < 3 (R288): a real number, to a precision that no rule states. -/
opaque lanczos : Rat → Rat
/-- Sample n of a signal resampled from one rate to another (R289); the filter is not stated. -/
opaque resampled : (Nat → Rat) → Nat → Nat → Nat → Rat
/-- The energy of a bin of a frame of n_fft samples under a periodic Hann window (R289). -/
opaque power : (Nat → Rat) → Nat → Nat → Rat
/-- The weight of a bin in triangular filter j, spaced evenly on the mel scale (R289): fmin, fmax, n_mels, rate, n_fft, j, bin. -/
opaque melWeight : Nat → Nat → Nat → Nat → Nat → Nat → Nat → Rat
/-- The natural logarithm (R289). -/
opaque ln : Rat → Rat
/-- The decode record that the ingest library uses for an object of a kind (R304). -/
opaque ingestRecord : Nat → BitVec 512

/-- Which program of the Laesk libraries an image is (R303, R318, R349, R353). -/
inductive LibRole where
  | plain | search | round | prefill | ingest | meld
  deriving DecidableEq, Repr, Inhabited

/-- The library program that an image's bytes are; no rule says how the module tells (R131 has no field). -/
opaque libraryRole : List (Nat × Byte) → LibRole
/-- The index namespace that an ingest or meld execution works on, by its image and arguments; no rule lists
the arguments of those library programs. -/
opaque libraryIndex : List (Nat × Byte) → List W64 → Nat
/-- Byte b of what the ingest library program's encoder, with Quoin's conversion to the stock's stored format, makes of sample n
of an object of a kind (R304): program image, object, kind, sample, byte. -/
opaque embedding : List (Nat × Byte) → List Byte → Nat → Nat → Nat → Byte

/-- The pipe time in ns of an object of a kind and size before its data has arrived (R376): it rests on a format
that is not known yet. -/
opaque pipeTime : Nat → Nat → Nat

/-- The tweak of an XTS data unit of CIPHER.ENC and CIPHER.DEC, by its address and its number in the window:
the spec does not say how units are numbered (R217). -/
opaque xtsTweak : Nat → Nat → BitVec 128

end Config
end Sys2Proof
end

