-- ==== Sys2Proof/Machine/Cell.lean ====
section
/-!
DEFINITION. What a tile's cells and accumulators hold (R45, R55, R89, R90), and the parts of a tile.
-/
namespace Sys2Proof.Machine

/-- A cell-format element as the multiplier takes it: signed value p in units of 2^u, scale code s
(R43 to R46, R90). -/
structure CellElem where
  p : Int
  u : Int
  s : Nat
  deriving DecidableEq, Repr, Inhabited

/-- A long accumulator: 320 bits in two's complement, unit 2^-141, its flags and its shadow (R55). -/
structure Acc where
  v : BitVec 320
  nan : Bool
  drop : Bool
  res : Nat
  deriving DecidableEq, Repr, Inhabited

/-- A converted output byte in an output bank, with the execution whose step formed it and its destination
address (R113, R114). -/
structure BankByte where
  exec : Nat
  va : Nat
  b : Byte
  deriving DecidableEq, Repr, Inhabited

/-- The parts of a tile that hold data (R89). active and shadow are the cells' two registers, one list a cell row, each
element with its block's scale, which is what the two sets of block-scale registers hold; esc and escShadow are the
two halves of the escape table, by place in the block, whose cells hold +0 (R80); acc are the accumulators of the
output block in hand; store is the operand store, by K chunk; working and committed are the output banks; scratch
is the scratch. A word that has not been written since the clear of R117 is not listed and reads as zero. -/
structure Tile where
  active : List (List CellElem) := []
  shadow : List (List CellElem) := []
  esc : List (Nat × CellElem) := []
  escShadow : List (Nat × CellElem) := []
  acc : List (List Acc) := []
  store : List (Nat × List (List CellElem)) := []
  working : List BankByte := []
  committed : List BankByte := []
  scratch : List (Nat × Byte) := []
  deriving DecidableEq, Repr, Inhabited

end Sys2Proof.Machine
end

