-- ==== Sys2Proof/Machine/State.lean ====
section
/-!
DEFINITION. The state of the module: every register, queue, table, store and pin the spec gives it, as plain
data, with the model's own fields (the free-value counter, the output lists) marked as such.
-/
namespace Sys2Proof.Machine

open Sys2Proof

/-! ## Faults of the module and of the model -/

/-- The model never ends in a fault: the spec's own faults are states of the module (R531). The one
constructor stands for a state that no rule of the spec describes. Safe: nothing follows from it. -/
inductive Fault where
  /-- Raised by nothing. Safe. -/
  | unreachable
  deriving DecidableEq, Repr

/-- Refusals of the model. -/
inductive Refusal where
  /-- Raised by an arm of exec that has no meaning yet. Safe: the command is not run. -/
  | notModelled (mnemonic : String)
  deriving DecidableEq, Repr

/-! ## Faults, ch. 13 -/

/-- The fault classes (R531). -/
inductive FClass where
  | note | minor | major | trump
  deriving DecidableEq, Repr, Inhabited

/-- FLT_FIRST when it holds a fault (R527). -/
structure FirstFault where
  src : Fin 256
  cls : FClass
  deriving DecidableEq, Repr, Inhabited

/-- A fault being handled or latched (R529, R537): its report and class, when it was detected (R534), and the repeats merged into
it while it was latched. -/
structure ActiveFault where
  rep : Report
  cls : FClass
  since : Nat
  merged : List Report := []
  deriving DecidableEq, Repr, Inhabited

/-- One entry of the Fault Map page (R560). -/
structure MapEntry where
  worst : FClass
  inj : Bool
  count : Nat
  lastS : Nat
  event : Nat
  whr : BitVec 24
  deriving DecidableEq, Repr, Inhabited

/-- The saved copy of the Fault Map page (R561). -/
structure SavedMap where
  first : Option FirstFault
  sticky : BitVec 256
  map : List (Nat × MapEntry)
  latched : Nat := 0
  deriving DecidableEq, Repr, Inhabited

/-- The fault collector and its injection registers (R526 to R530, R535, R537, R556, R560). -/
structure Collector where
  sticky : BitVec 256 := 0
  first : Option FirstFault := none
  active : Option ActiveFault := none
  latched : List ActiveFault := []
  escalated : Nat := 0
  map : List (Nat × MapEntry) := []
  minors : List (Nat × Nat) := []
  inj : List (Nat × (BitVec 8 × Nat)) := []
  saved : SavedMap := { first := none, sticky := 0, map := [] }
  faultN : Bool := false
  deriving DecidableEq, Repr, Inhabited

/-- The Health Detail counts (R432), from manufacture. The temperature bins are held in ns. -/
structure Health where
  trump : Nat := 0
  major : Nat := 0
  minor : Nat := 0
  note : Nat := 0
  rebuilt : Nat := 0
  ldpcCorr : Nat := 0
  uncorr : Nat := 0
  dramCorr : Nat := 0
  sramPar : Nat := 0
  resid : Nat := 0
  piErr : Nat := 0
  tempHist : List Nat := List.replicate 32 0
  uncorrAt : Option Nat := none
  deriving DecidableEq, Repr, Inhabited

/-! ## Life of the module, ch. 01, 14, 15 -/

/-- The power domains, on or off (R16, R33); bit n of b is PD_Bn. -/
structure Domains where
  ao : Bool := true
  cc : Bool := false
  cs : Bool := false
  t1 : Bool := false
  t2 : Bool := false
  ma : Bool := false
  mb : Bool := false
  hn : Bool := false
  tl : Bool := false
  b : BitVec 16 := 0
  deriving DecidableEq, Repr, Inhabited

/-- A switched domain (R33). -/
inductive Dom where
  | cc | cs | t1 | t2 | ma | mb | hn | tl
  | b (n : Fin 16)
  deriving DecidableEq, Repr, Inhabited

/-- Where the module stands in its life (R461, R463, R531, R574 to R581). -/
inductive LifePhase where
  | off
  | powerLost
  | standby
  | startReady
  | firmwareUp
  | inService
  | cleanShutdown
  | flushing
  | majorOut
  | outOfService
  | trump
  deriving DecidableEq, Repr, Inhabited

/-- The lifecycle: inputs, pins, domains, timers of start-up and shutdown (R461, R573 to R580). aoReady says that PD_AO is
ready (R574); held that a shutdown by Module Control waits for PWR_EN to be deasserted (R578); fallAfter that the shutdown under
way begins a fallback (R586); offAt is when both inputs were last gone (R531). -/
structure Life where
  phase : LifePhase := .startReady
  dom : Domains := {}
  pwrEn : Bool := true
  in48Ok : Bool := true
  auxOk : Bool := true
  aoReady : Bool := true
  bootAt : Nat := 0
  fwUpAt : Nat := 0
  cleanEnd : Bool := true
  shutByPin : Bool := false
  held : Bool := false
  fallAfter : Bool := false
  offAt : Nat := 0
  shutAt : Nat := 0
  responseEnd : Nat := 0
  selfResets : List Nat := []
  deriving DecidableEq, Repr, Inhabited

/-- A settings record of the settings store (R583). -/
structure Settings where
  bind : List (List Nat × Fin 64) := []
  entries : Vector (BitVec 4096) 64 := Vector.replicate 64 0
  keys : List (Nat × BitVec 512) := []
  capW : Nat := 4000
  budget : Nat := 250
  domain : Nat := 0
  transport : Nat := 0
  refuse : Bool := false
  witness : List Byte := []
  spillGib : Nat := 4096
  lowered : List (Nat × W32) := []
  deriving DecidableEq, Repr, Inhabited

/-- Firmware slots and the boot record (R581, R582, R584, R587). Slot A is false, slot B true. storeReset says that the
settings store has been reset to defaults, which the next start-up loads (R583, R591). -/
structure Firmware where
  running : Bool := false
  committed : Bool := false
  trial : Option Bool := none
  inTrial : Bool := false
  trialLeft : Nat := 0
  failsA : Nat := 0
  failsB : Nat := 0
  incompat : Bool := false
  fellBack : Bool := false
  imgA : Option FwImage := some { major := 1, minor := 0, patch := 0, signed := true }
  imgB : Option FwImage := none
  download : Option FwImage := none
  downloadLen : Nat := 0
  stagedPaired : Bool := false
  majorSinceBoot : Bool := false
  checkersOk : Bool := true
  partnerMajor : Nat := 1
  storeReset : Bool := false
  oldRecord : Option Settings := none
  deriving DecidableEq, Repr, Inhabited

/-- Input power, the caps, the ladder and the thermal loop (R563 to R572). lowered lists the soft thresholds that
firmware has lowered (R563, R583); no command of the table lowers one. loopRed is by how much the thermal loop has
lowered eff_w, coolMax the limit that its last pass took from the coolant and the contacts (R571). -/
structure Power where
  thermAt : Nat := 0
  capW : Nat := 4000
  capNext : Nat := 4000
  effW : Nat := 4000
  loopRed : Nat := 0
  coolMax : Nat := 4000
  p1 : Nat := 0
  p100 : Nat := 0
  rung : Nat := 0
  lowTicks : Nat := 0
  keep16 : Nat := 16
  stretchAt : Nat := 0
  stretches : Nat := 0
  above : BitVec 256 := 0
  inletC : Int := 0
  outletC : Int := 0
  lowered : List (Nat × W32) := []
  flow : Nat := 0
  reverse : Bool := false
  fwdAt : Option Nat := none
  hotSrc : Fin 256 := 0
  hotC : Int := 0
  flashC : Int := 0
  watchdogAt : Nat := 0
  inletFailA : Bool := false
  inletFailB : Bool := false
  outletFailA : Bool := false
  outletFailB : Bool := false
  deriving DecidableEq, Repr, Inhabited

/-- A cage: whether a plug-in module is present, its supply, and its lamp (R602 to R605, R616). -/
structure CageSt where
  present : Bool := false
  refused : Bool := false
  supplyOff : Bool := false
  linkUp : Bool := false
  downAt : Nat := 0
  amber : Bool := false
  deriving DecidableEq, Repr, Inhabited

/-- The physical registers and the cages (R599 to R605, R615, R616). faultForced is the level that a short holds FAULT_N
at (true: low); flags is PHY_STAT[15:8]. -/
structure Phys where
  slotId : Fin 16 := 0
  flags : BitVec 8 := 0
  faultForced : Option Bool := none
  contact : Nat := 0
  senseOpen : Bool := false
  locate : Bool := false
  dim : Bool := false
  host : Vector CageSt 4 := Vector.replicate 4 {}
  twin : Vector CageSt 4 := Vector.replicate 4 {}
  i3cReleased : Bool := false
  deriving DecidableEq, Repr, Inhabited

/-- The IEEE 1588 timebase (R12, R420 to R422). -/
structure Ptp where
  ports : Vector Bool 4 := Vector.replicate 4 false
  locked : Bool := false
  ever : Bool := false
  port : Fin 4 := 0
  domain : Nat := 0
  transport : Nat := 0
  offset : W32 := 0
  lostAt : Nat := 0
  deriving DecidableEq, Repr, Inhabited

/-! ## The fabric, ch. 03 -/

/-- One fenced tile: physical row and column, cause code, seconds since start-up (R123, R433). -/
structure Fence where
  prow : Nat
  pcol : Nat
  cause : Nat
  sec : Nat
  deriving DecidableEq, Repr, Inhabited

/-- The fabric: test map, fences, gates and clocks, ordered and in force (R118 to R129), the SRAM
remap tables (R541) and the forme-rate measurement (R106). tiles lists the tiles whose parts hold anything, by
128 × physical row + physical column (R89); draining lists the committed banks that have not drained, by execution,
each with the pages that it drains to (R114). -/
structure Fabric where
  tiles : List (Nat × Tile) := []
  draining : List (Nat × List Nat) := []
  leftOut : List Nat := []
  bad : List (Nat × Nat) := []
  fences : List Fence := []
  fencesNow : List Fence := []
  gated : BitVec 16 := 0
  gatedNow : BitVec 16 := 0
  freq : Nat := 16
  freqNext : Nat := 16
  stretch : BitVec 16 := 0
  stretchCount : Vector Nat 16 := Vector.replicate 16 0
  tileRemap : List (Nat × Nat × Nat) := []
  bankRemap : List (Nat × Nat) := []
  formeRate : Option Nat := none
  deriving DecidableEq, Repr, Inhabited

/-! ## Executions, ch. 04, 05 -/

/-- One scale slot: the 64-bit register of R81, its history of amax_e values (R82, R83), newest first. -/
structure Slot where
  word : W64 := 0x10000000000#64
  hist : List Int := []
  deriving DecidableEq, Repr, Inhabited

/-- What the step in progress has measured through a slot: largest exponent stored, if any value was
nonzero, clipped outputs, and the smallest L of the formats stored (R82, R83). -/
structure SlotMeas where
  slot : Fin 64
  amax : Option Int
  clip : Nat
  L : Int
  deriving DecidableEq, Repr, Inhabited

/-- What an outstanding operation does, with the values it captured at issue (R138, R182). -/
inductive OpKind where
  | move
  | pref (t : Tier)
  | hint (h : HintCode)
  | evict (t : Tier) (ra : Fin 64)
  | cvt (zp : BitVec 8)
  | imp
  | sts
  | platen (n : Nat)
  | sieveArm
  | sieveEval
  | sieveF
  | galley (n : Nat) (list : W64)
  | topk (k : Nat) (fed merge : Bool)
  | argmax (fed : Bool)
  | hist (n : Nat)
  | sample (fed : Bool)
  | cipherEnc (slot : Nat)
  | cipherDec (slot : Nat)
  | cipherHash
  deriving DecidableEq, Repr, Inhabited

/-- One outstanding operation of a step (R183, R184). a, b and c are the descriptors it captured
(ts or ta, tb, td or tc), aux the further descriptor registers that its record names (0 when none);
list and count are its pointer list; rdPages and wrPages the pages it reads and writes, left the accesses that its mover
has not translated yet, in order, with true for a write, epoch the table epoch of the first translation (R251, R254, R271),
noNs the pages of namespaces that the table forbade it to write when it issued (R271); uep the unit epochs that its
requests carry, by unit (R19, log entry 142). -/
structure Op where
  id : Nat
  kind : OpKind
  ev : EvSel := none
  a : Desc := 0
  b : Desc := 0
  c : Desc := 0
  aux : List Desc := []
  record : BitVec 512 := 0
  list : W64 := 0
  count : Nat := 0
  ord : Nat := 0
  slotT : Int := 0
  epoch : Option Nat := none
  left : List (Nat × Bool) := []
  noNs : List Nat := []
  rdPages : List Nat := []
  wrPages : List Nat := []
  pc : W32 := 0
  uep : List (Nat × BitVec 16) := []
  done : Bool := false
  boundTo : Option Nat := none
  deriving DecidableEq, Repr, Inhabited

/-- Why an instruction does not issue yet (R137, R183, R185, R186, R221, R251). -/
inductive Stall where
  | outstanding64
  | flagNamed
  | register
  | page
  | walk
  | fence (mv fx : Bool)
  | waitFlags (mask : W64) (all : Bool)
  deriving DecidableEq, Repr, Inhabited

/-- One contiguous run of a write window of a step (R150): its issuer, whether FENCE.FX covers it
(otherwise FENCE.MV does), and its byte range. A fence that covers its writer removes it (R222). -/
structure WrWin where
  issuer : Nat
  fx : Bool
  lo : Nat
  hi : Nat
  deriving DecidableEq, Repr, Inhabited

/-- A held namespace write (R148) or one waiting to be held by both modules (R483, R485). -/
structure NsHeld where
  nsid : Nat
  lba : Nat
  blocks : List PBlk
  deriving DecidableEq, Repr, Inhabited

/-- A row of a Tally ledger (R343, R344). recs are the records that its last selection wrote, by which a merge's tb is known. -/
structure LedgerRow where
  recs : List Nat := []
  tied : Nat := 0
  nan : Nat := 0
  offered : Nat := 0
  filtered : Nat := 0
  deriving DecidableEq, Repr, Inhabited

/-- A decode context (R297): its entry's index and object key, the T2 pages that it takes, the runs of its samples that pipes have
begun and the work in ns left of those that are not done (R291). fin marks an entry that has finished, which holds no context any
more: its status record, which later calls write again (R296, R299; log entry 151). -/
structure DecodeCtx where
  entry : Nat
  key : W64
  pages : Nat
  next : Nat := 0
  left : List Nat := []
  fin : Option (BitVec 256) := none
  deriving DecidableEq, Repr, Inhabited

/-- One element of a row that an impression delivered to an armed engine (R622): its FP32 code, and,
when a Galley scan streamed it, its identity entry (R313), whether it comes from the stock, whether the
row's query probes it, whether the delete set matches it, the verdict of the row's tree, and the side
columns that Sieve may read (R326, R338). -/
structure FedElem where
  val : W32
  scan : Bool := false
  object : W64 := 0
  sample : Nat := 0
  norm : W32 := 0
  stock : Bool := false
  probed : Bool := true
  deleted : Bool := false
  verdict : Bool := true
  cols : List W32 := []
  tags : BitVec 256 := 0
  deriving DecidableEq, Repr, Inhabited

/-- The step in progress (R144 to R151): outstanding operations, its shadow pages as written bytes
over memory, its tracking of reads and writes (rdPages are those read before the step had written them, rdAll all of
them: R149, R215), the pages of its bank-bound outputs, whether a forme has streamed in it (R106), and what it has
counted. -/
structure StepSt where
  ops : List Op := []
  shadow : List (Nat × Byte) := []
  shPages : List (Nat × Tier) := []
  rdPages : List Nat := []
  wrWins : List WrWin := []
  windows : Nat := 0
  rdAll : List Nat := []
  formed : Bool := false
  bankPages : List Nat := []
  ns : List NsHeld := []
  srCount : Nat := 0
  poisonMv : Bool := false
  poisonFx : Bool := false
  armed : List (Engine × Nat) := []
  fed : List (Nat × List (List FedElem)) := []
  ledgers : List (Nat × List LedgerRow) := []
  decode : Option (List DecodeCtx) := none
  meas : List SlotMeas := []
  nanOut : Nat := 0
  dropOut : Nat := 0
  clipOut : Nat := 0
  platenDone : Nat := 0
  platenFailed : Nat := 0
  startedAt : Nat := 0
  myDigest : Option (BitVec 256) := none
  deriving DecidableEq, Repr, Inhabited

/-- The register page (R135): the registers as the last commit left them. -/
structure RegPage where
  regs : Vector W64 64 := Vector.replicate 64 0
  descs : Vector Desc 32 := Vector.replicate 32 0
  lcs : Vector W32 8 := Vector.replicate 8 0
  deriving DecidableEq, Repr, Inhabited

/-- Where an execution stands (R23, R109, R145, R194, R260, R265, R503). -/
inductive ExecPhase where
  | queued
  | gangWait
  | waitGrant
  | running
  | closing (claim : BitVec 16) (final : Bool)
  | preempted
  | policyWait
  | draining
  deriving DecidableEq, Repr, Inhabited

/-- What made the arbiter re-run a step; a second one of the same kind ends the execution
(R87, R223, R540, R542, R544, R550). -/
inductive RerunCause where
  | residue
  | poison
  | parity (unit word : Nat)
  | engine
  | dram
  | unitReset
  | other
  deriving DecidableEq, Repr, Inhabited

/-- One object of an ingest execution on its way through the stages of R304. -/
inductive ObjStage where
  | arriving
  | accepted
  | stored
  | decoded
  | embedded
  | appended
  deriving DecidableEq, Repr, Inhabited

/-- An object command queued at an ingest execution (R304, R411); waits lists the acknowledgements and programs that its
namespace write and its vectors' appends wait for (R24). -/
structure ObjCmd where
  hdr : Hdr
  obj : W64
  nsid : Nat
  lba : Nat
  deadline : Nat
  defer : Bool
  kind : Nat
  blocks : List PBlk
  stage : ObjStage := .accepted
  isStored : Bool := false
  mstat : BitVec 256 := 0xFE#256
  vectors : Nat := 0
  version : Nat := 0
  bytes : List Byte := []
  waits : List (Nat × Nat) := []
  deriving DecidableEq, Repr, Inhabited

/-- One execution (R132 to R135, R264): command identity, image, context, deadline, registers,
register page, step, scale slots with their committed copies, engine state, and its outcome. copy marks
the partner's copy of a twin-verified execution (R511), which posts no completion and counts none; seqs are the
sequence records that a round names (R355); snap is the snapshot (g, m_g, v) of its index (R26, R317); wrote the runs of
blocks of its index namespace that a meld has written (R323); peerDigest is the partner's last digest with its step (R513), preemptStep
the commit point at which the partner's copy was pre-empted (R514); reruns why its step has been run again (R87, R223); parityWord the word of the last parity error that
its step met (R540); spent the estimates of the steps that it has committed (R261); queued how many object commands have joined its command queue (R264, R304); waitSince when it began to wait for its grant, its
stalled instruction or its commit (R277); resuming that it waits to run again a step that it left (R265, R266). -/
structure Exec where
  id : Nat
  hdr : Hdr
  ctx : Fin 64
  image : Nat
  deadline : Nat
  seed : W64 := 0
  began : Nat := 0
  arg2 : W64 := 0
  estimate : Nat := 0
  phase : ExecPhase := .queued
  comp : Option (Fin 16) := none
  regs : Vector W64 64 := Vector.replicate 64 0
  descs : Vector Desc 32 := Vector.replicate 32 0
  lcs : Vector W32 8 := Vector.replicate 8 0
  evs : W64 := 0
  pc : W32 := 0
  rstack : List W32 := []
  page : RegPage := {}
  pcStep : W32 := 0
  step : Nat := 0
  claim : BitVec 16 := 0
  slots : Vector Slot 64 := Vector.replicate 64 {}
  slotsC : Vector Slot 64 := Vector.replicate 64 {}
  ledgers : List (Nat × List LedgerRow) := []
  decode : List DecodeCtx := []
  st : StepSt := {}
  nextOp : Nat := 0
  stall : Option Stall := none
  reruns : List RerunCause := []
  residRetry : Nat := 0
  nstat : W64 := 0
  heldT0 : List Nat := []
  awaitNs : List (Nat × Nat) := []
  sentPages : List Nat := []
  finishSent : Bool := false
  finishAt : Nat := 0
  gang : Option Nat := none
  batch : Nat := 0
  twin : Bool := false
  preemptStep : Option Nat := none
  peerDigest : Option (Nat × BitVec 256) := none
  parityWord : Nat := 0
  spent : Nat := 0
  waitSince : Nat := 0
  resuming : Bool := false
  queued : Nat := 0
  ingest : Bool := false
  objs : List ObjCmd := []
  index : Option Nat := none
  snap : Option (Nat × Nat × Nat) := none
  meld : Bool := false
  wrote : List (Nat × Nat) := []
  quire : Bool := false
  qwin : List (Nat × Nat × Nat) := []
  qns : Nat := 0
  own : List Nat := []
  seqs : List Nat := []
  copy : Bool := false
  deriving DecidableEq, Repr, Inhabited

/-- A gang of executions (R106 to R110, R364 to R366). -/
structure Gang where
  id : Nat
  image : Nat
  model : W64
  members : List Nat := []
  launched : Bool := false
  deriving DecidableEq, Repr, Inhabited

/-- A loaded program image (R130, R407, R408): bytes received, whether the verifier passed it, its largest step estimate
(R157), the estimates of its steps by the offset of their first instruction, and the sum of a whole run where every step is
bounded (R376), in ns. -/
structure Image where
  prog : Nat
  owner : Fin 64
  bytes : List (Nat × Byte) := []
  received : Nat := 0
  verified : Bool := false
  estimate : Nat := 0
  times : List (Nat × Nat) := []
  sum : Option Nat := none
  total : Nat := 0
  active : Bool := true
  deriving DecidableEq, Repr, Inhabited

/-- One compositor: whether it is out of service (R525) and whether it is being reset (R547). The
execution on it names it (R23). -/
structure Comp where
  oos : Bool := false
  resetting : Bool := false
  deriving DecidableEq, Repr, Inhabited

/-- One entry of the Tenant Job Counters page (R383). -/
structure JobCount where
  onTime : Nat := 0
  late : Nat := 0
  refusedInf : Nat := 0
  refusedOvl : Nat := 0
  withdrawn : Nat := 0
  takeover : Nat := 0
  aborted : Nat := 0
  failed : Nat := 0
  deriving DecidableEq, Repr, Inhabited

/-- Scheduling state and its registers (R23, R156, R267, R378, R379, R383). -/
structure Sched where
  comps : Vector Comp 16 := Vector.replicate 16 {}
  execs : List Exec := []
  images : List Image := []
  gangs : List Gang := []
  nextExec : Nat := 1
  nextGang : Nat := 1
  budget : Nat := 250
  overruns : Nat := 0
  boundary : Nat := 0
  abandoned : Nat := 0
  withdrawn : Nat := 0
  refusedInf : Nat := 0
  refusedOvl : Nat := 0
  counts : Vector JobCount 64 := Vector.replicate 64 {}
  holder : List (Engine × Nat) := []
  grants : List (Nat × List Nat) := []
  runTimes : List (Nat × Nat × Nat) := []
  deriving DecidableEq, Repr, Inhabited

/-! ## Tiers and translation, ch. 06 -/

/-- One page of an allocation where it departs from the allocation's default (R237, R249). -/
structure PageInfo where
  tier : Tier
  zod : Bool
  sw : Bool := false
  lastUse : Nat := 0
  corrections : List Nat := []
  deriving DecidableEq, Repr, Inhabited

/-- An allocation (R237, R429). `freed` marks one that Free has ended and accesses still hold (R430). -/
structure Alloc where
  id : Nat
  ctx : Fin 64
  pages : Nat
  home : Tier
  pin : Bool
  zod : Bool
  large : Bool
  huge : Bool
  cells : List (Nat × PageInfo) := []
  freed : Bool := false
  deriving DecidableEq, Repr, Inhabited

/-- Who has set a hint (R238): the host side of a context, or an execution. -/
inductive HintBy where
  | host (c : Fin 64)
  | exec (id : Nat)
  deriving DecidableEq, Repr, Inhabited

/-- A tier hint in force (R238): which pages, its code, and its issuer. -/
structure HintRec where
  alloc : Nat
  first : Nat
  pages : Nat
  code : HintCode
  issuer : HintBy
  deriving DecidableEq, Repr, Inhabited

/-- A migration in flight or queued (R240, R244, R245): its pages, its target, its issuer, the hint that caused it (R246),
and whether its switch is in progress (R245). -/
structure Mig where
  id : Nat
  alloc : Nat
  pages : List Nat
  dst : Tier
  promo : Bool
  op : Option (Nat × Nat) := none
  host : Option Hdr := none
  cause : Option HintCode := none
  renew : Bool := false
  switching : Bool := false
  deriving DecidableEq, Repr, Inhabited

/-- A deferred eviction (R242), with its issuer. -/
structure Deferred where
  id : Nat
  alloc : Nat
  pages : List Nat
  dst : Tier
  op : Option (Nat × Nat) := none
  host : Option Hdr := none
  deriving DecidableEq, Repr, Inhabited

/-- Old frames kept until the accesses translated to them complete (R245, R430): waits lists the operations, by execution,
that were outstanding on the allocation at the switch. -/
structure OldFrame where
  mig : Nat
  tier : Tier
  pages : Nat
  alloc : Nat
  waits : List (Nat × Nat) := []
  retire : Bool := false
  deriving DecidableEq, Repr, Inhabited

/-- The movers of R250, one for each TLB. -/
inductive Mover where
  | comp (c : Fin 16)
  | galley
  | platen (pipe : Fin 64)
  | quoin (n : Fin 16)
  | host (p : Fin 4)
  deriving DecidableEq, Repr, Inhabited

/-- A TLB entry (R250): mover, context, table epoch, and the page of the context's address space. -/
structure TlbEntry where
  mover : Mover
  ctx : Fin 64
  epoch : Nat
  page : Nat
  wr : Bool
  deriving DecidableEq, Repr, Inhabited

/-- A walk in progress (R251). -/
structure Walk where
  id : Nat
  mover : Mover
  ctx : Fin 64
  page : Nat
  wr : Bool
  exec : Nat
  op : Nat
  deriving DecidableEq, Repr, Inhabited

/-- A fault record queued to firmware (R254); host names the command of a fault of the host DMA, which has no execution. -/
structure FaultRec where
  id : Nat
  ctx : Fin 64
  mover : Mover
  chan : Nat
  va : Nat
  wr : Bool
  exec : Nat
  step : Nat
  op : Nat
  compEpoch : Nat
  at_ : Nat
  host : Option Hdr := none
  deriving DecidableEq, Repr, Inhabited

/-- Tiers, allocations, hints, migrations and translation (R231 to R259). cancelled holds the fault records of abandoned steps,
whose mapping firmware may have begun (R263). mem holds the bytes of
T0 to T3 allocation pages under the keys of `memKey`; an unlisted key reads as 0. -/
structure Tiers where
  mem : List Host.Cell := []
  allocs : List Alloc := []
  nextAlloc : Nat := 1
  hints : List HintRec := []
  migs : List Mig := []
  queue : List Mig := []
  deferred : List Deferred := []
  old : List OldFrame := []
  nextMig : Nat := 1
  spillGib : Nat := 4096
  tlb : List TlbEntry := []
  walks : List Walk := []
  faults : List FaultRec := []
  cancelled : List FaultRec := []
  nextFault : Nat := 1
  maxUs : Nat := 0
  refused : Nat := 0
  poison : List Nat := []
  retired : List (Tier × Nat) := []
  nsMaps : List (Fin 64 × Nat × Nat × Nat × Nat) := []
  deriving DecidableEq, Repr, Inhabited

/-- The partition table and its epochs (R268 to R274). Entry 0 reads as every right (R269). -/
structure Partition where
  entries : Vector (BitVec 4096) 64 := Vector.replicate 64 0
  epoch : Nat := 0
  next : Option (Nat × Fin 64 × BitVec 4096) := none
  revoking : List (Hdr × Fin 64 × BitVec 4096) := []
  deriving DecidableEq, Repr, Inhabited

/-! ## Indexes, ch. 08 -/

/-- The identity entry of a stock insert, with its sequence number (R313, R316). -/
structure StockEntry where
  seq : Nat
  object : W64
  sample : Nat
  norm : W32
  deriving DecidableEq, Repr, Inhabited

/-- What the module keeps of an index beside its root record, which is a block of its namespace (R308): the
stock version and the first sequence number of the stock region (R315, R316), the identity entries of the stock's inserts
(R312, R313), the root records of the generations that a later one has replaced (R321), the runs of blocks that a meld
without a publication has left (R323), and the appends that wait for room (R322). -/
structure Index where
  nsid : Nat
  version : Nat := 0
  seqBase : Nat := 1
  entries : List StockEntry := []
  orphans : List (Nat × Nat) := []
  old : List (Nat × Blk) := []
  waiting : List (Nat × W64) := []
  deriving DecidableEq, Repr, Inhabited

/-- Engine registers: PLT_STAT (R283) and GAL_STAT (R329). -/
structure EngineRegs where
  half : Bool := false
  done : Nat := 0
  failed : Nat := 0
  sheets : Nat := 0
  rebuilt : Nat := 0
  deriving DecidableEq, Repr, Inhabited

/-! ## Host protocol, ch. 10 -/

/-- A TCP connection (R388, R390). -/
structure Conn where
  id : Nat
  port : Fin 4
  tls : Bool
  hdgst : Bool
  ddgst : Bool
  maxr2t : Nat
  cntlid : Option Nat := none
  qid : Nat := 0
  deriving DecidableEq, Repr, Inhabited

/-- A controller (R391, R393, R416). -/
structure Ctrl where
  id : Nat
  nqn : List Nat
  ctx : Fin 64
  kato : Nat
  aliveAt : Nat
  cc : W32 := 0
  auth : Bool := false
  authStep : Nat := 0
  tls : Bool := false
  deriving DecidableEq, Repr, Inhabited

/-- An I/O or admin queue (R391, R392). -/
structure Queue where
  cntlid : Nat
  qid : Nat
  size : Nat
  conn : Nat
  deriving DecidableEq, Repr, Inhabited

/-- What an outstanding command still has to do once its data has arrived or its wait ends. -/
inductive Body where
  | write (nsid lba : Nat) (blocks : List PBlk)
  | memWrite (ctx : Fin 64) (addr : Nat) (data : List Byte)
  | memRead (ctx : Fin 64) (addr len : Nat)
  | load (prog off total : Nat) (data : List Byte)
  | exec (id : Nat)
  | ingest (exec : Nat) (obj : ObjCmd)
  | read (nsid lba nlb : Nat) (left : List Nat) (send : Bool)
  | evictWait (mig : Nat)
  | zoneAppend (nsid zslba : Nat) (blocks : List PBlk)
  | other
  deriving DecidableEq, Repr, Inhabited

/-- What an outstanding command waits for. -/
inductive WaitOn where
  | data
  | mirror (group seq : Nat)
  | epoch (num : Nat)
  | revoke
  | job
  | flash
  | evict
  | xlate
  | handover
  | pairing
  deriving DecidableEq, Repr, Inhabited

/-- An outstanding command (R389, R397); uep is the record of unit epochs that the transfer's requests carry (R19). -/
structure OutCmd where
  hdr : Hdr
  body : Body
  wait : WaitOn
  total : Nat := 0
  asked : Nat := 0
  got : Nat := 0
  r2ts : List (Nat × Nat) := []
  retried : Bool := false
  uep : List (Nat × BitVec 16) := []
  dw0 : W32 := 0
  dw1 : W32 := 0
  deriving DecidableEq, Repr, Inhabited

/-- A zone's state (R401). -/
inductive ZState where
  | empty | impOpen | expOpen | closed | full
  deriving DecidableEq, Repr, Inhabited

/-- A zone: its state and write pointer offset; unlisted zones are empty (R401, R402). -/
structure Zone where
  state : ZState
  wp : Nat
  deriving DecidableEq, Repr, Inhabited

/-- A namespace (R400, R404, R406, R417). -/
structure Ns where
  nsid : Nat
  group : Nat
  blocks : Nat
  zoned : Bool
  pit : Option ProtType
  zones : List (Nat × Zone) := []
  attached : List Nat := []
  mediaKey : Nat
  readOnly : Bool := false
  deriving DecidableEq, Repr, Inhabited

/-- A secret of a host NQN (R414, R591). -/
structure Secret where
  nqn : List Nat
  secret : BitVec 512
  psk : Option (BitVec 512) := none
  deriving DecidableEq, Repr, Inhabited

/-- A PDU or management response the module sends (R388, R390, R412, R389). -/
inductive Pdu where
  | icResp (conn : Nat)
  | c2hTermReq (conn : Nat)
  | r2t (h : Hdr) (off len : Nat)
  | c2hData (h : Hdr) (bytes : List Byte)
  | c2hBlocks (h : Hdr) (blocks : List PBlk)
  deriving DecidableEq, Repr, Inhabited

/-- An asynchronous event (R434, R502). -/
structure Aer where
  typ : Nat
  info : Nat
  page : Nat
  deriving DecidableEq, Repr, Inhabited

/-- An entry of the firmware log ring (R15, R588, R589). -/
structure LogEntry where
  time : Nat
  code : Nat
  sev : Nat
  seq : Nat
  arg0 : Nat
  arg1 : Nat
  deriving DecidableEq, Repr, Inhabited

/-- A trace record (R588, R589). -/
structure TraceRec where
  time : Nat
  point : Fin 512
  comp : Option (Fin 16)
  exec : Nat
  step : Nat
  deriving DecidableEq, Repr, Inhabited

/-- The host side: connections, controllers, queues, outstanding commands, namespaces and their
blocks, keys, bindings, and what has been sent (R387 to R437). ns blocks lie under `blkKey`; miDrop
lists the management requests whose response a Queue Reset discards (R399). -/
structure HostSt where
  conns : List Conn := []
  ctrls : List Ctrl := []
  queues : List Queue := []
  cmds : List OutCmd := []
  aerReqs : List Hdr := []
  aerQueue : List (Nat × Aer) := []
  bind : List (List Nat × Fin 64) := []
  secrets : List Secret := []
  mgmtKey : Option (BitVec 512) := none
  tlsOnly : Vector Bool 4 := Vector.replicate 4 false
  nss : List Ns := []
  blks : List (Nat × PBlk) := []
  nextKey : Nat := 1
  keys : List (Nat × BitVec 512) := []
  cq : List Cqe := []
  aers : List (Hdr × Aer) := []
  pdus : List Pdu := []
  mi : List (Hdr × Nat × List Nat) := []
  miDrop : List Hdr := []
  log : List LogEntry := []
  logSeq : Nat := 0
  savedLog : List LogEntry := []
  stopJobs : Bool := false
  miConfig : List (Nat × W32) := []
  deriving DecidableEq, Repr, Inhabited

/-- Trace control and buffer (R587 to R589). -/
structure Trace where
  run : Bool := false
  stopFull : Bool := false
  dropped : Nat := 0
  en : Vector W64 8 := Vector.replicate 8 0
  buf : List TraceRec := []
  count : Nat := 0
  deriving DecidableEq, Repr, Inhabited

/-! ## Flash, ch. 11 -/

/-- A superblock's use (R441, R454, R458). -/
inductive SbState where
  | free
  | open (pslc gc : Bool)
  | closed
  | pslc
  | erasing (pslc : Bool)
  deriving DecidableEq, Repr, Inhabited

/-- A superblock (R441, R458, R464, R470, R472): unlisted ones are free and unworn. -/
structure Sb where
  state : SbState := .free
  nextStripe : Nat := 0
  closedSeq : Nat := 0
  eraseQ : Nat := 0
  eraseP : Nat := 0
  reads : List (Nat × Nat) := []
  erased : BitVec 32 := 0
  refresh : Bool := false
  deriving DecidableEq, Repr, Inhabited

/-- A write waiting in the write buffer (R451): its block key, a sequence number and the block. -/
structure Dirty where
  key : Nat
  seq : Nat
  blk : PBlk
  deriving DecidableEq, Repr, Inhabited

/-- A die operation under way (R439, R445, R464). -/
inductive DieOp where
  /-- A stripe program: its superblock, stripe, the block keys it carries with their source
  (none: from the write buffer with that sequence number, some: a move by GC or fold), and the bridge's unit epoch (R19). -/
  | program (id sb stripe : Nat) (entries : List (Nat × Option Loc)) (seqs : List Nat) (uep : BitVec 16)
  /-- The erase of one erase block, with the bridge's unit epoch. -/
  | erase (id sb : Nat) (chan : Fin 32) (jseq : Nat) (uep : BitVec 16)
  deriving DecidableEq, Repr, Inhabited

/-- An erase-intent record or stamp in a bridge journal (R464, R465). -/
structure Intent where
  sb : Nat
  chan : Fin 32
  count : Nat
  jseq : Nat
  deriving DecidableEq, Repr, Inhabited

/-- A media bridge (R468, R473). -/
structure Bridge where
  up : Bool := false
  bod : Bool := false
  resets : Nat := 0
  reissued : Nat := 0
  jseq : Nat := 0
  resetting : Bool := false
  resetAt : Nat := 0
  deriving DecidableEq, Repr, Inhabited

/-- The flash and its translation (R438 to R473). map sends a block key to its place; credit counts the superblocks that garbage
collection has freed while fewer than 256 are free and that no host write has taken (R458). -/
structure Flash where
  map : List (Nat × Loc) := []
  sbs : List (Nat × Sb) := []
  dirty : List Dirty := []
  seq : Nat := 0
  ops : List DieOp := []
  nextOp : Nat := 1
  intents : List Intent := []
  stamps : List Intent := []
  bridges : Vector Bridge 16 := Vector.replicate 16 {}
  bmax : Nat := 8
  failed : List (Nat × Die) := []
  retired : List Nat := []
  ro : Bool := false
  wthru : Bool := false
  limitMib : Nat := 8192
  pslcOrder : List Nat := []
  journal : Nat := 0
  closeSeq : Nat := 0
  credit : Nat := 0
  retireCheck : List Nat := []
  deriving DecidableEq, Repr, Inhabited

/-! ## The twin link, ch. 12 -/

/-- The pair states (R506). -/
inductive PairSt where
  | unpaired | training | paired | resilvering | soloSplit | soloSurvivor | conflict
  deriving DecidableEq, Repr, Inhabited

/-- ANA states (R396). -/
inductive Ana where
  | optimized | inaccessible | transition
  deriving DecidableEq, Repr, Inhabited

/-- The role of a group here (R482, R515). -/
inductive Role where
  | unused | declarer | dummy | conflict
  deriving DecidableEq, Repr, Inhabited

/-- A namespace group (R396, R482, R485, R504, R515). -/
structure Group where
  role : Role := .unused
  homeHere : Bool := false
  synced : Bool := false
  readOnly : Bool := false
  seq : Nat := 0
  ana : Ana := .optimized
  changed : List (Nat × Nat) := []
  handing : Bool := false
  handEp : Option Nat := none
  deriving DecidableEq, Repr, Inhabited

/-- A cable group (R475 to R477, R480, R495). -/
structure Cable where
  lanes : BitVec 8 := 0
  peer : Fin 4 := 0
  crossed : Bool := false
  held : Bool := false
  missed : Nat := 0
  consec : Nat := 0
  lastMiss : Nat := 0
  retrains : Nat := 0
  deriving DecidableEq, Repr, Inhabited

/-- A mirrored write not yet acknowledged (R485) and who waits for it; w is what it
writes to a namespace, rel the release of the partner that it orders (R483). -/
structure Unacked where
  group : Nat
  seq : Nat
  bytes : Nat
  hdr : Option Hdr
  exec : Option Nat
  w : Option MirWrite := none
  rel : Option Nat := none
  deriving DecidableEq, Repr, Inhabited

/-- A staging area (R489): its pages in the order of their arrival, and the finish note with its page count, entry,
controller and deadline. -/
structure Staging where
  exec : Nat
  ctx : Nat
  pages : List (Nat × List Byte) := []
  note : Option (Nat × Cqe × Nat × Nat) := none
  applied : Bool := false
  deriving DecidableEq, Repr, Inhabited

/-- A takeover or finish record of the Pair Status page (R434, R500). -/
structure PairRec where
  cqe : Cqe
  cntlid : Nat
  deadline : Nat
  ctx : Nat
  deriving DecidableEq, Repr, Inhabited

/-- What the module sends over the link (R479, R484). -/
inductive TwinMsg where
  | write (w : MirWrite)
  | release (w : MirWrite)
  | ack (group seq : Nat)
  | memWrite (seq : Nat) (ctx addr : Nat) (data : List Byte)
  | page (exec : Nat) (key : Nat) (data : List Byte)
  | finish (exec pages : Nat) (cqe : Cqe) (deadline : Nat)
  | finishAck (exec : Nat)
  | cancel (exec : Nat)
  | epoch (e : EpochImage)
  | adopted (num : Nat)
  | heartbeat (cage : Fin 4)
  | announce
  | probe
  | probeAnswer (addr : Nat)
  | fetch (nsid lba : Nat)
  | fetched (nsid lba : Nat) (b : Option PBlk)
  | twinCopy (exec prog ctx : Nat) (params : List Byte) (deadline : W64)
  | twinAccept (exec : Nat)
  | twinRefuse (exec sc : Nat) (dw0 dw1 : W32)
  | digest (exec step : Nat) (d : BitVec 256)
  | preempt (exec step : Nat)
  | resilver (w : MirWrite)
  deriving DecidableEq, Repr, Inhabited

/-- Pairing state (R475 to R516). owed is an adopted epoch whose notice waits until the accesses of the old table have
drained (R494); memSeq and memRecv number the Memory Writes and releases sent and received (R483, R488). -/
structure Twin where
  st : PairSt := .unpaired
  since : Nat := 0
  rank : Nat := 0
  peerSerial : List Nat := []
  cages : Vector Cable 4 := Vector.replicate 4 {}
  groups : Vector Group 64 := Vector.replicate 64 {}
  unacked : List Unacked := []
  epSent : Nat := 0
  epAdopted : Nat := 0
  epFlight : Option Nat := none
  epAt : Nat := 0
  owed : Option Nat := none
  dirty : Bool := false
  adopted : Option EpochImage := none
  staging : List Staging := []
  records : List PairRec := []
  takeovers : Nat := 0
  witness : List Byte := []
  checkAt : Option Nat := none
  refuse : Bool := false
  waiting : List MirWrite := []
  applied : List (Nat × Nat) := []
  resLeft : Nat := 0
  resDone : Nat := 0
  pairAt : Option Nat := none
  kek : Option Nat := none
  memSeq : Nat := 0
  memRecv : Nat := 0
  out : List TwinMsg := []
  deriving DecidableEq, Repr, Inhabited

/-! ## Unit epochs and scrubbing -/

/-- The unit epochs (R547), which units are being reset, and stale replies counted (R549). -/
structure Units where
  epochs : List (Nat × BitVec 16) := []
  resetting : List ResetUnit := []
  stale : Nat := 0
  deriving DecidableEq, Repr, Inhabited

/-- One entry of the Scrub Laps page (R555). -/
structure Scrub where
  laps : Nat := 0
  lastMs : Nat := 0
  progress : Nat := 0
  corrected : Nat := 0
  poisoned : Nat := 0
  yielded : Nat := 0
  startAt : Nat := 0
  deriving DecidableEq, Repr, Inhabited

/-- The module's identity (R5, R6, R481). -/
structure Ident where
  grade : Grade := .g10k
  serial : List Nat := List.replicate 32 48
  deriving DecidableEq, Repr, Inhabited

/-- The state of the module. now is the timebase in ns (R12); pending is the queue of waiting
commands; free is the model's own counter of free values, not the spec's. -/
structure State where
  pending : List Instr := []
  now : Nat := 0
  free : Nat := 0
  ident : Ident := {}
  life : Life := {}
  fw : Firmware := {}
  pwr : Power := {}
  phys : Phys := {}
  ptp : Ptp := {}
  flt : Collector := {}
  health : Health := {}
  fab : Fabric := {}
  sched : Sched := {}
  tiers : Tiers := {}
  part : Partition := {}
  indexes : List Index := []
  eng : EngineRegs := {}
  host : HostSt := {}
  trace : Trace := {}
  flash : Flash := {}
  twin : Twin := {}
  units : Units := {}
  scrub : Vector Scrub 5 := Vector.replicate 5 {}
  deriving DecidableEq, Repr

/-- The module at t0 of the start-up sequence (R575, R579): PD_AO ready, both inputs in range,
PWR_EN asserted, every switched domain off, every register at its reset value. -/
def State.reset : State := {}

/-- The same moment of a module of a grade, with the physical rows that its test left out of the logical array and the tiles that
it found bad (R2, R4, R119). State.reset is that of a 10K module without either. -/
def State.ofGrade (g : Grade) (leftOut : List Nat) (bad : List (Nat × Nat)) : State :=
  { ident := { grade := g }, fab := { leftOut, bad } }

end Sys2Proof.Machine
end

