-- ==== Sys2Proof/Machine/Assoc.lean ====
section
/-!
DEFINITION. Sorted association lists (memory, maps, overlays), small list helpers and the byte order of the module.
-/
namespace Sys2Proof.Machine

/-- The value under key k. -/
def assocGet {α : Type} (k : Nat) : List (Nat × α) → Option α
  | [] => none
  | (k', v) :: t => if k = k' then some v else assocGet k t

/-- Set key k, keeping the keys strictly rising. -/
def assocPut {α : Type} (k : Nat) (v : α) : List (Nat × α) → List (Nat × α)
  | [] => [(k, v)]
  | (k', v') :: t =>
    if k < k' then (k, v) :: (k', v') :: t
    else if k = k' then (k, v) :: t
    else (k', v') :: assocPut k v t

/-- Remove key k. -/
def assocErase {α : Type} (k : Nat) : List (Nat × α) → List (Nat × α)
  | [] => []
  | (k', v') :: t => if k = k' then t else (k', v') :: assocErase k t

/-- Keys strictly rise. -/
def assocSorted {α : Type} : List (Nat × α) → Bool
  | [] => true
  | (k, _) :: t => (match t with | [] => true | (k', _) :: _ => decide (k < k')) && assocSorted t

/-- Read one byte of memory: an unlisted key reads as 0 (log entry 3). -/
def memGet (m : List Host.Cell) (k : Nat) : Byte := (assocGet k m).getD 0

/-- Write one byte of memory, keeping the canonical form: a 0 removes the entry. -/
def memPut (m : List Host.Cell) (k : Nat) (b : Byte) : List Host.Cell :=
  if b = 0 then assocErase k m else assocPut k b m

/-- The canonical form of memory: keys strictly rising and no entry that reads as an unlisted key does. -/
def Memory.wf (m : List Host.Cell) : Bool := assocSorted m && m.all (fun c => decide (c.2 ≠ 0))

/-- Write a list of bytes from key k upwards. -/
def memPutAll (m : List Host.Cell) (k : Nat) : List Byte → List Host.Cell
  | [] => m
  | b :: t => memPutAll (memPut m k b) (k + 1) t

/-- The little-endian number of a list of bytes (R13). -/
def leNat : List Byte → Nat
  | [] => 0
  | b :: t => b.toNat + 256 * leNat t

/-- n bytes of a number, little-endian (R13). -/
def leBytes (n v : Nat) : List Byte :=
  match n with
  | 0 => []
  | n + 1 => BitVec.ofNat 8 v :: leBytes n (v / 256)

/-- Bits hi..lo of a number. -/
def bitsOf (v hi lo : Nat) : Nat := v / 2 ^ lo % 2 ^ (hi + 1 - lo)

/-- The upper limit of a saturating count. -/
def satAdd (lim a b : Nat) : Nat := min lim (a + b)

/-- A descriptor, record or entry read from bytes. -/
def bytesToBits (w : Nat) (bs : List Byte) : BitVec w := BitVec.ofNat w (leNat bs)

/-- Replace every element that satisfies p. -/
def mapWhere {α : Type} (p : α → Bool) (f : α → α) (l : List α) : List α :=
  l.map fun x => if p x then f x else x

/-- 0, 1, ..., n - 1. -/
def upto (n : Nat) : List Nat := List.range n

/-- Insert into a list sorted by a key, after the elements whose key is not greater. -/
def insertBy {α : Type} (lt : α → α → Bool) (x : α) : List α → List α
  | [] => [x]
  | y :: t => if lt x y then x :: y :: t else y :: insertBy lt x t

/-- Stable insertion sort. -/
def sortBy {α : Type} (lt : α → α → Bool) : List α → List α
  | [] => []
  | x :: t => insertFirst lt x (sortBy lt t)
where
  /-- Insert before the elements whose key is not less, so that equal keys keep their order. -/
  insertFirst {α : Type} (lt : α → α → Bool) (x : α) : List α → List α
    | [] => [x]
    | y :: t => if lt y x then y :: insertFirst lt x t else x :: y :: t

/-- Split a list into pieces of n, with fuel. -/
def chunksAux {α : Type} (n : Nat) : Nat → List α → List (List α)
  | 0, _ => []
  | _ + 1, [] => []
  | f + 1, l => l.take n :: chunksAux n f (l.drop n)

/-- Split a list into pieces of n. -/
def chunks {α : Type} (n : Nat) (l : List α) : List (List α) := chunksAux n l.length l

end Sys2Proof.Machine
end

