-- ==== Sys2Proof/Machine/Formats.lean ====
section
/-!
DEFINITION. Numbers (ch. 02): formats, exact values, one rounding, block scales, pieces, the long
accumulator with its residue shadow, and the lane generator.
-/
namespace Sys2Proof.Machine

/-! ## Format codes (R37) -/

/-- The formats of R37. -/
inductive Fmt where
  | fp32 | fp16 | bf16 | e4m3 | e5m2 | fp4 | e2m3 | e3m2 | int4 | int6 | int32
  deriving DecidableEq, Repr, Inhabited

/-- Format of a 4-bit code; none is a reserved code, the format fault (R37). -/
def Fmt.ofCode (c : Nat) : Option Fmt :=
  match c with
  | 0x0 => some .fp32
  | 0x1 => some .fp16
  | 0x2 => some .bf16
  | 0x3 => some .e4m3
  | 0x4 => some .e5m2
  | 0x5 => some .fp4
  | 0x6 => some .e2m3
  | 0x7 => some .e3m2
  | 0x8 => some .int4
  | 0x9 => some .int6
  | 0xA => some .int32
  | _ => none

/-- Element bits (R37). -/
def Fmt.bits : Fmt → Nat
  | .fp32 => 32 | .fp16 => 16 | .bf16 => 16 | .e4m3 => 8 | .e5m2 => 8
  | .fp4 => 4 | .e2m3 => 6 | .e3m2 => 6 | .int4 => 4 | .int6 => 6 | .int32 => 32

/-- A cell format: an impression multiplies it directly (R37). -/
def Fmt.isCell : Fmt → Bool
  | .fp4 | .e2m3 | .e3m2 | .int4 | .int6 => true
  | _ => false

/-- A wide floating-point format (R37, R38). -/
def Fmt.isWide : Fmt → Bool
  | .fp32 | .fp16 | .bf16 | .e4m3 | .e5m2 => true
  | _ => false

/-- An integer block format. -/
def Fmt.isIntBlock : Fmt → Bool
  | .int4 | .int6 => true
  | _ => false

/-- Exponent bits, mantissa bits and bias of a floating-point format (R39 to R41, R51). -/
def Fmt.params : Fmt → Nat × Nat × Int
  | .fp32 => (8, 23, 127)
  | .fp16 => (5, 10, 15)
  | .bf16 => (8, 7, 127)
  | .e4m3 => (4, 3, 7)
  | .e5m2 => (5, 2, 15)
  | .fp4 => (2, 1, 1)
  | .e2m3 => (2, 3, 1)
  | .e3m2 => (3, 2, 3)
  | _ => (0, 0, 0)

/-! ## Values -/

/-- A value: exact and finite (sign, magnitude m × 2^e), infinite, or NaN. -/
inductive FVal where
  | fin (neg : Bool) (m : Nat) (e : Int)
  | inf (neg : Bool)
  | nan
  deriving DecidableEq, Repr, Inhabited

/-- The signed whole number of a finite value in units of 2^e. -/
def signed (neg : Bool) (m : Nat) : Int := if neg then -(m : Int) else m

/-- Decode a floating-point code (R39 to R42, R51). Cell formats have neither infinity nor NaN. -/
def decodeFloat (f : Fmt) (code : Nat) : FVal :=
  let (eb, mb, bias) := f.params
  let man := code % 2 ^ mb
  let ex := code / 2 ^ mb % 2 ^ eb
  let neg := decide (code / 2 ^ (mb + eb) % 2 = 1)
  let top := 2 ^ eb - 1
  let special : Bool := match f with
    | .fp32 | .fp16 | .bf16 | .e5m2 => decide (ex = top)
    | .e4m3 => decide (ex = top ∧ man = 7)
    | _ => false
  if special then
    (match f with
     | .e4m3 => .nan
     | _ => if man = 0 then .inf neg else .nan)
  else if ex = 0 then .fin neg man (1 - bias - mb)
  else .fin neg (man + 2 ^ mb) ((ex : Int) - bias - mb)

/-- Decode an INT32 element: 0x8000_0000 is NaN (R52, R339). -/
def decodeInt32 (code : Nat) : FVal :=
  if code = 0x80000000 then .nan
  else if code < 0x80000000 then .fin false code 0
  else .fin true (0x100000000 - code) 0

/-- Decode an element of a wide format or INT32. -/
def decodeWide (f : Fmt) (code : Nat) : FVal :=
  match f with
  | .int32 => decodeInt32 code
  | _ => decodeFloat f code

/-- The canonical NaN of a wide format or INT32 (R52). -/
def canonNan : Fmt → Nat
  | .fp32 => 0x7FC00000
  | .fp16 => 0x7E00
  | .bf16 => 0x7FC0
  | .e4m3 => 0x7F
  | .e5m2 => 0x7E
  | .int32 => 0x80000000
  | _ => 0

/-! ## One rounding (R61 to R66) -/

/-- Rounding modes (R62). SR carries b and its random bits r (R63). -/
inductive Rnd where
  | rne
  | rtz
  | sr (b : Nat) (r : Nat)
  deriving DecidableEq, Repr, Inhabited

/-- m / 2^s rounded to a whole number under the mode (R62, R63). -/
def roundShift (md : Rnd) (m s : Nat) : Nat :=
  let q := m / 2 ^ s
  let rem := m % 2 ^ s
  match md with
  | .rtz => q
  | .rne => if 2 * rem > 2 ^ s ∨ (2 * rem = 2 ^ s ∧ q % 2 = 1) then q + 1 else q
  | .sr b r => if rem * 2 ^ b / 2 ^ s + r ≥ 2 ^ b then q + 1 else q

/-- m × 2^e as a whole number of units 2^q, rounded under the mode. -/
def roundTo (md : Rnd) (m : Nat) (e q : Int) : Nat :=
  if q ≤ e then m * 2 ^ (e - q).toNat else roundShift md m (q - e).toNat

/-- The exponent of the last place that a floating-point format gives to m × 2^e, with no upper
bound on the exponent. -/
def lastPlace (f : Fmt) (m : Nat) (e : Int) : Int :=
  let (_, mb, bias) := f.params
  max (1 - bias - mb) ((Nat.log2 m : Int) + e - mb)

/-- The largest finite magnitude of a floating-point format, as m × 2^e (R39 to R41, R51). -/
def maxFinite (f : Fmt) : Nat × Int :=
  let (eb, mb, bias) := f.params
  match f with
  | .e4m3 => (14, 5)
  | .fp4 | .e2m3 | .e3m2 => (2 ^ (mb + 1) - 1, (2 ^ eb - 1 : Int) - bias - mb)
  | _ => (2 ^ (mb + 1) - 1, (2 ^ eb - 2 : Int) - bias - mb)

/-- Is a × 2^ea less than or equal to b × 2^eb? -/
def dyLe (a : Nat) (ea : Int) (b : Nat) (eb : Int) : Bool :=
  if ea ≤ eb then decide (a ≤ b * 2 ^ (eb - ea).toNat) else decide (a * 2 ^ (ea - eb).toNat ≤ b)

/-- Code of a magnitude sig × 2^q that the format represents, with its sign. -/
def encodeMag (f : Fmt) (neg : Bool) (sig : Nat) (q : Int) : Nat :=
  let (eb, mb, bias) := f.params
  let sgn := if neg then 2 ^ (mb + eb) else 0
  if sig < 2 ^ mb then sgn + sig
  else if sig < 2 ^ (mb + 1) then sgn + (q + mb + bias).toNat * 2 ^ mb + (sig - 2 ^ mb)
  else sgn + (q + mb + bias + 1).toNat * 2 ^ mb

/-- A finite value rounded once into a wide floating-point format; the flag says clipped (R64). -/
def encodeFloat (f : Fmt) (md : Rnd) (sat neg : Bool) (m : Nat) (e : Int) : Nat × Bool :=
  let (eb, mb, _) := f.params
  if m = 0 then (encodeMag f neg 0 0, false)
  else
    let q := lastPlace f m e
    let sig := roundTo md m e q
    let (xm, xe) := maxFinite f
    if dyLe sig q xm xe then (encodeMag f neg sig q, false)
    else
      let inf := (if neg then 2 ^ (mb + eb) else 0) + (2 ^ eb - 1) * 2 ^ mb
      let big := encodeMag f neg xm xe
      (match f with
       | .e4m3 => if sat then (big, true) else (canonNan .e4m3, true)
       | _ => if sat || md == Rnd.rtz then (big, true) else (inf, true))

/-- A finite value rounded once into INT32 (R64, R66). -/
def encodeInt32 (md : Rnd) (neg : Bool) (m : Nat) (e : Int) : Nat × Bool :=
  let v := roundTo md m e 0
  let (v, c) := if v > 0x7FFFFFFF then (0x7FFFFFFF, true) else (v, false)
  (if neg ∧ v ≠ 0 then 0x100000000 - v else v, c)

/-- An output value in a wide format or INT32, with its clipped flag: finite (R64), NaN (R52, R65),
infinite (R618). -/
def encodeWide (f : Fmt) (md : Rnd) (sat : Bool) (v : FVal) : Nat × Bool :=
  match v with
  | .nan => (canonNan f, false)
  | .fin neg m e =>
    (match f with
     | .int32 => encodeInt32 md neg m e
     | _ => encodeFloat f md sat neg m e)
  | .inf neg =>
    let (eb, mb, _) := f.params
    (match f with
     | .int32 => (if neg then 0x80000001 else 0x7FFFFFFF, true)
     | .e4m3 => if sat then (encodeMag f neg (maxFinite f).1 (maxFinite f).2, true) else (canonNan .e4m3, true)
     | _ =>
       if sat then (encodeMag f neg (maxFinite f).1 (maxFinite f).2, true)
       else ((if neg then 2 ^ (mb + eb) else 0) + (2 ^ eb - 1) * 2 ^ mb, false))

/-! ## Block formats (R45, R46, R67, R619) -/

/-- The smallest k in -127 to 127 with m × 2^e at most mx × 2^mxe × 2^k; 127 where none is (R67). -/
def scaleExp (m : Nat) (e : Int) (mx : Nat) (mxe : Int) : Int :=
  let k0 : Int := (Nat.log2 m : Int) + e - (Nat.log2 mx : Int) - mxe - 1
  let k := if dyLe m e mx (mxe + k0) then k0
    else if dyLe m e mx (mxe + k0 + 1) then k0 + 1
    else k0 + 2
  max (-127) (min 127 k)

/-- The larger of two magnitudes. -/
def magMax (a b : Nat × Int) : Nat × Int := if dyLe a.1 a.2 b.1 b.2 then b else a

/-- The magnitude of a finite value; 0 of the others. -/
def FVal.mag : FVal → Nat × Int
  | .fin _ m e => (m, e)
  | _ => (0, 0)

/-- Is the value finite? -/
def FVal.isFin : FVal → Bool
  | .fin .. => true
  | _ => false

/-- A block: its scale code and its element codes; INT blocks carry their zero-point byte beside it. -/
structure Block where
  scale : Nat
  codes : List Nat
  clipped : Nat
  deriving DecidableEq, Repr, Inhabited

/-- A NaN block of n elements (R46, R52, R53). -/
def nanBlock (n : Nat) : Block := { scale := 0xFF, codes := List.replicate n 0, clipped := 0 }

/-- One element y / 2^k rounded once into a floating-point block format, saturating at the element
maximum (R64, R67). A negative value that rounds to zero is written +0 in FP4 (log entry 20). -/
def blockElem (f : Fmt) (md : Rnd) (k : Int) (v : FVal) : Nat × Bool :=
  match v with
  | .fin neg m e =>
    if m = 0 then (0, false)
    else
      let e' := e - k
      let q := lastPlace f m e'
      let sig := roundTo md m e' q
      let (xm, xe) := maxFinite f
      let (c, cl) := if dyLe sig q xm xe then (encodeMag f neg sig q, false) else (encodeMag f neg xm xe, true)
      (if f = .fp4 ∧ c = 8 then 0 else c, cl)
  | _ => (0, false)

/-- A block of outputs in an FP4 or FP6 format (R67); mds gives each element its rounding. -/
def encodeBlockFp (f : Fmt) (mds : List Rnd) (ys : List FVal) : Block :=
  if ys.all FVal.isFin then
    let a := ys.foldl (fun acc y => magMax acc y.mag) (0, 0)
    if a.1 = 0 then { scale := 0, codes := List.replicate ys.length 0, clipped := 0 }
    else
      let k := scaleExp a.1 a.2 (maxFinite f).1 (maxFinite f).2
      let rs := (ys.zip mds).map fun p => blockElem f p.2 k p.1
      { scale := (k + 127).toNat, codes := rs.map (·.1), clipped := rs.countP (·.2) }
  else nanBlock ys.length

/-- The bound that limits y on its side: codes from -z to cmax - z (R619). -/
def intBound (cmax z : Nat) (neg : Bool) : Nat := if neg then z else cmax - z

/-- A block of outputs in INT4 or INT6 with zero point z (R619). -/
def encodeBlockInt (f : Fmt) (z : Nat) (mds : List Rnd) (ys : List FVal) : Block :=
  let cmax := 2 ^ f.bits - 1
  if ys.all FVal.isFin then
    let need (y : FVal) : Int := match y with
      | .fin neg m e =>
        let b := intBound cmax z neg
        if m = 0 ∨ b = 0 then -127 else scaleExp m e b 0
      | _ => -127
    if ys.all (fun y => decide (y.mag.1 = 0)) then
      { scale := 0, codes := List.replicate ys.length z, clipped := 0 }
    else
      let k := ys.foldl (fun acc y => max acc (need y)) (-127)
      let elem (p : FVal × Rnd) : Nat × Bool := match p.1 with
        | .fin neg m e =>
          let v := roundTo p.2 m (e - k) 0
          let b := intBound cmax z neg
          let (v, c) := if v > b then (b, true) else (v, false)
          (if neg then z - v else z + v, c)
        | _ => (z, false)
      let rs := (ys.zip mds).map elem
      { scale := (k + 127).toNat, codes := rs.map (·.1), clipped := rs.countP (·.2) }
  else nanBlock ys.length

/-- The base-2 logarithm of the unit in which a format's element values are whole (table under Terms). -/
def Fmt.unit : Fmt → Int
  | .fp4 => -1
  | .e2m3 => -3
  | .e3m2 => -4
  | _ => 0

/-- A cell element from its code, scale and zero-point byte (R39 to R46). -/
def cellElem (f : Fmt) (code s zp : Nat) : CellElem :=
  match f with
  | .int4 => { p := (code : Int) - (zp % 16 : Nat), u := 0, s }
  | .int6 => { p := (code : Int) - (zp % 64 : Nat), u := 0, s }
  | _ =>
    (match decodeFloat f code with
     | .fin neg m e => { p := signed neg m * 2 ^ (e - f.unit).toNat, u := f.unit, s }
     | _ => { p := 0, u := f.unit, s })

/-- The exact value of a cell element (R45, R46). -/
def CellElem.val (x : CellElem) : FVal :=
  if x.s = 0xFF then .nan else .fin (decide (x.p < 0)) x.p.natAbs (x.u + (x.s : Int) - 127)

/-- The escape value of a side-list entry; none breaks R79 (R77, R79). -/
def escapeElem (code s : Nat) : Option CellElem :=
  match decodeFloat .fp16 code with
  | .fin neg m e =>
    if m = 0 then some { p := 0, u := -10, s }
    else if dyLe 1 0 m e then some { p := signed neg m * 2 ^ (e + 10).toNat, u := -10, s }
    else none
  | _ => none

/-! ## Piece splitting (R72, R73) -/

/-- The piece counts of the pieces field (R139, R73). -/
def pieceCount (c : Nat) : Option Nat :=
  if c = 1 ∨ c = 2 ∨ c = 3 ∨ c = 4 ∨ c = 6 then some c else none

/-- a × 2^ea - b × 2^eb for signed whole numbers, exactly. -/
def dySub (a : Int) (ea : Int) (b : Int) (eb : Int) : Int × Int :=
  let e := min ea eb
  (a * 2 ^ (ea - e).toNat - b * 2 ^ (eb - e).toNat, e)

/-- The pieces of one block of finite elements, signed whole numbers with their exponents (R73). -/
def splitBlock : Nat → List (Int × Int) → List (List CellElem)
  | 0, _ => []
  | n + 1, rs =>
    let m := rs.foldl (fun acc r => magMax acc (r.1.natAbs, r.2)) (0, 0)
    if m.1 = 0 then rs.map (fun _ => { p := 0, u := -3, s := 0 }) :: splitBlock n rs
    else
      let k := scaleExp m.1 m.2 15 (-1)
      let piece (r : Int × Int) : CellElem :=
        let code := (blockElem .e2m3 .rne k (.fin (decide (r.1 < 0)) r.1.natAbs r.2)).1
        cellElem .e2m3 code (k + 127).toNat 0
      let ps := rs.map piece
      let rest := (rs.zip ps).map fun rp => dySub rp.1.1 rp.1.2 rp.2.p (-3 + k)
      ps :: splitBlock n rest

/-- The P pieces of a block of wide elements (R53, R73): a block with a NaN or an infinity is a NaN
block in every piece. -/
def pieces (P : Nat) (xs : List FVal) : List (List CellElem) :=
  if xs.all FVal.isFin then
    splitBlock P (xs.map fun x => match x with
      | .fin neg m e => (signed neg m, e)
      | _ => (0, 0))
  else List.replicate P (xs.map fun _ => { p := 0, u := -3, s := 0xFF })

/-! ## The long accumulator (R54 to R59) and its residue shadow (R85, R86) -/

/-- A cleared accumulator (R117). -/
def Acc.zero : Acc := { v := 0, nan := false, drop := false, res := 0 }

/-- The combined scale exponent of a term (R54). -/
def combined (a b : CellElem) : Int := (a.s : Int) - 127 + ((b.s : Int) - 127)

/-- One term (R57, R85). -/
def Acc.term (acc : Acc) (a b : CellElem) : Acc :=
  if a.s = 0xFF ∨ b.s = 0xFF then { acc with nan := true }
  else if a.p = 0 ∨ b.p = 0 then acc
  else
    let c := combined a b
    if c > 127 then { acc with nan := true }
    else if c < -127 then { acc with drop := true }
    else
      let sh := (c + a.u + b.u + 141).toNat
      { acc with
        v := acc.v + BitVec.ofInt 320 (a.p * b.p * 2 ^ sh)
        res := ((acc.res : Int) + a.p * b.p * 2 ^ (sh % 8)).emod 255 |>.toNat }

/-- A row of terms. -/
def Acc.terms (acc : Acc) : List CellElem → List CellElem → Acc
  | a :: as, b :: bs => Acc.terms (acc.term a b) as bs
  | _, _ => acc

/-- Two accumulators added exactly, with their flags and shadows, as a K merge and a partial-sum hop add them
(R96, R97). -/
def Acc.add (a b : Acc) : Acc := { v := a.v + b.v, nan := a.nan || b.nan, drop := a.drop || b.drop, res := (a.res + b.res) % 255 }

/-- The accumulator's residue: its 40 bytes, less 1 when bit 319 is set, modulo 255 (R86). The sum
of the bytes is the number itself modulo 255. -/
def Acc.residue (acc : Acc) : Nat :=
  (((acc.v.toNat : Int) - if acc.v.msb then 1 else 0).emod 255).toNat

/-- The residue check of an output (R86): NaN outputs are not checked. -/
def Acc.check (acc : Acc) : Bool := acc.nan || decide (acc.residue = acc.res)

/-- The exact output value (R55, R58, R59, R65), scaled by 2^-t (R61). -/
def Acc.out (acc : Acc) (t : Int) : FVal :=
  if acc.nan then .nan
  else .fin (decide (acc.v.toInt < 0)) acc.v.toInt.natAbs (if acc.v = 0 then 0 else -141 - t)

/-! ## The lane generator (R68, R69) -/

/-- mix of R69. -/
def mix (v : W64) : W64 :=
  let z := v + 0x9E3779B97F4A7C15#64
  let z := (z ^^^ (z >>> 30)) * 0xBF58476D1CE4E5B9#64
  let z := (z ^^^ (z >>> 27)) * 0x94D049BB133111EB#64
  z ^^^ (z >>> 31)

/-- The random bits of lane l at step n, ordinal o, seed q, b bits (R69). -/
def laneBits (q : W64) (n o l b : Nat) : Nat :=
  let st := mix (q ^^^ BitVec.ofNat 64 n)
  (mix (st ^^^ (BitVec.ofNat 64 o <<< 48) ^^^ BitVec.ofNat 64 l)).toNat % 2 ^ b

/-- The rounding mode of a descriptor's fields for one lane (R62, R63); none is reserved. -/
def rndOf (code srBits : Nat) (q : W64) (n o l : Nat) : Option Rnd :=
  match code with
  | 0 => some .rne
  | 1 => some .rtz
  | 2 => some (.sr (srBits + 1) (laneBits q n o l (srBits + 1)))
  | _ => none

/-! ## Comparisons and FP32 arithmetic used by the engines -/

/-- Exact comparison a < b of finite values given as signed whole numbers and exponents. -/
def dyLt (a : Int) (ea : Int) (b : Int) (eb : Int) : Bool := decide ((dySub a ea b eb).1 < 0)

/-- The value of an FP32 code. -/
def fp32 (w : W32) : FVal := decodeFloat .fp32 w.toNat

/-- Round an exact value to FP32 with RNE. -/
def toFp32 (v : FVal) : W32 := BitVec.ofNat 32 (encodeWide .fp32 .rne false v).1

/-- The order key of a floating-point or INT32 value of w bits: -0 as +0, then every bit of a
negative value flipped, or the sign bit of a positive one; INT32 flips the sign bit (R339). -/
def orderKey (f : Fmt) (code : Nat) : Nat :=
  let w := f.bits
  match f with
  | .int32 => if code ≥ 2 ^ 31 then code - 2 ^ 31 else code + 2 ^ 31
  | _ =>
    let code := if code = 2 ^ (w - 1) then 0 else code
    if code ≥ 2 ^ (w - 1) then 2 ^ w - 1 - code else code + 2 ^ (w - 1)

/-- The largest exponent: floor(log2 |v|), none for 0 and for what is not finite (R81). -/
def FVal.log2 : FVal → Option Int
  | .fin _ m e => if m = 0 then none else some ((Nat.log2 m : Int) + e)
  | _ => none

/-- e^(-y) for y = n / d ≥ 0, rounded once to FP32: a fixed-point power series with 256 fractional bits
of (y / 2^12), then twelve squarings; from 104 on the result rounds to +0 (R369). -/
def expNeg (n d : Nat) : W32 :=
  if d = 0 ∨ n ≥ 104 * d then 0
  else
    let one := 2 ^ 256
    let x := n * one / (d * 4096)
    let series := (upto 60).foldl (fun (acc : Int × Int) i =>
      (acc.1 + acc.2, -(acc.2 * x) / ((one : Int) * (i + 1)))) ((0 : Int), (one : Int))
    let r := (upto 12).foldl (fun (acc : Nat) _ => acc * acc / one) series.1.toNat
    toFp32 (.fin false r (-256))

end Sys2Proof.Machine
end

