-- ==== Sys2Proof/Machine/Operands.lean ====
section
/-!
DEFINITION. Operand forms: descriptor fields and windows (R139 to R143), the element addresses of every layout
(R48 to R50, R142, R310), sheet headers (R235), reading a window's elements and writing outputs into one.
-/
namespace Sys2Proof.Machine

/-- The faults that instructions raise at run time (R88, R229). -/
inductive JFault where
  | descriptor
  | inPlace
  | bound
  | format
  | escape
  /-- A shelf sheet that is not the one expected, uncorrectable data (R327). -/
  | data
  deriving DecidableEq, Repr, Inhabited

/-- The status of each fault's effect (R88, R229, R327). -/
def JFault.status : JFault → Nat
  | .escape | .data => 0x85
  | _ => 0x87

/-! ## Descriptor fields (R139) -/

/-- Bits hi..lo of a descriptor. -/
def dbits (d : Desc) (hi lo : Nat) : Nat := bitsOf d.toNat hi lo

/-- The bit range of a DSC field (R139, R200). -/
def fieldRange (f : DField) (dim : Fin 4) : Nat × Nat :=
  match f with
  | .base => (55, 0)
  | .fmt => (59, 56)
  | .layout => (63, 60)
  | .rank => (65, 64)
  | .bdim => (67, 66)
  | .esc => (68, 68)
  | .rnd => (70, 69)
  | .srBits => (74, 71)
  | .sat => (75, 75)
  | .slot => (81, 76)
  | .slotEn => (82, 82)
  | .pieces => (85, 83)
  | .ext => (127 + 32 * dim, 96 + 32 * dim)
  | .org => (255 + 32 * dim, 224 + 32 * dim)
  | .win => (383 + 32 * dim, 352 + 32 * dim)

/-- Read a field of a descriptor, zero-extended (R200). -/
def dfield (d : Desc) (f : DField) (dim : Fin 4) : Nat :=
  dbits d (fieldRange f dim).1 (fieldRange f dim).2

/-- Write v into a field of a descriptor. -/
def dsetField (d : Desc) (f : DField) (dim : Fin 4) (v : Nat) : Desc :=
  let (hi, lo) := fieldRange f dim
  let w := hi + 1 - lo
  (d &&& ~~~(BitVec.ofNat 512 ((2 ^ w - 1) * 2 ^ lo))) ||| BitVec.ofNat 512 (v % 2 ^ w * 2 ^ lo)

/-- A descriptor's fields as the operations use them. Extents, origins and window sizes hold four
dimensions; dimensions beyond the rank count as 1, and a size of 0 as up to the extent (R140). -/
structure DInfo where
  base : Nat
  fmt : Fmt
  layout : Nat
  rank : Nat
  bdim : Nat
  esc : Bool
  rnd : Nat
  srBits : Nat
  sat : Bool
  slot : Nat
  slotEn : Bool
  pieces : Nat
  ext : List Nat
  org : List Nat
  win : List Nat
  deriving DecidableEq, Repr, Inhabited

/-- Extent of dimension i. -/
def DInfo.e (d : DInfo) (i : Nat) : Nat := d.ext.getD i 1
/-- Origin of dimension i. -/
def DInfo.o (d : DInfo) (i : Nat) : Nat := d.org.getD i 0
/-- Window size of dimension i. -/
def DInfo.w (d : DInfo) (i : Nat) : Nat := d.win.getD i 1

/-- Element bytes of a plain window (R139). -/
def Fmt.bytes (f : Fmt) : Nat := f.bits / 8

/-- The fields of a descriptor; the descriptor fault for a null one or a reserved layout (R143), the
format fault for a reserved format code (R88). -/
def dinfo (d : Desc) : Except JFault DInfo :=
  if d = 0 then .error .descriptor
  else
    let layout := dfield d .layout 0
    if layout > 6 then .error .descriptor
    else match Fmt.ofCode (dfield d .fmt 0) with
      | none => .error .format
      | some f =>
        let rank := dfield d .rank 0 + 1
        let dims : List (Fin 4) := [0, 1, 2, 3]
        let ext := dims.map fun i => if i.val < rank then dfield d .ext i else 1
        let org := dims.map fun i => if i.val < rank then dfield d .org i else 0
        let win := dims.map fun i =>
          if i.val < rank then
            (if dfield d .win i = 0 then dfield d .ext i - dfield d .org i else dfield d .win i)
          else 1
        .ok { base := dfield d .base 0, fmt := f, layout, rank, bdim := dfield d .bdim 0
              esc := decide (dfield d .esc 0 = 1), rnd := dfield d .rnd 0, srBits := dfield d .srBits 0
              sat := decide (dfield d .sat 0 = 1), slot := dfield d .slot 0
              slotEn := decide (dfield d .slotEn 0 = 1), pieces := dfield d .pieces 0, ext, org, win }

/-- The granule of org and win in dimension i (R141). -/
def granule (layout i : Nat) : Nat :=
  match layout with
  | 1 | 2 | 4 => if i < 2 then 64 else 1
  | 3 => if i = 0 then 64 else 1
  | _ => 1

/-- The descriptor faults of R143, and the format fault of R139 for pieces other than 0b001 where
the descriptor is not a wide-format impression operand. A window that holds no element, inside or at the end of its
extents, raises the descriptor fault too: the model's choice, R140 does not say (log entry 125). -/
def dcheck (d : Desc) (impOperand : Bool) : Except JFault DInfo := do
  let i ← dinfo d
  let beyond := [1, 2, 3].all fun (k : Nat) =>
    decide (k < i.rank) || decide (dbits d (127 + 32 * k) (96 + 32 * k) ≤ 1)
  let inside := [0, 1, 2, 3].all fun k => decide (i.o k + i.w k ≤ i.e k) && decide (0 < i.w k)
  let gran := [0, 1, 2, 3].all fun k =>
    decide (i.o k % granule i.layout k = 0) &&
      (decide (i.w k % granule i.layout k = 0) || decide (i.o k + i.w k = i.e k))
  let aligned := if i.layout = 0 then decide (i.base % max 1 i.fmt.bytes = 0) else decide (i.base % 65536 = 0)
  let formatOk := if i.layout = 0 then !i.fmt.isCell
    else if i.layout = 6 then decide (i.fmt = .fp32) && decide (i.rank = 1)
    else i.fmt.isCell
  let bd := if 1 ≤ i.layout ∧ i.layout ≤ 4 then decide (i.bdim ≤ 1) else true
  let blk := if 1 ≤ i.layout ∧ i.layout ≤ 5 then
      let b := if i.layout = 5 then 0 else i.bdim
      decide (i.o b % 32 = 0) && (decide (i.w b % 32 = 0) || decide (i.o b + i.w b = i.e b))
    else true
  if !(beyond && inside && gran && aligned && formatOk && bd && blk) then .error .descriptor
  else if i.rnd = 3 then .error .format
  else if impOperand && i.fmt.isWide then
    (if (pieceCount i.pieces).isSome then .ok i else .error .format)
  else if i.pieces = 1 then .ok i else .error .format

/-- Number of elements of the window. -/
def DInfo.count (d : DInfo) : Nat := d.w 0 * d.w 1 * d.w 2 * d.w 3

/-- The tensor index of the window's element number n, dimension 0 fastest (R140). -/
def DInfo.index (d : DInfo) (n : Nat) : List Nat :=
  let i0 := n % d.w 0
  let r := n / d.w 0
  let i1 := r % d.w 1
  let r := r / d.w 1
  [d.o 0 + i0, d.o 1 + i1, d.o 2 + r % d.w 2, d.o 3 + r / d.w 2]

/-! ## Sheets (R48 to R50, R142) -/

/-- Chunks that a sheet holds (R142). -/
def Fmt.chunks : Fmt → Nat
  | .fp4 | .int4 => 28
  | .e2m3 | .e3m2 => 20
  | .int6 => 19
  | _ => 1

/-- Offset of the metadata area (R48). -/
def Fmt.metaOff : Fmt → Nat
  | .fp4 | .int4 => 0xE040
  | .e2m3 | .e3m2 => 0xF040
  | .int6 => 0xEA40
  | _ => 0

/-- Chunks along a dimension. -/
def chunksOf (n : Nat) : Nat := (n + 63) / 64

/-- The chunks of the whole tensor in layouts 0x1 to 0x4. -/
def DInfo.totalChunks (d : DInfo) : Nat := chunksOf (d.e 0) * chunksOf (d.e 1) * d.e 2 * d.e 3

/-- Where an element of layouts 0x1 to 0x4 lies: its sheet, its block in the sheet and its place in
the block (R142). -/
def DInfo.place (d : DInfo) (ix : List Nat) : Nat × Nat × Nat :=
  let i0 := ix.getD 0 0
  let i1 := ix.getD 1 0
  let chunk := i0 / 64 + chunksOf (d.e 0) * (i1 / 64 + chunksOf (d.e 1) * (ix.getD 2 0 + d.e 2 * ix.getD 3 0))
  let (along, line) := if d.bdim = 0 then (i0 % 64, i1 % 64) else (i1 % 64, i0 % 64)
  let j := 2 * line + along / 32
  (chunk / d.fmt.chunks, 128 * (chunk % d.fmt.chunks) + j, along % 32)

/-- Read the code of element n of an element area that starts at byte offset off (R49). -/
def areaCode (bits : Nat) (rd : Nat → Byte) (off n : Nat) : Nat :=
  if bits = 4 then (rd (off + n / 2)).toNat / 16 ^ (n % 2) % 16
  else
    let w := off + 3 * (n / 4)
    ((rd w).toNat + 256 * (rd (w + 1)).toNat + 65536 * (rd (w + 2)).toNat) / 64 ^ (n % 4) % 64

/-- A sheet header's fields (R235). -/
structure SheetHdr where
  tag : Nat
  fmt : Nat
  layout : Nat
  units : Nat
  escN : Nat
  bdim : Nat
  first : Nat
  lspec : Nat
  deriving DecidableEq, Repr, Inhabited

/-- Read n bytes. -/
def rdBytes (rd : Nat → Byte) (a n : Nat) : List Byte := (upto n).map fun i => rd (a + i)

/-- The header of the sheet at address a. -/
def sheetHdr (rd : Nat → Byte) (a : Nat) : SheetHdr :=
  let v := leNat (rdBytes rd a 64)
  { tag := bitsOf v 15 0, fmt := bitsOf v 19 16, layout := bitsOf v 23 20, units := bitsOf v 35 24
    escN := bitsOf v 47 36, bdim := bitsOf v 49 48, first := bitsOf v 127 64, lspec := bitsOf v 511 256 }

/-- Codes of the formats (R37). -/
def Fmt.code : Fmt → Nat
  | .fp32 => 0 | .fp16 => 1 | .bf16 => 2 | .e4m3 => 3 | .e5m2 => 4 | .fp4 => 5
  | .e2m3 => 6 | .e3m2 => 7 | .int4 => 8 | .int6 => 9 | .int32 => 10

/-- The checks that every consumer of a sheet makes (R79, R235); cap is the sheet's capacity. -/
def sheetCheck (d : DInfo) (cap : Nat) (h : SheetHdr) : Except JFault Unit :=
  if h.tag ≠ 0x5348 ∨ h.fmt ≠ d.fmt.code ∨ h.layout ≠ d.layout ∨ h.units = 0 ∨ h.units > cap
      ∨ (h.escN ≠ 0 ∧ (h.fmt ≠ 5 ∨ h.layout = 5)) then .error .descriptor
  else if h.escN > 2272 then .error .escape
  else .ok ()

/-- The escape codes among the first n elements of an FP4 sheet (R78). -/
def escCount (rd : Nat → Byte) (a n : Nat) : Nat :=
  (upto n).countP fun i => decide (areaCode 4 rd (a + 0x40) i = 8)

/-- The side list of an FP4 sheet read with esc = 1: as many escape codes as the header says, and
every entry sound (R78, R79). -/
def escCheck (rd : Nat → Byte) (a : Nat) (h : SheetHdr) : Except JFault Unit :=
  if escCount rd a (h.units * 4096) ≠ h.escN then .error .escape
  else if (upto h.escN).all (fun k => (escapeElem (leNat (rdBytes rd (a + 0xEE40 + 2 * k) 2)) 0).isSome) then .ok ()
  else .error .escape

/-- The cell element at a tensor index, layouts 0x1 to 0x4 (R49, R50, R77, R142). -/
def DInfo.cellAt (d : DInfo) (rd : Nat → Byte) (ix : List Nat) : CellElem :=
  let (sheet, blk, pos) := d.place ix
  let a := d.base + 65536 * sheet
  let n := 32 * blk + pos
  let code := areaCode d.fmt.bits rd (a + 0x40) n
  let step := if d.fmt.isIntBlock then 2 else 1
  let s := (rd (a + d.fmt.metaOff + step * blk)).toNat
  let zp := if d.fmt.isIntBlock then (rd (a + d.fmt.metaOff + 2 * blk + 1)).toNat else 0
  if d.esc ∧ d.fmt = .fp4 ∧ code = 8 then
    (escapeElem (leNat (rdBytes rd (a + 0xEE40 + 2 * escCount rd a n) 2)) s).getD (cellElem d.fmt 0 s zp)
  else cellElem d.fmt code s zp

/-- Bytes of one vector of layout 0x5 (R310). -/
def vbytes (f : Fmt) (dim : Nat) : Nat := dim * f.bits / 8 + dim / 32

/-- The escape codes among the D elements of the first n vectors of a layout 0x5 FP4 sheet (R77, R310). -/
def DInfo.vecEscCount (d : DInfo) (rd : Nat → Byte) (a n : Nat) : Nat :=
  ((upto n).map fun v => (upto (d.e 0)).countP fun k =>
    decide (areaCode 4 rd (a + 0x40 + v * vbytes d.fmt (d.e 0)) k = 8)).sum

/-- The cell element k of vector v of layout 0x5 (R310). An escape code never reaches this point where esc is 1: a layout
0x5 sheet has no side list and counts no escape, so `DInfo.escSound` raises the escape fault (R79, R235). INT4 and INT6
elements are read with zero point 0: the model's choice, R310 gives the layout no zero-point byte (log entry 126). -/
def DInfo.vecAt (d : DInfo) (rd : Nat → Byte) (k v : Nat) : CellElem :=
  let vb := vbytes d.fmt (d.e 0)
  let per := 65472 / max 1 vb
  let a := d.base + 65536 * (v / per) + 0x40 + v % per * vb
  let code := areaCode d.fmt.bits rd a k
  cellElem d.fmt code (rd (a + d.e 0 * d.fmt.bits / 8 + k / 32)).toNat 0

/-- Address of an element of a plain window (R140, R141). -/
def DInfo.plainAddr (d : DInfo) (ix : List Nat) : Nat :=
  d.base + (ix.getD 0 0 + d.e 0 * (ix.getD 1 0 + d.e 1 * (ix.getD 2 0 + d.e 2 * ix.getD 3 0))) * d.fmt.bytes

/-- The code of an element of a plain window. -/
def DInfo.plainCode (d : DInfo) (rd : Nat → Byte) (ix : List Nat) : Nat :=
  leNat (rdBytes rd (d.plainAddr ix) d.fmt.bytes)

/-- The exact value of window element n, in any layout. -/
def DInfo.valAt (d : DInfo) (rd : Nat → Byte) (n : Nat) : FVal :=
  let ix := d.index n
  if d.layout = 0 then decodeWide d.fmt (d.plainCode rd ix)
  else if d.layout = 5 then (d.vecAt rd (ix.getD 0 0) (ix.getD 1 0)).val
  else (d.cellAt rd ix).val

/-- Bytes that one byte-granular layout 0x6 window or any other window reaches: the addresses of the
first byte of every element (for pages), whole sheets in layouts 0x1 to 0x5. -/
def DInfo.addrs (d : DInfo) : List Nat :=
  if d.layout = 6 then (upto (d.w 0)).map fun i => d.base + d.o 0 + i
  else if d.layout = 0 then (upto d.count).map fun n => d.plainAddr (d.index n)
  else if d.layout = 5 then
    let per := 65472 / max 1 (vbytes d.fmt (d.e 0))
    (upto d.count).map fun n => d.base + 65536 * ((d.index n).getD 1 0 / per)
  else (upto d.count).map fun n => d.base + 65536 * (d.place (d.index n)).1

/-- Pages of 64 KiB that the window reaches, each once, ascending. -/
def DInfo.pages (d : DInfo) : List Nat :=
  let last := if d.layout = 0 then d.fmt.bytes - 1 else 0
  sortBy (fun a b => decide (a < b)) ((d.addrs.flatMap fun a => [a / 65536, (a + last) / 65536]).dedup)

/-- The escape checks of one sheet of a window read with esc = 1 (R79): a layout 0x5 sheet counts no escapes (R310), so any
escape code in its vectors differs from its header's count. A window read with esc = 0 has no escapes (R77), so
its side list is not checked whatever its header counts: the model's choice, R79 names no such exception (log
entry 127). -/
def DInfo.escSound (d : DInfo) (rd : Nat → Byte) (a : Nat) (h : SheetHdr) : Except JFault Unit :=
  if !(d.esc && decide (d.fmt = .fp4)) then .ok ()
  else if d.layout = 5 then (if d.vecEscCount rd a h.units = h.escN then .ok () else .error .escape)
  else escCheck rd a h

/-- The sheet checks of a cell-format window that a consumer loads (R79, R235, R310). -/
def DInfo.loadCheck (d : DInfo) (rd : Nat → Byte) : Except JFault Unit :=
  if d.layout = 0 ∨ d.layout = 6 then .ok ()
  else
    let cap := if d.layout = 5 then 65472 / max 1 (vbytes d.fmt (d.e 0)) else d.fmt.chunks
    d.pages.foldlM (fun _ p => do
      let h := sheetHdr rd (65536 * p)
      sheetCheck d cap h
      d.escSound rd (65536 * p) h) ()

/-! ## Writing outputs -/

/-- Pack n-bit codes into bytes (R49). -/
def packCodes (bits : Nat) : List Nat → List Byte
  | cs =>
    if bits = 4 then (chunks 2 cs).map fun p => BitVec.ofNat 8 (p.getD 0 0 + 16 * p.getD 1 0)
    else (chunks 4 cs).flatMap fun p =>
      leBytes 3 (p.getD 0 0 + 64 * p.getD 1 0 + 4096 * p.getD 2 0 + 262144 * p.getD 3 0)

/-- Consecutive (address, byte) writes. -/
def bytesAt (a : Nat) (bs : List Byte) : List (Nat × Byte) := (upto bs.length).zip bs |>.map fun p => (a + p.1, p.2)

/-- A list of outputs, the values of a window in order, as they are rounded and written: the bytes,
the clipped count, and per element what was stored (R64 to R67, R619). md gives each element its
rounding; zp is the zero-point byte of INT4 and INT6 outputs (R208). -/
structure OutBytes where
  bytes : List (Nat × Byte)
  clipped : Nat
  deriving DecidableEq, Repr, Inhabited

/-- Write a plain window (R61 to R66, R618). -/
def DInfo.writePlain (d : DInfo) (md : Nat → Rnd) (ys : List FVal) : OutBytes :=
  let rs := ys.zipIdx.map fun p => (d.plainAddr (d.index p.2), encodeWide d.fmt (md p.2) d.sat p.1)
  { bytes := rs.flatMap fun r => bytesAt r.1 (leBytes d.fmt.bytes r.2.1)
    clipped := rs.countP fun r => r.2.2 }

/-- The header of sheet sh of a tensor in layouts 0x1 to 0x4, as its producer writes it, with its escape count (R235). -/
def DInfo.header (d : DInfo) (sh escN : Nat) : List Byte :=
  let units := min d.fmt.chunks (d.totalChunks - sh * d.fmt.chunks)
  leBytes 64 (0x5348 + d.fmt.code * 2 ^ 16 + d.layout * 2 ^ 20 + units * 2 ^ 24 + escN * 2 ^ 36 + d.bdim * 2 ^ 48
    + sh * d.fmt.chunks * 2 ^ 64)

/-- Write a cell-format window in layouts 0x1 to 0x4 block by block: codes, scale and zero-point
byte, the last block padded with +0 (R47, R67, R619), and the headers of its sheets (R235). -/
def DInfo.writeCells (d : DInfo) (zp : Nat) (md : Nat → Rnd) (ys : List FVal) : OutBytes :=
  let z := if d.fmt = .int4 then zp % 16 else zp % 64
  let elems := ys.zipIdx.map fun p => (d.place (d.index p.2), p.1, p.2)
  let keys := (elems.map fun e => (e.1.1, e.1.2.1)).dedup
  let blocks := keys.map fun k =>
    let es := sortBy (fun a b => decide (a.1.2.2 < b.1.2.2)) (elems.filter fun e => e.1.1 == k.1 && e.1.2.1 == k.2)
    let vs := es.map (·.2.1)
    let ms := es.map fun e => md e.2.2
    let b := if d.fmt.isIntBlock then encodeBlockInt d.fmt z ms vs else encodeBlockFp d.fmt ms vs
    let pad := if d.fmt.isIntBlock ∧ b.scale ≠ 0xFF then z else 0
    let codes := b.codes ++ List.replicate (32 - b.codes.length) pad
    let a := d.base + 65536 * k.1
    let area := bytesAt (a + 0x40 + 4 * d.fmt.bits * k.2) (packCodes d.fmt.bits codes)
    let md := if d.fmt.isIntBlock then
        [(a + d.fmt.metaOff + 2 * k.2, BitVec.ofNat 8 b.scale), (a + d.fmt.metaOff + 2 * k.2 + 1, BitVec.ofNat 8 zp)]
      else [(a + d.fmt.metaOff + k.2, BitVec.ofNat 8 b.scale)]
    (area ++ md, b.clipped)
  let heads := ((keys.map (·.1)).dedup).flatMap fun sh => bytesAt (d.base + 65536 * sh) (d.header sh 0)
  { bytes := blocks.flatMap (·.1) ++ heads, clipped := (blocks.map (·.2)).sum }

/-- Round and write the values of a window (R61 to R67). -/
def DInfo.write (d : DInfo) (zp : Nat) (md : Nat → Rnd) (ys : List FVal) : OutBytes :=
  if d.layout = 0 then d.writePlain md ys else d.writeCells zp md ys

/-- The value L of R83 for an output format. -/
def Fmt.slotL : Fmt → Int
  | .e4m3 => 8
  | .e5m2 => 15
  | .fp16 => 15
  | .int32 => 30
  | _ => 127

/-! ## Scalar operands (R195) -/

/-- The execution's value of a scalar register: s0 reads 0 (R134). -/
def Exec.reg (e : Exec) (r : Fin 64) : W64 := if r = 0 then 0 else e.regs[r]

/-- Write a scalar register: a write to s0 is discarded (R134, R181). -/
def Exec.setReg (e : Exec) (r : Fin 64) (v : W64) : Exec :=
  if r = 0 then e else { e with regs := e.regs.set r v }

/-- Operand b: rb or imm (R195). -/
def Exec.src2 (e : Exec) : Src2 → W64
  | .reg rb => e.reg rb
  | .imm v => v

end Sys2Proof.Machine
end

