-- ==== Sys2Proof/Machine/Flags.lean ====
section
/-!
DEFINITION. Event flags: reading, setting and naming them (R136, R184, R185), and predicates (R176).
-/
namespace Sys2Proof.Machine

/-- The value of an event flag (R136). -/
def Exec.flag (e : Exec) (f : Fin 64) : Bool := e.evs.getLsbD f

/-- Set or clear one event flag. -/
def Exec.setFlag (e : Exec) (f : Fin 64) (b : Bool) : Exec :=
  let m : W64 := BitVec.ofNat 64 (2 ^ f.val)
  { e with evs := if b then e.evs ||| m else e.evs &&& ~~~m }

/-- The operation names the flag as its completion flag (R184). -/
def Op.names (o : Op) (f : Fin 64) : Bool := o.ev == some f

/-- Some outstanding operation names the flag (R184, R185). -/
def Exec.named (e : Exec) (f : Fin 64) : Bool := e.st.ops.any fun o => o.names f

/-- Some outstanding operation names a flag of the mask. -/
def Exec.namedIn (e : Exec) (mask : W64) : Bool :=
  e.st.ops.any fun o => match o.ev with
    | some f => mask.getLsbD f
    | none => false

/-- At issue of a namer: its flag is cleared (R184). -/
def Exec.clearNamed (e : Exec) (ev : EvSel) : Exec :=
  match ev with
  | some f => e.setFlag f false
  | none => e

/-- At completion of an operation that has already left the outstanding ones: its flag is set when
no outstanding operation still names it (R184). -/
def Exec.setNamed (e : Exec) (ev : EvSel) : Exec :=
  match ev with
  | some f => if e.named f then e else e.setFlag f true
  | none => e

/-- The predicate lets the instruction execute: pen is 0, or the flag equals the sense (R176). -/
def Exec.predOk (e : Exec) (p : Pred) : Bool := !p.pen || (e.flag p.flag == p.sense)

/-- The predicate must wait: its flag is named by an outstanding operation (R185). -/
def Exec.predWaits (e : Exec) (p : Pred) : Bool := p.pen && e.named p.flag

/-- WAIT's test (R221). -/
def Exec.waitTest (e : Exec) (mask : W64) (all : Bool) : Bool :=
  if all then decide (e.evs &&& mask = mask) else decide (e.evs &&& mask ≠ 0)

end Sys2Proof.Machine
end

