-- ==== Sys2Proof/Machine/Ops.lean ====
section
/-!
DEFINITION. The named operations that the families share: the log ring, completions, job outcomes, executions
and compositors, program images, and the end and abandonment of a step.
-/
namespace Sys2Proof.Machine

/-- The outcome of every meaning. -/
abbrev Out := Host.Outcome State Fault Refusal

/-! ## Vectors indexed by plain numbers -/

/-- Set element i of a vector; nothing when i is out of range. -/
def vset {α : Type} {n : Nat} (v : Vector α n) (i : Nat) (x : α) : Vector α n := v.setIfInBounds i x

/-- Update element i of a vector. -/
def vmod {α : Type} {n : Nat} (v : Vector α n) (i : Nat) (f : α → α) : Vector α n :=
  match v[i]? with
  | some x => vset v i (f x)
  | none => v

/-! ## The firmware log ring (R588, R589) -/

/-- The events that the model logs; their codes in the ring are free (R589). -/
inductive LogEvent where
  | rsRefused | budgetIgnored | capIgnored | revokeRefused | rebooted | fellBack | staleReply
  | soloWrite | majorSaved | cageFault | inputFault | flashRetired | takeover | reducedShape
  | statusOnly | monitor | restart
  deriving DecidableEq, Repr, Inhabited

/-- Number of a log event. -/
def LogEvent.num : LogEvent → Nat
  | .rsRefused => 0 | .budgetIgnored => 1 | .capIgnored => 2 | .revokeRefused => 3 | .rebooted => 4
  | .fellBack => 5 | .staleReply => 6 | .soloWrite => 7 | .majorSaved => 8 | .cageFault => 9
  | .inputFault => 10 | .flashRetired => 11 | .takeover => 12 | .reducedShape => 13
  | .statusOnly => 14 | .monitor => 15 | .restart => 16

/-- Entries that the 4 MiB ring holds beside its header (R588, R589). -/
def logCap : Nat := (4194304 - 64) / 32

/-- Write one entry to the log ring; the oldest is overwritten when it is full (R588). -/
def State.log (s : State) (ev : LogEvent) (a0 a1 : Nat) : State :=
  let x : LogEntry := { time := s.now, code := ev.num, sev := 0, seq := s.host.logSeq, arg0 := a0, arg1 := a1 }
  let l := s.host.log ++ [x]
  { s with host := { s.host with log := if logCap < l.length then l.drop 1 else l, logSeq := s.host.logSeq + 1 } }

/-! ## Completions (R434, R435) -/

/-- The command's path still exists: its controller has not ended its association (R395). -/
def State.live (s : State) (h : Hdr) : Bool :=
  match h.path with
  | .ctrl c => s.host.ctrls.any fun k => k.id == c
  | _ => true

/-- Complete a command: it is no longer outstanding, and its completion queue entry is posted unless
its association has ended (R395) or a Queue Reset discards it (R399). -/
def State.post (s : State) (h : Hdr) (sct sc : Nat) (dw0 dw1 : W32) : State :=
  let cq := if s.live h && !s.host.miDrop.contains h then s.host.cq ++ [{ hdr := h, sct, sc, dw0, dw1 }] else s.host.cq
  { s with host :=
    { s.host with
      cmds := s.host.cmds.filter fun o => !(o.hdr == h)
      miDrop := s.host.miDrop.filter fun x => !(x == h)
      cq } }

/-- Success. -/
def State.ok (s : State) (h : Hdr) : State := s.post h 0 0 0 0
/-- Success with DW0 and DW1. -/
def State.okDw (s : State) (h : Hdr) (dw0 dw1 : W32) : State := s.post h 0 0 dw0 dw1
/-- Invalid Command Opcode (type 0h, code 01h). -/
def State.badOpcode (s : State) (h : Hdr) : State := s.post h 0 0x01 0 0
/-- Invalid Field in Command (type 0h, code 02h). -/
def State.badField (s : State) (h : Hdr) : State := s.post h 0 0x02 0 0
/-- Command Sequence Error (type 0h, code 0Ch). -/
def State.badSeq (s : State) (h : Hdr) : State := s.post h 0 0x0C 0 0
/-- Access Denied (type 2h, code 86h). -/
def State.denied (s : State) (h : Hdr) : State := s.post h 2 0x86 0 0
/-- A Laesk status (type 7h, R435). -/
def State.laesk (s : State) (h : Hdr) (sc : Nat) (dw0 dw1 : W32) : State := s.post h 7 sc dw0 dw1

/-- Queue a command as outstanding. -/
def State.await (s : State) (o : OutCmd) : State :=
  { s with host := { s.host with cmds := s.host.cmds ++ [{ o with uep := s.units.epochs }] } }

/-- Send a PDU. -/
def State.send (s : State) (p : Pdu) : State := { s with host := { s.host with pdus := s.host.pdus ++ [p] } }

/-- Send a message to the partner. -/
def State.toPeer (s : State) (m : TwinMsg) : State := { s with twin := { s.twin with out := s.twin.out ++ [m] } }

/-- Raise an asynchronous event: on every controller it answers the oldest outstanding request, or waits
for one (R434). -/
def State.aer (s : State) (a : Aer) : State :=
  s.host.ctrls.foldl (fun s k =>
    match s.host.aerReqs.find? (fun h => h.path == .ctrl k.id) with
    | some h => { s with host := { s.host with aerReqs := s.host.aerReqs.erase h, aers := s.host.aers ++ [(h, a)] } }
    | none => { s with host := { s.host with aerQueue := s.host.aerQueue ++ [(k.id, a)] } }) s

/-- The module mirrors to a partner: the pair is paired or resilvering (R506). -/
def State.paired (s : State) : Bool := s.twin.st == .paired || s.twin.st == .resilvering

/-! ## Unit epochs (R19, R547 to R549) -/

/-- The number of a unit that can be reset alone. -/
def unitCode : ResetUnit → Nat
  | .bridge b => b.val
  | .t1 u => 16 + u.val
  | .t2 u => 32 + u.val
  | .pipe p => 48 + p.val
  | .hostPort p => 112 + p.val
  | .cable g => 116 + g.val
  | .comp c => 120 + c.val

/-- Units that can be reset alone. -/
def unitCount : Nat := 136

/-- A unit's epoch (R547). -/
def State.unitEpoch (s : State) (u : Nat) : BitVec 16 := (assocGet u s.units.epochs).getD 0

/-- The unit epoch rises by 1, modulo 2^16. -/
def State.raiseEpoch (s : State) (u : Nat) : State :=
  { s with units := { s.units with epochs := assocPut u (s.unitEpoch u + 1) s.units.epochs } }

/-- Every unit epoch rises (R579). -/
def State.raiseAll (s : State) : State := (upto unitCount).foldl State.raiseEpoch s

/-- A unit answers requests that carry these epochs with "target unit reset": it has been reset since they were sent, or is
being reset (R548). -/
def State.answersReset (s : State) (u : ResetUnit) (uep : List (Nat × BitVec 16)) : Bool :=
  s.units.resetting.contains u || (assocGet (unitCode u) uep).getD 0 != s.unitEpoch (unitCode u)

/-! ## Executions and compositors (R132, R23) -/

/-- The execution with an identifier. -/
def State.ex? (s : State) (id : Nat) : Option Exec := s.sched.execs.find? fun e => e.id == id

/-- Replace the execution that has e's identifier. -/
def State.setEx (s : State) (e : Exec) : State :=
  { s with sched := { s.sched with execs := s.sched.execs.map fun x => if x.id = e.id then e else x } }

/-- Update an execution. -/
def State.modEx (s : State) (id : Nat) (f : Exec → Exec) : State :=
  { s with sched := { s.sched with execs := s.sched.execs.map fun x => if x.id = id then f x else x } }

/-- The executions that run on compositor c: one, or the members of one gang (R111, R365). -/
def State.idsOn (s : State) (c : Fin 16) : List Nat :=
  (s.sched.execs.filter fun e => e.comp == some c && e.phase == .running).map (·.id)

/-- The execution when it is running. -/
def State.running? (s : State) (id : Nat) : Option Exec :=
  match s.ex? id with
  | some e => if e.phase = .running then some e else none
  | none => none

/-- Run f on every execution that runs on compositor c. -/
def State.onComp (s : State) (c : Fin 16) (f : State → Exec → State) : State :=
  (s.idsOn c).foldl (fun s id => match s.running? id with
    | some e => f s e
    | none => s) s

/-- Some execution holds compositor c. -/
def State.busyComp (s : State) (c : Fin 16) : Bool := s.sched.execs.any fun e => e.comp == some c

/-- The effective deadline: of an ingest execution the earliest of its queued object commands (R303),
otherwise the execution's own; none is deadline 0 (R375). -/
def Exec.ownDl (e : Exec) : Option Nat :=
  if e.ingest then
    (e.objs.filterMap fun o => if o.deadline = 0 then none else some o.deadline).min?
  else if e.deadline = 0 then none else some e.deadline

/-- The effective deadline; of a gang, the earliest among its members (R365). -/
def State.dl (s : State) (e : Exec) : Option Nat :=
  match e.gang with
  | none => e.ownDl
  | some g => ((s.sched.execs.filter fun m => m.gang == some g).filterMap Exec.ownDl).min?

/-- a comes before b in deadline order; without deadlines, by arrival (R375). -/
def State.before (s : State) (a b : Exec) : Bool :=
  match s.dl a, s.dl b with
  | some x, some y => decide (x < y) || (decide (x = y) && decide (a.id < b.id))
  | some _, none => true
  | none, some _ => false
  | none, none => decide (a.id < b.id)

/-- The first in deadline order. -/
def State.earliest (s : State) : List Exec → Option Exec
  | [] => none
  | e :: t => match s.earliest t with
    | none => some e
    | some m => some (if s.before m e then m else e)

/-- The members of an execution's gang, or the execution alone (R365). -/
def State.crew (s : State) (e : Exec) : List Nat :=
  match e.gang with
  | none => [e.id]
  | some g => (s.sched.execs.filter fun m => m.gang == some g).map (·.id)

/-- A queued execution, with its whole gang, takes compositor c, unless a pre-empted one comes before it
(R23, R265, R365). -/
def State.fillComp (s : State) (c : Fin 16) : State :=
  if s.busyComp c ∨ s.sched.comps[c].oos ∨ s.sched.comps[c].resetting then s
  else match s.earliest (s.sched.execs.filter fun e => e.phase == .queued || e.phase == .preempted) with
    | some e =>
      if e.phase = .queued then
        (s.crew e).foldl (fun s i => s.modEx i fun x => { x with phase := .waitGrant, comp := some c, waitSince := s.now }) s
      else s
    | none => s

/-- Free compositors take queued executions. -/
def State.fillComps (s : State) : State := (List.finRange 16).foldl State.fillComp s

/-! ## Program images (R130, R131) -/

/-- The image with a program identifier. -/
def State.image? (s : State) (p : Nat) : Option Image := s.sched.images.find? fun i => i.prog == p

/-- n bytes of an image from an offset, as a number. -/
def Image.num (i : Image) (off n : Nat) : Nat :=
  leNat ((upto n).map fun k => (assocGet (off + k) i.bytes).getD 0)

/-- A 32-bit header field at a byte offset (R131). -/
def Image.h32 (i : Image) (off : Nat) : Nat := i.num off 4
def Image.quire (i : Image) : Bool := decide (bitsOf (i.num 6 2) 0 0 = 1)
def Image.gang (i : Image) : Bool := decide (bitsOf (i.num 6 2) 1 1 = 1)
def Image.codeOff (i : Image) : Nat := i.h32 8
def Image.codeLen (i : Image) : Nat := i.h32 12
def Image.planOff (i : Image) : Nat := i.h32 16
def Image.planLen (i : Image) : Nat := i.h32 20
def Image.constOff (i : Image) : Nat := i.h32 24
def Image.constLen (i : Image) : Nat := i.h32 28
def Image.model (i : Image) : W64 := BitVec.ofNat 64 (i.num 32 8)
def Image.capBatch (i : Image) : Nat := i.num 40 2
def Image.claimN (i : Image) : Nat := i.num 42 2
def Image.claimOff (i : Image) : Nat := i.h32 44
def Image.entry (i : Image) : Nat := i.h32 48
/-- The sizes of the Quire windows W0 to W2, in pages (R170). -/
def Image.qw (i : Image) : Nat × Nat × Nat :=
  let x := i.num 52 12
  (bitsOf x 15 0, bitsOf x 36 16, bitsOf x 58 37)

/-- Claim record n (R152). -/
def Image.claim (i : Image) (n : Nat) : Nat := i.num (i.claimOff + 16 * n) 16

/-- Fields of a claim record (R152). -/
def claimT0 (c : Nat) : Nat := bitsOf c 11 0
def claimT1 (c : Nat) : Nat := bitsOf c 35 16
def claimT2 (c : Nat) : Nat := bitsOf c 55 36
def claimPipes (c : Nat) : Nat := bitsOf c 70 64

/-- Bit of an engine in a claim record and, less 56, in a partition entry (R152, R268). -/
def engineBit : Engine → Nat
  | .fabric => 56 | .platen => 57 | .galley => 58 | .sieve => 59 | .tally => 60 | .cipher => 61

/-- Every engine, in bit order. -/
def allEngines : List Engine := [.fabric, .platen, .galley, .sieve, .tally, .cipher]

/-- The engines that a claim names. -/
def claimEngines (c : Nat) : List Engine := allEngines.filter fun g => decide (bitsOf c (engineBit g) (engineBit g) = 1)

/-- The claim record in force for an execution. -/
def State.claimOf (s : State) (e : Exec) : Nat :=
  match s.image? e.image with
  | some i => i.claim e.claim.toNat
  | none => 0

/-- The estimate of the step that an execution stands in: its own, of its first instruction (R155). -/
def State.stepEstimate (s : State) (e : Exec) : Nat :=
  match s.image? e.image with
  | some i => (assocGet e.pcStep.toNat i.times).getD i.estimate
  | none => 0

/-- The firmware's estimate of an execution's remaining work (R261, R377): that of its job less those of the steps that it has
committed (log entry 139). -/
def Exec.workLeft (e : Exec) : Nat := e.estimate - e.spent

/-! ## Job outcomes (R382 to R384) -/

/-- How a job ends. -/
inductive JobEnd where
  | success
  | failed (sc : Nat) (dw0 dw1 : W32)
  | refused (sc : Nat) (dw0 dw1 : W32)
  | withdrawn (dw1 : W32)
  | takeover
  | aborted
  /-- Its association ended: counted as aborted, no completion is sent (R395). -/
  | silent
  deriving DecidableEq, Repr, Inhabited

/-- Largest value of a 64-bit counter. -/
def max64 : Nat := 2 ^ 64 - 1

/-- Count a job once in its context's entry (R384); late says that a success came after the deadline. -/
def countJob (j : JobCount) (o : JobEnd) (late : Bool) : JobCount :=
  match o with
  | .success => if late then { j with late := satAdd max64 j.late 1 } else { j with onTime := satAdd max64 j.onTime 1 }
  | .failed .. => { j with failed := satAdd max64 j.failed 1 }
  | .refused sc _ _ =>
    if sc = 0x80 then { j with refusedInf := satAdd max64 j.refusedInf 1 }
    else if sc = 0x81 then { j with refusedOvl := satAdd max64 j.refusedOvl 1 }
    else { j with failed := satAdd max64 j.failed 1 }
  | .withdrawn _ => { j with withdrawn := satAdd max64 j.withdrawn 1 }
  | .takeover => { j with takeover := satAdd max64 j.takeover 1 }
  | .aborted | .silent => { j with aborted := satAdd max64 j.aborted 1 }

/-- A job is late: its deadline has passed (R380, R382). -/
def isLate (now dl : Nat) : Bool := decide (dl ≠ 0 ∧ now > dl)

/-- DW1 of a late success: lateness in µs, saturating (R382). -/
def lateUs (now dl : Nat) : W32 := BitVec.ofNat 32 (min 0xFFFFFFFF ((now - dl) / 1000))

/-- Count a job and send its completion, on time or late as of time t (R382, R384). -/
def State.jobDoneAt (s : State) (t : Nat) (h : Hdr) (ctx : Fin 64) (dl : Nat) (o : JobEnd) : State :=
  let late := isLate t dl
  let s := { s with sched := { s.sched with counts := vmod s.sched.counts ctx fun j => countJob j o late } }
  match o with
  | .success => if late then s.okDw h 1 (lateUs t dl) else s.ok h
  | .failed sc a b => s.laesk h sc a b
  | .refused sc a b => s.laesk h sc a b
  | .withdrawn b => s.laesk h 0x82 0 b
  | .takeover => s.laesk h 0x84 0 0
  | .aborted => s.post h 0 0x07 0 0
  | .silent => { s with host := { s.host with cmds := s.host.cmds.filter fun x => !(x.hdr == h) } }

/-- Count a job that ends with a status other than those that R383 names. -/
def State.countFailed (s : State) (ctx : Fin 64) : State :=
  { s with sched := { s.sched with counts := vmod s.sched.counts ctx fun j => { j with failed := satAdd max64 j.failed 1 } } }

/-- A job ends with a standard status (R383, R437). -/
def State.jobStd (s : State) (h : Hdr) (ctx : Fin 64) (sct sc : Nat) : State := (s.countFailed ctx).post h sct sc 0 0

/-- Count a job and send its completion now. -/
def State.jobDone (s : State) (h : Hdr) (ctx : Fin 64) (dl : Nat) (o : JobEnd) : State := s.jobDoneAt s.now h ctx dl o

/-- The ingest result record of an object (R305). -/
def ObjCmd.result (o : ObjCmd) : List Byte :=
  leBytes 8 o.obj.toNat ++ leBytes 32 o.mstat.toNat ++ leBytes 4 (if o.isStored then 1 else 0)
    ++ leBytes 4 o.vectors ++ leBytes 8 o.version ++ leBytes 8 0

/-- Complete an object command with success: the result record, then the completion (R305, R412). -/
def State.objDone (s : State) (e : Exec) (o : ObjCmd) : State :=
  (s.send (.c2hData o.hdr o.result)).jobDone o.hdr e.ctx o.deadline .success

/-- An object whose vectors have been appended and held, so that it completes as R305 states. -/
def ObjCmd.isHeld (o : ObjCmd) : Bool := o.stage == .appended && o.waits.isEmpty

/-- What an execution and its objects wait for, less what p picks. -/
def Exec.unwait (e : Exec) (p : Nat × Nat → Bool) : Exec :=
  { e with
    awaitNs := e.awaitNs.filter fun a => !p a
    objs := e.objs.map fun o => { o with waits := o.waits.filter fun a => !p a } }

/-- The end of an ingest execution completes every queued object command (R306). -/
def State.endObjs (s : State) (e : Exec) (o : JobEnd) : State :=
  e.objs.foldl (fun s x =>
    if x.isHeld then s.objDone e x
    else s.jobDone x.hdr e.ctx x.deadline (match o with | .success => .failed 0x84 0 0 | y => y)) s

/-! ## The tiles' banks (R113, R114, R116, R117) -/

/-- The working banks without the bytes of an execution that p picks. -/
def dropBytes (ts : List (Nat × Tile)) (exec : Nat) (p : Nat → Bool) : List (Nat × Tile) :=
  ts.map fun t => (t.1, { t.2 with working := t.2.working.filter fun b => !(decide (b.exec = exec) && p b.va) })

/-- The bytes of an execution's outputs in the working banks, by address. -/
def Fabric.bankOf (f : Fabric) (exec : Nat) : List (Nat × Byte) :=
  (f.tiles.flatMap fun t => t.2.working.filter fun b => decide (b.exec = exec)).foldl (fun m b => assocPut b.va b.b m) []

/-- What an execution's step holds in the working banks is discarded, and with all set what stands in the cells and the accumulators
(R116); what has been committed keeps draining. -/
def Fabric.discard (f : Fabric) (exec : Nat) (all : Bool) : Fabric :=
  let ts := dropBytes f.tiles exec fun _ => true
  { f with tiles := if all then ts.map fun t => (t.1, { t.2 with active := [], shadow := [], esc := [], escShadow := [], acc := [] }) else ts }

/-- The bank switch of a commit (R114): the working bytes of an execution become committed ones, which drain to some pages. -/
def Fabric.switch (f : Fabric) (exec : Nat) (pages : List Nat) : Fabric :=
  { f with
    draining := f.draining ++ [(exec, pages)]
    tiles := f.tiles.map fun t => (t.1, { t.2 with
      working := t.2.working.filter fun b => !decide (b.exec = exec)
      committed := t.2.committed ++ t.2.working.filter fun b => decide (b.exec = exec) }) }

/-- The committed banks of an execution have drained (R114). -/
def Fabric.drained (f : Fabric) (exec : Nat) : Fabric :=
  { f with
    draining := f.draining.filter fun d => !decide (d.1 = exec)
    tiles := f.tiles.map fun t => (t.1, { t.2 with committed := t.2.committed.filter fun b => !decide (b.exec = exec) }) }

/-- The clear at a step's start (R117): operand stores, working banks and scratch; what is committed keeps draining. -/
def Fabric.clear (f : Fabric) : Fabric :=
  { f with tiles := f.tiles.map fun t => (t.1, { t.2 with store := [], working := [], scratch := [] }) }

/-- The clear of the accumulators at an impression's start (R117). -/
def Fabric.clearAcc (f : Fabric) : Fabric := { f with tiles := f.tiles.map fun t => (t.1, { t.2 with acc := [] }) }

/-- A step holds the fabric (R111). -/
def State.fabricHeld (s : State) : Bool := s.sched.holder.any fun h => h.1 == .fabric

/-! ## Power domains (R16, R33, R34) -/

/-- The domains that a domain depends on, beside PD_AO (R33). -/
def Dom.needs : Dom → List Dom
  | .cc => []
  | .cs | .ma | .mb => [.cc]
  | .t1 | .t2 | .hn | .tl => [.cs]
  | .b _ => [.cs, .t1]

/-- The switched domains in the order in which they come on (R575). -/
def Dom.all : List Dom := [.cc, .cs, .t2, .ma, .mb, .t1, .hn, .tl] ++ (List.finRange 16).map Dom.b

/-- A domain is on. -/
def Domains.on (d : Domains) : Dom → Bool
  | .cc => d.cc
  | .cs => d.cs
  | .t1 => d.t1
  | .t2 => d.t2
  | .ma => d.ma
  | .mb => d.mb
  | .hn => d.hn
  | .tl => d.tl
  | .b n => d.b.getLsbD n.val

/-- Switch a domain. -/
def Domains.put (d : Domains) (v : Bool) : Dom → Domains
  | .cc => { d with cc := v }
  | .cs => { d with cs := v }
  | .t1 => { d with t1 := v }
  | .t2 => { d with t2 := v }
  | .ma => { d with ma := v }
  | .mb => { d with mb := v }
  | .hn => { d with hn := v }
  | .tl => { d with tl := v }
  | .b n => { d with b := if v then d.b ||| BitVec.twoPow 16 n.val else d.b &&& ~~~(BitVec.twoPow 16 n.val) }

/-- A domain is turned on, never before every domain that it depends on is on (R33). -/
def Domains.turnOn (d : Domains) (x : Dom) : Domains := if d.ao && x.needs.all d.on then d.put true x else d

/-- A domain is turned off, never while a domain that depends on it is on (R33). -/
def Domains.turnOff (d : Domains) (x : Dom) : Domains :=
  if Dom.all.any fun y => y.needs.contains x && d.on y then d else d.put false x

/-- Every switched domain comes on, in the order of R575. -/
def Domains.raise (d : Domains) : Domains := Dom.all.foldl Domains.turnOn d

/-- Every switched domain goes, the dependent ones first. -/
def Domains.lower (d : Domains) : Domains := Dom.all.reverse.foldl Domains.turnOff d

/-- What a loss of the 48 V input removes first: the bands, PD_HN and PD_T1 (R36, R461). -/
def Domains.shed (d : Domains) : Domains :=
  (((List.finRange 16).map Dom.b).foldl Domains.turnOff d |>.turnOff .hn).turnOff .t1

/-- Gated bands go and the others come on, where the domains that they depend on have power (R34, R129). -/
def Domains.bands (d : Domains) (gated : BitVec 16) : Domains :=
  (List.finRange 16).foldl (fun d n => if gated.getLsbD n.val then d.turnOff (.b n) else d.turnOn (.b n)) d

/-- A step boundary of the fabric: gates and clocks that have been ordered come into force, unless a step holds the fabric
(R27, R34, R569). A band that is ungated waits for the next step's start (R129, R570). -/
def State.boundary (s : State) : State :=
  if s.fabricHeld then s
  else
    let now := s.fab.gatedNow ||| s.fab.gated
    { s with
      fab := { s.fab with gatedNow := now, freq := s.fab.freqNext }
      life := { s.life with dom := s.life.dom.bands s.fab.gated } }

/-- The start of a step: fences and shape come into force too; a step that holds the fabric keeps what it started with
(R122, R129). -/
def State.reshape (s : State) : State :=
  if s.fabricHeld then s
  else
    { s with
      fab := { s.fab with fencesNow := s.fab.fences, gatedNow := s.fab.gated, freq := s.fab.freqNext }
      life := { s.life with dom := s.life.dom.bands s.fab.gated } }

/-! ## The end and the abandonment of a step (R116, R135, R264) -/

/-- The execution leaves its step without trace: registers from the register page, flags cleared, the
program counter after the STEP that opened the step, slots as at the last commit (R135, R199). -/
def Exec.abandon (e : Exec) : Exec :=
  { e with
    regs := e.page.regs, descs := e.page.descs, lcs := e.page.lcs, evs := 0, pc := e.pcStep
    rstack := [], slots := e.slotsC, st := {}, stall := none, phase := .waitGrant, resuming := true }

/-- Release what the arbiter granted to an execution's step (R23). -/
def State.release (s : State) (id : Nat) : State :=
  { s with sched :=
    { s.sched with
      holder := s.sched.holder.filter fun h => h.2 != id
      grants := s.sched.grants.filter fun g => g.1 != id } }

/-- Walks and fault records of an execution's step are cancelled; a mapping that firmware has begun for one of them is still
completed (R263). -/
def State.cancelFaults (s : State) (id : Nat) : State :=
  let mine (f : FaultRec) : Bool := f.host.isNone && decide (f.exec = id)
  { s with tiers :=
    { s.tiers with
      walks := s.tiers.walks.filter fun w => w.exec != id
      faults := s.tiers.faults.filter fun f => !mine f
      cancelled := s.tiers.cancelled ++ s.tiers.faults.filter mine } }

/-- Abandon the step of one execution. It keeps its compositor and waits for a grant. -/
def State.abandon1 (s : State) (id : Nat) : State :=
  let s := { s with fab := s.fab.discard id (s.sched.holder.any fun h => h == (Engine.fabric, id)) }
  ((s.modEx id fun e => { e.abandon with waitSince := s.now }).release id).cancelFaults id

/-- Abandon the step of an execution, and of every member of its gang (R366). -/
def State.abandon (s : State) (e : Exec) : State := (s.crew e).foldl State.abandon1 s

/-- Remove an execution: compositor, grants, hints, faults, decode contexts and its own allocations. -/
def State.dropExec (s : State) (e : Exec) : State :=
  let s := { s with fab := s.fab.discard e.id (s.sched.holder.any fun h => h == (Engine.fabric, e.id)) }
  let s := (s.release e.id).cancelFaults e.id
  let gangs := s.sched.gangs.map fun g => { g with members := g.members.filter fun m => m != e.id }
  let sched := { s.sched with
    execs := s.sched.execs.filter fun x => x.id != e.id
    gangs := gangs.filter fun g => !g.members.isEmpty }
  let tiers := { s.tiers with
    hints := s.tiers.hints.filter fun h => h.issuer != HintBy.exec e.id
    allocs := s.tiers.allocs.filter fun a => !e.own.contains a.id }
  let s := { s with sched, tiers }
  s.fillComps

/-- Record the measured run time of an execution (R376): the last 16 per image and s2. -/
def State.recordRun (s : State) (e : Exec) : State :=
  let s2 := e.arg2.toNat
  let mine := s.sched.runTimes.filter fun r => r.1 = e.image && r.2.1 = s2
  let rest := s.sched.runTimes.filter fun r => !(r.1 = e.image && r.2.1 = s2)
  let all := mine ++ [(e.image, s2, s.now - e.began)]
  { s with sched := { s.sched with runTimes := rest ++ all.drop (all.length - 16) } }

/-- The runs that a meld wrote are to be deallocated when it ends without a publication (R323). -/
def State.orphan (s : State) (e : Exec) : State :=
  if e.meld ∧ e.wrote ≠ [] then
    { s with indexes := s.indexes.map fun x => if e.index = some x.nsid then { x with orphans := x.orphans ++ e.wrote } else x }
  else s

/-- End an execution with an outcome: its step leaves no trace, its queued object commands complete,
the partner discards what it staged unless it succeeds (R490), and its completion is posted as of time t. -/
def State.endExecAt (s : State) (t : Nat) (e : Exec) (o : JobEnd) : State :=
  let s := s.endObjs e o
  let s := if o = .success then s else s.orphan e
  let s := if o = .success then s.recordRun e else s
  let s := if o ≠ .success ∧ s.paired ∧ e.sentPages ≠ [] then s.toPeer (.cancel e.id) else s
  let s := s.dropExec e
  if e.copy then s else s.jobDoneAt t e.hdr e.ctx e.deadline o

/-- End an execution now. -/
def State.endExec (s : State) (e : Exec) (o : JobEnd) : State := s.endExecAt s.now e o

/-- A fault of R229 ends the execution; the step of the rest of its gang is run again. -/
def State.jobFail (s : State) (e : Exec) (sc : Nat) (dw0 dw1 : W32) : State :=
  let others := (s.crew e).filter (· != e.id)
  let s := others.foldl State.abandon1 s
  s.endExec e (.failed sc dw0 dw1)

/-- DW1 of a status that names the step: its index, low 32 bits (R435). -/
def Exec.step32 (e : Exec) : W32 := BitVec.ofNat 32 e.step

/-- The effect of an instruction's fault at run time (R88, R229, R435). -/
def State.jfault (s : State) (e : Exec) (j : JFault) (pc : W32) : State :=
  if j.status = 0x85 then s.jobFail e 0x85 0 e.step32 else s.jobFail e 0x87 0 pc

/-- Abandon the step and run it again once; the second time for the same cause ends the execution
with the status given (R87, R223, R540, R542, R544, R550). The re-run is one of the whole gang (R366). -/
def State.rerunOr (s : State) (e : Exec) (cause : RerunCause) (sc : Nat) (dw0 dw1 : W32) : State :=
  if e.reruns.contains cause then s.jobFail e sc dw0 dw1
  else ((s.crew e).foldl (fun s i => s.modEx i fun x => { x with reruns := cause :: x.reruns }) s).abandon e

end Sys2Proof.Machine
end

