-- ==== Sys2Proof/Machine/Tiers.lean ====
section
/-!
DEFINITION. Tiers, pages and translation (ch. 06): where a page lies, capacities and quotas, hints and holds,
migrations, the translation tables' leaves, the TLBs and walks, and the partition table's rights.
-/
namespace Sys2Proof.Machine

/-! ## The partition table (R268, R269) -/

/-- The entry of a context as its rights are checked. -/
def State.entry (s : State) (c : Fin 64) : Nat := (s.part.entries[c]).toNat

/-- Context 0 has every right (R269). -/
def State.nsRd (s : State) (c : Fin 64) (n : Nat) : Bool := c = 0 || decide (bitsOf (s.entry c) n n = 1 ∧ n < 1024)
def State.nsWr (s : State) (c : Fin 64) (n : Nat) : Bool :=
  c = 0 || decide (bitsOf (s.entry c) (1024 + n) (1024 + n) = 1 ∧ n < 1024)
def State.mayEngine (s : State) (c : Fin 64) (g : Engine) : Bool :=
  c = 0 || decide (bitsOf (s.entry c) (1992 + engineBit g) (1992 + engineBit g) = 1)
def State.enabled (s : State) (c : Fin 64) : Bool := c = 0 || decide (bitsOf (s.entry c) 2056 2056 = 1)
def State.mayKey (s : State) (c : Fin 64) (k : Nat) : Bool :=
  c = 0 || decide (bitsOf (s.entry c) (3264 + k) (3264 + k) = 1 ∧ k < 256)
/-- max_exec; none for context 0, which has no quotas. -/
def State.maxExec (s : State) (c : Fin 64) : Option Nat := if c = 0 then none else some (bitsOf (s.entry c) 2079 2064)

/-- Number of a tier. -/
def tierNo : Tier → Nat
  | .t0 => 0 | .t1 => 1 | .t2 => 2 | .t3 => 3

/-- A context's quota of a tier; none for context 0. -/
def State.quota (s : State) (c : Fin 64) (t : Tier) : Option Nat :=
  if c = 0 then none else some (match t with
    | .t0 => bitsOf (s.entry c) 2111 2080
    | .t1 => bitsOf (s.entry c) 2143 2112
    | .t2 => bitsOf (s.entry c) 2175 2144
    | .t3 => bitsOf (s.entry c) 2239 2176)

/-- The window grants of an entry that name allocation a: may read, may write (R268). -/
def State.grantOf (s : State) (c : Fin 64) (a : Alloc) : Bool × Bool :=
  let e := s.entry c
  (upto 16).foldl (fun (acc : Bool × Bool) k =>
    let w := bitsOf e (2303 + 64 * k) (2240 + 64 * k)
    if bitsOf w 5 0 = a.ctx.val ∧ bitsOf w 47 8 = a.id ∧ a.id ≠ 0 then
      (acc.1 || decide (bitsOf w 6 6 = 1), acc.2 || decide (bitsOf w 7 7 = 1))
    else acc) (false, false)

/-! ## Pages of allocations (R237, R249, R429) -/

/-- A page as the allocation's flags make it. -/
def Alloc.dflt (a : Alloc) : PageInfo := { tier := a.home, zod := a.zod }

/-- Page i of an allocation. -/
def Alloc.page (a : Alloc) (i : Nat) : PageInfo := (assocGet i a.cells).getD a.dflt

/-- Set page i of an allocation. -/
def Alloc.setPage (a : Alloc) (i : Nat) (p : PageInfo) : Alloc := { a with cells := assocPut i p a.cells }

/-- Pages of an allocation that occupy a frame in tier t. -/
def Alloc.inTier (a : Alloc) (t : Tier) : Nat :=
  (if a.home = t ∧ a.zod = false then a.pages - a.cells.length else 0)
    + a.cells.countP fun c => c.2.tier = t && !c.2.zod

/-- Pages of an allocation that count against a quota of tier t: frames or not (R237). -/
def Alloc.quotaIn (a : Alloc) (t : Tier) : Nat :=
  (if a.home = t then a.pages - a.cells.length else 0) + a.cells.countP fun c => c.2.tier = t

/-- Update an allocation. -/
def State.modAlloc (s : State) (id : Nat) (f : Alloc → Alloc) : State :=
  { s with tiers := { s.tiers with allocs := mapWhere (fun a => a.id == id) f s.tiers.allocs } }

/-- The allocation with an identifier. -/
def State.alloc? (s : State) (id : Nat) : Option Alloc := s.tiers.allocs.find? fun a => a.id == id

/-- The allocation that covers page p (its address is its identifier times 64 KiB, R429). -/
def State.allocAt (s : State) (p : Nat) : Option Alloc :=
  s.tiers.allocs.find? fun a => decide (a.id ≤ p) && decide (p < a.id + a.pages)

/-- What a page of a context's address space is. -/
inductive PageAt where
  | mem (a : Alloc) (i : Nat) (rd wr : Bool)
  | ns (nsid lba : Nat) (rd wr : Bool)
  | missing
  deriving DecidableEq, Repr, Inhabited

/-- A page of a context in native mode: a namespace mapping, an allocation of its own, or one that a
window grant reaches (R268). -/
def State.pageAt (s : State) (c : Fin 64) (p : Nat) : PageAt :=
  match s.tiers.nsMaps.find? (fun m => decide (m.1 = c) && decide (m.2.1 ≤ p) && decide (p < m.2.1 + m.2.2.2.2)) with
  | some m => .ns m.2.2.1 (m.2.2.2.1 + 16 * (p - m.2.1)) (s.nsRd c m.2.2.1) (s.nsWr c m.2.2.1)
  | none =>
    match s.allocAt p with
    | none => .missing
    | some a =>
      if a.ctx = c then .mem a (p - a.id) true true
      else
        let g := s.grantOf c a
        if g.1 || g.2 then .mem a (p - a.id) g.1 g.2 else .missing

/-- First page of the Quire window W3 (R170). -/
def w3Page : Nat := 0x8000000000 / 65536

/-- The window of a Quire execution that holds a page. -/
def Exec.window (e : Exec) (p : Nat) : Option (Nat × Nat × Nat) :=
  e.qwin.find? fun w => decide (w.1 ≤ p) && decide (p < w.1 + w.2.1)

/-- A page of the windows W0 to W3 of a Quire execution (R170); W3 ends where its namespace ends. -/
def State.quirePage (s : State) (e : Exec) (p : Nat) : PageAt :=
  match e.window p with
  | some w => (match s.alloc? w.2.2 with
    | some a => .mem a (p - w.1) true true
    | none => .missing)
  | none =>
    let lba := 16 * (p - w3Page)
    if w3Page ≤ p ∧ p < 2 * w3Page ∧ (s.host.nss.any fun n => decide (n.nsid = e.qns) && decide (lba < n.blocks)) then
      .ns e.qns lba (s.nsRd e.ctx e.qns) false
    else .missing

/-- A page of an execution as the table in force lets it be accessed: Quire addresses go through its windows (R170, R172). -/
def State.execPage (s : State) (e : Exec) (p : Nat) : PageAt := if e.quire then s.quirePage e p else s.pageAt e.ctx p

/-- Where a page of an execution lies, whatever the table in force lets it do: what an access that has been translated goes
on to use (R271). -/
def State.execPlace (s : State) (e : Exec) (p : Nat) : PageAt :=
  if e.quire then s.quirePage e p
  else match s.pageAt e.ctx p with
    | .missing => (match s.allocAt p with
      | some a => .mem a (p - a.id) false false
      | none => .missing)
    | q => q

/-- The page of the context's address space that a page of an execution is (R172): what its TLB entries are tagged with. -/
def State.ctxPage (_s : State) (e : Exec) (p : Nat) : Nat :=
  if e.quire then
    match e.window p with
    | some w => w.2.2 + (p - w.1)
    | none => 2 ^ 41 + e.qns * 2 ^ 41 + p
  else p

/-- The access lies outside the windows of a Quire execution, or writes W3 (R172). -/
def State.quireOut (s : State) (e : Exec) (page : Nat) (wr : Bool) : Bool :=
  e.quire && (match s.quirePage e page with
    | .missing => true
    | .ns .. => wr
    | .mem .. => false)

/-- The memory key of page i of an allocation: its context and its virtual page. -/
def pageKey (a : Alloc) (i : Nat) : Nat := a.ctx.val * 2 ^ 40 + (a.id + i)

/-- The memory key of a byte of a page. -/
def byteKey (a : Alloc) (i off : Nat) : Nat := pageKey a i * 65536 + off

/-! ## Logical blocks (R400) -/

/-- The key of a logical block. -/
def blkKey (nsid lba : Nat) : Nat := nsid * 2 ^ 64 + lba

/-- A logical block's data: the write buffer's copy, then what flash holds (R451); a deallocated or never
written block reads a free value (R405). -/
def State.blk (s : State) (nsid lba : Nat) : PBlk :=
  match s.flash.dirty.find? (fun d => decide (d.key = blkKey nsid lba)) with
  | some d => d.blk
  | none =>
    match assocGet (blkKey nsid lba) s.host.blks with
    | some b => b
    | none =>
      { data := Config.freeBlock s.free nsid lba
        pi := if s.host.nss.any (fun n => decide (n.nsid = nsid) && n.pit.isSome) then some (Config.freePi s.free nsid lba) else none }

/-- Byte i of a block. -/
def blkByte (b : Blk) (i : Nat) : Byte := b.extractLsb' (8 * i) 8

/-- Bytes of a block. -/
def blkBytes (b : Blk) : List Byte := (upto 4096).map (blkByte b)

/-! ## What an execution reads (R147) -/

/-- A held namespace write of the step that covers a block. -/
def heldBlk (hs : List NsHeld) (nsid lba : Nat) : Option PBlk :=
  match hs.reverse.find? (fun h => decide (h.nsid = nsid) && decide (h.lba ≤ lba) && decide (lba < h.lba + h.blocks.length)) with
  | some h => h.blocks[lba - h.lba]?
  | none => none

/-- One byte of an execution's address space, its step's own writes first (R147). -/
def State.rdByte (s : State) (e : Exec) (va : Nat) : Byte :=
  match assocGet va e.st.shadow with
  | some b => b
  | none =>
    match s.execPlace e (va / 65536) with
    | .mem a i _ _ => memGet s.tiers.mem (byteKey a i (va % 65536))
    | .ns nsid lba _ _ =>
      let l := lba + va % 65536 / 4096
      let b := match heldBlk e.st.ns nsid l with
        | some b => b.data
        | none => (s.blk nsid l).data
      blkByte b (va % 4096)
    | .missing => 0

/-! ## Capacities (R231, R247) -/

/-- Pages of T2 that the flash translation map takes: 1.25 GiB for each TiB of conventional capacity. -/
def State.mapPages (s : State) : Nat :=
  (((s.host.nss.filter fun n => !n.zoned).map (·.blocks)).sum * 20480 + 268435455) / 268435456

/-- Pages of a tier that can be granted to contexts (R231). -/
def State.capPages (s : State) (t : Tier) : Nat :=
  match t with
  | .t0 => Config.t0Pages
  | .t1 => Config.t1Pages
  | .t2 => Config.t2Pages - s.mapPages
  | .t3 => s.tiers.spillGib * 16384

/-- A bit field of a root record (R308). -/
def rootField (b : Blk) (hi lo : Nat) : Nat := bitsOf b.toNat hi lo

/-- The counts of the shelves of the generation in force, as the directory in the index's namespace has them (R315). -/
def State.shelfCounts (s : State) (nsid : Nat) : List Nat :=
  let root := (s.blk nsid 0).data
  (upto (rootField root 95 64)).map fun k =>
    leNat ((upto 3).map fun i => blkByte (s.blk nsid (rootField root 319 256 + k / 64)).data (64 * (k % 64) + 4 + i))

/-- Pages that the open indexes take: their centroids are pinned in T1 (R309), the identity entries of their shelves and of their
stock are held in T2 (R312). An index is open from its first root record on (log entry 156). -/
def State.indexPages (s : State) (t : Tier) : Nat :=
  (s.indexes.map fun x =>
    let root := (s.blk x.nsid 0).data
    match t with
    | .t1 =>
      let per := 65472 / max 1 (vbytes ((Fmt.ofCode (rootField root 35 32)).getD .fp4) (rootField root 63 48))
      (rootField root 95 64 + per - 1) / max 1 per
    | .t2 => ((s.shelfCounts x.nsid).map fun n => (n + 4095) / 4096).sum + (x.entries.length + 4095) / 4096
    | _ => 0).sum

/-- Pages that allocations, grants, migrations under way, old frames, open indexes and staged pages occupy. -/
def State.usedPages (s : State) (t : Tier) : Nat :=
  (s.tiers.allocs.map fun a => a.inTier t).sum
    + (s.sched.grants.map fun g => g.2.getD (tierNo t) 0).sum
    + ((s.tiers.migs.filter fun m => m.dst == t).map (·.pages.length)).sum
    + ((s.tiers.old.filter fun o => o.tier == t).map (·.pages)).sum
    + (s.tiers.retired.filter fun r => r.1 == t).length
    + s.indexPages t
    + (if t = .t2 then (s.twin.staging.map (·.pages.length)).sum
        + (s.sched.execs.map fun e => ((e.st.decode.getD e.decode).map (·.pages)).sum).sum
      else 0)

/-- Free pages of a tier (R247). -/
def State.freePages (s : State) (t : Tier) : Nat := s.capPages t - s.usedPages t

/-- Pages of a context that count against its quota of a tier (R237, R268); decode contexts (R297) and
staged pages (R489) count against t2_quota. -/
def State.quotaUsed (s : State) (c : Fin 64) (t : Tier) : Nat :=
  ((s.tiers.allocs.filter fun a => a.ctx == c).map fun a => a.quotaIn t).sum
    + (if t = .t2 then
        ((s.twin.staging.filter fun g => g.ctx == c.val).map (·.pages.length)).sum
          + ((s.sched.execs.filter fun e => e.ctx == c).flatMap fun e => (e.st.decode.getD e.decode).map (·.pages)).sum
      else 0)

/-- n more pages stay within the context's quota (R237). -/
def State.inQuota (s : State) (c : Fin 64) (t : Tier) (n : Nat) : Bool :=
  match s.quota c t with
  | none => true
  | some q => decide (s.quotaUsed c t + n ≤ q)

/-! ## Large and huge pages (R237) -/

/-- The page that holds 64 KiB page i of an allocation, as its first 64 KiB page and their number: huge and large pages where
the aligned range lies in the allocation. -/
def Alloc.unitAt (a : Alloc) (i : Nat) : Nat × Nat :=
  let p := a.id + i
  let fits (n : Nat) : Bool := decide (a.id ≤ p / n * n) && decide (p / n * n + n ≤ a.id + a.pages)
  if a.huge && fits 16384 then (p / 16384 * 16384 - a.id, 16384)
  else if a.large && fits 32 then (p / 32 * 32 - a.id, 32)
  else (i, 1)

/-- The 64 KiB pages of a page. -/
def unitPages (u : Nat × Nat) : List Nat := (upto u.2).map (u.1 + ·)

/-- A large or huge page moves as one unit: the 64 KiB pages of every page that a list touches (R237). -/
def Alloc.units (a : Alloc) (ps : List Nat) : List Nat := ((ps.map a.unitAt).dedup).flatMap unitPages

/-! ## Hints and holds (R238, R241) -/

/-- A hint covers page i of an allocation. -/
def HintRec.covers (h : HintRec) (a i : Nat) : Bool :=
  decide (h.alloc = a) && decide (h.first ≤ i) && decide (i < h.first + h.pages)

/-- A hint covers a part of a page. -/
def HintRec.meets (h : HintRec) (a : Nat) (u : Nat × Nat) : Bool :=
  decide (h.alloc = a) && decide (h.first < u.1 + u.2) && decide (u.1 < h.first + h.pages)

/-- A page is held: a pin, a Keep or a Hot hint of anyone applies (R241). -/
def State.isHeld (s : State) (a : Alloc) (i : Nat) : Bool :=
  a.pin || s.tiers.hints.any fun h => h.meets a.id (a.unitAt i) && (h.code == .keep || h.code == .hot)

/-- A page carries a hint code. -/
def State.hinted (s : State) (a : Nat) (i : Nat) (c : HintCode) : Bool :=
  s.tiers.hints.any fun h => h.covers a i && h.code == c

/-- Some hint applies to a page. -/
def State.anyHint (s : State) (a : Alloc) (i : Nat) : Bool := s.tiers.hints.any fun h => h.meets a.id (a.unitAt i)

/-- An execution holds this page of T0 (R234). -/
def State.holdsT0 (s : State) (e : Exec) (a : Alloc) (i : Nat) : Bool :=
  e.heldT0.any fun p => match s.execPlace e p with
    | .mem b j _ _ => b.id == a.id && decide (j = i)
    | _ => false

/-- Some execution that is not pre-empted keeps this held page of T0 resident (R234). -/
def State.runHeld (s : State) (a : Alloc) (i : Nat) : Bool :=
  s.sched.execs.any fun e => !(e.phase == .preempted) && s.holdsT0 e a i

/-- Only pre-empted executions hold this page of T0 (R234). -/
def State.spillable (s : State) (a : Alloc) (i : Nat) : Bool := !s.runHeld a i && s.sched.execs.any fun e => s.holdsT0 e a i

/-- The next tier down. -/
def tierDown : Tier → Tier
  | .t0 => .t1 | .t1 => .t2 | .t2 => .t3 | .t3 => .t3

/-- Is a above b? -/
def tierAbove (a b : Tier) : Bool := decide (tierNo a < tierNo b)

/-- Remove the hints of an issuer on pages, splitting hints that reach beyond them (R238). -/
def clearHints (hs : List HintRec) (a first n : Nat) (who : HintBy) : List HintRec :=
  hs.flatMap fun h =>
    if h.alloc = a ∧ h.issuer = who then
      let stop := h.first + h.pages
      (if h.first < first then [{ h with pages := min stop first - h.first }] else [])
        ++ (if first + n < stop then [{ h with first := max h.first (first + n), pages := stop - max h.first (first + n) }] else [])
    else [h]

/-- Mark pages as used now, for the least-recently-used order (R233, R239). -/
def State.touch (s : State) (a : Nat) (i : Nat) : State :=
  s.modAlloc a fun a => a.setPage i { a.page i with lastUse := s.now }

/-! ## The TLBs and walks (R250 to R254) -/

/-- Entries of a TLB (R250). -/
def tlbCap : Mover → Nat
  | .comp _ => 2048 | .galley => 4096 | .platen _ => 256 | .quoin _ => 1024 | .host _ => 8192

/-- Fault channels of a mover: one for each TLB, 16 for Galley's scan streams, and 128 of the host DMA's four ports (R250). -/
def chanCap : Mover → Nat
  | .comp _ => 1 | .galley => 16 | .platen _ => 1 | .quoin _ => 1 | .host _ => 32

/-- The first number of a mover's fault channels among those of its kind (R250, R254). -/
def chanBase : Mover → Nat
  | .comp c => c.val | .galley => 0 | .platen p => p.val | .quoin q => q.val | .host p => 32 * p.val

/-- Fault channels of a mover that hold a pending fault (R255). -/
def State.channels (s : State) (m : Mover) : Nat := s.tiers.faults.countP fun f => f.mover == m

/-- The lowest free fault channel of a mover. -/
def State.freeChan (s : State) (m : Mover) : Nat :=
  (((upto (chanCap m)).map (chanBase m + ·)).find? fun n => !(s.tiers.faults.any fun f => f.mover == m && decide (f.chan = n))).getD 0

/-- A TLB of the mover holds the page for this context and the epoch in force, and lets the access through (R250, R270). -/
def State.tlbHit (s : State) (m : Mover) (e : Exec) (p : Nat) (wr : Bool) : Bool :=
  s.tiers.tlb.any fun t => t.mover == m && t.ctx == e.ctx && decide (t.epoch = s.part.epoch) && decide (t.page = s.ctxPage e p) && (t.wr || !wr)

/-- Accesses translated under an earlier epoch are outstanding (R272, R274). -/
def State.oldAccess (s : State) : Bool := s.sched.execs.any fun e => e.st.ops.any fun o => match o.epoch with
  | some n => decide (n < s.part.epoch)
  | none => false

/-- A TLB takes an entry; a full one loses its oldest: the model's choice, no rule names one (log entry 18). -/
def tlbFill (l : List TlbEntry) (t : TlbEntry) : List TlbEntry :=
  (if l.countP (fun x => x.mover == t.mover) < tlbCap t.mover then l else l.eraseP fun x => x.mover == t.mover) ++ [t]

/-- Start a walk unless one, or a fault, for the same access is pending (R251, R255). -/
def State.walk (s : State) (e : Exec) (m : Mover) (p op : Nat) (wr : Bool) : State :=
  let walking := s.tiers.walks.any fun w => decide (w.exec = e.id) && decide (w.page = p) && w.mover == m && w.wr == wr
  let faulted := s.tiers.faults.any fun f =>
    f.host.isNone && decide (f.exec = e.id) && decide (f.va / 65536 = p) && f.mover == m && f.wr == wr
  if walking || faulted then s
  else { s with tiers := { s.tiers with
    walks := s.tiers.walks ++ [{ id := s.tiers.nextFault, mover := m, ctx := e.ctx, page := p, wr, exec := e.id, op }]
    nextFault := s.tiers.nextFault + 1 } }

/-- Invalidate TLB entries (R245, R269). -/
def State.invalidate (s : State) (keep : TlbEntry → Bool) : State :=
  { s with tiers := { s.tiers with tlb := s.tiers.tlb.filter keep } }

/-- Invalidate the TLB entries of pages of an allocation. -/
def State.invalPages (s : State) (a : Alloc) (ps : List Nat) : State :=
  s.invalidate fun t => !(ps.any fun i => decide (a.id + i = t.page))

/-- The access checks of a walk (R253): a mapped page with a frame, no switch under way, and the right. -/
inductive Xlate where
  | ok
  | zod (a : Alloc) (i : Nat)
  | switching
  | fault
  deriving DecidableEq, Repr, Inhabited

/-- What a walk for an access finds (R253, R258). -/
def xlate (p : PageAt) (wr : Bool) : Xlate :=
  match p with
  | .mem a i r w =>
    if a.freed then .fault
    else if (wr && !w) || (!wr && !r) then .fault
    else if (a.page i).sw then .switching
    else if (a.page i).zod then .zod a i
    else .ok
  | .ns _ _ r w => if (wr && !w) || (!wr && !r) then .fault else .ok
  | .missing => .fault

/-- A page gets a zero frame (R256): zero on demand ends, and an unlisted byte reads 0. -/
def State.mapZero (s : State) (a : Alloc) (i : Nat) (t : Tier) : State :=
  s.modAlloc a.id fun a => (unitPages (a.unitAt i)).foldl (fun a j => a.setPage j { a.page j with zod := false, tier := t }) a

end Sys2Proof.Machine
end

