-- ==== Sys2Proof/Machine/Migration.lean ====
section
/-!
DEFINITION. The tier manager's moves: migrations in the order of their requests and their switches (R240 to R246), promotions
and evictions, demotion for a claim or a frame (R233, R256), and what it spills and restores of held pages (R234).
-/
namespace Sys2Proof.Machine

/-! ## Migrations in flight and queued (R240, R244) -/

/-- A migration of the allocation is in flight; promo selects promotions. -/
def State.inFlight (s : State) (a : Nat) (promo : Bool) : Bool :=
  s.tiers.migs.any fun m => decide (m.alloc = a) && m.promo == promo

/-- Any migration of the allocation is in flight. -/
def State.anyFlight (s : State) (a : Nat) : Bool := s.tiers.migs.any fun m => decide (m.alloc = a)

/-- The tier that a page is bound for by the last migration of it that the tier manager has received. -/
def State.boundTier (s : State) (a : Alloc) (i : Nat) : Tier :=
  match ((s.tiers.migs ++ s.tiers.queue).filter fun m => decide (m.alloc = a.id) && m.pages.contains i).getLast? with
  | some m => m.dst
  | none => (a.page i).tier

/-- A page that a move down would reach: it has a frame and is bound for a tier above t. -/
def State.isAbove (s : State) (a : Alloc) (t : Tier) (i : Nat) : Bool := tierAbove (s.boundTier a i) t && !(a.page i).zod

/-- The pages of a list that a request to move up to tier t would move. -/
def State.below (s : State) (a : Alloc) (ps : List Nat) (t : Tier) : List Nat :=
  ps.filter fun i => tierAbove t (s.boundTier a i) && !(a.page i).zod

/-- What a migration moves when its turn comes, or when its switch does: pages that still have to move, and of an eviction
none that is held (R241). A move to a new frame (R543) stays in its tier. -/
def State.due (s : State) (a : Alloc) (m : Mig) : List Nat :=
  m.pages.filter fun i => decide (i < a.pages) && !(a.page i).zod
    && (if m.renew then (a.page i).tier == m.dst else if m.promo then tierAbove m.dst (a.page i).tier else tierAbove (a.page i).tier m.dst && !s.isHeld a i)

/-- Deferred evictions of pages that a later request moves up lapse (R242). -/
def lapse (ds : List Deferred) (a : Nat) (up : List Nat) : List Deferred :=
  (ds.map fun d => if d.alloc = a then { d with pages := d.pages.filter fun i => !up.contains i } else d).filter
    fun d => !d.pages.isEmpty

/-- Defer the eviction of pages; a page has at most one deferred eviction, the latest (R242, R247). -/
def State.defer (s : State) (a : Alloc) (ps : List Nat) (t : Tier) (op : Option (Nat × Nat)) (host : Option Hdr) : State :=
  if ps = [] then s
  else { s with tiers := { s.tiers with
    deferred := lapse s.tiers.deferred a.id ps ++ [{ id := s.tiers.nextMig, alloc := a.id, pages := ps, dst := t, op, host }]
    nextMig := s.tiers.nextMig + 1 } }

/-- The pages of a promotion for which its tier has room, whole units in order: the model's choice, no rule says what a
promotion does that finds too few free pages (log entry 145). -/
def fitting (a : Alloc) (room : Nat) (ps : List Nat) : List Nat :=
  (((ps.map a.unitAt).dedup).foldl (fun (acc : Nat × List Nat) u =>
    let mine := (unitPages u).filter ps.contains
    if mine.length ≤ acc.1 then (acc.1 - mine.length, acc.2 ++ mine) else acc) (room, [])).2

/-- Take a migration out of the queue. -/
def State.unqueue (s : State) (id : Nat) : State :=
  { s with tiers := { s.tiers with queue := s.tiers.queue.filter fun x => x.id != id } }

/-- A migration starts with some of its pages. -/
def State.launch (s : State) (m : Mig) (ps : List Nat) : State :=
  let s := s.unqueue m.id
  { s with tiers := { s.tiers with
    migs := s.tiers.migs ++ [{ m with pages := ps }]
    deferred := if m.promo then lapse s.tiers.deferred m.alloc ps else s.tiers.deferred } }

/-- The turn of a queued migration: a promotion starts with what finds room; an eviction waits until its tier has room for all
of it (log entry 145), and its pages that have become held are deferred where someone has asked for it. The result says
whether the next of the allocation has its turn. -/
def State.turn (s : State) (m : Mig) : State × Bool :=
  match s.alloc? m.alloc with
  | none => (s.unqueue m.id, true)
  | some a =>
    let ps := s.due a m
    if m.promo then
      let ps := fitting a (s.freePages m.dst) ps
      if ps = [] then (s.unqueue m.id, true) else (s.launch m ps, false)
    else
      let held := m.pages.filter fun i => decide (i < a.pages) && tierAbove (a.page i).tier m.dst && s.isHeld a i
      let late (s : State) : State := if m.op.isSome || m.host.isSome then s.defer a held m.dst m.op m.host else s
      if ps = [] then (late (s.unqueue m.id), true)
      else if ps.length ≤ s.freePages m.dst then (late (s.launch m ps), false)
      else (s, false)

/-- The queued migrations of an allocation have their turns, in the order of their arrival, until one is in flight or waits
(R240, R244). -/
def State.turns : Nat → State → Nat → State
  | 0, s, _ => s
  | n + 1, s, a =>
    if s.anyFlight a then s
    else match s.tiers.queue.find? (fun m => decide (m.alloc = a)) with
      | none => s
      | some m =>
        let r := s.turn m
        if r.2 then State.turns n r.1 a else r.1

/-- The next queued migration of an allocation starts when it can. -/
def State.startQueued (s : State) (a : Nat) : State := State.turns s.tiers.queue.length s a

/-- The next queued migration of every allocation starts when it can. -/
def State.startAll (s : State) : State := ((s.tiers.queue.map (·.alloc)).dedup).foldl State.startQueued s

/-- Give the tier manager a migration: it waits its turn behind the others of its allocation (R240, R244). -/
def State.migrate (s : State) (m : Mig) : State :=
  if m.pages = [] then s
  else
    let s := { s with tiers := { s.tiers with
      nextMig := s.tiers.nextMig + 1, queue := s.tiers.queue ++ [{ m with id := s.tiers.nextMig }] } }
    s.startQueued m.alloc

/-! ## Requests (R204, R206, R238, R241 to R244) -/

/-- A promotion request; pinned pages stay (R237). -/
def State.promote (s : State) (a : Alloc) (ps : List Nat) (t : Tier) (op : Option (Nat × Nat)) (cause : Option HintCode) : State :=
  if a.pin then s
  else s.migrate { id := 0, alloc := a.id, pages := s.below a (a.units ps) t, dst := t, promo := true, op, cause }

/-- An eviction request: pages that nothing holds move down unless a promotion of the allocation is in flight; the others are
deferred (R241 to R243). The result is the number of pages deferred. -/
def State.evict (s : State) (a : Alloc) (ps : List Nat) (t : Tier) (op : Option (Nat × Nat)) (host : Option Hdr)
    (cause : Option HintCode) : State × Nat :=
  let down := (a.units ps).filter (s.isAbove a t)
  let keep (i : Nat) : Bool := s.inFlight a.id true || s.isHeld a i
  let late := down.filter keep
  let s := s.defer a late t op host
  (s.migrate { id := 0, alloc := a.id, pages := down.filter fun i => !keep i, dst := t, promo := false, op, host, cause }, late.length)

/-- The pages that Hot hints name and that have found no room yet are promoted when there is some (R238, log entry 145). -/
def State.retryHot (s : State) : State :=
  let hots := s.tiers.hints.filter fun h => h.code == .hot
  ((hots.map (·.alloc)).dedup).foldl (fun s id => match s.alloc? id with
    | some a => s.promote a ((hots.filter fun h => decide (h.alloc = id)).flatMap fun h => (upto h.pages).map (h.first + ·)) .t1 none (some .hot)
    | none => s) s

/-- Host evictions whose moves are all done complete; one of which a part has been deferred since completes with status 0x8B
(R430). -/
def State.evictsDone (s : State) : State :=
  let done := s.host.cmds.filter fun o => o.wait == .evict && !((s.tiers.migs ++ s.tiers.queue).any fun m => m.host == some o.hdr)
  done.foldl (fun s o =>
    let n := ((s.tiers.deferred.filter fun d => d.host == some o.hdr).map (·.pages.length)).sum
    if n = 0 then s.ok o.hdr else s.laesk o.hdr 0x8B (BitVec.ofNat 32 n) 0) s

/-- Moves have ended: what waits for room or its turn goes on, and evictions that are done complete. -/
def State.movesOver (s : State) : State := s.startAll.retryHot.evictsDone

/-! ## The switch and the old frames (R245) -/

/-- The outstanding operations that reach an allocation. -/
def State.reaching (s : State) (a : Nat) : List (Nat × Nat) :=
  s.sched.execs.flatMap fun e => (e.st.ops.filter fun o => (o.rdPages ++ o.wrPages).any fun p => match s.execPlace e p with
    | .mem b _ _ _ => decide (b.id = a)
    | _ => false).map fun o => (e.id, o.id)

/-- Pages take frames of another tier; the old ones are kept until the accesses translated to them have completed (R245). -/
def State.reframe (s : State) (id : Nat) (a : Alloc) (ps : List Nat) (dst : Tier) : State :=
  let old := [Tier.t0, .t1, .t2, .t3].filterMap fun t =>
    let n := ps.countP fun i => decide ((a.page i).tier = t)
    if n = 0 then none else some ({ mig := id, tier := t, pages := n, alloc := a.id, waits := s.reaching a.id } : OldFrame)
  let s := s.modAlloc a.id fun b => ps.foldl (fun b i => b.setPage i { b.page i with tier := dst, sw := false }) b
  let s := { s with tiers := { s.tiers with old := s.tiers.old ++ old } }
  s.invalPages a ps

/-- The start of a switch: the entries are marked and every TLB loses them (R245). -/
def State.markSwitch (s : State) (a : Alloc) (ps : List Nat) : State :=
  (s.modAlloc a.id fun b => ps.foldl (fun b i => b.setPage i { b.page i with sw := true }) b).invalPages a ps

/-- Migrations lose pages, whose switch ends where one is under way; those left without pages are gone (R246). -/
def State.cutMigs (s : State) (ps : List (Nat × Nat)) : State :=
  let go (ms : List Mig) : List Mig :=
    (ms.map fun m => { m with pages := m.pages.filter fun i => !ps.contains (m.alloc, i) }).filter fun m => !m.pages.isEmpty
  let s := { s with tiers := { s.tiers with migs := go s.tiers.migs, queue := go s.tiers.queue } }
  ps.foldl (fun s p => s.modAlloc p.1 fun a => if (a.page p.2).sw then a.setPage p.2 { a.page p.2 with sw := false } else a) s

/-! ## Demotion for a claim or a frame (R233, R234, R239, R256) -/

/-- Pages of a tier that are on their way out of it or whose frames are still to be freed. -/
def State.leaving (s : State) (t : Tier) : Nat :=
  ((s.tiers.migs ++ s.tiers.queue).map fun m => match s.alloc? m.alloc with
    | some a => if m.dst = t then 0 else m.pages.countP fun i => decide ((a.page i).tier = t)
    | none => 0).sum
  + ((s.tiers.old.filter fun o => o.tier == t).map (·.pages)).sum

/-- A page of an allocation that the tier manager may demote: its last use, the allocation, and the page. -/
structure Victim where
  cold : Bool
  lastUse : Nat
  alloc : Nat
  unit : Nat × Nat
  pages : List Nat
  deriving DecidableEq, Repr, Inhabited

/-- Cold pages first, then the least recently used (R233). -/
def Victim.before (x y : Victim) : Bool :=
  (x.cold && !y.cold) || (x.cold == y.cold && decide (x.lastUse < y.lastUse))

/-- The pages of tier t that nothing holds and that are not leaving it already, in the order of their demotion (R233). -/
def State.victims (s : State) (t : Tier) : List Victim :=
  let all := s.tiers.allocs.flatMap fun a =>
    if a.freed then []
    else ((((upto a.pages).filter fun i => decide ((a.page i).tier = t) && !(a.page i).zod).map a.unitAt).dedup).filterMap fun u =>
      let ps := (unitPages u).filter fun i => decide ((a.page i).tier = t) && !(a.page i).zod
      if s.isHeld a u.1 || ps.any (fun i => s.runHeld a i || decide (s.boundTier a i ≠ t)) then none
      else some { cold := ps.any fun i => s.hinted a.id i .cold
                  lastUse := (ps.map fun i => (a.page i).lastUse).foldl max 0, alloc := a.id, unit := u, pages := ps }
  sortBy Victim.before all

/-- Where a page that gives way goes: a held page of pre-empted executions to T2 (R234), any other to the next tier down with
room. -/
def State.demoteTo (s : State) (t : Tier) (v : Victim) : Option Tier :=
  let room (u : Tier) : Bool := tierAbove t u && decide (v.pages.length ≤ s.freePages u)
  let spill := match s.alloc? v.alloc with
    | some a => v.pages.any (s.spillable a)
    | none => false
  ((if spill then [Tier.t2, .t3] else [Tier.t1, .t2, .t3]).find? room)

/-- Demote pages of tier t until n have been asked to leave, as far as unheld ones and room below go; those of an allocation
with a promotion in flight stay (R242). -/
def State.demoteSome (s : State) (t : Tier) (n : Nat) : State :=
  ((s.victims t).foldl (fun (acc : State × Nat) v =>
    if acc.2 = 0 || acc.1.inFlight v.alloc true then acc
    else match acc.1.demoteTo t v with
      | some u => (acc.1.migrate { id := 0, alloc := v.alloc, pages := v.pages, dst := u, promo := false }, acc.2 - v.pages.length)
      | none => acc) (s, n)).1

/-- Pages that grants to steps hold in a tier. -/
def State.granted (s : State) (t : Tier) : Nat := (s.sched.grants.map fun g => g.2.getD (tierNo t) 0).sum

/-- Pages that a tier can have free once what is on its way out has left and other grants have ended. -/
def State.canFree (s : State) (t : Tier) : Nat := s.freePages t + s.granted t + s.leaving t

/-- Pages that demotion can still take out of a tier: unheld ones, as far as the tiers below can have room. -/
def State.canDemote (s : State) (t : Tier) : Nat :=
  min ((s.victims t).map (·.pages.length)).sum (([Tier.t1, .t2, .t3].filter (tierAbove t)).map s.canFree).sum

/-! ## Held pages of an execution (R234) -/

/-- A held page of an execution lies in T0. -/
def State.resident (s : State) (e : Exec) (p : Nat) : Bool :=
  match s.execPlace e p with
  | .mem a i _ _ => (a.page i).tier == .t0
  | _ => false

/-- What has been spilled of an execution's held pages comes back to T0, and a spill under way ends (R234). -/
def State.restore (s : State) (e : Exec) : State :=
  e.heldT0.foldl (fun s p => match s.execPlace e p with
    | .mem a i _ _ =>
      let s := s.cutMigs [(a.id, i)]
      if (a.page i).tier = .t0 then s
      else
        let s := { s with tiers := { s.tiers with nextMig := s.tiers.nextMig + 1 } }
        s.reframe s.tiers.nextMig a [i] .t0
    | _ => s) s

end Sys2Proof.Machine
end

