-- ==== Sys2Proof/Machine/Issue.lean ====
section
/-!
DEFINITION. Issuing instructions (R175, R176, R182 to R187): the prologue of every instruction, the checks and
the tracking of an asynchronous operation (R149 to R151, R215), fences and waits (R221 to R224).
-/
namespace Sys2Proof.Machine

/-! ## The prologue of an instruction -/

/-- The instruction has issued: the next one follows (R175). -/
def Exec.next (e : Exec) : Exec := { e with pc := e.pc + 16, stall := none }

/-- The instruction does not issue yet; R277 counts its wait from when it began. -/
def Exec.wait (e : Exec) (w : Stall) (now : Nat) : Exec :=
  { e with stall := some w, waitSince := if e.stall.isSome then e.waitSince else now }

/-- A FENCE or WAIT has issued and holds back the instructions after it (R182, R221). -/
def Exec.fenced (e : Exec) : Bool :=
  match e.stall with
  | some (.fence ..) | some (.waitFlags ..) => true
  | _ => false

/-- A result is still pending in one of the registers (R137): only EVICT's result is written later
than the next instruction in this model. -/
def Exec.pend (e : Exec) (rs : List (Fin 64)) : Bool :=
  e.st.ops.any fun o => match o.kind with
    | .evict _ ra => ra != 0 && rs.contains ra
    | _ => false

/-- The prologue of every instruction on the executions of compositor c: a compositor in reset or a
fence lets nothing issue, a predicate waits for its flag (R185), and an instruction whose predicate
fails only takes its place in the program (R176). -/
def State.insn (s : State) (c : Fin 16) (p : Pred) (f : State → Exec → State) : State :=
  if s.sched.comps[c].resetting then s
  else s.onComp c fun s e =>
    if e.fenced then s
    else if e.predWaits p then s.setEx (e.wait .flagNamed s.now)
    else if e.predOk p then f s e
    else s.setEx e.next

/-- A synchronous instruction that reads and writes the registers rs: it waits while one of them is
pending (R137), raises a fault, or leaves the execution as f says. -/
def State.sync (s : State) (c : Fin 16) (p : Pred) (rs : List (Fin 64))
    (f : State → Exec → Except JFault Exec) : State :=
  s.insn c p fun s e =>
    if e.pend rs then s.setEx (e.wait .register s.now)
    else match f s e with
      | .ok e' => s.setEx e'
      | .error j => s.jfault e j e.pc

/-! ## Pages and runs of windows -/

/-- The contiguous byte runs of a window (R150). -/
def DInfo.runs (d : DInfo) : List (Nat × Nat) :=
  if d.layout = 6 then [(d.base + d.o 0, d.base + d.o 0 + d.w 0)]
  else if d.layout = 0 then
    (upto (d.w 1 * d.w 2 * d.w 3)).map fun r =>
      let a := d.plainAddr (d.index (r * d.w 0))
      (a, a + d.w 0 * d.fmt.bytes)
  else if d.layout = 5 then
    let vb := vbytes d.fmt (d.e 0)
    let per := 65472 / max 1 vb
    (upto (d.w 1)).map fun k =>
      let v := d.o 1 + k
      let a := d.base + 65536 * (v / per) + 0x40 + v % per * vb
      (a, a + vb)
  else
    (((upto d.count).map fun n => let q := d.place (d.index n); (q.1, q.2.1)).dedup).map fun q =>
      let a := d.base + 65536 * q.1 + 0x40 + 4 * d.fmt.bits * q.2
      (a, a + 4 * d.fmt.bits)

/-- Two runs overlap. -/
def runsMeet (a b : WrWin) : Bool := decide (a.lo < b.hi) && decide (b.lo < a.hi)

/-! ## Asynchronous operations -/

/-- What an asynchronous instruction asks for: the operation, the pages it reads, the windows that it
writes as runs with their issuers, how many descriptor windows it touches, whether it is an SR
conversion (R210), and whether its writes go through the output banks (R113). -/
structure Req where
  op : Op
  rds : List Nat := []
  wrs : List WrWin := []
  wins : Nat := 0
  sr : Bool := false
  bank : Bool := false
  deriving DecidableEq, Repr, Inhabited

/-- Pages of a list of runs. -/
def runPages (ws : List WrWin) : List Nat :=
  (ws.flatMap fun w => if w.lo < w.hi then (upto ((w.hi - 1) / 65536 - w.lo / 65536 + 1)).map fun k => w.lo / 65536 + k else []).dedup

/-- The tier whose claimed pages a shadow of the page takes (R147, R148, R152, R252). A Quire execution writes no namespace
(R172). -/
def State.shadowTier (s : State) (e : Exec) (p : Nat) : Option Tier :=
  match s.execPage e p with
  | .mem a i _ _ => some (match (a.page i).tier with | .t3 => .t2 | t => t)
  | .ns .. => if e.quire then none else some .t2
  | .missing => none

/-- The page belongs to an allocation homed in T0 (R234). -/
def State.homedT0 (s : State) (e : Exec) (p : Nat) : Bool :=
  match s.execPage e p with
  | .mem a _ _ _ => a.home == .t0
  | _ => false

/-- The step stays within its claim (R151, R152, R234). -/
def State.inClaim (s : State) (e : Exec) (held : List Nat) (sh : List (Nat × Tier)) : Bool :=
  let c := s.claimOf e
  let n (t : Tier) := sh.countP fun q => q.2 == t
  decide (held.length + n .t0 ≤ claimT0 c) && decide (n .t1 ≤ claimT1 c) && decide (n .t2 ≤ claimT2 c)

/-- Two page lists share a page. -/
def pagesMeet (a b : List Nat) : Bool := a.any fun p => b.contains p

/-- An operation that reads and writes some pages breaks R149 to R151 or R215. -/
def StepSt.breaks (st : StepSt) (rds : List Nat) (wrs : List WrWin) (wins : Nat) (bank : Bool) : Bool :=
  let wrp := runPages wrs
  let shp := st.shPages.map (·.1)
  let step (acc : Bool × List WrWin) (w : WrWin) : Bool × List WrWin :=
    (acc.1 || acc.2.any (fun v => runsMeet v w && decide (v.issuer ≠ w.issuer)), acc.2 ++ [w])
  decide (256 < st.windows + wins) || pagesMeet rds st.bankPages || (bank && pagesMeet wrp (st.rdAll ++ rds))
    || wrp.any (fun p => (st.rdPages ++ rds).contains p && !shp.contains p) || (wrs.foldl step (false, st.wrWins)).1

/-- The step's tracking once an operation has issued; sh are its shadow pages. -/
def StepSt.noted (st : StepSt) (rds : List Nat) (wrs : List WrWin) (wins : Nat) (bank : Bool) (sh : List (Nat × Tier)) : StepSt :=
  let shp := st.shPages.map (·.1)
  { st with
    windows := st.windows + wins
    rdPages := (st.rdPages ++ rds.filter fun p => !shp.contains p).dedup
    rdAll := (st.rdAll ++ rds).dedup
    wrWins := st.wrWins ++ wrs
    shPages := sh
    bankPages := if bank then (st.bankPages ++ runPages wrs).dedup else st.bankPages }

/-- Reading and writing pages within a step: the tracking of R149, R150, R151, R215 and the held pages
of R234, or the fault that one of them raises. An operation of a step that reads a page of a bank-bound output, before it or
after it or as that impression itself, makes R215's fault. -/
def State.track (s : State) (e : Exec) (rds : List Nat) (wrs : List WrWin) (wins : Nat) (bank : Bool) : Except JFault Exec :=
  if e.st.breaks rds wrs wins bank then .error .inPlace
  else
    let wrp := runPages wrs
    let shp := e.st.shPages.map (·.1)
    let held := (e.heldT0 ++ (rds ++ wrp).filter fun p => s.homedT0 e p).dedup
    let sh := e.st.shPages ++ (wrp.filter fun p => !shp.contains p).filterMap fun p => (s.shadowTier e p).map fun t => (p, t)
    if s.inClaim e held sh then .ok { e with heldT0 := held, st := e.st.noted rds wrs wins bank sh }
    else .error .descriptor

/-- Largest number of SR conversions of a step (R70). -/
def srLimit : Nat := 65536

/-- The page lies in a namespace that the table in force does not let the execution write (R271). -/
def State.deniesNs (s : State) (e : Exec) (p : Nat) : Bool :=
  match s.execPage e p with
  | .ns _ _ _ w => !w
  | _ => false

/-- Issue an operation (R182 to R184, R210): its completion flag is cleared, it takes the next ordinal
when it is an SR conversion, and it becomes outstanding, with all its accesses still to be translated. The right to write a
namespace is that of this moment (R271). -/
def State.issueOp (s : State) (e : Exec) (r : Req) : Except JFault Exec := do
  if r.sr ∧ srLimit ≤ e.st.srCount then throw .format
  let e ← s.track e r.rds r.wrs r.wins r.bank
  let o := { r.op with
    id := e.nextOp, ord := e.st.srCount, rdPages := r.rds, wrPages := runPages r.wrs, pc := e.pc
    left := r.rds.map (fun p => (p, false)) ++ (runPages r.wrs).map fun p => (p, true)
    noNs := (runPages r.wrs).filter (s.deniesNs e)
    uep := s.units.epochs }
  let e := e.clearNamed o.ev
  pure { e with
    nextOp := e.nextOp + 1
    st := { e.st with ops := e.st.ops ++ [o], srCount := e.st.srCount + if r.sr then 1 else 0 } }

/-- Some of the pages wait for the committed banks of an earlier step to drain into them (R114). -/
def State.draining (s : State) (e : Exec) (ps : List Nat) : Bool :=
  ps.any fun p => match s.execPlace e p with
    | .mem a i _ _ => s.fab.draining.any fun d => d.2.contains (pageKey a i)
    | _ => false

/-- An asynchronous instruction (R182): it waits for a pending register (R137), for one of 64
outstanding operations (R183), and for outstanding writes to the pages of a list that it reads at issue, an earlier step's
drain among them (R114, R186); otherwise it issues what f asks for, or raises f's fault. -/
def State.asyncList (s : State) (c : Fin 16) (p : Pred) (rs : List (Fin 64)) (list : Exec → List Nat)
    (f : State → Exec → Except JFault (Exec × Req)) : State :=
  s.insn c p fun s e =>
    if e.pend rs then s.setEx (e.wait .register s.now)
    else if 64 ≤ e.st.ops.length then s.setEx (e.wait .outstanding64 s.now)
    else if e.st.ops.any (fun o => o.wrPages.any fun q => (list e).contains q && !e.st.bankPages.contains q) || s.draining e (list e) then
      s.setEx (e.wait .page s.now)
    else match (do
        let (e', r) ← f s e
        s.issueOp e' r) with
      | .ok e' => s.setEx e'.next
      | .error j => s.jfault e j e.pc

/-- An asynchronous instruction without a list. -/
def State.async (s : State) (c : Fin 16) (p : Pred) (rs : List (Fin 64))
    (f : State → Exec → Except JFault (Exec × Req)) : State := s.asyncList c p rs (fun _ => []) f

/-! ## Fences, waits and completions (R186, R187, R221 to R224) -/

/-- FENCE.FX covers IMP and ENG operations, FENCE.MV the others (R221). -/
def OpKind.isFx : OpKind → Bool
  | .move | .pref _ | .hint _ | .evict .. | .cvt _ | .sts => false
  | _ => true

/-- The unit that runs an operation in issue order (R187); sheet moves, conversions and STS have none. -/
def OpKind.unit : OpKind → Option Engine
  | .imp => some .fabric
  | .platen _ => some .platen
  | .galley .. => some .galley
  | .sieveArm | .sieveEval | .sieveF => some .sieve
  | .topk .. | .argmax _ | .hist _ | .sample _ => some .tally
  | .cipherEnc _ | .cipherDec _ | .cipherHash => some .cipher
  | _ => none

/-- A fence covers an operation. -/
def fenceCovers (mv fx : Bool) (o : Op) : Bool := if o.kind.isFx then fx else mv

/-- Effects of a fence that has completed: it collects poison (R223) and satisfies R150 for what
follows (R222). -/
def Exec.passFence (e : Exec) (mv fx : Bool) : Exec :=
  { e.next with st := { e.st with wrWins := e.st.wrWins.filter fun w => if w.fx then !fx else !mv } }

/-- The poison that a fence collects. -/
def Exec.poisonIn (e : Exec) (mv fx : Bool) : Bool := (mv && e.st.poisonMv) || (fx && e.st.poisonFx)

/-- After a completion: a fence or wait that has nothing left to wait for ends (R222 to R224). -/
def State.settle (s : State) (e : Exec) : State :=
  match e.stall with
  | some (.fence mv fx) =>
    if e.st.ops.any (fenceCovers mv fx) then s.setEx e
    else if e.poisonIn mv fx then (s.setEx e).rerunOr e .poison 0x85 0 e.step32
    else s.setEx (e.passFence mv fx)
  | some (.waitFlags mask all) =>
    if e.namedIn mask then s.setEx e
    else if e.waitTest mask all then s.setEx e.next
    else s.jfault e .bound e.pc
  | _ => s.setEx e

/-- The executions on compositor c whose step is open: issuing or closing. -/
def State.openOn (s : State) (c : Fin 16) : List Nat :=
  (s.sched.execs.filter fun e => e.comp == some c && (match e.phase with
    | .running | .closing .. => true
    | _ => false)).map (·.id)

/-- Run f on every open execution of compositor c that has the outstanding operation n. -/
def State.onOp (s : State) (c : Fin 16) (n : Nat) (f : State → Exec → Op → State) : State :=
  (s.openOn c).foldl (fun s id => match s.ex? id with
    | some e => match e.st.ops.find? (fun o => o.id == n) with
      | some o => f s e o
      | none => s
    | none => s) s

/-- An earlier operation of the step holds this one back: it writes a page that this one reads (R186),
it runs before it on the same unit (R187; an armed engine's operation waits for its impression
instead, R218), or it is an earlier write of the same instruction to the same page (R150). -/
def Exec.blocked (e : Exec) (o : Op) : Bool :=
  e.st.ops.any fun q => decide (q.id < o.id) &&
    (pagesMeet q.wrPages o.rdPages
      || (o.kind.unit.isSome && q.kind.unit == o.kind.unit && !(q.boundTo == some o.id))
      || (decide (q.pc = o.pc) && pagesMeet q.wrPages o.wrPages))

/-- The operation has left the outstanding ones; its completion flag is set when no other names it. -/
def Exec.finishOp (e : Exec) (o : Op) : Exec :=
  ({ e with st := { e.st with ops := e.st.ops.filter fun q => q.id != o.id } }).setNamed o.ev

/-- The mover that carries an access of an operation (R250, R281): which of Platen's pipes an entry's reads go through and which
of Quoin's sixteen TLBs a compositor uses no rule says (log entry 18). -/
def moverOf (c : Fin 16) (o : Op) (wr : Bool) : Mover :=
  match o.kind with
  | .cvt _ | .imp => .quoin c
  | .galley .. => .galley
  | .platen _ => if wr then .quoin c else .platen (Fin.ofNat 64 o.id)
  | _ => .comp c

/-- The mover translates an operation's accesses in order, up to the first that its TLB does not hold: what it has translated
stays so (R251, R254, R271). -/
def State.translate (s : State) (e : Exec) (c : Fin 16) (o : Op) : Exec × Op :=
  let l := o.left.dropWhile fun a => s.tlbHit (moverOf c o a.2) e a.1 a.2 && !(a.2 && o.noNs.contains a.1)
  if l.length = o.left.length then (e, o)
  else
    let o := { o with left := l, epoch := some (o.epoch.getD s.part.epoch) }
    ({ e with st := { e.st with ops := e.st.ops.map fun q => if q.id = o.id then o else q } }, o)

/-- DW0 and DW1 of status 0x86 (R435); why is 0 for no answer, 1 for refused, 2 for outside a Quire window. -/
def faultDw (va why : Nat) : W32 × W32 := (BitVec.ofNat 32 (bitsOf va 47 16), BitVec.ofNat 32 (bitsOf va 55 48 + 256 * why))

/-- An execution ends for a translation fault, which XLT_FSTAT counts (R256, R259). -/
def State.faultEnd (s : State) (e : Exec) (sc : Nat) (dw : W32 × W32) : State :=
  ({ s with tiers := { s.tiers with refused := satAdd 65535 s.tiers.refused 1 } }).jobFail e sc dw.1 dw.2

/-- An access that misses: its walk starts, but in Quire mode one outside the windows ends the execution at once, without a
mapping attempt (R172, R251, R258). -/
def State.miss (s : State) (e : Exec) (m : Mover) (p op : Nat) (wr : Bool) : State :=
  if s.quireOut e p wr then s.faultEnd e 0x86 (faultDw (p * 65536) 2) else s.walk e m p op wr

/-! ## Poisoned words (R544) -/

/-- Some poisoned word lies in a byte range of the execution's memory. -/
def State.poisonAt (s : State) (e : Exec) (lo hi : Nat) : Bool :=
  s.tiers.poison.any fun w => (upto ((hi - 1) / 65536 - lo / 65536 + 1)).any fun k =>
    match s.execPlace e (lo / 65536 + k) with
    | .mem a i _ _ =>
      let key := byteKey a i 0
      let begin_ := if k = 0 then lo % 65536 else 0
      let stop := if lo / 65536 + k = (hi - 1) / 65536 then (hi - 1) % 65536 + 1 else 65536
      decide (key + begin_ < 64 * w + 64) && decide (64 * w < key + stop)
    | _ => false

/-! ## Use of pages (R233, R238, R239) -/

/-- The allocations that a page list of an execution reaches, each with its page numbers. -/
def State.byAlloc (s : State) (e : Exec) (ps : List Nat) : List (Alloc × List Nat) :=
  let hits := ps.filterMap fun p => match s.execPlace e p with
    | .mem a i _ _ => some (a, i)
    | _ => none
  let ids := (hits.map fun h => h.1.id).dedup
  ids.filterMap fun id => match hits.find? (fun h => decide (h.1.id = id)) with
    | some h => some (h.1, (hits.filter fun x => decide (x.1.id = id)).map (·.2))
    | none => none

/-- The bytes of a run that lie in a page. -/
def runIn (r : Nat × Nat) (p : Nat) : Nat := min r.2 (65536 * p + 65536) - max r.1 (65536 * p)

/-- The bytes of data in page p of a window's tensor: all of a plain page, or the units of its sheet (R235). -/
def DInfo.dataIn (d : DInfo) (p : Nat) : Nat :=
  let sh := p - d.base / 65536
  if d.layout = 0 ∨ d.layout = 6 then 65536
  else if d.layout = 5 then
    let vb := vbytes d.fmt (d.e 0)
    let per := 65472 / max 1 vb
    min per (d.e 1 - sh * per) * vb
  else 512 * d.fmt.bits * min d.fmt.chunks (d.totalChunks - sh * d.fmt.chunks)

/-- The pages that a window reads completely (R238): those of whose data it reads every byte. A complete read is one operation's:
the model's choice (log entry 146). -/
def DInfo.wholePages (d : DInfo) : List Nat := d.pages.filter fun p => decide (d.dataIn p ≤ (d.runs.map fun r => runIn r p).sum)

/-- Pages with the Streamed hint that have been read completely move down one tier (R238). -/
def State.demoteStreamed (s : State) (a : Alloc) (ps : List Nat) : State :=
  (ps.filter fun i => s.hinted a.id i .streamed).foldl (fun s i => match s.alloc? a.id with
    | some a => (s.evict a [i] (tierDown (a.page i).tier) none none (some .streamed)).1
    | none => s) s

/-- Pages that an operation has used are touched (R233, R239), and those that it has read completely may be Streamed ones. -/
def State.used (s : State) (e : Exec) (ps whole : List Nat) : State :=
  let s := (s.byAlloc e ps.dedup).foldl (fun s q => q.2.foldl (fun s i => s.touch q.1.id i) s) s
  (s.byAlloc e whole).foldl (fun s q => s.demoteStreamed q.1 q.2) s

/-! ## Writing outputs -/

/-- Bytes written to a step's shadow pages (R147). -/
def Exec.putBytes (e : Exec) (bs : List (Nat × Byte)) : Exec :=
  { e with st := { e.st with shadow := bs.foldl (fun m b => assocPut b.1 b.2 m) e.st.shadow } }

/-- Writes of an operation to shadow pages, or to held namespace writes where the page lies in a
namespace mapping (R147, R148, R203). A block that is written in part keeps the rest of its bytes. -/
def State.store (s : State) (e : Exec) (bs : List (Nat × Byte)) : Exec :=
  let isNs (va : Nat) : Bool := match s.execPlace e (va / 65536) with | .ns .. => true | _ => false
  let plain := bs.filter fun b => !isNs b.1
  let ns := bs.filter fun b => isNs b.1
  let e := e.putBytes plain
  let blocks := (ns.map fun b => b.1 / 4096).dedup
  blocks.foldl (fun e k =>
    match s.execPlace e (k / 16) with
    | .ns nsid lba _ _ =>
      let l := lba + k % 16
      let old := match heldBlk e.st.ns nsid l with
        | some b => b
        | none => s.blk nsid l
      let data := (upto 4096).map fun i => match ns.reverse.find? (fun b => decide (b.1 = k * 4096 + i)) with
        | some b => b.2
        | none => blkByte old.data i
      { e with st := { e.st with ns := e.st.ns ++ [{ nsid, lba := l, blocks := [{ old with data := bytesToBits 32768 data }] }] } }
    | _ => e) e

/-- Add what a store measured to its scale slot (R82). -/
def measure (ms : List SlotMeas) (m : SlotMeas) : List SlotMeas :=
  if ms.any (fun x => x.slot == m.slot) then
    ms.map fun x => if x.slot = m.slot then
      { x with
        amax := (match x.amax, m.amax with | some a, some b => some (max a b) | none, b => b | a, none => a)
        clip := x.clip + m.clip
        L := min x.L m.L }
    else x
  else ms ++ [m]

/-- The scale exponent t of a slot's word (R81). -/
def slotT (w : W64) : Int := let t := bitsOf w.toNat 8 0; if t ≥ 256 then (t : Int) - 512 else t

/-- The scale exponent that a store through descriptor d uses at issue (R61, R199); mode 0b11 raises
the format fault (R81). -/
def Exec.slotAt (e : Exec) (d : DInfo) : Except JFault Int :=
  if d.slotEn then
    let w := ((e.slots.toList)[d.slot]?.getD {}).word
    if bitsOf w.toNat 10 9 = 3 then .error .format else .ok (slotT w)
  else .ok 0

end Sys2Proof.Machine
end

