-- ==== Sys2Proof/Machine/Control.lean ====
section
/-!
DEFINITION. Class CTL: control (R189 to R194).
-/
namespace Sys2Proof.Machine

/-- The predicate of an instruction that is never predicated (R177). -/
def noPred : Pred := { pen := false, sense := false, flag := 0 }

/-- NOP (R189). -/
def execNop (c : Fin 16) (p : Pred) (s : State) : Out := .next (s.sync c p [] fun _ e => .ok e.next)

/-- Branch: the target is a signed byte offset from this instruction (R180, R189). -/
def Exec.jump (e : Exec) (target : W32) : Exec := { e with pc := e.pc + target, stall := none }

/-- BR (R189). -/
def execBr (c : Fin 16) (p : Pred) (target : W32) (s : State) : Out :=
  .next (s.sync c p [] fun _ e => .ok (e.jump target))

/-- CALL pushes the offset of the next instruction on the return stack of 8 entries (R189, R191). -/
def execCall (c : Fin 16) (p : Pred) (target : W32) (s : State) : Out :=
  .next (s.sync c p [] fun _ e => .ok { e.jump target with rstack := ((e.pc + 16) :: e.rstack).take 8 })

/-- RET pops an offset and branches to it (R189). On an empty stack, which no verified image reaches
(R191), nothing happens. -/
def execRet (c : Fin 16) (p : Pred) (s : State) : Out :=
  .next (s.sync c p [] fun _ e => match e.rstack with
    | t :: r => .ok { e with pc := t, rstack := r, stall := none }
    | [] => .ok e)

/-- The bound that LCSET checks against (R192). -/
def lcBound (imm32 : W32) : Nat := if imm32 = 0 then 0xFFFFFFFF else imm32.toNat

/-- LCSET (R189, R192). -/
def execLcset (c : Fin 16) (p : Pred) (lc : Fin 8) (ra : Fin 64) (imm32 : W32) (s : State) : Out :=
  .next (s.sync c p [ra] fun _ e =>
    if lcBound imm32 < (e.reg ra).toNat then .error .bound
    else .ok { e.next with lcs := e.lcs.set lc ((e.reg ra).setWidth 32) })

/-- LCSETI (R189). -/
def execLcseti (c : Fin 16) (p : Pred) (lc : Fin 8) (imm32 : W32) (s : State) : Out :=
  .next (s.sync c p [] fun _ e => .ok { e.next with lcs := e.lcs.set lc imm32 })

/-- BLC: above 1 the counter falls by one and the branch is taken, otherwise it is set to 0 (R189). -/
def execBlc (c : Fin 16) (p : Pred) (lc : Fin 8) (target : W32) (s : State) : Out :=
  .next (s.sync c p [] fun _ e =>
    if 1 < (e.lcs[lc]).toNat then .ok { e.jump target with lcs := e.lcs.set lc (e.lcs[lc] - 1) }
    else .ok { e.next with lcs := e.lcs.set lc 0 })

/-- STEP and END end the step: an engine still armed raises the descriptor fault (R218), and the step
then waits for its completions and commits (R145, R194). -/
def Exec.close (e : Exec) (claim : BitVec 16) (final : Bool) (now : Nat) : Except JFault Exec :=
  if e.st.armed ≠ [] then .error .descriptor
  else .ok { e with phase := .closing claim final, stall := none, waitSince := now }

/-- END (R194). -/
def execJend (c : Fin 16) (s : State) : Out := .next (s.sync c noPred [] fun s e => e.close 0 true s.now)

end Sys2Proof.Machine
end

