-- ==== Sys2Proof/Machine/Scalar.lean ====
section
/-!
DEFINITION. Class SCL: scalar arithmetic, compares, scalar loads and stores, slots (R195 to R199).
-/
namespace Sys2Proof.Machine

/-- The scalar register that operand b reads, if any. -/
def srcRegs : Src2 → List (Fin 64)
  | .reg rb => [rb]
  | .imm _ => []

/-- An arithmetic instruction: rd = op(ra, b) modulo 2^64 (R195, R196). -/
def State.arith (s : State) (c : Fin 16) (p : Pred) (rd ra : Fin 64) (b : Src2) (op : W64 → W64 → W64) : State :=
  s.sync c p (rd :: ra :: srcRegs b) fun _ e => .ok (e.setReg rd (op (e.reg ra) (e.src2 b))).next

/-- Division of R195: all ones when b is 0. -/
def divu (a b : W64) : W64 := if b = 0 then BitVec.allOnes 64 else a.udiv b
/-- Remainder of R195: a when b is 0. -/
def remu (a b : W64) : W64 := if b = 0 then a else a.umod b
/-- High 64 bits of the unsigned product (R195). -/
def mulhu (a b : W64) : W64 := BitVec.ofNat 64 (a.toNat * b.toNat / 2 ^ 64)
/-- Shift counts are b[5:0] (R195). -/
def shiftOf (b : W64) : Nat := b.toNat % 64

def execAdd (c : Fin 16) (p : Pred) (rd ra : Fin 64) (b : Src2) (s : State) : Out :=
  .next (s.arith c p rd ra b fun x y => x + y)
def execSub (c : Fin 16) (p : Pred) (rd ra : Fin 64) (b : Src2) (s : State) : Out :=
  .next (s.arith c p rd ra b fun x y => x - y)
def execMul (c : Fin 16) (p : Pred) (rd ra : Fin 64) (b : Src2) (s : State) : Out :=
  .next (s.arith c p rd ra b fun x y => x * y)
def execMulhu (c : Fin 16) (p : Pred) (rd ra : Fin 64) (b : Src2) (s : State) : Out :=
  .next (s.arith c p rd ra b mulhu)
def execDivu (c : Fin 16) (p : Pred) (rd ra : Fin 64) (b : Src2) (s : State) : Out :=
  .next (s.arith c p rd ra b divu)
def execRemu (c : Fin 16) (p : Pred) (rd ra : Fin 64) (b : Src2) (s : State) : Out :=
  .next (s.arith c p rd ra b remu)
def execAnd (c : Fin 16) (p : Pred) (rd ra : Fin 64) (b : Src2) (s : State) : Out :=
  .next (s.arith c p rd ra b fun x y => x &&& y)
def execOr (c : Fin 16) (p : Pred) (rd ra : Fin 64) (b : Src2) (s : State) : Out :=
  .next (s.arith c p rd ra b fun x y => x ||| y)
def execXor (c : Fin 16) (p : Pred) (rd ra : Fin 64) (b : Src2) (s : State) : Out :=
  .next (s.arith c p rd ra b fun x y => x ^^^ y)
def execShl (c : Fin 16) (p : Pred) (rd ra : Fin 64) (b : Src2) (s : State) : Out :=
  .next (s.arith c p rd ra b fun x y => x <<< shiftOf y)
def execShr (c : Fin 16) (p : Pred) (rd ra : Fin 64) (b : Src2) (s : State) : Out :=
  .next (s.arith c p rd ra b fun x y => x >>> shiftOf y)
def execSra (c : Fin 16) (p : Pred) (rd ra : Fin 64) (b : Src2) (s : State) : Out :=
  .next (s.arith c p rd ra b fun x y => x.sshiftRight (shiftOf y))
def execMinu (c : Fin 16) (p : Pred) (rd ra : Fin 64) (b : Src2) (s : State) : Out :=
  .next (s.arith c p rd ra b fun x y => if y.ult x then y else x)
def execMaxu (c : Fin 16) (p : Pred) (rd ra : Fin 64) (b : Src2) (s : State) : Out :=
  .next (s.arith c p rd ra b fun x y => if x.ult y then y else x)
def execMins (c : Fin 16) (p : Pred) (rd ra : Fin 64) (b : Src2) (s : State) : Out :=
  .next (s.arith c p rd ra b fun x y => if y.slt x then y else x)
def execMaxs (c : Fin 16) (p : Pred) (rd ra : Fin 64) (b : Src2) (s : State) : Out :=
  .next (s.arith c p rd ra b fun x y => if x.slt y then y else x)

/-- A compare waits for its flag (R185), then writes its result to rd and to the flag (R196). -/
def State.compare (s : State) (c : Fin 16) (p : Pred) (rd ra : Fin 64) (b : Src2) (evd : Fin 64) (op : W64 → W64 → Bool) : State :=
  s.sync c p (rd :: ra :: srcRegs b) fun s e =>
    if e.named evd then .ok (e.wait .flagNamed s.now)
    else
      let r := op (e.reg ra) (e.src2 b)
      .ok ((e.setReg rd (if r then 1 else 0)).setFlag evd r).next

def execCmpeq (c : Fin 16) (p : Pred) (rd ra : Fin 64) (b : Src2) (evd : Fin 64) (s : State) : Out :=
  .next (s.compare c p rd ra b evd fun x y => x == y)
def execCmpne (c : Fin 16) (p : Pred) (rd ra : Fin 64) (b : Src2) (evd : Fin 64) (s : State) : Out :=
  .next (s.compare c p rd ra b evd fun x y => x != y)
def execCmpltu (c : Fin 16) (p : Pred) (rd ra : Fin 64) (b : Src2) (evd : Fin 64) (s : State) : Out :=
  .next (s.compare c p rd ra b evd fun x y => x.ult y)
def execCmplts (c : Fin 16) (p : Pred) (rd ra : Fin 64) (b : Src2) (evd : Fin 64) (s : State) : Out :=
  .next (s.compare c p rd ra b evd fun x y => x.slt y)
def execCmpgeu (c : Fin 16) (p : Pred) (rd ra : Fin 64) (b : Src2) (evd : Fin 64) (s : State) : Out :=
  .next (s.compare c p rd ra b evd fun x y => y.ule x)
def execCmpges (c : Fin 16) (p : Pred) (rd ra : Fin 64) (b : Src2) (evd : Fin 64) (s : State) : Out :=
  .next (s.compare c p rd ra b evd fun x y => y.sle x)

/-- n bytes of the constant area of an execution's image, as a number; none when they do not lie
wholly inside it (R197, R200). -/
def State.constant (s : State) (e : Exec) (off n : Nat) : Option Nat :=
  match s.image? e.image with
  | some i => if off + n ≤ i.constLen then some (i.num (i.constOff + off) n) else none
  | none => none

/-- LDC (R195, R197). -/
def execLdc (c : Fin 16) (p : Pred) (rd ra : Fin 64) (imm : W64) (s : State) : Out :=
  .next (s.sync c p [rd, ra] fun s e =>
    let a := (e.reg ra + imm).toNat
    if a % 8 ≠ 0 then .error .descriptor
    else match s.constant e a 8 with
      | some v => .ok (e.setReg rd (BitVec.ofNat 64 v)).next
      | none => .error .descriptor)

/-- The page of a scalar access lies in a namespace mapping (R198). -/
def State.inNs (s : State) (e : Exec) (p : Nat) : Bool :=
  match s.execPage e p with
  | .ns .. => true
  | _ => false

/-- LDS (R195, R198): a read of its page under R149. It waits for an outstanding write to the page
or an earlier step's drain into it (R114, R186), and for its translation (R251). A poisoned word abandons the step (R544). -/
def execLds (c : Fin 16) (p : Pred) (rd ra : Fin 64) (imm : W64) (s : State) : Out :=
  .next (s.insn c p fun s e =>
    let a := (e.reg ra + imm).toNat
    let pg := a / 65536
    if e.pend [rd, ra] then s.setEx (e.wait .register s.now)
    else if a % 8 ≠ 0 ∨ s.inNs e pg then s.jfault e .descriptor e.pc
    else if e.st.ops.any (fun o => o.wrPages.contains pg) && !e.st.bankPages.contains pg || s.draining e [pg] then s.setEx (e.wait .page s.now)
    else match s.track e [pg] [] 0 false with
      | .error j => s.jfault e j e.pc
      | .ok e' =>
        if s.tlbHit (.comp c) e pg false then
          if s.poisonAt e a (a + 8) then s.rerunOr e .dram 0x85 0 e.step32
          else (s.setEx (e'.setReg rd (BitVec.ofNat 64 (leNat (rdBytes (s.rdByte e) a 8)))).next).used e [pg] []
        else (s.setEx (e.wait .walk s.now)).miss e (.comp c) pg e.nextOp false)

/-- What STS asks for at issue, or the fault that it raises. -/
def State.stsReq (s : State) (e : Exec) (rb ra : Fin 64) (imm : W64) : Except JFault (Exec × Req) :=
  let v := e.reg ra + imm
  let a := v.toNat
  if a % 8 ≠ 0 ∨ s.inNs e (a / 65536) then .error .descriptor
  else .ok (e, {
    op := { id := 0, kind := .sts, list := v, record := (e.reg rb).setWidth 512 }
    wrs := [{ issuer := e.pc.toNat * 2 ^ 20, fx := false, lo := a, hi := a + 8 }] })

/-- STS (R195, R198): a posted write of 8 bytes, outstanding until its response returns. -/
def execSts (c : Fin 16) (p : Pred) (rb ra : Fin 64) (imm : W64) (s : State) : Out :=
  .next (s.async c p [rb, ra] fun s e => s.stsReq e rb ra imm)

/-- RDSTEP (R195). -/
def execRdstep (c : Fin 16) (p : Pred) (rd : Fin 64) (s : State) : Out :=
  .next (s.sync c p [rd] fun _ e => .ok (e.setReg rd (BitVec.ofNat 64 e.step)).next)

/-- RDLC: the loop counter whose number is in rb[2:0] (R195). -/
def execRdlc (c : Fin 16) (p : Pred) (rd : Fin 64) (rb : Fin 64) (s : State) : Out :=
  .next (s.sync c p [rd] fun _ e => .ok (e.setReg rd ((e.lcs[rb.val % 8]).setWidth 64)).next)

/-- A write of v[31:0] into bits [31:0] of a scale slot: a change of mode or hist clears the slot's
history, a write of the same values leaves it (R82, R199). -/
def slotWrite (x : Slot) (v : W64) : Slot :=
  let w : W64 := (x.word &&& 0xFFFFFFFF00000000#64) ||| (v &&& 0xFFFFFFFF#64)
  { word := w, hist := if bitsOf w.toNat 14 9 = bitsOf x.word.toNat 14 9 then x.hist else [] }

/-- SLOTW (R199). -/
def execSlotw (c : Fin 16) (p : Pred) (ra : Fin 64) (slot : Fin 64) (s : State) : Out :=
  .next (s.sync c p [ra] fun _ e => .ok { e.next with slots := e.slots.set slot (slotWrite e.slots[slot] (e.reg ra)) })

/-- SLOTR (R199). -/
def execSlotr (c : Fin 16) (p : Pred) (rd : Fin 64) (slot : Fin 64) (s : State) : Out :=
  .next (s.sync c p [rd] fun _ e => .ok (e.setReg rd (e.slots[slot]).word).next)

end Sys2Proof.Machine
end

