-- ==== Sys2Proof/Machine/Descriptors.lean ====
section
/-!
DEFINITION. Class DSC: descriptor registers (R200, R201).
-/
namespace Sys2Proof.Machine

/-- Write a descriptor register. -/
def Exec.setDesc (e : Exec) (t : Fin 32) (d : Desc) : Exec := { e with descs := e.descs.set t d }

/-- DLD: the descriptor at a constant-area offset (R200). -/
def execDld (c : Fin 16) (p : Pred) (td : Fin 32) (imm : W64) (s : State) : Out :=
  .next (s.sync c p [] fun s e =>
    .ok (e.setDesc td (BitVec.ofNat 512 ((s.constant e imm.toNat 64).getD 0))).next)

/-- DCPY (R200). -/
def execDcpy (c : Fin 16) (p : Pred) (td ts : Fin 32) (s : State) : Out :=
  .next (s.sync c p [] fun _ e => .ok (e.setDesc td e.descs[ts]).next)

/-- Width of a field in bits (R139). -/
def fieldWidth (f : DField) : Nat := (fieldRange f 0).1 + 1 - (fieldRange f 0).2

/-- DSET: a value that does not fit the field raises the descriptor fault (R200, R201). -/
def execDset (c : Fin 16) (p : Pred) (td : Fin 32) (ra : Fin 64) (imm : W64) (f : DField) (dim : Fin 4) (s : State) : Out :=
  .next (s.sync c p [ra] fun _ e =>
    let v := (e.reg ra + imm).toNat
    if 2 ^ fieldWidth f ≤ v then .error .descriptor
    else .ok (e.setDesc td (dsetField e.descs[td] f dim v)).next)

/-- DADV: org[dim] + v, modulo 2^32 (R200). -/
def execDadv (c : Fin 16) (p : Pred) (td : Fin 32) (ra : Fin 64) (imm : W64) (dim : Fin 4) (s : State) : Out :=
  .next (s.sync c p [ra] fun _ e =>
    let d := e.descs[td]
    .ok (e.setDesc td (dsetField d .org dim ((dfield d .org dim + (e.reg ra + imm).toNat) % 2 ^ 32))).next)

/-- DGET: the field, zero-extended (R200). -/
def execDget (c : Fin 16) (p : Pred) (ra : Fin 64) (ts : Fin 32) (f : DField) (dim : Fin 4) (s : State) : Out :=
  .next (s.sync c p [ra] fun _ e => .ok (e.setReg ra (BitVec.ofNat 64 (dfield e.descs[ts] f dim))).next)

/-- DNULL (R200). -/
def execDnull (c : Fin 16) (p : Pred) (td : Fin 32) (s : State) : Out :=
  .next (s.sync c p [] fun _ e => .ok (e.setDesc td 0).next)

end Sys2Proof.Machine
end

