-- ==== Sys2Proof/Machine/Sync.lean ====
section
/-!
DEFINITION. Class SYNC: fences, waits, signals and STEP (R221 to R226).
-/
namespace Sys2Proof.Machine

/-- A fence: it waits for the operations that it covers, and completes at once when there are none
(R221, R222). -/
def State.fence (s : State) (c : Fin 16) (p : Pred) (mv fx : Bool) : State :=
  s.insn c p fun s e => s.settle (e.wait (.fence mv fx) s.now)

def execFence (c : Fin 16) (p : Pred) (s : State) : Out := .next (s.fence c p true true)
def execFenceMv (c : Fin 16) (p : Pred) (s : State) : Out := .next (s.fence c p true false)
def execFenceFx (c : Fin 16) (p : Pred) (s : State) : Out := .next (s.fence c p false true)

/-- A wait: it issues once its flags have no outstanding namers, and then tests them; a test that
fails then raises the bound fault (R185, R224). -/
def State.waitOn (s : State) (c : Fin 16) (p : Pred) (mask : W64) (all : Bool) : State :=
  s.insn c p fun s e => s.settle (e.wait (.waitFlags mask all) s.now)

def execWaitAll (c : Fin 16) (p : Pred) (mask : W64) (s : State) : Out := .next (s.waitOn c p mask true)
def execWaitAny (c : Fin 16) (p : Pred) (mask : W64) (s : State) : Out := .next (s.waitOn c p mask false)

/-- A signal changes only the flags of its own execution (R225); it waits until no outstanding
operation names one of them (R185). -/
def State.signal (s : State) (c : Fin 16) (p : Pred) (mask : W64) (set : Bool) : State :=
  s.sync c p [] fun s e =>
    if e.namedIn mask then .ok (e.wait .flagNamed s.now)
    else .ok { e.next with evs := if set then e.evs ||| mask else e.evs &&& ~~~mask }

def execSignalSet (c : Fin 16) (p : Pred) (mask : W64) (s : State) : Out := .next (s.signal c p mask true)
def execSignalClr (c : Fin 16) (p : Pred) (mask : W64) (s : State) : Out := .next (s.signal c p mask false)

/-- STEP ends the step and names the claim of the next (R221, R226). -/
def execStepI (c : Fin 16) (claim : BitVec 16) (s : State) : Out :=
  .next (s.sync c noPred [] fun s e => e.close claim false s.now)

end Sys2Proof.Machine
end

