-- ==== Sys2Proof/Machine/Move.lean ====
section
/-!
DEFINITION. Class MOV: sheet moves and tier control (R202 to R206), and class CVT: conversion by Quoin (R207 to R210).
-/
namespace Sys2Proof.Machine

/-! ## MOVE (R203, R236) -/

/-- The window is the whole tensor. -/
def DInfo.whole (d : DInfo) : Bool := [0, 1, 2, 3].all fun k => decide (d.o k = 0) && decide (d.w k = d.e k)

/-- Copy n bytes. -/
def copyBytes (rd : Nat → Byte) (src dst n : Nat) : List (Nat × Byte) := (upto n).map fun k => (dst + k, rd (src + k))

/-- Sheets that hold a whole tensor. -/
def DInfo.sheets (d : DInfo) : Nat :=
  if d.layout = 5 then (d.e 1 + 65472 / max 1 (vbytes d.fmt (d.e 0)) - 1) / (65472 / max 1 (vbytes d.fmt (d.e 0)))
  else (d.totalChunks + d.fmt.chunks - 1) / d.fmt.chunks

/-- The first 48 bytes of a vector sheet's header that its shape fixes (R310, R311): the shelf number and
the generation of lspec are left as they stand. -/
def DInfo.vecHeader (d : DInfo) (sh : Nat) : List (Nat × Byte) :=
  let vb := vbytes d.fmt (d.e 0)
  let per := 65472 / max 1 vb
  let units := min per (d.e 1 - sh * per)
  bytesAt (d.base + 65536 * sh)
    (leBytes 32 (0x5348 + d.fmt.code * 2 ^ 16 + 5 * 2 ^ 20 + units * 2 ^ 24 + sh * per * 2 ^ 64)
      ++ leBytes 4 (d.e 0 + vb * 2 ^ 16))

/-- The blocks that a MOVE of cells copies, each by sheet and number in a and in b. Blocks are never re-packed (R236), so they
keep a's block dimension. -/
def movePairs (a b : DInfo) : List ((Nat × Nat) × (Nat × Nat)) :=
  ((upto a.count).map fun n =>
    let p := a.place (a.index n)
    let q := { b with bdim := a.bdim }.place (b.index n)
    ((p.1, p.2.1), (q.1, q.2.1))).dedup

/-- The side-list entries of sheet sh of b once a MOVE has copied blocks with escapes into it (R78): those of a copied block from
its source, the others as they stand. codes reads the sheet as it will be. -/
def sideList (rd codes : Nat → Byte) (a b : DInfo) (pairs : List ((Nat × Nat) × (Nat × Nat))) (sh : Nat) : List Nat :=
  let entry (sheet n : Nat) : Nat := leNat (rdBytes rd (sheet + 0xEE40 + 2 * escCount rd sheet n) 2)
  let units := min b.fmt.chunks (b.totalChunks - sh * b.fmt.chunks)
  (upto (units * 4096)).filterMap fun n =>
    if areaCode 4 codes (b.base + 65536 * sh + 0x40) n = 8 then
      some (match pairs.find? (fun p => p.2 == (sh, n / 32)) with
        | some p => entry (a.base + 65536 * p.1.1) (32 * p.1.2 + n % 32)
        | none => entry (b.base + 65536 * sh) n)
    else none

/-- The headers of the sheets that a MOVE of cells writes in part, and the side lists where the blocks carry escapes (R78, R235); a
list that would be longer than a sheet holds raises the escape fault. -/
def moveHeads (rd : Nat → Byte) (a b : DInfo) (pairs : List ((Nat × Nat) × (Nat × Nat))) (bs : List (Nat × Byte)) :
    Except JFault (List (Nat × Byte)) :=
  let d := { b with bdim := a.bdim }
  let one (sh : Nat) : Except JFault (List (Nat × Byte)) :=
    let a0 := b.base + 65536 * sh
    if a.esc && decide (a.fmt = .fp4) then
      let l := sideList rd (fun x => ((bs.find? fun q => decide (q.1 = x)).map (·.2)).getD (rd x)) a b pairs sh
      if 2272 < l.length then .error .escape
      else .ok (bytesAt a0 (d.header sh l.length) ++ bytesAt (a0 + 0xEE40) (l.flatMap (leBytes 2)))
    else .ok (bytesAt a0 (d.header sh 0))
  (((pairs.map fun p => p.2.1).dedup).mapM one).map List.flatten

/-- The bytes that MOVE writes: a window that is the whole tensor on both sides moves as whole sheets
(R236); otherwise blocks or vectors move with their scales and escapes, and the headers are the producer's (R235). -/
def moveBytes (rd : Nat → Byte) (a b : DInfo) : Except JFault (List (Nat × Byte)) := do
  if a.layout = 6 then pure (copyBytes rd (a.base + a.o 0) (b.base + b.o 0) (a.w 0))
  else if a.layout = 0 then
    pure <| (upto a.count).flatMap fun n => copyBytes rd (a.plainAddr (a.index n)) (b.plainAddr (b.index n)) a.fmt.bytes
  else if a.whole && b.whole then pure (copyBytes rd a.base b.base (65536 * a.sheets))
  else if a.layout = 5 then
    let vb := vbytes a.fmt (a.e 0)
    let per := 65472 / max 1 vb
    let at_ (d : DInfo) (v : Nat) := d.base + 65536 * (v / per) + 0x40 + v % per * vb
    pure <| ((upto (a.w 1)).flatMap fun k => copyBytes rd (at_ a (a.o 1 + k)) (at_ b (b.o 1 + k)) vb)
      ++ (((upto (b.w 1)).map fun k => (b.o 1 + k) / per).dedup).flatMap b.vecHeader
  else
    let pairs := movePairs a b
    let bb := 4 * a.fmt.bits
    let mb := if a.fmt.isIntBlock then 2 else 1
    let bs := pairs.flatMap fun pq =>
      copyBytes rd (a.base + 65536 * pq.1.1 + 0x40 + bb * pq.1.2) (b.base + 65536 * pq.2.1 + 0x40 + bb * pq.2.2) bb
        ++ copyBytes rd (a.base + 65536 * pq.1.1 + a.fmt.metaOff + mb * pq.1.2)
          (b.base + 65536 * pq.2.1 + b.fmt.metaOff + mb * pq.2.2) mb
    let hs ← moveHeads rd a b pairs bs
    pure (bs ++ hs)

/-- The issuer of an instruction's write windows (R150): the instruction, by its offset, and the
pointer-list entry. -/
def issuerOf (e : Exec) (entry : Nat) : Nat := e.pc.toNat * 2 ^ 20 + entry

/-- The runs of a window as one issuer's writes. -/
def DInfo.wins (d : DInfo) (issuer : Nat) (fx : Bool) : List WrWin :=
  d.runs.map fun r => { issuer, fx, lo := r.1, hi := r.2 }

/-- What MOVE asks for at issue, or the fault that it raises. -/
def State.moveReq (_s : State) (e : Exec) (td ts : Fin 32) (ev : EvSel) : Except JFault (Exec × Req) := do
  let a ← dcheck e.descs[ts] false
  let b ← dcheck e.descs[td] false
  if a.fmt ≠ b.fmt ∨ a.layout ≠ b.layout ∨ a.win ≠ b.win then throw .descriptor
  pure (e, { op := { id := 0, kind := .move, ev, a := e.descs[ts], b := e.descs[td] }
             rds := a.pages, wrs := b.wins (issuerOf e 0) false, wins := 2 })

/-- MOVE (R203): equal format, layout and window sizes. -/
def execMove (c : Fin 16) (p : Pred) (td ts : Fin 32) (ev : EvSel) (s : State) : Out :=
  .next (s.async c p [] fun s e => s.moveReq e td ts ev)

/-- The effect of a MOVE. It checks the side lists of its source as Quoin does, and raises the escape fault on one that R79 refuses:
the model's choice, R79 names Quoin only (log entry 134). -/
def State.doMove (s : State) (e : Exec) (o : Op) : Except JFault Exec := do
  let a ← dinfo o.a
  let b ← dinfo o.b
  a.loadCheck (s.rdByte e)
  let bs ← moveBytes (s.rdByte e) a b
  pure (s.store e bs)

/-! ## PREF, HINT and EVICT (R204 to R206) -/

/-- What PREF, HINT or EVICT asks for at issue, or the fault that it raises. -/
def State.pageReq (_s : State) (e : Exec) (ts : Fin 32) (kind : OpKind) (ev : EvSel) : Except JFault (Exec × Req) := do
  let _ ← dcheck e.descs[ts] false
  pure (e, { op := { id := 0, kind, ev, a := e.descs[ts] }, wins := 1 })

/-- Tier control of the pages of a window. -/
def State.tierOp (s : State) (c : Fin 16) (p : Pred) (rs : List (Fin 64)) (ts : Fin 32) (kind : OpKind) (ev : EvSel) : State :=
  s.async c p rs fun s e => s.pageReq e ts kind ev

def execPref (c : Fin 16) (p : Pred) (ts : Fin 32) (tier : Tier) (ev : EvSel) (s : State) : Out :=
  .next (s.tierOp c p [] ts (.pref tier) ev)
def execHint (c : Fin 16) (p : Pred) (ts : Fin 32) (code : HintCode) (ev : EvSel) (s : State) : Out :=
  .next (s.tierOp c p [] ts (.hint code) ev)
def execEvict (c : Fin 16) (p : Pred) (ts : Fin 32) (tier : Tier) (ra : Fin 64) (ev : EvSel) (s : State) : Out :=
  .next (s.tierOp c p [ra] ts (.evict tier ra) ev)

/-- Attach a hint to pages for an issuer (R238): it replaces the issuer's earlier hint on them. Hot
promotes the pages to T1. Quire windows do not move (R171). -/
def State.setHint (s : State) (a : Alloc) (ps : List Nat) (code : HintCode) (who : HintBy) : State :=
  let cleared := ps.foldl (fun hs i => clearHints hs a.id i 1 who) s.tiers.hints
  let added := if code = .clear then [] else ps.map fun i => ({ alloc := a.id, first := i, pages := 1, code, issuer := who } : HintRec)
  let s := { s with tiers := { s.tiers with hints := cleared ++ added } }
  if code = .hot then s.promote a ps .t1 none (some .hot) else s

/-- PREF and EVICT have moves of their own still in flight. -/
def State.opMoving (s : State) (e : Exec) (o : Op) : Bool :=
  (s.tiers.migs ++ s.tiers.queue).any fun m => m.op == some (e.id, o.id)

/-- Pages of an EVICT's window are still on their way down, whoever has sent them (R206). -/
def State.stillAbove (s : State) (e : Exec) (ps : List Nat) (t : Tier) : Bool :=
  (s.byAlloc e ps).any fun q => q.2.any fun i => tierAbove (q.1.page i).tier t && !tierAbove (s.boundTier q.1 i) t

/-- The eviction of some page has been deferred after the tier manager had accepted it (R206, R241). -/
def State.opDeferred (s : State) (e : Exec) (o : Op) : Bool := s.tiers.deferred.any fun d => d.op == some (e.id, o.id)

/-- The first completion of a PREF: its promotions go to the tier manager (R204, R240). -/
def State.startPref (s : State) (e : Exec) (o : Op) (t : Tier) (ps : List Nat) : State :=
  (s.byAlloc e ps).foldl (fun s q => s.promote q.1 q.2 t (some (e.id, o.id)) none) s

/-- The first completion of an EVICT: its evictions go to the tier manager; the number deferred (R242). -/
def State.startEvict (s : State) (e : Exec) (o : Op) (t : Tier) (ps : List Nat) : State × Nat :=
  (s.byAlloc e ps).foldl (fun (acc : State × Nat) q =>
    let r := acc.1.evict q.1 q.2 t (some (e.id, o.id)) none none
    (r.1, acc.2 + r.2)) (s, 0)

/-! ## CVT (R207 to R210) -/

/-- The values of a window. -/
def DInfo.vals (d : DInfo) (rd : Nat → Byte) : List FVal := (upto d.count).map (d.valAt rd)

/-- A value times 2^(-t) (R61). -/
def FVal.scaled (v : FVal) (t : Int) : FVal :=
  match v with
  | .fin neg m e => .fin neg m (e - t)
  | x => x

/-- The element's index within its tensor (R68). -/
def DInfo.tensorIndex (d : DInfo) (n : Nat) : Nat :=
  let ix := d.index n
  ix.getD 0 0 + d.e 0 * (ix.getD 1 0 + d.e 1 * (ix.getD 2 0 + d.e 2 * ix.getD 3 0))

/-- Write a window of vector sheets (R310): each vector's elements and block scales, and the headers. INT4 and INT6 elements are
encoded with the zero point given (R619), for which the layout has no byte (log entry 126). -/
def DInfo.writeVecs (d : DInfo) (zp : Nat) (md : Nat → Rnd) (ys : List FVal) : OutBytes :=
  let vb := vbytes d.fmt (d.e 0)
  let per := 65472 / max 1 vb
  let at_ (v : Nat) := d.base + 65536 * (v / per) + 0x40 + v % per * vb
  let rows := (chunks (max 1 (d.w 0)) ys).zipIdx.map fun r =>
    let bl := (chunks 32 r.1).zipIdx.map fun b =>
      let ms := (upto b.1.length).map fun k => md (r.2 * d.w 0 + 32 * b.2 + k)
      if d.fmt.isIntBlock then encodeBlockInt d.fmt (zp % 2 ^ d.fmt.bits) ms b.1 else encodeBlockFp d.fmt ms b.1
    let codes := bl.flatMap (·.codes)
    let v := d.o 1 + r.2
    (bytesAt (at_ v) (packCodes d.fmt.bits codes)
      ++ bytesAt (at_ v + d.e 0 * d.fmt.bits / 8) (bl.map fun b => BitVec.ofNat 8 b.scale), (bl.map (·.clipped)).sum)
  let heads := (((upto (d.w 1)).map fun k => (d.o 1 + k) / per).dedup).flatMap d.vecHeader
  { bytes := rows.flatMap (·.1) ++ heads, clipped := (rows.map (·.2)).sum }

/-- Write the outputs of a window in any layout that an output can have. -/
def DInfo.outputs (d : DInfo) (zp : Nat) (md : Nat → Rnd) (ys : List FVal) : OutBytes :=
  if d.layout = 5 then d.writeVecs zp md ys else d.write zp md ys

/-- The measurement of a store through a scale slot (R82, R83, R618). -/
def measureOf (d : DInfo) (vs : List FVal) (clip : Nat) : SlotMeas :=
  { slot := Fin.ofNat 64 d.slot
    amax := (vs.filterMap FVal.log2).max?
    clip, L := d.fmt.slotL }

/-- What CVT asks for at issue, or the fault that it raises. -/
def State.cvtReq (_s : State) (e : Exec) (td ts : Fin 32) (ra : Fin 64) (ev : EvSel) : Except JFault (Exec × Req) := do
  let a ← dcheck e.descs[ts] false
  let b ← dcheck e.descs[td] false
  if b.esc then throw .format
  if a.win ≠ b.win ∨ a.layout = 6 ∨ b.layout = 6 then throw .descriptor
  let t ← e.slotAt b
  pure (e, { op := { id := 0, kind := .cvt ((e.reg ra).setWidth 8), ev, a := e.descs[ts], b := e.descs[td], slotT := t }
             rds := a.pages, wrs := b.wins (issuerOf e 0) false, wins := 2, sr := decide (b.rnd = 2) })

/-- CVT (R207 to R209): equal window sizes, escapes off in td, pieces 1 in both (R139). -/
def execCvt (c : Fin 16) (p : Pred) (td ts : Fin 32) (ra : Fin 64) (ev : EvSel) (s : State) : Out :=
  .next (s.async c p [ra] fun s e => s.cvtReq e td ts ra ev)

/-- The rounding of output lane l of an operation (R62, R63, R69). -/
def rndFor (e : Exec) (o : Op) (d : DInfo) (l : Nat) : Rnd :=
  (rndOf d.rnd d.srBits e.seed e.step o.ord l).getD .rne

/-- The effect of a CVT (R208, R618, R619). Its outputs that end NaN or clipped count in FAB_NSTAT, as those of every operation of the
step do (R60; log entry 132). -/
def State.doCvt (s : State) (e : Exec) (o : Op) (zp : BitVec 8) : Except JFault Exec := do
  let a ← dinfo o.a
  let b ← dinfo o.b
  a.loadCheck (s.rdByte e)
  let vs := a.vals (s.rdByte e)
  let out := b.outputs zp.toNat (fun n => rndFor e o b (a.tensorIndex n)) (vs.map fun v => v.scaled o.slotT)
  let e := s.store e out.bytes
  let st := { e.st with
    nanOut := e.st.nanOut + vs.countP fun v => v == .nan
    clipOut := e.st.clipOut + out.clipped
    meas := if b.slotEn then measure e.st.meas (measureOf b vs out.clipped) else e.st.meas }
  pure { e with st }

end Sys2Proof.Machine
end

