-- ==== Sys2Proof/Machine/Galley.lean ====
section
/-!
DEFINITION. Engine records and Galley scans (R216 to R218, R310 to R315, R324 to R327), and Sieve's predicate trees
(R330 to R335).
-/
namespace Sys2Proof.Machine

/-! ## Records and plain windows -/

/-- Bits hi..lo of a record. -/
def rbits (r : BitVec 512) (hi lo : Nat) : Nat := bitsOf r.toNat hi lo

/-- The 64-byte record at a constant-area offset (R216); an offset outside the area fails at load. -/
def State.record (s : State) (e : Exec) (off : W32) : BitVec 512 :=
  BitVec.ofNat 512 ((s.constant e off.toNat 64).getD 0)

/-- n of an ENG variant: the register, or imm32 when rn is s0 (R216). -/
def Exec.count (e : Exec) (a : EArgs) : Nat := if a.rn = 0 then a.imm32.toNat else (e.reg a.rn).toNat

/-- A plain INT32 window (R217, R330, R335, R343); anything else raises the descriptor fault. -/
def dwords (d : Desc) : Except JFault DInfo := do
  let i ← dcheck d false
  if i.layout = 0 ∧ i.fmt = .int32 then pure i else throw .descriptor

/-- Byte k of a plain INT32 window, in the order of its elements. -/
def DInfo.byteOf (d : DInfo) (rd : Nat → Byte) (k : Nat) : Byte := rd (d.plainAddr (d.index (k / 4)) + k % 4)

/-- n bytes of a plain window from byte k. -/
def DInfo.num (d : DInfo) (rd : Nat → Byte) (k n : Nat) : Nat := leNat ((upto n).map fun i => d.byteOf rd (k + i))

/-- Write bytes from the start of a plain INT32 window (R623). -/
def DInfo.putWords (d : DInfo) (bs : List Byte) : List (Nat × Byte) :=
  bs.zipIdx.map fun b => (d.plainAddr (d.index (b.2 / 4)) + b.2 % 4, b.1)

/-- Bytes that a plain INT32 window holds. -/
def DInfo.size (d : DInfo) : Nat := 4 * d.count

/-! ## Shelf lists (R315) -/

/-- A shelf-list entry. -/
structure Shelf where
  shelf : Nat
  count : Nat
  vec : Nat
  attr : Nat
  tag : Nat
  ids : Nat
  hi : Nat
  lo : Nat
  hiSeq : Nat
  ok : Bool
  deriving DecidableEq, Repr, Inhabited

/-- A shelf-list entry's fields and whether it keeps R315. -/
def shelfOf (v : Nat) : Shelf :=
  let stock := decide (bitsOf v 31 0 = 0xFFFFFFFF)
  { shelf := bitsOf v 31 0, count := bitsOf v 55 32, vec := bitsOf v 127 64, attr := bitsOf v 191 128
    tag := bitsOf v 255 192, ids := bitsOf v 319 256, hi := bitsOf v 383 320, lo := bitsOf v 447 384
    hiSeq := bitsOf v 511 448
    ok := decide (bitsOf v 63 56 = 0 ∧ bitsOf v 79 64 = 0 ∧ bitsOf v 143 128 = 0 ∧ bitsOf v 207 192 = 0)
      && (stock || decide (bitsOf v 447 384 = 0 ∧ bitsOf v 511 448 = 0)) }

/-- The entry is the stock's (R315). -/
def Shelf.isStock (h : Shelf) : Bool := decide (h.shelf = 0xFFFFFFFF)

/-- The n entries of a shelf list at an address. -/
def shelfList (rd : Nat → Byte) (a n : Nat) : List Shelf := (upto n).map fun k => shelfOf (leNat (rdBytes rd (a + 64 * k) 64))

/-- The first sequence number of the stock region that a scan reads (R315): the index of the namespace
in which the scan's base lies; 1, the first number of all (R316), where no such index is open. -/
def State.seqBase (s : State) (e : Exec) (base : Nat) : Nat :=
  match s.execPlace e (base / 65536) with
  | .ns nsid .. => (match s.indexes.find? (fun x => decide (x.nsid = nsid)) with
    | some x => x.seqBase
    | none => 1)
  | _ => 1

/-- Attribute columns of the index (R308); 16 where the scan's base lies in no namespace. -/
def State.ncols (s : State) (e : Exec) (base : Nat) : Nat :=
  match s.execPlace e (base / 65536) with
  | .ns nsid .. => bitsOf (leNat ((upto 8).map (blkByte (s.blk nsid 0).data))) 42 38
  | _ => 16

/-- The positions of an entry that a scan streams (R326). -/
def Shelf.positions (h : Shelf) (base : Nat) : List Nat :=
  if h.isStock then (upto h.count).filter fun i => decide (h.lo ≤ base + i ∧ base + i ≤ h.hiSeq)
  else upto h.count

/-! ## Scan records (R324, R325) -/

def scanCols (r : BitVec 512) : Nat := rbits r 15 0
def scanTags (r : BitVec 512) : Bool := decide (rbits r 16 16 = 1)
def scanProbe (r : BitVec 512) : Nat := rbits r 21 17
def scanDel (r : BitVec 512) : Nat := rbits r 26 22
def scanQ (r : BitVec 512) : Nat := rbits r 44 32
def scanDim (r : BitVec 512) : Nat := rbits r 63 48

/-- Descriptor register n of an execution. -/
def Exec.descN (e : Exec) (n : Nat) : Desc := (e.descs.toList).getD n 0

/-- The descriptor registers that a record names: 0 stands for none. -/
def Exec.optDesc (e : Exec) (n : Nat) : Desc := if n = 0 then 0 else e.descN n

/-- A plain INT32 window, or none for a null one. -/
def optWords (d : Desc) : Except JFault (Option DInfo) :=
  if d = 0 then .ok none else (dwords d).map some

/-- The pages that hold bytes lo to hi - 1. -/
def pagesOf (lo hi : Nat) : List Nat := runPages [{ issuer := 0, fx := true, lo, hi }]

/-- The pages that a scan of an entry reads: vectors, columns, tags and identity entries (R310, R312). -/
def shelfPages (d : DInfo) (r : BitVec 512) (h : Shelf) : List Nat :=
  let per := 65472 / max 1 (vbytes d.fmt (d.e 0))
  let cp := (h.count + 16383) / 16384
  if h.count = 0 then []
  else
    pagesOf (d.base + h.vec) (d.base + h.vec + 65536 * ((h.count + per - 1) / per))
      ++ ((upto 16).filter fun c => decide (bitsOf (scanCols r) c c = 1)).flatMap (fun c =>
        pagesOf (d.base + h.attr + c * cp * 65536) (d.base + h.attr + c * cp * 65536 + 4 * h.count))
      ++ (if scanTags r then pagesOf (d.base + h.tag) (d.base + h.tag + 32 * h.count) else [])
      ++ pagesOf h.ids (h.ids + 16 * h.count)

/-- Arm an engine (R218): a second arm before the first has bound raises the descriptor fault. -/
def Exec.arm (e : Exec) (g : Engine) : Except JFault Exec :=
  if e.st.armed.any (fun x => x.1 == g) then .error .descriptor
  else .ok { e with st := { e.st with armed := e.st.armed ++ [(g, e.nextOp)] } }

/-- What GALLEY.SCAN asks for at issue, or the fault that it raises. -/
def State.galleyReq (s : State) (e : Exec) (a : EArgs) : Except JFault (Exec × Req) := do
  let r := s.record e a.recOff
  let n := e.count a
  let d ← dcheck e.descs[a.ta] false
  if d.layout ≠ 5 ∨ n = 0 ∨ 65536 < n then throw .descriptor
  if rbits r 31 27 ≠ 0 ∨ rbits r 47 45 ≠ 0 ∨ 2 ^ 64 ≤ r.toNat then throw .descriptor
  if scanDim r ≠ d.e 0 ∨ scanQ r = 0 ∨ 4096 < scanQ r then throw .descriptor
  let list := (e.reg a.rp).toNat
  let es := shelfList (s.rdByte e) list n
  if es.any (fun h => !h.ok) ∨ 2 ^ s.ncols e d.base ≤ scanCols r then throw .descriptor
  let pd := e.optDesc (scanProbe r)
  let dd := e.optDesc (scanDel r)
  let pw ← optWords pd
  let dw ← optWords dd
  match pw with
  | some w => if w.count ≠ 2 * n * ((scanQ r + 63) / 64) then throw .descriptor
  | none => pure ()
  match dw with
  | some w => if w.count % 8 ≠ 0 ∨ 2 ^ 23 < w.count then throw .descriptor
  | none => pure ()
  let rds := (pagesOf list (list + 64 * n) ++ es.flatMap (shelfPages d r)
    ++ (match pw with | some w => w.pages | none => []) ++ (match dw with | some w => w.pages | none => [])).dedup
  let wins := 1 + (if pw.isSome then 1 else 0) + (if dw.isSome then 1 else 0)
  let e' ← e.arm .galley
  let raw := (upto n).map fun k => bytesToBits 512 (rdBytes (s.rdByte e) (list + 64 * k) 64)
  let op : Op := { id := 0, kind := .galley n (BitVec.ofNat 64 list), ev := a.ev, a := e.descs[a.ta]
                   aux := pd :: dd :: raw, record := r }
  pure (e', { op, rds, wins })

/-- GALLEY.SCAN (R216, R324, R325). -/
def execGalleyScan (c : Fin 16) (p : Pred) (a : EArgs) (s : State) : Out :=
  .next (s.asyncList c p [a.rp, a.rn] (fun e => pagesOf (e.reg a.rp).toNat ((e.reg a.rp).toNat + 64 * e.count a)) fun s e => s.galleyReq e a)

/-! ## What a scan streams (R326, R327) -/

/-- One streamed vector: its elements and what Galley delivers beside it. seq is its sequence number: 0 in a shelf (R317). -/
structure ScanVec where
  elems : List CellElem
  object : W64
  sample : Nat
  norm : W32
  stock : Bool
  seq : Nat
  entry : Nat
  cols : List W32
  tags : BitVec 256
  deriving DecidableEq, Repr, Inhabited

/-- The checks of a vector sheet: R235's raise the descriptor fault, a sheet that is not the one
expected counts as uncorrectable data (R327). -/
def sheetExpected (d : DInfo) (rd : Nat → Byte) (h : Shelf) (sh : Nat) : Except JFault Unit := do
  let a := d.base + h.vec + 65536 * sh
  let vb := vbytes d.fmt (d.e 0)
  let per := 65472 / max 1 vb
  let hd := sheetHdr rd a
  sheetCheck d per hd
  d.escSound rd a hd
  if hd.first ≠ sh * per ∨ bitsOf hd.lspec 15 0 ≠ d.e 0 ∨ bitsOf hd.lspec 27 16 ≠ vb ∨ bitsOf hd.lspec 63 32 ≠ h.shelf
      ∨ (h.isStock ∧ bitsOf hd.lspec 127 64 ≠ 0) then
    throw .data

/-- The vectors of one entry, in position order (R326). -/
def scanEntry (d : DInfo) (rd : Nat → Byte) (r : BitVec 512) (base : Nat) (h : Shelf) (j : Nat) : List ScanVec :=
  let dd := { d with base := d.base + h.vec }
  let cp := (h.count + 16383) / 16384
  (h.positions base).map fun i =>
    let idv := leNat (rdBytes rd (h.ids + 16 * i) 16)
    { elems := (upto (d.e 0)).map fun k => dd.vecAt rd k i
      object := BitVec.ofNat 64 idv, sample := bitsOf idv 79 64, norm := BitVec.ofNat 32 (bitsOf idv 127 96)
      stock := h.isStock, seq := if h.isStock then base + i else 0, entry := j
      cols := (upto 16).map fun c =>
        if bitsOf (scanCols r) c c = 1 then BitVec.ofNat 32 (leNat (rdBytes rd (d.base + h.attr + c * cp * 65536 + 4 * i) 4)) else 0
      tags := if scanTags r then bytesToBits 256 (rdBytes rd (d.base + h.tag + 32 * i) 32) else 0 }

/-- A scan: its vectors in list order (R326), after the checks of R327. -/
def scanAll (d : DInfo) (rd : Nat → Byte) (r : BitVec 512) (base : Nat) (es : List Shelf) : Except JFault (List ScanVec) := do
  let per := 65472 / max 1 (vbytes d.fmt (d.e 0))
  es.foldlM (fun _ h =>
    (((h.positions base).map fun i => i / per).dedup).foldlM (fun _ sh => sheetExpected d rd h sh) ()) ()
  pure (es.zipIdx.flatMap fun h => scanEntry d rd r base h.1 h.2)

/-- A delete marker (R316). -/
structure Marker where
  object : Nat
  seq : Nat
  sample : Nat
  deriving DecidableEq, Repr, Inhabited

/-- The delete set's markers (R316, R325); ones that are not sorted by object and then by sample raise the descriptor fault. -/
def markers (rd : Nat → Byte) (w : Option DInfo) : Except JFault (List Marker) :=
  match w with
  | none => .ok []
  | some d =>
    let ms : List Marker := (upto (d.count / 8)).map fun k =>
      { object := d.num rd (32 * k) 8, seq := d.num rd (32 * k + 8) 8, sample := d.num rd (32 * k + 16) 2 }
    if (ms.zip (ms.drop 1)).all (fun p =>
        decide (p.1.object < p.2.object) || (decide (p.1.object = p.2.object) && decide (p.1.sample ≤ p.2.sample))) then .ok ms
    else .error .descriptor

/-- A marker matches a vector (R317). -/
def Marker.hits (m : Marker) (v : ScanVec) : Bool :=
  decide (m.object = v.object.toNat) && (decide (m.sample = 0xFFFF) || decide (m.sample = v.sample))

/-- The delete set takes a vector out: a marker of it matches the vector, with a sequence number above the vector's own, as R317
has it of a vector that is not visible (DEDUCED for R338, log entry 154). -/
def isDeleted (ms : List Marker) (v : ScanVec) : Bool := ms.any fun m => m.hits v && decide (v.seq < m.seq)

/-- Query q probes entry j: no map, or its bit; every query takes the stock (R325). -/
def isProbed (rd : Nat → Byte) (w : Option DInfo) (q j n : Nat) (stock : Bool) : Bool :=
  stock || match w with
    | none => true
    | some d => decide (bitsOf (d.num rd (8 * (((q + 63) / 64) * j + n / 64)) 8) (n % 64) (n % 64) = 1)

/-! ## Sieve predicates (R330 to R334) -/

/-- A node of the table (R331). -/
structure Node where
  op : Nat
  col : Nat
  typ : Nat
  neg : Bool
  nchild : Nat
  first : Nat
  a : W32
  b : W32
  mask : BitVec 256
  rsv : Bool
  deriving DecidableEq, Repr, Inhabited

/-- Fields of a node. -/
def nodeOf (v : Nat) : Node :=
  { op := bitsOf v 3 0, col := bitsOf v 8 4, typ := bitsOf v 10 9, neg := decide (bitsOf v 11 11 = 1)
    nchild := bitsOf v 15 12, first := bitsOf v 23 16, a := BitVec.ofNat 32 (bitsOf v 63 32)
    b := BitVec.ofNat 32 (bitsOf v 95 64), mask := BitVec.ofNat 256 (bitsOf v 511 256)
    rsv := decide (bitsOf v 31 24 ≠ 0 ∨ bitsOf v 255 96 ≠ 0) }

/-- A value as its type reads it, on one scale of whole numbers: NaN has none (R332, R333). -/
def typedKey (typ : Nat) (w : W32) : Option Int :=
  match typ with
  | 0 => some w.toNat
  | 1 => some w.toInt
  | _ =>
    (match fp32 w with
     | .nan => none
     | _ => some (orderKey .fp32 w.toNat : Int))

/-- An AND or OR node. -/
def Node.inner (x : Node) : Bool := decide (x.op ≤ 1)

/-- What Sieve can see: which columns, whether tags, whether the score (R334). -/
structure SieveView where
  cols : Nat
  tags : Bool
  score : Bool
  deriving DecidableEq, Repr, Inhabited

/-- A predicate: its nodes, its set area's words, trees, and each query's tree (R330). -/
structure Predicate where
  nodes : List Node
  set : List W32
  ntrees : Nat
  sel : List Nat
  deriving DecidableEq, Repr, Inhabited

/-- The set of a SET node. -/
def Predicate.setOf (q : Predicate) (x : Node) : List W32 := (q.set.drop x.a.toNat).take x.b.toNat

/-- A node by itself keeps R331 to R334. -/
def Predicate.nodeOk (q : Predicate) (v : SieveView) (i : Nat) (x : Node) : Bool :=
  let typed := x.op = 2 ∨ x.op = 3 ∨ x.op = 4
  !x.rsv && decide (x.op ≤ 7) && decide (x.col ≤ 16) && decide (x.typ ≤ 2)
    && (if x.inner then
          decide (2 ≤ x.nchild ∧ x.nchild ≤ 8 ∧ i < x.first ∧ x.first + x.nchild ≤ q.nodes.length)
        else decide (x.nchild = 0 ∧ x.first = 0))
    && (if x.op = 5 ∨ x.op = 6 then v.tags else true)
    && (if typed then
          (if x.col = 16 then v.score else decide (bitsOf v.cols x.col x.col = 1)) else true)
    && (if x.op = 2 then (typedKey x.typ x.a).isSome && (typedKey x.typ x.b).isSome else true)
    && (if x.op = 3 then (typedKey x.typ x.a).isSome else true)
    && (if x.op = 4 then
          let vs := (q.setOf x).map (typedKey x.typ)
          decide (1 ≤ x.b.toNat ∧ x.b.toNat ≤ 4096 ∧ vs.length = x.b.toNat) && vs.all Option.isSome
            && (vs.zip (vs.drop 1)).all (fun p => decide (p.1.getD 0 < p.2.getD 0))
        else true)

/-- Inner nodes on the longest path below a node, with fuel. -/
def Predicate.depth (q : Predicate) : Nat → Nat → Nat
  | 0, _ => 0
  | f + 1, i =>
    let x := q.nodes.getD i default
    if x.inner then 1 + ((upto x.nchild).map fun k => q.depth f (x.first + k)).foldl max 0 else 0

/-- Leaves below a node, with fuel. -/
def Predicate.leaves (q : Predicate) : Nat → Nat → Nat
  | 0, _ => 1
  | f + 1, i =>
    let x := q.nodes.getD i default
    if x.inner then ((upto x.nchild).map fun k => q.leaves f (x.first + k)).sum else 1

/-- Nodes that some tree reaches, with fuel. -/
def Predicate.reach (q : Predicate) : Nat → Nat → List Nat
  | 0, i => [i]
  | f + 1, i =>
    let x := q.nodes.getD i default
    i :: if x.inner then (upto x.nchild).flatMap fun k => q.reach f (x.first + k) else []

/-- The rules of R330 to R334 on a predicate whose trees serve `queries` queries. -/
def Predicate.ok (q : Predicate) (v : SieveView) : Bool :=
  let roots := upto q.ntrees
  decide (q.ntrees ≤ q.nodes.length)
    && (roots.flatMap (q.reach 6)).all (fun i => q.nodeOk v i (q.nodes.getD i default))
    && roots.all (fun t => decide (q.depth 6 t ≤ 4) && decide (q.leaves 6 t ≤ 16))
    && decide ((roots.map (q.leaves 6)).sum ≤ 64)
    && q.sel.all (fun t => decide (t < q.ntrees))

/-- The predicate of a record (R330): node table, set area and selector read from their windows; queries
is the number of queries or rows that the selector must cover. -/
def readPredicate (rd : Nat → Byte) (r : BitVec 512) (nd : Desc) (sd qd : Desc) (queries : Nat) : Except JFault Predicate := do
  if 2 ^ 19 ≤ r.toNat then throw .descriptor
  let n ← dwords nd
  if n.count < 16 ∨ 4096 < n.count ∨ n.count % 16 ≠ 0 then throw .descriptor
  let sw ← optWords sd
  let qw ← optWords qd
  match qw with
  | some w => if w.size < queries then throw .descriptor
  | none => pure ()
  pure {
    nodes := (upto (n.count / 16)).map fun k => nodeOf (n.num rd (64 * k) 64)
    set := match sw with | some w => (upto w.count).map fun k => BitVec.ofNat 32 (w.num rd (4 * k) 4) | none => []
    ntrees := rbits r 18 15 + 1
    sel := match qw with | some w => (upto queries).map fun k => (w.byteOf rd k).toNat | none => [] }

/-- A leaf's test on a value (R332, R333): NaN is false whatever neg says. -/
def Predicate.leaf (q : Predicate) (x : Node) (v : W32) (tags : BitVec 256) : Bool :=
  match x.op with
  | 5 => xor (decide (tags &&& x.mask ≠ 0)) x.neg
  | 6 => xor (decide (tags &&& x.mask = x.mask)) x.neg
  | 7 => !x.neg
  | _ =>
    (match typedKey x.typ v with
     | none => false
     | some k =>
       let test := match x.op with
         | 2 => decide ((typedKey x.typ x.a).getD 0 ≤ k ∧ k ≤ (typedKey x.typ x.b).getD 0)
         | 3 => decide ((typedKey x.typ x.a).getD 0 = k)
         | _ => (q.setOf x).any fun w => decide ((typedKey x.typ w).getD 0 = k)
       xor test x.neg)

/-- The value of a node on a vector (R332), with fuel. -/
def Predicate.eval (q : Predicate) (cols : List W32) (score : W32) (tags : BitVec 256) : Nat → Nat → Bool
  | 0, _ => false
  | f + 1, i =>
    let x := q.nodes.getD i default
    if x.op = 0 then xor ((upto x.nchild).all fun k => q.eval cols score tags f (x.first + k)) x.neg
    else if x.op = 1 then xor ((upto x.nchild).any fun k => q.eval cols score tags f (x.first + k)) x.neg
    else q.leaf x (if x.col = 16 then score else cols.getD x.col 0) tags

/-- Tree t's verdict on a vector (R335). -/
def Predicate.verdict (q : Predicate) (cols : List W32) (score : W32) (tags : BitVec 256) (t : Nat) : Bool :=
  q.eval cols score tags 6 t

/-- The tree of query n. -/
def Predicate.tree (q : Predicate) (n : Nat) : Nat := q.sel.getD n 0

end Sys2Proof.Machine
end

