-- ==== Sys2Proof/Machine/Shape.lean ====
section
/-!
DEFINITION. The logical array (R118 to R129): usable tiles, retired rows, gated bands and the shape in force; the fill
batch of a gang (R106, R107).
-/
namespace Sys2Proof.Machine

/-- Tiles of a physical row disabled at test: all 128 of a row left out (R119). -/
def State.badTiles (s : State) (r : Nat) : Nat :=
  if s.fab.leftOut.contains r then 128 else s.fab.bad.countP fun b => decide (b.1 = r)

/-- Tiles of a physical row fenced in service. A fence that is listed and not yet in force (R122) is not counted: the
model's choice, R125 does not say which it counts (log entry 128). -/
def State.fencedTiles (s : State) (r : Nat) : Nat := s.fab.fencesNow.countP fun f => decide (f.prow = r)

/-- Usable tiles of a physical row (R118). -/
def State.usable (s : State) (r : Nat) : Nat := 128 - s.badTiles r - s.fencedTiles r

/-- A physical row is out of the logical array: left out at test, or without enough usable tiles (R4, R121). -/
def State.rowRetired (s : State) (r : Nat) : Bool := s.fab.leftOut.contains r || decide (s.usable r < s.ident.grade.cols)

/-- The row's band is gated. -/
def State.rowGated (s : State) (r : Nat) : Bool := s.fab.gatedNow.getLsbD (r / 5)

/-- The row is in the logical array (R121, R129). -/
def State.rowIn (s : State) (r : Nat) : Bool := !(s.rowRetired r) && !(s.rowGated r)

/-- Logical rows in force. -/
def State.rows (s : State) : Nat := (upto 80).countP s.rowIn

/-- Logical number of a physical row that is in the array. -/
def State.lrow (s : State) (r : Nat) : Nat := (upto r).countP s.rowIn

/-- The physical rows of the logical array, in the order of their logical numbers (R121). -/
def State.physRows (s : State) : List Nat := (upto 80).filter s.rowIn

/-- The usable tiles of a physical row, from physical column 0 on (R118): entry x is logical column x, so that a fence
shifts every logical column at and to the right of it by one (R120). -/
def State.usableCols (s : State) (r : Nat) : List Nat :=
  (upto 128).filter fun c => !(s.fab.leftOut.contains r) && !(s.fab.bad.contains (r, c))
    && !(s.fab.fencesNow.any fun f => decide (f.prow = r) && decide (f.pcol = c))

/-- The physical tile at a logical row and column of the shape in force (R118, R120). -/
def State.tileAt (s : State) (lrow lcol : Nat) : Nat × Nat :=
  let r := s.physRows.getD lrow 0
  (r, (s.usableCols r).getD lcol 0)

/-- Physical columns that a partial-sum hop from a logical tile to the one below it crosses; the hop reaches 16 (R120). -/
def State.hopSpan (s : State) (lrow lcol : Nat) : Nat :=
  let a := (s.tileAt lrow lcol).2
  let b := (s.tileAt (lrow + 1) lcol).2
  max a b - min a b

/-- Logical tiles in force. -/
def State.tiles (s : State) : Nat := s.ident.grade.cols * s.rows

/-- The fabric clock in hertz (R128). -/
def State.fabHz (s : State) : Nat := 600000000 + s.fab.freq * 50000000

/-- The forme rate in bytes per second: as measured, else 30 TB/s (R106). -/
def State.formeRate (s : State) : Nat := s.fab.formeRate.getD 30000000000000

/-- The smallest multiple of 64 that is at least num / den. -/
def ceil64 (num den : Nat) : Nat := ((num + 64 * den - 1) / (64 * den)) * 64

/-- B_fill of an image (R106, R107): the smallest multiple of 64 that is at least 4,096 × T / S, or a capacity batch that the
image states, rounded down to a multiple of 64 but not below 64, where that is lower. -/
def State.bFill (s : State) (i : Image) : Nat :=
  let b := ceil64 (4096 * s.tiles * s.fabHz * Config.weightBits i.model) (s.formeRate * 256)
  if i.capBatch ≠ 0 ∧ i.capBatch < b then max 64 (i.capBatch / 64 * 64) else b

end Sys2Proof.Machine
end

