-- ==== Sys2Proof/Machine/Placement.lean ====
section
/-!
DEFINITION. Plans and their placement on a logical array (R160 to R166, R620): plan fields, loop orders and curves, sweeps,
K sets, K groups, panels and folds, the column trees' multicast (R95), and how long an impression takes (R100, R103).
-/
namespace Sys2Proof.Machine

/-! ## Plan records (R160) -/

def planMode (r : Nat) : Nat := bitsOf r 1 0
def planFeed (r : Nat) : Nat := bitsOf r 3 2
def planD (r : Nat) : Nat := bitsOf r 15 8
def planKt (r : Nat) : Nat := bitsOf r 23 16
def planSm (r : Nat) : Nat := bitsOf r 39 24
def planSn (r : Nat) : Nat := bitsOf r 55 40
def planCell (r : Nat) : Nat := bitsOf r 59 56
def planTile (r : Nat) : Nat := bitsOf r 63 60
def planCs (r : Nat) : Nat := bitsOf r 67 64
def planT1 (r : Nat) : Nat := bitsOf r 71 68
def planCsM (r : Nat) : Nat := bitsOf r 79 72
def planCsN (r : Nat) : Nat := bitsOf r 87 80
def planAm (r : Nat) : Nat := bitsOf r 111 88
def planList (r : Nat) : Nat := bitsOf r 128 112

/-- n / m rounded up. -/
def cdiv (n m : Nat) : Nat := (n + m - 1) / m

/-! ## Loop orders and curves (R161, R164) -/

/-- The Morton code of sub-tile (i, j): bit b of j is bit 2b, bit b of i is bit 2b + 1 (R164). -/
def mortonCode (p i j : Nat) : Nat :=
  ((upto p).map fun b => bitsOf j b b * 2 ^ (2 * b) + bitsOf i b b * 2 ^ (2 * b + 1)).sum

/-- The order-p curve from (0, 0) to (2^p − 1, 0) whose quadrants follow along j first. -/
def hilbertFrom : Nat → List (Nat × Nat)
  | 0 => [(0, 0)]
  | p + 1 =>
    let h := 2 ^ p
    let q := hilbertFrom p
    q.map (fun x => (x.2, x.1)) ++ q.map (fun x => (x.1, x.2 + h)) ++ q.map (fun x => (x.1 + h, x.2 + h))
      ++ q.map fun x => (h - 1 - x.2 + h, h - 1 - x.1)

/-- The order-p Hilbert curve that starts at (0, 0) and makes its first move along j (R164). -/
def hilbert (p : Nat) : List (Nat × Nat) :=
  if p % 2 = 1 then hilbertFrom p else (hilbertFrom p).map fun x => (x.2, x.1)

/-- The order of the smallest square grid of side 2^p that covers n × m sub-tiles (R164). -/
def curveOrder (n m : Nat) : Nat := if max n m ≤ 1 then 0 else Nat.log2 (max n m - 1) + 1

/-- Parts (m, n, k) of a level in the order of a code, outermost loop first (R161, R164); a reserved code, which fails at
load, has no parts. -/
def loopOrder (code nm nn nk : Nat) : List (Nat × Nat × Nat) :=
  let inner (ij : List (Nat × Nat)) : List (Nat × Nat × Nat) := ij.flatMap fun x => (upto nk).map fun k => (x.1, x.2, k)
  let p := curveOrder nm nn
  match code with
  | 0 => (upto nm).flatMap fun m => (upto nn).flatMap fun n => (upto nk).map fun k => (m, n, k)
  | 1 => (upto nm).flatMap fun m => (upto nk).flatMap fun k => (upto nn).map fun n => (m, n, k)
  | 2 => (upto nn).flatMap fun n => (upto nm).flatMap fun m => (upto nk).map fun k => (m, n, k)
  | 3 => (upto nn).flatMap fun n => (upto nk).flatMap fun k => (upto nm).map fun m => (m, n, k)
  | 4 => (upto nk).flatMap fun k => (upto nm).flatMap fun m => (upto nn).map fun n => (m, n, k)
  | 5 => (upto nk).flatMap fun k => (upto nn).flatMap fun n => (upto nm).map fun m => (m, n, k)
  | 6 => inner (sortBy (fun a b => decide (mortonCode p a.1 a.2 < mortonCode p b.1 b.2))
      ((upto nm).flatMap fun m => (upto nn).map fun n => (m, n)))
  | 7 => inner ((hilbert p).filter fun x => decide (x.1 < nm ∧ x.2 < nn))
  | _ => []

/-! ## Placement on a shape (R93, R97, R98, R165, R620) -/

/-- A plan placed on rows × cols tiles for a problem of gm × gn output blocks and gk chunks of K. sm is the output blocks along M
(weight-stream) or the panels (activation-stream) that one sweep places, sn its output blocks along N, vm the
output blocks along M that it covers, folds how many folds each K set or K group takes. -/
structure Place where
  mode : Nat
  rows : Nat
  cols : Nat
  d : Nat
  kt : Nat
  sm : Nat
  sn : Nat
  vm : Nat
  folds : Nat
  gm : Nat
  gn : Nat
  gk : Nat
  deriving DecidableEq, Repr, Inhabited

/-- A size field, where 0 stands for the limit (R160, R165). -/
def orLimit (f lim : Nat) : Nat := if f = 0 then lim else min f lim

/-- The placement of plan record r for an M × N × K problem (R165, R620). -/
def place (r rows cols m n k : Nat) : Place :=
  let d := max 1 (planD r)
  let rows := max 1 rows
  let fold := decide (rows < d)
  let sm := if fold then 1 else max 1 (orLimit (planSm r) (rows / d))
  let gm := cdiv m 64
  { mode := planMode r, rows, cols, d, kt := max 1 (planKt r), sm, sn := max 1 (orLimit (planSn r) cols)
    vm := max 1 (if planMode r = 0 then sm else if planAm r = 0 then gm else sm * planAm r)
    folds := if fold then cdiv d rows else 1, gm, gn := cdiv n 64, gk := cdiv k 64 }

/-- Parts of an impression along M, N and K: its sweeps (R165). -/
def Place.parts (q : Place) : Nat × Nat × Nat := (cdiv q.gm q.vm, cdiv q.gn q.sn, cdiv q.gk (q.d * q.kt))

/-- The sweeps, as parts (m, n, k), in the order of ord_t1 (R163, R165). -/
def Place.sweeps (q : Place) (ordT1 : Nat) : List (Nat × Nat × Nat) := loopOrder ordT1 q.parts.1 q.parts.2.1 q.parts.2.2

/-- The stages of a sweep of nm × nn output blocks, in the order of ord_cs, each a list of its output blocks (R160, R163). -/
def stages (ordCs csM csN nm nn : Nat) : List (List (Nat × Nat)) :=
  let a := max 1 (orLimit csM nm)
  let b := max 1 (orLimit csN nn)
  (loopOrder ordCs (cdiv nm a) (cdiv nn b) 1).map fun x =>
    (upto (min a (nm - x.1 * a))).flatMap fun i => (upto (min b (nn - x.2.1 * b))).map fun j => (x.1 * a + i, x.2.1 * b + j)

/-- Pointer-list entries that share a sweep side by side (R169): as many as its output-block positions hold, each taking the
positions of its own problem (log entry 129). -/
def Place.side (q : Place) : Nat :=
  max 1 (q.sm / max 1 (min q.gm q.sm)) * max 1 (q.sn / max 1 (min q.gn q.sn))

/-- Where entry e stands in its sweep: its first position along M (K sets or panels) and its first column. -/
def Place.slot (q : Place) (e : Nat) : Nat × Nat :=
  let across := max 1 (q.sn / max 1 (min q.gn q.sn))
  let k := e % q.side
  (k / across * min q.gm q.sm, k % across * min q.gn q.sn)

/-- The K chunks that the tile at position p takes, in the order in which it takes them: in weight-stream mode kt consecutive chunks
of each sweep (R93, R165), in activation-stream mode every d-th chunk, one for each pass over K (R97, R99). -/
def Place.chunksAt (q : Place) (p : Nat) : List Nat :=
  ((upto (cdiv q.gk (q.d * q.kt))).flatMap fun k => (upto q.kt).map fun t =>
    k * (q.d * q.kt) + (if q.mode = 0 then p * q.kt + t else t * q.d + p)).filter fun c => decide (c < q.gk)

/-- The logical row of position p of the K set or K group at position i: folded sets start at row 0 (R165, R620). -/
def Place.rowOf (q : Place) (i p : Nat) : Nat := if 1 < q.folds then p % q.rows else i * q.d + p

/-- The share of panel i of a sweep's n vectors: equal, earlier panels take any extra one (R165): first vector, count. -/
def Place.share (q : Place) (n i : Nat) : Nat × Nat :=
  (i * (n / q.sm) + min i (n % q.sm), n / q.sm + if i < n % q.sm then 1 else 0)

/-- The K set or panel position and the column of output (m, n) of entry e (R93, R98, R165). -/
def Place.position (q : Place) (rowsM e m n : Nat) : Nat × Nat :=
  let s := q.slot e
  let j := s.2 + n / 64 % q.sn
  if q.mode = 0 then (s.1 + m / 64 % q.vm, j)
  else
    let at_ := m % (64 * q.vm)
    let len := min (64 * q.vm) (rowsM - m / (64 * q.vm) * (64 * q.vm))
    let panel := ((upto q.sm).find? fun i => decide ((q.share len i).1 ≤ at_ ∧ at_ < (q.share len i).1 + (q.share len i).2)).getD 0
    (s.1 + panel, j)

/-! ## Column trees (R95) -/

/-- A weight vector on a column tree: its K chunk and the tiles of the column that take it, one bit a logical row. -/
structure Cast where
  chunk : Nat
  mask : BitVec 80
  deriving DecidableEq, Repr, Inhabited

/-- Distinct weight vectors that a column tree delivers in a fabric cycle. -/
def treeVectors : Nat := 16

/-- The vectors that a column tree carries for the chunk number t of every position of the column's K sets: one for each position,
multicast to the tiles that hold that position (R95). -/
def Place.casts (q : Place) (sets t : Nat) : List Cast :=
  (upto q.d).filterMap fun p => (q.chunksAt p)[t]?.map fun c =>
    { chunk := c, mask := (upto sets).foldl (fun m i => m ||| BitVec.twoPow 80 (q.rowOf i p)) 0 }

/-- The vectors of one step of a column in the cycles in which its tree delivers them, 16 a cycle (R95). -/
def Place.castCycles (q : Place) (sets t : Nat) : List (List Cast) := chunks treeVectors (q.casts sets t)

/-- The tile at position p of K set i takes a vector whose mask has its bit. -/
def Place.takes (q : Place) (x : Cast) (i p : Nat) : Bool := x.mask.getLsbD (q.rowOf i p)

/-! ## Duration (R100, R103) -/

/-- Units of time of the estimates in a nanosecond: a fabric cycle at 1.4 GHz is 45 of them, a CK_CS cycle at 1.8 GHz 35. -/
def unitsPerNs : Nat := 63
def fabricCycle : Nat := 45
def csCycle : Nat := 35

/-- Units that n bytes take at a rate in GB/s, rounded up. -/
def transfer (n gbs : Nat) : Nat := cdiv (n * unitsPerNs) gbs

/-- Rates in GB/s: T1 to the forme stream, and the composing store (R17, R155). -/
def t1Rate : Nat := 30000
def csRate : Nat := 14700

/-- Band boundaries that a K set or K group from logical row r on crosses, with logical row r in band r / 5 (R155). -/
def boundaries (r d : Nat) : Nat := (r + d - 1) / 5 - r / 5

/-- Cycles of the partial-sum hops of the deepest K set or group of a sweep: a cycle for each hop and 4 for each band boundary, as the
worked examples count them (R100; log entry 130). -/
def Place.hops (q : Place) : Nat :=
  let n := if q.mode = 0 then min q.sm q.gm else q.sm
  q.d - 1 + 4 * (((upto (max 1 n)).map fun i => boundaries (i * q.d) q.d).foldl max 0)

/-- Length of part i of n elements in parts of 64 × b. -/
def partLen (n b i : Nat) : Nat := min (64 * b) (n - 64 * b * i)

/-- Units of one sweep (R103), with passes runs of the streamed operand, for parts of m × n outputs and c chunks of K; bytes is what
one pass streams and rate the rate in GB/s at which it arrives. -/
def Place.sweepTime (q : Place) (passes m n c bytes rate : Nat) : Nat :=
  let perTile := min q.kt (cdiv c q.d) * q.folds
  if q.mode = 0 then
    let outs := min 64 m * min 64 n
    passes * max (min 64 n * perTile * fabricCycle) (transfer bytes rate)
      + (20 + (if q.d = 1 then 0 else 64 * cdiv outs 4096 + q.hops) + cdiv outs 64) * fabricCycle
  else
    let vs := cdiv m (max 1 q.sm)
    passes * max (vs * perTile * fabricCycle) (transfer bytes rate)
      + (12 + q.hops + cdiv (vs * min 64 n) 64) * fabricCycle

/-- Bits that 32 elements of an operand take as they stream or are loaded: their elements and, in a cell format, their
scale and zero-point byte (R48, R50). -/
def bits32 (f : Fmt) : Nat := 32 * f.bits + (if f.isIntBlock then 16 else if f.isCell then 8 else 0)

/-- What the duration of an impression depends on: its problem, passes, pieces and formats, and its pointer-list entries. -/
structure Job where
  m : Nat
  n : Nat
  k : Nat
  passes : Nat
  a : Fmt
  b : Fmt
  aSplit : Bool
  entries : Nat
  deriving DecidableEq, Repr, Inhabited

/-- Units of an impression (R103, R155, R169): the sweeps of each group of entries that share them, each with the load of its
resident operand from the composing store where the sweep before it does not hold the same one, and 64 cycles for the
first load of the shadow registers (as in the worked mapping of the plan; log entry 135). -/
def Place.time (q : Place) (ordT1 : Nat) (j : Job) : Nat :=
  let ws := decide (q.mode = 0)
  let one (acc : Option (Nat × Nat) × Nat) (x : Nat × Nat × Nat) : Option (Nat × Nat) × Nat :=
    let m := partLen j.m q.vm x.1
    let n := partLen j.n q.sn x.2.1
    let k := partLen j.k (q.d * q.kt) x.2.2
    let key := (if ws then x.1 else x.2.1, x.2.2)
    let load := if acc.1 = some key then 0
      else transfer (cdiv ((if ws then m * bits32 j.a else n * bits32 j.b) * k) 256) csRate + 64 * fabricCycle
    let bytes := if ws then cdiv (n * k * bits32 j.b) 256 else cdiv (m * k * (if j.aSplit then bits32 .e2m3 else bits32 j.a)) 256
    (some key, acc.2 + load + q.sweepTime j.passes m n (cdiv k 64) bytes (if ws then t1Rate else csRate))
  cdiv j.entries q.side * ((q.sweeps ordT1).foldl one (none, 0)).2

/-- Bytes of bank-bound outputs of 32-element width w bits that an impression converts in each tile, by 128 × logical row +
logical column (R113). -/
def Place.tileBytes (q : Place) (m n entries w : Nat) : List (Nat × Nat) :=
  let cuts : List (Nat × Nat) :=
    if q.mode = 0 then (upto (cdiv m 64)).map fun i => (64 * i, partLen m 1 i)
    else (upto (cdiv m (64 * q.vm))).flatMap fun sw => (upto q.sm).map fun i =>
      let h := q.share (partLen m q.vm sw) i
      (64 * q.vm * sw + h.1, h.2)
  (upto entries).foldl (fun acc e => cuts.foldl (fun acc c => (upto (cdiv n 64)).foldl (fun acc j =>
    let at_ := q.position m e c.1 (64 * j)
    let key := 128 * q.rowOf at_.1 (q.d - 1) + at_.2
    assocPut key ((assocGet key acc).getD 0 + cdiv (c.2 * partLen n 1 j * w) 256) acc) acc) acc) []

end Sys2Proof.Machine
end

