-- ==== Sys2Proof/Machine/Tiles.lean ====
section
/-!
DEFINITION. What the tiles do in an impression (R89 to R102, R113 to R117, R165 to R167, R620): resident blocks, the vector
loop, K sets and K groups, merges and hops with their residue checks, and the output banks.
-/
namespace Sys2Proof.Machine

/-- A row of an operand, piece by piece: its elements along K as the cells take them (R73). -/
abbrev Row := List (List CellElem)

/-! ## One vector in one tile (R80, R90, R94, R104) -/

/-- An element that a side list gave (R77). -/
def CellElem.isEsc (x : CellElem) : Bool := decide (x.u = -10)

/-- What the cells take of a slice: +0 at an escape's place (R80). -/
def cellsOf (l : List CellElem) : List CellElem := l.map fun x => if x.isEsc then { x with p := 0 } else x

/-- What the escape multipliers take of a slice (R80). -/
def escapesOf (l : List CellElem) : List CellElem := l.map fun x => if x.isEsc then x else { x with p := 0 }

/-- One vector's terms for one output in one tile: the cells' products, then the escapes' (R80, R90). -/
def Acc.slice (acc : Acc) (x y : List CellElem) : Acc :=
  if x.any CellElem.isEsc || y.any CellElem.isEsc then
    ((acc.terms (cellsOf x) (cellsOf y)).terms (escapesOf x) y).terms (cellsOf x) (escapesOf y)
  else acc.terms x y

/-- The 64 elements of chunk c of piece i of a row; those beyond the row's end are not there and read +0 (R47, R117). -/
def chunkOf (r : Row) (i c : Nat) : List CellElem := ((r.getD i []).drop (64 * c)).take 64

/-- The accumulators of a tile after it has taken its chunks of K: the chunks outermost, and for each resident block one streamed
vector after another, in weight-stream mode an output feature each, in activation-stream mode a row of A (R94, R97). -/
def tileSums (mode : Nat) (ps : List (Nat × Nat)) (xb yb : List Row) (cs : List Nat) : List (List Acc) :=
  ps.foldl (fun g q => cs.foldl (fun g c =>
    if mode = 0 then
      (upto yb.length).foldl (fun g n => (g.zip xb).map fun r =>
        r.1.modify n fun a => a.slice (chunkOf r.2 q.1 c) (chunkOf (yb.getD n []) q.2 c)) g
    else
      (upto xb.length).foldl (fun g m => g.modify m fun r =>
        (r.zip yb).map fun z => z.1.slice (chunkOf (xb.getD m []) q.1 c) (chunkOf z.2 q.2 c)) g) g)
    (xb.map fun _ => yb.map fun _ => Acc.zero)

/-! ## K merges and hops (R96, R97, R99, R102) -/

/-- Two grids of accumulators added. -/
def addGrid (a b : List (List Acc)) : List (List Acc) := List.zipWith (List.zipWith Acc.add) a b

/-- The sums that leave each tile of a K set or K group, from the top: each tile adds its own exactly to those that arrive from
above, its own first (R96, R97). Every sum stays with its own output, which is what its vector's ordinal ensures (R101). -/
def leaving (above : List (List Acc)) : List (List (List Acc)) → List (List (List Acc))
  | [] => []
  | g :: t => let a := addGrid above g; a :: leaving a t

/-- The sums of a K set or K group for some rows of A by rows of B: one grid for each of its tiles, the last the complete one. -/
def kSums (q : Place) (ps : List (Nat × Nat)) (xb yb : List Row) : List (List (List Acc)) :=
  leaving (xb.map fun _ => yb.map fun _ => Acc.zero) ((upto q.d).map fun p => tileSums q.mode ps xb yb (q.chunksAt p))

/-- A tile whose residue check failed, and whether an injection did it (R86, R102, R557). -/
structure Hit where
  prow : Nat
  pcol : Nat
  inj : Bool
  deriving DecidableEq, Repr, Inhabited

/-- The residue checkers during an impression: what is armed (R557), and which tiles have failed. -/
structure Checks where
  inj : List (Nat × (BitVec 8 × Nat))
  hits : List Hit
  deriving DecidableEq, Repr, Inhabited

/-- One checked sum of a tile (R86, R102): an armed band's shadow is XORed with its mask (R557); a NaN sum is not checked. -/
def Checks.sum (k : Checks) (t : Nat × Nat) (a : Acc) : Checks :=
  if a.nan then k
  else
    let hit (b : Bool) := if k.hits.any fun h => decide (h.prow = t.1 ∧ h.pcol = t.2) then k.hits else k.hits ++ [{ prow := t.1, pcol := t.2, inj := b }]
    match assocGet (t.1 / 5) k.inj with
    | some (m, n + 1) =>
      { inj := assocPut (t.1 / 5) (m, n) k.inj
        hits := if ({ a with res := (a.res ^^^ m.toNat) % 255 } : Acc).check then k.hits else hit true }
    | _ => if a.check then k else { k with hits := hit false }

/-- The checks of every sum that leaves a tile. -/
def Checks.grid (k : Checks) (t : Nat × Nat) (g : List (List Acc)) : Checks := g.flatten.foldl (fun k a => k.sum t a) k

/-! ## One output block, or one panel's vectors by 64 outputs -/

/-- What an impression leaves in the fabric and finds on the way. -/
structure Run where
  tiles : List (Nat × Tile)
  checks : Checks
  done : List ((Nat × Nat) × List (List Acc))
  deriving DecidableEq, Repr, Inhabited

/-- Number of a physical tile. -/
def tileKey (t : Nat × Nat) : Nat := 128 * t.1 + t.2

/-- A tile's parts; a tile that is not listed holds nothing. -/
def tileOfKey (ts : List (Nat × Tile)) (k : Nat) : Tile := (assocGet k ts).getD {}

/-- The parts of a tile that has taken the resident rows rb for its chunks cs (R89, R90, R92): the operand store holds every block of
every piece, the active registers the last one, the shadow registers the one before it. -/
def Tile.loaded (t : Tile) (rb : List Row) (pieces : Nat) (cs : List Nat) (acc : List (List Acc)) : Tile :=
  let blocks := (upto pieces).flatMap fun i => cs.map fun c => (8 * c + i, rb.map fun r => chunkOf r i c)
  let last := ((blocks.reverse)[0]?.map (·.2)).getD []
  let prev := ((blocks.reverse)[1]?.map (·.2)).getD []
  let table (b : List (List CellElem)) := (b.zipIdx.flatMap fun r => r.1.zipIdx.map fun x => (64 * r.2 + x.2, x.1)).filter fun x => x.2.isEsc
  { t with
    store := blocks.foldl (fun m b => assocPut b.1 b.2 m) t.store
    active := last.map cellsOf, shadow := prev.map cellsOf
    esc := table last, escShadow := table prev, acc }

/-- A read of a block of the operand store: one that has not been loaded since the clear reads as zero (R117). -/
def Tile.resident (t : Tile) (c i : Nat) : List (List CellElem) := (assocGet (8 * c + i) t.store).getD []

/-- A read of a word of the scratch: one that has not been written since the clear reads as zero (R117). -/
def Tile.scratchAt (t : Tile) (a : Nat) : Byte := (assocGet a t.scratch).getD 0

/-- One K set's output block, or one panel's vectors by 64 outputs: its tiles run, their sums leave from the top, and every sum that
leaves is checked (R93 to R99, R102). at is the M group and N block, pos the set or panel and the column. -/
def Run.block (r : Run) (s : State) (q : Place) (ps : List (Nat × Nat)) (at_ pos : Nat × Nat) (xb yb : List Row) : Run :=
  let outs := kSums q ps xb yb
  let tile (p : Nat) := s.tileAt (q.rowOf pos.1 p) pos.2
  let pieces := (ps.map fun x => (if q.mode = 0 then x.1 else x.2) + 1).foldl max 1
  { tiles := outs.zipIdx.foldl (fun ts g =>
      let k := tileKey (tile g.2)
      assocPut k ((tileOfKey ts k).loaded (if q.mode = 0 then xb else yb) pieces (q.chunksAt g.2) g.1) ts) r.tiles
    checks := outs.zipIdx.foldl (fun k g => k.grid (tile g.2) g.1) r.checks
    done := r.done ++ [(at_, (outs.getLast?).getD [])] }

/-! ## One entry of an impression -/

/-- The rows of A in groups, each with its K set or panel position: blocks of 64 sequences, or the panels' shares of each
sweep's vectors (R93, R98, R165). -/
def Place.mGroups (q : Place) (xs : List Row) : List (Nat × List Row) :=
  if q.mode = 0 then (chunks 64 xs).zipIdx.map fun b => (b.2 % q.vm, b.1)
  else (chunks (64 * q.vm) xs).flatMap fun sw => (upto q.sm).map fun i =>
    let h := q.share sw.length i
    (i, (sw.drop h.1).take h.2)

/-- The M groups and N blocks of an entry in the order in which they run: the sweeps in the order of ord_t1, the stages of
each in the order of ord_cs (R163, R165). -/
def Place.order (q : Place) (r groups : Nat) : List (Nat × Nat) :=
  let per := if q.mode = 0 then q.vm else q.sm
  ((q.sweeps (planT1 r)).filter fun x => decide (x.2.2 = 0)).flatMap fun x =>
    (stages (planCs r) (planCsM r) (planCsN r) (min per (groups - x.1 * per)) (min q.sn (q.gn - x.2.1 * q.sn))).flatten.map
      fun y => (x.1 * per + y.1, x.2.1 * q.sn + y.2)

/-- The complete sums of entry e, row of A by row of B, with what the entry leaves in the fabric. -/
def Run.entry (r : Run) (s : State) (rec : Nat) (q : Place) (ps : List (Nat × Nat)) (e : Nat) (xs ys : List Row) : List (List Acc) × Run :=
  let gs := q.mGroups xs
  let bs := chunks 64 ys
  let slot := q.slot e
  let run := (q.order rec gs.length).foldl (fun (r : Run) x =>
    let g := gs.getD x.1 (0, [])
    r.block s q ps x (slot.1 + g.1, slot.2 + x.2 % q.sn) g.2 (bs.getD x.2 [])) { r with done := [] }
  let at_ (i j : Nat) : List (List Acc) := ((run.done.find? fun d => d.1 == (i, j)).map (·.2)).getD []
  ((gs.zipIdx.flatMap fun g => (upto g.1.2.length).map fun m => (upto bs.length).flatMap fun j => (at_ g.2 j).getD m []), { run with done := [] })

/-! ## Output banks (R113, R114, R116, R167) -/

/-- The address ranges of a window's outputs, each with the window element that it belongs to: an element of a plain window, a
block's elements and scale, and a sheet's header with its first block. -/
def DInfo.ranges (d : DInfo) : List (Nat × Nat × Nat) :=
  if d.layout = 0 then (upto d.count).map fun n => let a := d.plainAddr (d.index n); (a, a + d.fmt.bytes, n)
  else
    (upto d.count).flatMap fun n =>
      let p := d.place (d.index n)
      let a := d.base + 65536 * p.1
      [(a + 0x40 + 4 * d.fmt.bits * p.2.1, a + 0x40 + 4 * d.fmt.bits * (p.2.1 + 1), n)
      , (a + d.fmt.metaOff + p.2.1, a + d.fmt.metaOff + p.2.1 + 1, n), (a, a + 0x40, n)]

/-- The window element whose output a byte belongs to. -/
def ownerAt (rs : List (Nat × Nat × Nat)) (va : Nat) : Nat := ((rs.find? fun r => decide (r.1 ≤ va ∧ va < r.2.1)).map (·.2.2)).getD 0

/-- Converted outputs enter a tile's working bank; where it has no room, it drains early into the step's shadow pages first
(R113, R167). The bytes that drain early are the second part of the result. -/
def Tile.convert (t : Tile) (bs : List BankByte) : Tile × List (Nat × Byte) :=
  if t.working.length + bs.length ≤ Config.bankBytes then ({ t with working := t.working ++ bs }, [])
  else ({ t with working := bs }, t.working.map fun b => (b.va, b.b))

/-- The outputs of a window enter the working banks of the tiles that converted them, in place of what the step converted for
the same addresses before; owner gives the tile of a window element. -/
def bankOutputs (ts : List (Nat × Tile)) (exec : Nat) (d : DInfo) (owner : Nat → Nat) (bs : List (Nat × Byte)) :
    List (Nat × Tile) × List (Nat × Byte) :=
  let rs := d.ranges
  let mine := bs.map fun b => (owner (ownerAt rs b.1), ({ exec, va := b.1, b := b.2 } : BankByte))
  ((mine.map (·.1)).dedup).foldl (fun acc k =>
    let r := (tileOfKey acc.1 k).convert ((mine.filter fun x => decide (x.1 = k)).map (·.2))
    (assocPut k r.1 acc.1, acc.2 ++ r.2)) (dropBytes ts exec fun va => bs.any fun b => decide (b.1 = va), [])

end Sys2Proof.Machine
end

