-- ==== Sys2Proof/Machine/Impression.lean ====
section
/-!
DEFINITION. Class IMP: impressions (R56 to R61, R72 to R75, R80, R105, R159 to R169, R211 to R215, R218, R622).
-/
namespace Sys2Proof.Machine

/-! ## Plan records (R160) -/

/-- The plan record at a plan-area offset (R211). -/
def State.plan (s : State) (e : Exec) (off : W32) : Nat :=
  match s.image? e.image with
  | some i => i.num (i.planOff + off.toNat) 64
  | none => 0

/-! ## Pointer lists (R168, R169) -/

/-- One pointer-list entry's signed offsets to A, B and C. -/
structure PEntry where
  a : Int
  b : Int
  c : Int
  deriving DecidableEq, Repr, Inhabited

/-- Read an entry's fields. -/
def pentry (v : BitVec 512) : PEntry :=
  { a := (v.extractLsb' 0 64).toInt, b := (v.extractLsb' 64 64).toInt, c := (v.extractLsb' 128 64).toInt }

/-- An offset keeps the granule of its descriptor (R168). -/
def offOk (d : DInfo) (x : Int) : Bool :=
  if d.layout = 0 then decide (x % (max 1 d.fmt.bytes : Nat) = 0) else decide (x % 65536 = 0)

/-- A descriptor moved by an entry's offset. -/
def DInfo.moved (d : DInfo) (x : Int) : DInfo := { d with base := (((d.base : Int) + x).emod (2 ^ 64)).toNat }

/-! ## Arming and binding (R218) -/

/-- The operation is fed by an impression. -/
def OpKind.fed : OpKind → Bool
  | .topk _ f _ | .argmax f | .sample f => f
  | .sieveF => true
  | _ => false

/-- The operation that has armed an engine and is not yet bound. -/
def Exec.armedOp (e : Exec) (g : Engine) : Option Op :=
  match e.st.armed.find? (fun x => x.1 == g) with
  | some x => e.st.ops.find? fun o => o.id == x.2
  | none => none

/-- Bind the operations of some engines to the impression that issues next; SIEVE.F and the Tally
operations take the record of the scan that feeds them. -/
def Exec.bind (e : Exec) (gs : List Engine) (scan : List Desc) : Exec :=
  let ids := (e.st.armed.filter fun x => gs.contains x.1).map (·.2)
  { e with st := { e.st with
    armed := e.st.armed.filter fun x => !gs.contains x.1
    ops := e.st.ops.map fun o =>
      if ids.contains o.id then { o with boundTo := some e.nextOp, aux := if o.kind.fed then o.aux ++ scan else o.aux } else o } }

/-! ## Issue -/

/-- The layouts of R212 for A and B in a mode; galley says that Galley streams A. -/
def operandOk (mode : Nat) (galley : Bool) (a b : DInfo) : Bool :=
  if mode = 0 then
    (decide (a.layout = 1) || (decide (a.layout = 0) && a.fmt.isWide)) && decide (b.layout = 4)
  else
    (decide (a.layout = 3) || (decide (a.layout = 5) && galley) || (decide (a.layout = 0) && a.fmt.isWide))
      && (decide (b.layout = 2) || (decide (b.layout = 0) && b.fmt.isWide))

/-- Dimensions 2 and 3 of a window hold one element (R159). -/
def flatOk (d : DInfo) : Bool := decide (d.w 2 = 1) && decide (d.w 3 = 1)

/-- The format rules between two operands: K at most 2^20 (R56), equal P when both are split (R75),
escapes on one operand at most and never on a split one (R80). -/
def pairFormatOk (a b : DInfo) : Bool :=
  decide (a.w 0 ≤ 2 ^ 20)
    && !(a.fmt.isWide && b.fmt.isWide && decide (a.pieces ≠ b.pieces))
    && !(a.esc && b.esc) && !(a.esc && a.fmt.isWide) && !(b.esc && b.fmt.isWide)

/-- What IMP asks for at issue, or the fault that it raises. A C in INT4 or INT6, which R37 allows to CVT only, raises
the format fault: the model's choice, no rule names the fault (log entry 131). -/
def State.impReq (s : State) (e : Exec) (x : EArgs) : Except JFault (Exec × Req) := do
  let r := s.plan e x.recOff
  let n := if x.rn = 0 then 0 else (e.reg x.rn).toNat
  if x.rn ≠ 0 ∧ (n = 0 ∨ planList r < n) then throw .bound
  let a ← dcheck e.descs[x.ta] true
  let b ← dcheck e.descs[x.tb] true
  let g := match e.armedOp .galley with
    | some o => decide (planMode r = 1) && o.a == e.descs[x.ta]
    | none => false
  if !(operandOk (planMode r) g a b) ∨ !(flatOk a) ∨ !(flatOk b) ∨ a.w 0 ≠ b.w 0 then throw .descriptor
  if !(pairFormatOk a b) then throw .format
  let list := (e.reg x.rp).toNat
  let raw := (upto n).map fun k => bytesToBits 512 (rdBytes (s.rdByte e) (list + 32 * k) 32)
  let es := if n = 0 then [{ a := 0, b := 0, c := 0 }] else raw.map pentry
  if es.any (fun q => !(offOk a q.a) || !(offOk b q.b)) then throw .descriptor
  let rds := ((if n = 0 then [] else pagesOf list (list + 32 * n))
    ++ (if g then [] else es.flatMap fun q => (a.moved q.a).pages)
    ++ es.flatMap fun q => (b.moved q.b).pages).dedup
  let op : Op := { id := 0, kind := .imp, ev := x.ev, a := e.descs[x.ta], b := e.descs[x.tb], aux := raw
                   record := BitVec.ofNat 512 r, count := n }
  let scan := match e.armedOp .galley with
    | some o => if g then [o.record] else []
    | none => []
  let joins := g && (match e.armedOp .sieve with | some o => decide (o.kind = .sieveArm) | none => false)
  let own := (if g then [Engine.galley] else []) ++ (if joins then [Engine.sieve] else [])
  if planFeed r = 0 then
    let d ← dcheck e.descs[x.tc] false
    if d.fmt.isIntBlock then throw .format
    if d.layout = 4 ∨ d.layout > 4 ∨ !(flatOk d) ∨ d.w 0 ≠ b.w 1 ∨ (!g ∧ d.w 1 ≠ a.w 1) ∨ es.any (fun q => !(offOk d q.c)) then
      throw .descriptor
    let t ← e.slotAt d
    pure (e.bind own scan,
      { op := { op with c := e.descs[x.tc], slotT := t }
        rds, wins := 3, sr := decide (d.rnd = 2), bank := true
        wrs := es.zipIdx.flatMap fun q => (d.moved q.1.c).wins (issuerOf e q.2) true })
  else
    let eng := if planFeed r = 1 then Engine.tally else Engine.sieve
    match e.armedOp eng with
    | some o =>
      if o.kind.fed then pure (e.bind (eng :: own) scan, { op, rds, wins := 2 }) else throw .descriptor
    | none => throw .descriptor

/-- IMP (R211 to R215). -/
def execImp (c : Fin 16) (p : Pred) (x : EArgs) (s : State) : Out :=
  .next (s.asyncList c p [x.rp, x.rn]
    (fun e => if x.rn = 0 then [] else pagesOf (e.reg x.rp).toNat ((e.reg x.rp).toNat + 32 * (e.reg x.rn).toNat)) fun s e => s.impReq e x)

/-! ## The operands as the cells take them -/

/-- The wide element at K index k of row r of a window. -/
def DInfo.wideAt (d : DInfo) (rd : Nat → Byte) (k r : Nat) : FVal :=
  decodeWide d.fmt (d.plainCode rd [d.o 0 + k, d.o 1 + r, d.o 2, d.o 3])

/-- The block of a wide operand that holds the element (k, r), 32 elements along bdim counted from the
window's origin (R45, R53, R73), and the element's place in it. -/
def DInfo.wideBlock (d : DInfo) (rd : Nat → Byte) (k r : Nat) : List FVal × Nat :=
  if d.bdim = 0 then
    ((upto (min 32 (d.w 0 - k / 32 * 32))).map fun i => d.wideAt rd (k / 32 * 32 + i) r, k % 32)
  else if d.bdim = 1 then
    ((upto (min 32 (d.w 1 - r / 32 * 32))).map fun i => d.wideAt rd k (r / 32 * 32 + i), r % 32)
  else ([d.wideAt rd k r], 0)

/-- Piece p of the element at K index k of row r; a cell-format operand is its own single piece. -/
def DInfo.cell (d : DInfo) (rd : Nat → Byte) (p k r : Nat) : CellElem :=
  if d.layout = 0 then
    let b := d.wideBlock rd k r
    ((Sys2Proof.Machine.pieces ((pieceCount d.pieces).getD 1) b.1).getD p []).getD b.2 default
  else if d.layout = 5 then d.vecAt rd (d.o 0 + k) (d.o 1 + r)
  else d.cellAt rd [d.o 0 + k, d.o 1 + r, d.o 2, d.o 3]

/-- Pieces of an operand: P of a wide one, otherwise 1. -/
def DInfo.pieceN (d : DInfo) : Nat := if d.fmt.isWide then (pieceCount d.pieces).getD 1 else 1

/-- Row r of an operand, piece by piece. -/
def DInfo.row (d : DInfo) (rd : Nat → Byte) (r : Nat) : Row :=
  (upto d.pieceN).map fun p => (upto (d.w 0)).map fun k => d.cell rd p k r

/-- The passes of an impression: pairs of pieces (i, j), counted from 0 (R75). -/
def passes (a b : DInfo) : List (Nat × Nat) :=
  ((upto a.pieceN).flatMap fun i => (upto b.pieceN).map fun j => (i, j)).filter fun q =>
    !(a.fmt.isWide && b.fmt.isWide) || decide (q.1 + q.2 + 1 ≤ a.pieceN)

/-- A resident block of 64 × 64 elements holds at most 1,024 escapes (R105). -/
def DInfo.escFit (d : DInfo) (rd : Nat → Byte) : Bool :=
  if d.esc && decide (d.fmt = .fp4) then
    (upto (chunksOf (d.w 0))).all fun ci => (upto (chunksOf (d.w 1))).all fun cj =>
      let hits := (upto (min 64 (d.w 0 - 64 * ci))).map fun i => (upto (min 64 (d.w 1 - 64 * cj))).countP fun j =>
        let q := d.place [d.o 0 + 64 * ci + i, d.o 1 + 64 * cj + j, d.o 2, d.o 3]
        decide (areaCode 4 rd (d.base + 65536 * q.1 + 0x40) (32 * q.2.1 + q.2.2) = 8)
      decide (hits.sum ≤ 1024)
  else true

/-! ## The effect of an impression -/

/-- A plain fed element (R622). -/
def plainFed (pos : Nat) (v : W32) : FedElem := { val := v, object := BitVec.ofNat 64 pos }

/-- Swap rows and columns of a grid whose rows have n elements. -/
def flipGrid {α : Type} [Inhabited α] (n : Nat) (g : List (List α)) : List (List α) :=
  (upto n).map fun j => g.map fun r => r.getD j default

/-- Count what FAB_NSTAT records (R60). An output counts in nan_out when its own nan flag is set: an output that only
shares a block with such a one does not (the model's choice, log entry 132). -/
def StepSt.countOut (st : StepSt) (accs : List Acc) (clipped : Nat) : StepSt :=
  { st with
    nanOut := st.nanOut + accs.countP fun a => a.nan
    dropOut := st.dropOut + accs.countP fun a => a.drop
    clipOut := st.clipOut + clipped }

/-- Clipped outputs of a fed impression: what FP32 could not hold. No descriptor gives such outputs a sat bit; the model takes
sat = 0 of R64 (log entry 133). -/
def fedClips (accs : List Acc) : Nat := accs.countP fun a => (encodeWide .fp32 .rne false (a.out 0)).2

/-- The rows of A that an entry multiplies: the scan's vectors where Galley streams (R326), else the
window's. -/
def streamed (s : State) (e : Exec) (a : DInfo) (o : Op) : Except JFault (Option (List ScanVec)) := do
  match e.st.ops.find? (fun q => q.boundTo == some o.id && (match q.kind with | .galley .. => true | _ => false)) with
  | none => pure none
  | some q =>
    let es := (q.aux.drop 2).map fun v => shelfOf v.toNat
    let vs ← scanAll a (s.rdByte e) q.record (s.seqBase e a.base) es
    pure (some vs)

/-- The predicate of a SIEVE.ARM that has joined an impression's scan, with its columns (R330, R334). -/
def joined (s : State) (e : Exec) (o : Op) (rows : Nat) : Except JFault (Option Predicate) := do
  match e.st.ops.find? (fun q => q.boundTo == some o.id && q.kind == .sieveArm),
        e.st.ops.find? (fun q => q.boundTo == some o.id && (match q.kind with | .galley .. => true | _ => false)) with
  | some q, some g =>
    let pr ← readPredicate (s.rdByte e) q.record (q.aux.getD 0 0) (q.aux.getD 1 0) (q.aux.getD 2 0) rows
    if pr.ok { cols := scanCols g.record, tags := scanTags g.record, score := false } then pure (some pr)
    else throw .descriptor
  | _, _ => pure none

/-- A vector of a scan as row n's engine is fed with it (R326, R338). -/
def scanFed (rd : Nat → Byte) (g : Op) (pw : Option DInfo) (ms : List Marker) (pr : Option Predicate)
    (n : Nat) (v : ScanVec) (w : W32) : FedElem :=
  { val := w, scan := true, object := v.object, sample := v.sample, norm := v.norm, stock := v.stock
    probed := isProbed rd pw (scanQ g.record) v.entry n v.stock
    deleted := isDeleted ms v
    verdict := (match pr with | some p => p.verdict v.cols 0 v.tags (p.tree n) | none => true)
    cols := v.cols, tags := v.tags }

/-- The rows that an impression delivers to its engine (R622). -/
def feedRows (s : State) (e : Exec) (o : Op) (act : Bool) (vs : Option (List ScanVec)) (grids : List (List (List Acc)))
    (nB : Nat) : Except JFault (List (List FedElem)) := do
  let rows := if act then grids.flatMap (flipGrid nB) else grids.flatten
  let vals := rows.map fun r => r.map fun a => toFp32 (a.out 0)
  match vs with
  | none => pure (vals.map fun r => r.zipIdx.map fun x => plainFed x.2 x.1)
  | some vs =>
    let rd := s.rdByte e
    match e.st.ops.find? (fun q => q.boundTo == some o.id && (match q.kind with | .galley .. => true | _ => false)) with
    | none => pure []
    | some g =>
      let pw ← optWords (g.aux.getD 0 0)
      let dw ← optWords (g.aux.getD 1 0)
      let ms ← markers rd dw
      let pr ← joined s e o rows.length
      pure (vals.zipIdx.map fun r => (r.1.zip vs).map fun x => scanFed rd g pw ms pr r.2 x.2 x.1)

/-- What an impression leaves: the execution, the tiles' parts, what is left of the injections, and the tiles whose residue
checks failed. -/
structure ImpDone where
  ex : Exec
  tiles : List (Nat × Tile)
  checks : Checks
  deriving DecidableEq, Repr

/-- The impression's effect in the fabric and the tiles (R93 to R102, R113, R165, R168, R169), when it completes. -/
def State.doImp (s : State) (e : Exec) (o : Op) : Except JFault ImpDone := do
  let rd := s.rdByte e
  let a ← dcheck o.a true
  let b ← dcheck o.b true
  let r := o.record.toNat
  let act := decide (planMode r = 1)
  let es := if o.count = 0 then [{ a := 0, b := 0, c := 0 }] else o.aux.map pentry
  let vs ← streamed s e a o
  es.foldlM (fun _ q => do
    if vs.isNone then (a.moved q.a).loadCheck rd
    (b.moved q.b).loadCheck rd
    if !((if act then b.moved q.b else a.moved q.a).escFit rd) then throw .escape) ()
  let ps := passes a b
  let m := match vs with | some l => l.length | none => a.w 1
  let q := place r s.rows s.ident.grade.cols m (b.w 1) (a.w 0)
  let run0 : Run := { tiles := s.fab.clearAcc.tiles, checks := { inj := s.flt.inj, hits := [] }, done := [] }
  let all := es.zipIdx.foldl (fun (acc : List (List (List Acc)) × Run) x =>
    let xs := match vs with
      | some l => l.map fun v => [v.elems]
      | none => (upto (a.w 1)).map ((a.moved x.1.a).row rd)
    let g := acc.2.entry s r q ps x.2 xs ((upto (b.w 1)).map ((b.moved x.1.b).row rd))
    (acc.1 ++ [g.1], g.2)) ([], run0)
  let grids := all.1
  let run := all.2
  let accs := (grids.flatten).flatten
  let e := { e with st := { e.st with formed := e.st.formed || !act } }
  if planFeed r = 0 then
    let d ← dcheck o.c false
    if vs.isSome ∧ grids.any (fun g => g.length ≠ d.w 1) then throw .descriptor
    let outs := (es.zip grids).zipIdx.map fun x =>
      (x.2, d.moved x.1.1.c, (d.moved x.1.1.c).outputs 0 (fun i => rndFor e o d (x.2 * 2 ^ 32 + i)) (x.1.2.flatten.map fun v => v.out o.slotT))
    let owner (k n : Nat) : Nat :=
      let at_ := q.position m k (n / max 1 (d.w 0)) (n % max 1 (d.w 0))
      tileKey (s.tileAt (q.rowOf at_.1 (q.d - 1)) at_.2)
    let banks := outs.foldl (fun (acc : List (Nat × Tile) × List (Nat × Byte)) x =>
      let k := bankOutputs acc.1 e.id x.2.1 (owner x.1) x.2.2.bytes
      (k.1, acc.2 ++ k.2)) (run.tiles, [])
    let clipped := (outs.map (·.2.2.clipped)).sum
    let st := e.st.countOut accs clipped
    let e := { e with st := { st with
      meas := if d.slotEn then measure st.meas (measureOf d (accs.map fun v => v.out 0) clipped) else st.meas } }
    pure { ex := s.store e banks.2, tiles := banks.1, checks := run.checks }
  else
    let rows ← feedRows s e o act vs grids (b.w 1)
    let ids := (e.st.ops.filter fun q => q.boundTo == some o.id && q.kind.fed).map (·.id)
    let st := e.st.countOut accs (fedClips accs)
    pure { ex := { e with st := { st with fed := st.fed ++ ids.map fun i => (i, rows) } }, tiles := run.tiles, checks := run.checks }

end Sys2Proof.Machine
end

