-- ==== Sys2Proof/Machine/Sieve.lean ====
section
/-!
DEFINITION. Sieve's invocations: SIEVE.ARM, SIEVE.EVAL and SIEVE.F (R216 to R218, R330 to R335).
-/
namespace Sys2Proof.Machine

/-- The descriptors that a predicate record names: node table, set area, tree selector (R330). -/
def Exec.predDescs (e : Exec) (r : BitVec 512) : List Desc :=
  [e.descN (rbits r 4 0), e.optDesc (rbits r 9 5), e.optDesc (rbits r 14 10)]

/-- The windows that a predicate reads, each a plain INT32 window (R330). -/
def predWindows (ds : List Desc) : Except JFault (List DInfo) := do
  let n ← dwords (ds.getD 0 0)
  let sw ← optWords (ds.getD 1 0)
  let qw ← optWords (ds.getD 2 0)
  pure (n :: (sw.toList ++ qw.toList))

/-- Pages of a list of windows. -/
def pagesAll (ws : List DInfo) : List Nat := (ws.flatMap DInfo.pages).dedup

/-- What SIEVE.ARM asks for at issue, or the fault that it raises. -/
def State.sieveArmReq (s : State) (e : Exec) (a : EArgs) : Except JFault (Exec × Req) := do
  let r := s.record e a.recOff
  let ws ← predWindows (e.predDescs r)
  let e' ← e.arm .sieve
  pure (e', { op := { id := 0, kind := .sieveArm, ev := a.ev, aux := e.predDescs r, record := r }
              rds := pagesAll ws, wins := ws.length })

/-- SIEVE.ARM: it joins the step's Galley scan (R218). -/
def execSieveArm (c : Fin 16) (p : Pred) (a : EArgs) (s : State) : Out :=
  .next (s.async c p [] fun s e => s.sieveArmReq e a)

/-- The attribute window of SIEVE.EVAL: a plain INT32 window of rank 2 (R335). -/
def attrWindow (d : Desc) : Except JFault DInfo := do
  let i ← dwords d
  if i.rank = 2 then pure i else throw .descriptor

/-- What SIEVE.EVAL asks for at issue, or the fault that it raises. -/
def State.sieveEvalReq (s : State) (e : Exec) (a : EArgs) : Except JFault (Exec × Req) := do
  let r := s.record e a.recOff
  let ws ← predWindows (e.predDescs r)
  let i ← attrWindow e.descs[a.ta]
  let o ← dwords e.descs[a.tc]
  if o.count < (i.w 0 + 1) / 2 then throw .descriptor
  pure (e, { op := { id := 0, kind := .sieveEval, ev := a.ev, a := e.descs[a.ta], c := e.descs[a.tc], aux := e.predDescs r, record := r }
             rds := (pagesAll ws ++ i.pages).dedup, wrs := o.wins (issuerOf e 0) true, wins := ws.length + 2 })

/-- SIEVE.EVAL. -/
def execSieveEval (c : Fin 16) (p : Pred) (a : EArgs) (s : State) : Out :=
  .next (s.async c p [] fun s e => s.sieveEvalReq e a)

/-- What SIEVE.F asks for at issue, or the fault that it raises. -/
def State.sieveFReq (s : State) (e : Exec) (a : EArgs) : Except JFault (Exec × Req) := do
  let r := s.record e a.recOff
  let ws ← predWindows (e.predDescs r)
  let o ← dwords e.descs[a.tc]
  let e' ← e.arm .sieve
  pure (e', { op := { id := 0, kind := .sieveF, ev := a.ev, c := e.descs[a.tc], aux := e.predDescs r, record := r }
              rds := pagesAll ws, wrs := o.wins (issuerOf e 0) true, wins := ws.length + 1 })

/-- SIEVE.F: it arms Sieve for the scores of an impression (R218). -/
def execSieveF (c : Fin 16) (p : Pred) (a : EArgs) (s : State) : Out :=
  .next (s.async c p [] fun s e => s.sieveFReq e a)

/-- A list of bits, first bit lowest. -/
def bitsNat : List Bool → Nat
  | [] => 0
  | b :: t => (if b then 1 else 0) + 2 * bitsNat t

/-- The columns that SIEVE.EVAL's window holds, one bit each. -/
def evalCols (i : DInfo) : Nat := bitsNat ((upto 16).map fun c => decide (i.o 1 ≤ c ∧ c < i.o 1 + i.w 1))

/-- The 16-bit verdict of one vector: bit t is tree t's (R335). -/
def Predicate.verdicts (q : Predicate) (cols : List W32) : Nat :=
  bitsNat ((upto q.ntrees).map fun t => q.verdict cols 0 0 t)

/-- The effect of SIEVE.EVAL: two verdicts in each word (R335). -/
def State.doSieveEval (s : State) (e : Exec) (o : Op) : Except JFault Exec := do
  let rd := s.rdByte e
  let i ← attrWindow o.a
  let out ← dwords o.c
  let q ← readPredicate rd o.record (o.aux.getD 0 0) (o.aux.getD 1 0) (o.aux.getD 2 0) 0
  if !(q.ok { cols := evalCols i, tags := false, score := false }) then throw .descriptor
  let cols (v : Nat) : List W32 := (upto 16).map fun c =>
    if bitsOf (evalCols i) c c = 1 then BitVec.ofNat 32 (leNat (rdBytes rd (i.plainAddr [i.o 0 + v, c]) 4)) else 0
  let vs := (upto (i.w 0)).map fun v => q.verdicts (cols v)
  let bytes := (chunks 2 vs).flatMap fun w => leBytes 4 (w.getD 0 0 + 65536 * w.getD 1 0)
  pure (s.store e (out.putWords bytes))

/-- The view of SIEVE.F: the score, and a scan's columns and tags when one feeds it (R334). -/
def fedView (scan : List Desc) : SieveView :=
  match scan with
  | [] => { cols := 0, tags := false, score := true }
  | r :: _ => { cols := scanCols r, tags := scanTags r, score := true }

/-- The effect of SIEVE.F: one bit per fed element in row-major order (R335). -/
def State.doSieveF (s : State) (e : Exec) (o : Op) : Except JFault Exec := do
  let out ← dwords o.c
  let rows := (assocGet o.id e.st.fed).getD []
  let q ← readPredicate (s.rdByte e) o.record (o.aux.getD 0 0) (o.aux.getD 1 0) (o.aux.getD 2 0) rows.length
  if !(q.ok (fedView (o.aux.drop 3))) then throw .descriptor
  let bits := rows.zipIdx.flatMap fun r => r.1.map fun x => q.verdict x.cols x.val x.tags (q.tree r.2)
  if out.count < (bits.length + 31) / 32 then throw .descriptor
  pure (s.store e (out.putWords ((chunks 32 bits).flatMap fun w => leBytes 4 (bitsNat w))))

end Sys2Proof.Machine
end

