-- ==== Sys2Proof/Machine/Tally.lean ====
section
/-!
DEFINITION. Tally: top-k selection with ledgers, argmax, histograms (R337 to R346, R622, R623) and token sampling
(R367 to R371).
-/
namespace Sys2Proof.Machine

/-! ## Selection records (R340) -/

/-- The fields of a selection record. -/
structure SelRec where
  smallest : Bool
  ktype : Nat
  sumEn : Bool
  tSum : Nat
  ledger : Nat
  l2 : Bool
  rows : Nat
  len : Nat
  rsv : Bool
  deriving DecidableEq, Repr, Inhabited

def selRec (r : BitVec 512) : SelRec :=
  { smallest := decide (rbits r 0 0 = 1), ktype := rbits r 2 1, sumEn := decide (rbits r 3 3 = 1)
    tSum := rbits r 8 4, ledger := rbits r 10 9, l2 := decide (rbits r 11 11 = 1), rows := rbits r 31 16
    len := rbits r 63 32, rsv := decide (rbits r 15 12 ≠ 0 ∨ 2 ^ 64 ≤ r.toNat) }

/-- The format that ktype names (R340). -/
def ktypeFmt (k : Nat) : Fmt :=
  match k with
  | 0 => .fp32 | 1 => .fp16 | 2 => .bf16 | _ => .int32

/-- The record's own rules (R340): rows, length, format and metric. -/
def SelRec.ok (r : SelRec) (fed : Bool) : Bool :=
  !r.rsv && decide (1 ≤ r.rows ∧ r.rows ≤ 16384)
    && (if fed then decide (r.len = 0 ∧ r.ktype = 0) else decide (1 ≤ r.len) && !r.l2)

/-- A plain input window (R340): layout 0x0, the format that ktype names, exactly rows × len values. -/
def plainInput (d : Desc) (f : Fmt) : Except JFault DInfo := do
  let i ← dcheck d false
  if i.layout = 0 ∧ i.fmt = f then pure i else throw .descriptor

/-- An output window of at least n bytes, plain INT32 (R623). -/
def outWindow (d : Desc) (n : Nat) : Except JFault DInfo := do
  let i ← dwords d
  if n ≤ i.size then pure i else throw .descriptor

/-! ## Issue -/

/-- What TOPK asks for at issue, or the fault that it raises. -/
def State.topkReq (s : State) (e : Exec) (a : EArgs) (fed merge : Bool) : Except JFault (Exec × Req) := do
  let r := s.record e a.recOff
  let x := selRec r
  let k := e.count a
  if k = 0 ∨ 16384 < k ∨ !(x.ok fed) ∨ 16777216 < x.rows * k then throw .descriptor
  let ins ← if fed then pure [] else do
    let i ← plainInput e.descs[a.ta] (ktypeFmt x.ktype)
    if i.count ≠ x.rows * x.len then throw .descriptor
    pure [i]
  let prev ← if merge then do
      let i ← dwords e.descs[a.tb]
      if i.size = 0 ∨ i.size % (x.rows * 16) ≠ 0 then throw .descriptor
      pure [i]
    else pure []
  let out ← outWindow e.descs[a.tc] (x.rows * k * 16)
  let sd := if x.sumEn then e.descN x.tSum else 0
  let sums ← if x.sumEn then do
      let i ← outWindow sd (x.rows * 32)
      pure [i]
    else pure []
  let e' ← if fed then e.arm .tally else pure e
  pure (e', { op := { id := 0, kind := .topk k fed merge, ev := a.ev, a := e.descs[a.ta], b := e.descs[a.tb]
                      c := e.descs[a.tc], aux := [sd], record := r }
              rds := pagesAll (ins ++ prev)
              wrs := (out :: sums).flatMap fun w => w.wins (issuerOf e 0) true
              wins := ins.length + prev.length + 1 + sums.length })

/-- TOPK in its four forms (R216, R340 to R344). -/
def State.tallyTopk (s : State) (c : Fin 16) (p : Pred) (a : EArgs) (fed merge : Bool) : State :=
  s.async c p [a.rn] fun s e => s.topkReq e a fed merge

def execTallyTopk (c : Fin 16) (p : Pred) (a : EArgs) (s : State) : Out := .next (s.tallyTopk c p a false false)
def execTallyTopkF (c : Fin 16) (p : Pred) (a : EArgs) (s : State) : Out := .next (s.tallyTopk c p a true false)
def execTallyTopkM (c : Fin 16) (p : Pred) (a : EArgs) (s : State) : Out := .next (s.tallyTopk c p a false true)
def execTallyTopkFm (c : Fin 16) (p : Pred) (a : EArgs) (s : State) : Out := .next (s.tallyTopk c p a true true)

/-- What ARGMAX asks for at issue, or the fault that it raises. -/
def State.argmaxReq (s : State) (e : Exec) (a : EArgs) (fed : Bool) : Except JFault (Exec × Req) := do
  let r := s.record e a.recOff
  let x := selRec r
  if !(x.ok fed) then throw .descriptor
  let ins ← if fed then pure [] else do
    let i ← plainInput e.descs[a.ta] (ktypeFmt x.ktype)
    if i.count ≠ x.rows * x.len then throw .descriptor
    pure [i]
  let out ← outWindow e.descs[a.tc] (x.rows * 4)
  let e' ← if fed then e.arm .tally else pure e
  pure (e', { op := { id := 0, kind := .argmax fed, ev := a.ev, a := e.descs[a.ta], c := e.descs[a.tc], record := r }
              rds := pagesAll ins, wrs := out.wins (issuerOf e 0) true, wins := ins.length + 1 })

/-- ARGMAX in its two forms (R345). -/
def State.tallyArgmax (s : State) (c : Fin 16) (p : Pred) (a : EArgs) (fed : Bool) : State :=
  s.async c p [] fun s e => s.argmaxReq e a fed

def execTallyArgmax (c : Fin 16) (p : Pred) (a : EArgs) (s : State) : Out := .next (s.tallyArgmax c p a false)
def execTallyArgmaxF (c : Fin 16) (p : Pred) (a : EArgs) (s : State) : Out := .next (s.tallyArgmax c p a true)

/-- The rules of a histogram record with n bins (R346). -/
def histOk (r : BitVec 512) (n : Nat) : Bool :=
  decide (rbits r 31 8 = 0 ∧ r.toNat < 2 ^ 96)
    && (if rbits r 0 0 = 1 then decide (2 ^ Nat.log2 n = n)
        else match decodeFloat .fp32 (rbits r 63 32), decodeFloat .fp32 (rbits r 95 64) with
          | .fin sl ml el, .fin sh mh eh => dyLt (signed sl ml) el (signed sh mh) eh
          | _, _ => false)

/-- What HIST asks for at issue, or the fault that it raises. -/
def State.histReq (s : State) (e : Exec) (a : EArgs) : Except JFault (Exec × Req) := do
  let r := s.record e a.recOff
  let n := e.count a
  if n = 0 ∨ 65536 < n ∨ !(histOk r n) then throw .descriptor
  let i ← plainInput e.descs[a.ta] (ktypeFmt (rbits r 2 1))
  let out ← outWindow e.descs[a.tc] (8 * (n + 3))
  pure (e, { op := { id := 0, kind := .hist n, ev := a.ev, a := e.descs[a.ta], c := e.descs[a.tc], record := r }
             rds := i.pages, wrs := out.wins (issuerOf e 0) true, wins := 2 })

/-- HIST (R346). -/
def execTallyHist (c : Fin 16) (p : Pred) (a : EArgs) (s : State) : Out :=
  .next (s.async c p [a.rn] fun s e => s.histReq e a)

def smpRows (r : BitVec 512) : Nat := rbits r 31 16
def smpVocab (r : BitVec 512) : Nat := rbits r 63 32

/-- What SAMPLE asks for at issue, or the fault that it raises. -/
def State.sampleReq (s : State) (e : Exec) (a : EArgs) (fed : Bool) : Except JFault (Exec × Req) := do
  let r := s.record e a.recOff
  if rbits r 15 5 ≠ 0 ∨ 2 ^ 64 ≤ r.toNat ∨ smpRows r = 0 ∨ 16384 < smpRows r ∨ smpVocab r < 2 ∨ 1048576 < smpVocab r then
    throw .descriptor
  let ins ← if fed then pure [] else do
    let i ← plainInput e.descs[a.ta] .fp32
    if i.count ≠ smpRows r * smpVocab r then throw .descriptor
    pure [i]
  let rw ← outWindow (e.descN (rbits r 4 0)) (smpRows r * 32)
  let out ← outWindow e.descs[a.tc] (smpRows r * 16)
  let e' ← if fed then e.arm .tally else pure e
  pure (e', { op := { id := 0, kind := .sample fed, ev := a.ev, a := e.descs[a.ta], c := e.descs[a.tc]
                      aux := [e.descN (rbits r 4 0)], record := r }
              rds := pagesAll (ins ++ [rw]), wrs := out.wins (issuerOf e 0) true, wins := ins.length + 2 })

/-- SAMPLE in its two forms (R367). -/
def State.tallySample (s : State) (c : Fin 16) (p : Pred) (a : EArgs) (fed : Bool) : State :=
  s.async c p [] fun s e => s.sampleReq e a fed

def execTallySample (c : Fin 16) (p : Pred) (a : EArgs) (s : State) : Out := .next (s.tallySample c p a false)
def execTallySampleF (c : Fin 16) (p : Pred) (a : EArgs) (s : State) : Out := .next (s.tallySample c p a true)

/-! ## Order of scores (R339) -/

/-- a < b among scores that are not NaN; -0 equals +0. -/
def FVal.lt (a b : FVal) : Bool :=
  match a, b with
  | .fin s m e, .fin t n f => dyLt (signed s m) e (signed t n) f
  | .inf s, .inf t => s && !t
  | .inf s, .fin .. => s
  | .fin .., .inf t => !t
  | _, _ => false

def FVal.isNan : FVal → Bool
  | .nan => true
  | _ => false

/-- A candidate of a row's selection: its score, its 80-bit global index, and its record's fields. -/
structure Cand where
  val : FVal
  score : W32
  object : W64
  sample : Nat
  stock : Bool := false
  reranked : Bool := false
  old : Bool := false
  deriving DecidableEq, Repr, Inhabited

/-- The 80-bit global index (R339). -/
def Cand.gidx (c : Cand) : Nat := c.object.toNat * 65536 + c.sample

/-- Better score under the record's order bit. -/
def scoreBetter (smallest : Bool) (a b : FVal) : Bool := if smallest then a.lt b else b.lt a

/-- Equal scores. -/
def scoreEq (a b : FVal) : Bool := !(a.lt b) && !(b.lt a)

/-- R339's order; candidates that it leaves equal keep the order of the list. -/
def candBetter (smallest : Bool) (a b : Cand) : Bool :=
  scoreBetter smallest a.val b.val ||
    (scoreEq a.val b.val && (decide (a.gidx < b.gidx) || (decide (a.gidx = b.gidx) && a.old && !b.old)))

/-! ## Scores (R337, R341) -/

/-- A plain value as an FP32 score: FP16 and BF16 convert exactly; an INT32 value that FP32 cannot hold has
no stated score and takes a free one (log entry 30). -/
def plainScore (f : Fmt) (code : Nat) : W32 :=
  let v := decodeWide f code
  let w := toFp32 v
  if f = .int32 ∧ !(scoreEq (fp32 w) v) then (Config.freeWord code).setWidth 32 else w

/-- The score of a fed element (R337): 2d - ‖x‖² rounded once under L2, d otherwise. -/
def fedScore (l2 : Bool) (x : FedElem) : W32 :=
  if !l2 then x.val
  else match fp32 x.val, fp32 x.norm with
    | .fin s m e, .fin t n f =>
      let d := dySub (signed s m) (e + 1) (signed t n) f
      toFp32 (.fin (decide (d.1 < 0)) d.1.natAbs d.2)
    | .inf s, .fin .. => toFp32 (.inf s)
    | .fin .., .inf t => toFp32 (.inf !t)
    | .inf s, .inf t => if s = t then toFp32 .nan else toFp32 (.inf s)
    | _, _ => toFp32 .nan

/-- The reserved object identifier (R314). -/
def noObject : W64 := 0xFFFFFFFFFFFFFFFF#64

/-- R338: the element is offered. -/
def FedElem.offered (x : FedElem) : Bool :=
  !x.scan || (x.probed && !x.deleted && x.object != noObject && x.verdict)

/-- What R344 counts as filtered: withheld for another reason than probing. -/
def FedElem.filtered (x : FedElem) : Bool := x.scan && x.probed && !x.offered

/-- A fed element as a candidate. -/
def FedElem.cand (l2 : Bool) (x : FedElem) : Cand :=
  let w := fedScore l2 x
  { val := fp32 w, score := w, object := x.object, sample := x.sample, stock := x.stock }

/-- A plain value as a candidate. -/
def plainCand (f : Fmt) (pos code : Nat) : Cand :=
  { val := decodeWide f code, score := plainScore f code, object := BitVec.ofNat 64 pos, sample := 0 }

/-- The offers of each row of an operation, and how many were filtered. -/
def State.offers (s : State) (e : Exec) (o : Op) (x : SelRec) (fed : Bool) : Except JFault (List (List Cand × Nat)) := do
  if fed then
    let rows := (assocGet o.id e.st.fed).getD []
    if rows.length ≠ x.rows ∨ (x.l2 ∧ rows.any fun r => r.any fun y => !y.scan) then throw .descriptor
    pure (rows.map fun r => ((r.filter FedElem.offered).map (FedElem.cand x.l2), r.countP FedElem.filtered))
  else
    let f := ktypeFmt x.ktype
    let i ← plainInput o.a f
    pure ((upto x.rows).map fun r =>
      ((upto x.len).map fun k => plainCand f k (i.plainCode (s.rdByte e) (i.index (r * x.len + k))), 0))

/-! ## Result records (R341, R342) -/

/-- A result record. -/
def Cand.word (c : Cand) (tie : Bool) : Nat :=
  c.object.toNat + c.score.toNat * 2 ^ 64 + c.sample * 2 ^ 96 + (if c.stock then 2 ^ 113 else 0)
    + (if c.reranked then 2 ^ 114 else 0) + (if tie then 2 ^ 115 else 0)

/-- An empty record (R342). -/
def emptyRecord : Nat := 0xFFFFFFFFFFFFFFFF + 0x7FC00000 * 2 ^ 64 + 0xFFFF * 2 ^ 96 + 2 ^ 112

/-- A previous result record as a candidate; none where it is empty (R343). -/
def oldCand (v : Nat) : Option Cand :=
  if bitsOf v 112 112 = 1 then none
  else
    let w := BitVec.ofNat 32 (bitsOf v 95 64)
    some { val := fp32 w, score := w, object := BitVec.ofNat 64 v, sample := bitsOf v 111 96
           stock := decide (bitsOf v 113 113 = 1), reranked := decide (bitsOf v 114 114 = 1), old := true }

/-- The previous records of row r, k_p of them (R343). -/
def oldRow (d : DInfo) (rd : Nat → Byte) (kp r : Nat) : List Nat := (upto kp).map fun j => d.num rd (16 * (r * kp + j)) 16

/-! ## Selection -/

/-- One row's selection: the records written, how many are valid, and the candidates of the k-th score
that were not selected (R339, R342, R344). -/
structure Picked where
  best : List Cand
  tied : Nat
  deriving DecidableEq, Repr, Inhabited

def pick (smallest : Bool) (k : Nat) (cs : List Cand) : Picked :=
  let all := sortBy (candBetter smallest) (cs.filter fun c => !c.val.isNan)
  let best := all.take k
  match best[k - 1]? with
  | none => { best, tied := 0 }
  | some z => { best, tied := (all.drop k).countP fun c => scoreEq c.val z.val }

/-- A row's k records. -/
def Picked.words (x : Picked) (k : Nat) : List Nat :=
  (x.best.map fun c => c.word (match x.best[k - 1]? with | some z => scoreEq c.val z.val | none => false))
    ++ List.replicate (k - x.best.length) emptyRecord

/-- A ledger of an execution: the step's copy, else the committed one (R115, R343). -/
def Exec.ledger (e : Exec) (n : Nat) : List LedgerRow :=
  match assocGet n e.st.ledgers with
  | some l => l
  | none => (assocGet n e.ledgers).getD []

/-- tied_beyond of a merge: what the previous selection counted at the same score is carried (R343, R344). Where tb does not hold
the records that the ledger's previous selection wrote, it is unspecified: a free value (R343; log entry 155). -/
def carryTied (prev : List Nat) (old : LedgerRow) (now : Picked) (k : Nat) (unstated : Nat) : Nat :=
  if prev = old.recs then
    match prev.getLast?.bind oldCand, now.best[k - 1]? with
    | some a, some b => if scoreEq a.val b.val then now.tied + old.tied else now.tied
    | _, _ => now.tied
  else unstated % 2 ^ 32

/-- A summary (R344). -/
def summary (x : Picked) (l : LedgerRow) : List Byte :=
  leBytes 4 x.best.length ++ leBytes 4 (min 0xFFFFFFFF l.tied) ++ leBytes 4 (min 0xFFFFFFFF l.nan) ++ leBytes 4 0
    ++ leBytes 8 l.offered ++ leBytes 8 l.filtered

/-- The effect of TOPK (R337 to R344). -/
def State.doTopk (s : State) (e : Exec) (o : Op) (k : Nat) (fed merge : Bool) : Except JFault Exec := do
  let x := selRec o.record
  let rd := s.rdByte e
  let offers ← s.offers e o x fed
  let prev ← if merge then do
      let d ← dwords o.b
      let kp := d.size / (x.rows * 16)
      pure ((upto x.rows).map fun r => oldRow d rd kp r)
    else pure (List.replicate x.rows [])
  let old := if merge then e.ledger x.ledger else []
  let rows := (offers.zip prev).zipIdx.map fun q =>
    let new := q.1.1.1
    let l := old.getD q.2 {}
    let r := pick x.smallest k (q.1.2.filterMap oldCand ++ new)
    let row : LedgerRow :=
      { recs := r.words k
        tied := if merge then carryTied q.1.2 l r k (Config.tiedUnstated s.free o.id q.2) else r.tied
        nan := l.nan + new.countP fun c => c.val.isNan
        offered := l.offered + new.countP fun c => !c.val.isNan
        filtered := l.filtered + q.1.1.2 }
    (r, row)
  let out ← dwords o.c
  let e := s.store e (out.putWords (rows.flatMap fun r => r.2.recs.flatMap (leBytes 16)))
  let e ← if x.sumEn then do
      let d ← dwords (o.aux.getD 0 0)
      pure (s.store e (d.putWords (rows.flatMap fun r => summary r.1 r.2)))
    else pure e
  pure { e with st := { e.st with ledgers := assocPut x.ledger (rows.map (·.2)) e.st.ledgers } }

/-- The position of the best value, the lowest among equals; none where all are NaN (R345). -/
def argmaxRow (smallest : Bool) (vs : List FVal) : Option Nat :=
  (vs.zipIdx.foldl (fun (acc : Option (FVal × Nat)) v =>
    if v.1.isNan then acc
    else match acc with
      | none => some v
      | some b => if scoreBetter smallest v.1 b.1 then some v else acc) none).map (·.2)

/-- The effect of ARGMAX (R345). -/
def State.doArgmax (s : State) (e : Exec) (o : Op) (fed : Bool) : Except JFault Exec := do
  let x := selRec o.record
  let rows ← if fed then do
      let rows := (assocGet o.id e.st.fed).getD []
      if rows.length ≠ x.rows ∨ (x.l2 ∧ rows.any fun r => r.any fun y => !y.scan) then throw .descriptor
      pure (rows.map fun r => r.map fun y => if y.offered then fp32 (fedScore x.l2 y) else .nan)
    else do
      let i ← plainInput o.a (ktypeFmt x.ktype)
      pure ((upto x.rows).map fun r => (upto x.len).map fun k => i.valAt (s.rdByte e) (r * x.len + k))
  let out ← dwords o.c
  pure (s.store e (out.putWords (rows.flatMap fun r => leBytes 4 ((argmaxRow x.smallest r).getD 0xFFFFFFFF))))

/-- Where a value goes in a histogram of n bins: a bin, then n for under, n + 1 for over, n + 2 for NaN
(R346). -/
def histBin (r : BitVec 512) (f : Fmt) (n code : Nat) : Nat :=
  let v := decodeWide f code
  if v.isNan then n + 2
  else if rbits r 0 0 = 1 then (orderKey f code / 2 ^ rbits r 7 3) % n
  else
    let lo := decodeFloat .fp32 (rbits r 63 32)
    let hi := decodeFloat .fp32 (rbits r 95 64)
    if v.lt lo then n
    else if !(v.lt hi) then n + 1
    else match v, lo, hi with
      | .fin s m e, .fin sl ml el, .fin sh mh eh =>
        let a := dySub (signed s m) e (signed sl ml) el
        let b := dySub (signed sh mh) eh (signed sl ml) el
        let e0 := min a.2 b.2
        (a.1.natAbs * 2 ^ (a.2 - e0).toNat * n) / (b.1.natAbs * 2 ^ (b.2 - e0).toNat)
      | _, _, _ => n + 2

/-- The effect of HIST. -/
def State.doHist (s : State) (e : Exec) (o : Op) (n : Nat) : Except JFault Exec := do
  let f := ktypeFmt (rbits o.record 2 1)
  let i ← plainInput o.a f
  let out ← dwords o.c
  let bins := (upto i.count).map fun k => histBin o.record f n (i.plainCode (s.rdByte e) (i.index k))
  pure (s.store e (out.putWords ((upto (n + 3)).flatMap fun b => leBytes 8 (bins.countP fun x => decide (x = b)))))

/-! ## Sampling (R368 to R371) -/

/-- A row record (R368). -/
structure RowRec where
  seed : W64
  pos : W64
  temp : W32
  topP : W32
  topK : Nat
  deriving DecidableEq, Repr, Inhabited

def rowRec (v : Nat) : RowRec :=
  { seed := BitVec.ofNat 64 v, pos := BitVec.ofNat 64 (v / 2 ^ 64), temp := BitVec.ofNat 32 (v / 2 ^ 128)
    topP := BitVec.ofNat 32 (v / 2 ^ 160), topK := bitsOf v 206 192 }

/-- The ranges of R354. -/
def RowRec.ok (r : RowRec) : Bool :=
  decide (r.topK ≤ 16384)
    && (match fp32 r.temp with | .fin s _ _ => !s | _ => false)
    && (match fp32 r.topP with | .fin s m e => !s && decide (m ≠ 0) && dyLe m e 1 0 | _ => false)

/-- n / d × 2^e rounded to FP32, ties to even. -/
def ratFp32 (neg : Bool) (n d : Nat) (e : Int) : W32 :=
  if n = 0 ∨ d = 0 then (if neg then 0x80000000#32 else 0)
  else
    let k := Nat.log2 d + 300
    let q := n * 2 ^ k / d
    let sticky := if n * 2 ^ k % d = 0 then 0 else 1
    toFp32 (.fin neg (2 * q + sticky) (e - k - 1))

/-- A finite FP32 value of at least +0 in units of 2^-149. -/
def units (w : W32) : Nat :=
  match fp32 w with
  | .fin false m e => m * 2 ^ (e + 149).toNat
  | _ => 0

/-- w of R369: exp((l - m) / temp), each step rounded to nearest FP32. -/
def expWeight (l m temp : W32) : W32 :=
  match fp32 l, fp32 m, fp32 temp with
  | .fin s a e, .fin t b f, .fin _ n g =>
    let d := dySub (signed s a) e (signed t b) f
    match fp32 (toFp32 (.fin (decide (d.1 < 0)) d.1.natAbs d.2)) with
    | .fin _ y h =>
      let q := ratFp32 false y n (h - g)
      (match fp32 q with
       | .fin _ z i => if i ≥ 0 then expNeg (z * 2 ^ i.toNat) 1 else expNeg z (2 ^ (-i).toNat)
       | _ => 0)
    | _ => 0
  | _, _, _ => 0

/-- The draw of R370 as a whole number of 2^-53. -/
def draw (r : RowRec) : Nat :=
  (mix (mix (r.seed ^^^ r.pos) ^^^ 0x53414D5000000000#64)).toNat / 2 ^ 11

/-- A row's token and its flags (R369, R371). -/
structure Token where
  token : Nat
  logit : W32
  prob : W32
  greedy : Bool := false
  allNan : Bool := false
  posInf : Bool := false
  deriving DecidableEq, Repr, Inhabited

/-- The first candidate at which the running sum of weights passes the limit. -/
def firstOver (limit : Nat) : Nat → List (Nat × Nat) → Option (Nat × Nat)
  | _, [] => none
  | acc, c :: t => if limit < (acc + c.2) * 2 ^ 53 then some c else firstOver limit (acc + c.2) t

/-- The shortest prefix whose weights sum to at least the limit, in units of 2^-298 (R369). -/
def prefixTo (limit : Nat) : Nat → List (Nat × Nat) → List (Nat × Nat)
  | _, [] => []
  | acc, c :: t => if limit ≤ (acc + c.2) * 2 ^ 149 then [c] else c :: prefixTo limit (acc + c.2) t

/-- One row's choice (R369). -/
def sampleRow (r : RowRec) (ls : List W32) : Token :=
  let cand := ls.zipIdx.filter fun l => !(fp32 l.1).isNan
  let order := sortBy (fun (a b : W32 × Nat) => (fp32 b.1).lt (fp32 a.1) || (scoreEq (fp32 a.1) (fp32 b.1) && decide (a.2 < b.2))) cand
  match order with
  | [] => { token := 0xFFFFFFFF, logit := 0x7FC00000, prob := 0x7FC00000, allNan := true }
  | h :: _ =>
    if fp32 h.1 = .inf false then { token := h.2, logit := h.1, prob := 0x3F800000, posInf := true }
    else if units r.temp = 0 ∨ fp32 h.1 = .inf true then { token := h.2, logit := h.1, prob := 0x3F800000, greedy := true }
    else
      let kept := if r.topK = 0 then order else order.take r.topK
      let ws := kept.map fun l => (l.2, units (expWeight l.1 h.1 r.temp))
      let total := (ws.map (·.2)).sum
      let ws := if units r.topP < 2 ^ 149 then prefixTo (units r.topP * total) 0 ws else ws
      let total := (ws.map (·.2)).sum
      match firstOver (draw r * total) 0 ws with
      | some c => { token := c.1, logit := ls.getD c.1 0, prob := ratFp32 false c.2 total 0 }
      | none => { token := h.2, logit := h.1, prob := ratFp32 false ((ws.map (·.2)).headD 0) total 0 }

/-- A token record (R371). -/
def Token.bytes (t : Token) : List Byte :=
  leBytes 4 t.token ++ leBytes 4 t.logit.toNat ++ leBytes 4 t.prob.toNat
    ++ leBytes 4 ((if t.greedy then 1 else 0) + (if t.allNan then 2 else 0) + (if t.posInf then 8 else 0))

/-- The effect of SAMPLE. -/
def State.doSample (s : State) (e : Exec) (o : Op) (fed : Bool) : Except JFault Exec := do
  let rd := s.rdByte e
  let n := smpRows o.record
  let v := smpVocab o.record
  let logits ← if fed then do
      let rows := (assocGet o.id e.st.fed).getD []
      if rows.length ≠ n ∨ rows.any (fun r => r.length ≠ v) then throw .descriptor
      pure (rows.map fun r => r.map (·.val))
    else do
      let i ← plainInput o.a .fp32
      pure ((upto n).map fun r => (upto v).map fun k => BitVec.ofNat 32 (i.plainCode rd (i.index (r * v + k))))
  let rw ← dwords (o.aux.getD 0 0)
  let recs := (upto n).map fun r => rowRec (rw.num rd (32 * r) 32)
  if recs.any (fun r => !r.ok) then throw .descriptor
  let out ← dwords o.c
  pure (s.store e (out.putWords ((recs.zip logits).flatMap fun q => (sampleRow q.1 q.2).bytes)))

end Sys2Proof.Machine
end

