-- ==== Sys2Proof/Machine/Cipher.lean ====
section
/-!
DEFINITION. Cipher: AES-256-XTS over whole 4 KiB data units and SHA-256 (R216, R217, R419). Both algorithms are the
published standards that the spec names.
-/
namespace Sys2Proof.Machine

/-! ## AES-256 -/

/-- Multiply by x in the field of AES. -/
def aesX (a : Byte) : Byte := if a.msb then (a <<< 1) ^^^ 0x1B#8 else a <<< 1

/-- Product in the field of AES, over the n low bits of b. -/
def aesMulN : Nat → Byte → Byte → Byte
  | 0, _, _ => 0
  | n + 1, a, b => (if b.getLsbD 0 then a else 0) ^^^ aesMulN n (aesX a) (b >>> 1)

def aesMul (a b : Byte) : Byte := aesMulN 8 a b

/-- The inverse in the field: a^254, and 0 for 0. -/
def aesInv (a : Byte) : Byte :=
  let a2 := aesMul a a
  let a3 := aesMul a2 a
  let a6 := aesMul a3 a3
  let a12 := aesMul a6 a6
  let a15 := aesMul a12 a3
  let a30 := aesMul a15 a15
  let a60 := aesMul a30 a30
  let a120 := aesMul a60 a60
  let a126 := aesMul a120 a6
  let a127 := aesMul a126 a
  aesMul a127 a127

def sbox (a : Byte) : Byte :=
  let i := aesInv a
  i ^^^ i.rotateLeft 1 ^^^ i.rotateLeft 2 ^^^ i.rotateLeft 3 ^^^ i.rotateLeft 4 ^^^ 0x63#8

def unbox (a : Byte) : Byte := aesInv (a.rotateLeft 1 ^^^ a.rotateLeft 3 ^^^ a.rotateLeft 6 ^^^ 0x05#8)

def xorBytes (a b : List Byte) : List Byte := (a.zip b).map fun p => p.1 ^^^ p.2

/-- The 60 words of the AES-256 key schedule, newest first, from its first n words. -/
def aesWords : Nat → Nat → Byte → List (List Byte) → List (List Byte)
  | 0, _, _, ws => ws
  | n + 1, i, rc, ws =>
    let t := ws.getD 0 []
    let old := ws.getD 7 []
    let (g, rc) :=
      if i % 8 = 0 then (xorBytes (((t.drop 1) ++ (t.take 1)).map sbox) [rc, 0, 0, 0], aesX rc)
      else if i % 8 = 4 then (t.map sbox, rc)
      else (t, rc)
    aesWords n (i + 1) rc (xorBytes old g :: ws)

/-- The 15 round keys of a 32-byte key. -/
def aesKeys (key : List Byte) : List (List Byte) :=
  (chunks 4 (aesWords 52 8 1 (chunks 4 key).reverse).reverse).map List.flatten

/-- Row r of the state moves left by r places, or right when inv. -/
def shiftRows (inv : Bool) (b : List Byte) : List Byte :=
  (upto 16).map fun i =>
    let r := i % 4
    let c := i / 4
    b.getD (4 * ((if inv then c + 4 - r else c + r) % 4) + r) 0

/-- Each column times the circulant matrix whose first row is m. -/
def mixCols (m : List Byte) (b : List Byte) : List Byte :=
  (upto 16).map fun i =>
    (upto 4).foldl (fun (acc : Byte) k => acc ^^^ aesMul (m.getD ((k + 4 - i % 4) % 4) 0) (b.getD (4 * (i / 4) + k) 0)) 0

/-- AES-256 encryption of one 16-byte block. -/
def aesEnc (ks : List (List Byte)) (b : List Byte) : List Byte :=
  let b := xorBytes b (ks.getD 0 [])
  let b := (upto 13).foldl (fun b r => xorBytes (mixCols [2, 3, 1, 1] (shiftRows false (b.map sbox))) (ks.getD (r + 1) [])) b
  xorBytes (shiftRows false (b.map sbox)) (ks.getD 14 [])

/-- AES-256 decryption of one 16-byte block. -/
def aesDec (ks : List (List Byte)) (b : List Byte) : List Byte :=
  let b := (shiftRows true (xorBytes b (ks.getD 14 []))).map unbox
  let b := (upto 13).foldl (fun b r => (shiftRows true (mixCols [14, 11, 13, 9] (xorBytes b (ks.getD (13 - r) [])))).map unbox) b
  xorBytes b (ks.getD 0 [])

/-! ## XTS -/

/-- Multiply a 16-byte tweak by the primitive element of XTS. -/
def xtsNext (t : List Byte) : List Byte :=
  let v := leNat t
  leBytes 16 (if v / 2 ^ 127 = 1 then (2 * v % 2 ^ 128) ^^^ 0x87 else 2 * v)

/-- The blocks of a data unit, each with its tweak. -/
def xtsBlocks (f : List Byte → List Byte) : List Byte → List (List Byte) → List Byte
  | _, [] => []
  | t, b :: rest => xorBytes (f (xorBytes b t)) t ++ xtsBlocks f (xtsNext t) rest

/-- One data unit under a 512-bit key whose bytes 0 to 31 are the data key and 32 to 63 the tweak key. -/
def xtsUnit (enc : Bool) (key : BitVec 512) (tweak : BitVec 128) (data : List Byte) : List Byte :=
  let kb := leBytes 64 key.toNat
  let k1 := aesKeys (kb.take 32)
  let k2 := aesKeys (kb.drop 32)
  xtsBlocks (if enc then aesEnc k1 else aesDec k1) (aesEnc k2 (leBytes 16 tweak.toNat)) (chunks 16 data)

/-! ## SHA-256 -/

/-- The largest x with x^3 ≤ v, below 2^n. -/
def cubeRoot (v : Nat) : Nat → Nat → Nat
  | 0, x => x
  | n + 1, x => let y := x + 2 ^ n; cubeRoot v n (if y ^ 3 ≤ v then y else x)

/-- The first 64 primes. -/
def primes64 : List Nat :=
  [2, 3, 5, 7, 11, 13, 17, 19, 23, 29, 31, 37, 41, 43, 47, 53]
    ++ [59, 61, 67, 71, 73, 79, 83, 89, 97, 101, 103, 107, 109, 113, 127, 131]
    ++ [137, 139, 149, 151, 157, 163, 167, 173, 179, 181, 191, 193, 197, 199, 211, 223]
    ++ [227, 229, 233, 239, 241, 251, 257, 263, 269, 271, 277, 281, 283, 293, 307, 311]

/-- The round constants: the fractional parts of the primes' cube roots. -/
def shaK : List W32 := primes64.map fun p => BitVec.ofNat 32 (cubeRoot (p * 2 ^ 96) 36 0)

/-- The initial hash: the fractional parts of the square roots of the first 8 primes. -/
def shaH0 : List W32 := (primes64.take 8).map fun p => BitVec.ofNat 32 (Nat.sqrt (p * 2 ^ 64))

def shaS (a b c : Nat) (x : W32) : W32 := x.rotateRight a ^^^ x.rotateRight b ^^^ x.rotateRight c
def shaT (a b c : Nat) (x : W32) : W32 := x.rotateRight a ^^^ x.rotateRight b ^^^ (x >>> c)

/-- The message schedule of a block, newest word first. -/
def shaSched : Nat → List W32 → List W32
  | 0, w => w
  | n + 1, w => shaSched n ((shaT 17 19 10 (w.getD 1 0) + w.getD 6 0 + shaT 7 18 3 (w.getD 14 0) + w.getD 15 0) :: w)

/-- One round. -/
def shaRound (h : List W32) (kw : W32) : List W32 :=
  match h with
  | [a, b, c, d, e, f, g, i] =>
    let t1 := i + shaS 6 11 25 e + ((e &&& f) ^^^ (~~~e &&& g)) + kw
    let t2 := shaS 2 13 22 a + ((a &&& b) ^^^ (a &&& c) ^^^ (b &&& c))
    [t1 + t2, a, b, c, d + t1, e, f, g]
  | _ => h

/-- A big-endian word. -/
def beWord (b : List Byte) : W32 := BitVec.ofNat 32 (leNat b.reverse)

/-- One 64-byte block. -/
def shaBlock (h : List W32) (b : List Byte) : List W32 :=
  let w := (shaSched 48 ((chunks 4 b).map beWord).reverse).reverse
  let r := (shaK.zip w).foldl (fun h p => shaRound h (p.1 + p.2)) h
  (h.zip r).map fun p => p.1 + p.2

/-- SHA-256 of a list of bytes. -/
def sha256 (m : List Byte) : List Byte :=
  let n := m.length
  let pad := m ++ [0x80#8] ++ List.replicate ((119 - n % 64) % 64) 0 ++ (leBytes 8 (8 * n)).reverse
  ((chunks 64 pad).foldl shaBlock shaH0).flatMap fun w => (leBytes 4 w.toNat).reverse

/-! ## The invocations -/

/-- The addresses of a data window's bytes in order: elements of a plain window, the bytes of a media
window, and the whole sheets of a window that is a whole tensor in another layout (log entry 31). -/
def DInfo.byteAddrs (d : DInfo) : Except JFault (List Nat) :=
  if d.layout = 6 then .ok ((upto (d.w 0)).map fun i => d.base + d.o 0 + i)
  else if d.layout = 0 then
    .ok ((upto d.count).flatMap fun n => (upto d.fmt.bytes).map fun k => d.plainAddr (d.index n) + k)
  else if d.whole then .ok ((upto (65536 * d.sheets)).map fun i => d.base + i)
  else .error .descriptor

/-- Number of bytes of a data window. -/
def DInfo.byteLen (d : DInfo) : Except JFault Nat :=
  if d.layout = 6 then .ok (d.w 0)
  else if d.layout = 0 then .ok (d.count * d.fmt.bytes)
  else if d.whole then .ok (65536 * d.sheets)
  else .error .descriptor

/-- What CIPHER.ENC or CIPHER.DEC asks for at issue, or the fault that it raises. -/
def State.cipherReq (s : State) (e : Exec) (a : EArgs) (enc : Bool) : Except JFault (Exec × Req) := do
  let k := e.count a
  if 255 < k ∨ (assocGet k s.host.keys).isNone ∨ !(s.mayKey e.ctx k) then throw .descriptor
  let i ← dcheck e.descs[a.ta] false
  let o ← dcheck e.descs[a.tc] false
  let n ← i.byteLen
  let m ← o.byteLen
  if n % 4096 ≠ 0 ∨ n ≠ m then throw .descriptor
  pure (e, { op := { id := 0, kind := if enc then .cipherEnc k else .cipherDec k, ev := a.ev, a := e.descs[a.ta], c := e.descs[a.tc] }
             rds := i.pages, wrs := o.wins (issuerOf e 0) true, wins := 2 })

/-- CIPHER.ENC and CIPHER.DEC (R216, R217): a key slot that holds a key which the context may use, and
windows of the same whole number of 4 KiB units. -/
def State.cipher (s : State) (c : Fin 16) (p : Pred) (a : EArgs) (enc : Bool) : State :=
  s.async c p [a.rn] fun s e => s.cipherReq e a enc

def execCipherEnc (c : Fin 16) (p : Pred) (a : EArgs) (s : State) : Out := .next (s.cipher c p a true)
def execCipherDec (c : Fin 16) (p : Pred) (a : EArgs) (s : State) : Out := .next (s.cipher c p a false)

/-- The digest window: plain INT32, 8 elements (R217). -/
def digestWindow (d : Desc) : Except JFault DInfo := do
  let o ← dwords d
  if o.count = 8 then pure o else throw .descriptor

/-- What CIPHER.HASH asks for at issue, or the fault that it raises. -/
def State.hashReq (_s : State) (e : Exec) (a : EArgs) : Except JFault (Exec × Req) := do
  let i ← dcheck e.descs[a.ta] false
  let _ ← i.byteLen
  let o ← digestWindow e.descs[a.tc]
  pure (e, { op := { id := 0, kind := .cipherHash, ev := a.ev, a := e.descs[a.ta], c := e.descs[a.tc] }
             rds := i.pages, wrs := o.wins (issuerOf e 0) true, wins := 2 })

/-- CIPHER.HASH. -/
def execCipherHash (c : Fin 16) (p : Pred) (a : EArgs) (s : State) : Out :=
  .next (s.async c p [] fun s e => s.hashReq e a)

/-- The effect of CIPHER.ENC and CIPHER.DEC: each 4 KiB unit of the window on its own. -/
def State.doCipher (s : State) (e : Exec) (o : Op) (k : Nat) (enc : Bool) : Except JFault Exec := do
  let i ← dcheck o.a false
  let t ← dcheck o.c false
  let src ← i.byteAddrs
  let dst ← t.byteAddrs
  let key := (assocGet k s.host.keys).getD 0
  let units := chunks 4096 (src.map (s.rdByte e))
  let out := units.zipIdx.flatMap fun u => xtsUnit enc key (Config.xtsTweak (src.getD (4096 * u.2) 0) u.2) u.1
  pure (s.store e (dst.zip out))

/-- The effect of CIPHER.HASH. -/
def State.doHash (s : State) (e : Exec) (o : Op) : Except JFault Exec := do
  let i ← dcheck o.a false
  let t ← digestWindow o.c
  let src ← i.byteAddrs
  pure (s.store e (t.putWords (sha256 (src.map (s.rdByte e)))))

end Sys2Proof.Machine
end

