-- ==== Sys2Proof/Machine/Media.lean ====
section
/-!
DEFINITION. What Platen makes of one object (R282, R284 to R291, R294 to R296, R300, R301): which formats it takes, the pictures
and sound spans that it samples, their colour, scaling and analysis, the work of its pipes, and the status record.
-/
namespace Sys2Proof.Machine

open Sys2Proof.Config (Coding Track Media Picture)

/-! ## The decode record (R294) -/

def decKind (r : BitVec 512) : Nat := rbits r 3 0
def decCap (r : BitVec 512) : Nat := rbits r 175 160

/-- p of R294. -/
def decPatch (r : BitVec 512) : Nat :=
  match rbits r 21 20 with
  | 0 => 8 | 1 => 14 | 2 => 16 | _ => 32

/-- n_mels. -/
def decMels (r : BitVec 512) : Nat :=
  match rbits r 229 228 with
  | 0 => 64 | 1 => 80 | _ => 128

/-- n_fft. -/
def decFft (r : BitVec 512) : Nat := if rbits r 230 230 = 0 then 400 else 512

/-- The vector length: 3p² for pictures and video, G × n_mels for sound (R294). -/
def decLen (r : BitVec 512) : Nat :=
  if decKind r = 2 then rbits r 247 240 * decMels r else 3 * decPatch r * decPatch r

/-- Sound rates in Hz. -/
def decRate (r : BitVec 512) : Nat := [8000, 16000, 24000, 32000, 44100, 48000].getD (rbits r 227 224) 0

/-- A finite positive FP16 code. -/
def fp16Pos (c : Nat) : Bool :=
  match decodeFloat .fp16 c with
  | .fin false m _ => decide (m ≠ 0)
  | _ => false

/-- The rules of R294, which the verifier checks (0x06). -/
def decOk (r : BitVec 512) : Bool :=
  let p := decPatch r
  let w := rbits r 42 32
  let h := rbits r 53 43
  let zero (hi lo : Nat) : Bool := decide (rbits r hi lo = 0)
  decide (decKind r ≤ 2) && zero 31 22 && zero 63 54 && zero 511 304
    && decide (8 ≤ decCap r ∧ decCap r ≤ 1000)
    && (if decKind r = 2 then
          zero 21 15 && zero 53 32 && zero 159 64
            && decide (rbits r 227 224 ≤ 5 ∧ rbits r 229 228 ≤ 2 ∧ 1 ≤ rbits r 239 231)
            && decide (1 ≤ rbits r 247 240 ∧ rbits r 247 240 ≤ 64 ∧ 1 ≤ rbits r 263 248 ∧ 2 * rbits r 303 288 ≤ decRate r)
            && decide (1 ≤ rbits r 223 208)
        else
          decide (rbits r 18 17 ≤ 2 ∧ p ≤ w ∧ w ≤ 1024 ∧ w % p = 0 ∧ p ≤ h ∧ h ≤ 1024 ∧ h % p = 0)
            && fp16Pos (rbits r 127 112) && fp16Pos (rbits r 143 128) && fp16Pos (rbits r 159 144)
            && zero 303 224
            && (if decKind r = 0 then zero 223 176 else decide (1 ≤ rbits r 223 208 ∧ 1 ≤ rbits r 207 176)))

/-! ## Formats (R284 to R286) and their media statuses (R300) -/

/-- Format code of a coding outside a container. -/
def codeOf : Coding → Nat
  | .jpeg .. => 0x01 | .jpeg2000 .. => 0x02 | .png => 0x03 | .tiff .. => 0x04 | .heif .. => 0x05
  | .h264 .. => 0x10 | .hevc .. => 0x11 | .av1 .. => 0x12
  | .pcm .. => 0x30 | .flac _ => 0x31 | .aac .. => 0x32 | .opus => 0x33 | .other => 0

/-- The media status of a coding, 0 where Platen decodes it: a feature or profile outside the tables is 0x11, as the example of
R306 has a profile, and a level above the range 0x12 (log entry 152). -/
def codingStatus : Coding → Nat
  | .jpeg sof depth comps sub arithmetic =>
    if sof ≤ 2 ∧ depth = 8 ∧ !arithmetic ∧ (comps = 1 ∨ (comps = 3 ∧ sub ∈ [(1, 1), (2, 1), (2, 2), (1, 2)])) then 0 else 0x11
  | .jpeg2000 comps bits part2 => if 1 ≤ comps ∧ comps ≤ 4 ∧ bits ≤ 16 ∧ !part2 then 0 else 0x11
  | .png => 0
  | .tiff compression bits samples =>
    if compression = 1 ∧ (bits = 8 ∨ bits = 16) ∧ (samples = 1 ∨ samples = 3 ∨ samples = 4) then 0 else 0x11
  | .heif profile tiles _ => if profile ≠ .other ∧ tiles ≤ 256 then 0 else 0x11
  | .h264 profile depth level => if profile = .other ∨ depth ≠ 8 then 0x11 else if 52 < level then 0x12 else 0
  | .hevc profile level => if profile = .main ∨ profile = .main10 then (if 61 < level then 0x12 else 0) else 0x11
  | .av1 main depth level _ => if !main ∨ (depth ≠ 8 ∧ depth ≠ 10) then 0x11 else if 61 < level then 0x12 else 0
  | .pcm bits float => if (float ∧ bits = 32) ∨ (!float ∧ bits ∈ [8, 16, 24, 32]) then 0 else 0x11
  | .flac bits => if bits ≤ 24 then 0 else 0x11
  | .aac lc _ => if lc then 0 else 0x11
  | .opus => 0
  | .other => 0x11

/-- A container holds tracks of a coding (R286); outside a container a stream is of its own code, and Opus is in none. -/
def holds (code : Nat) : Coding → Bool
  | .h264 .. | .hevc .. => decide (code ∈ [0x10, 0x11, 0x20, 0x21, 0x22])
  | .av1 .. => decide (code ∈ [0x12, 0x20, 0x21])
  | .pcm .. => decide (code ∈ [0x20, 0x21, 0x22, 0x30])
  | .flac _ => decide (code ∈ [0x20, 0x21, 0x31])
  | .aac .. => decide (code ∈ [0x20, 0x21, 0x32])
  | .opus => decide (code ∈ [0x20, 0x21])
  | .jpeg2000 .. => decide (code ∈ [0x02, 0x22])
  | c => decide (code = codeOf c)

/-- Pictures of at most 2^28 pixels and 65,535 a side, sound of 1 to 8 channels and 8 to 192 kHz, AAC of at most 96 kHz (R284,
R286). -/
def withinLimits (t : Track) : Bool :=
  if t.kind = 2 then
    decide (1 ≤ t.channels ∧ t.channels ≤ 8 ∧ 8000 ≤ t.rate ∧ t.rate ≤ 192000)
      && (match t.coding with | .aac .. => decide (t.rate ≤ 96000) | _ => true)
  else decide (1 ≤ t.w ∧ t.w ≤ 65535 ∧ 1 ≤ t.h ∧ t.h ≤ 65535 ∧ t.w * t.h ≤ 2 ^ 28)

/-- The media status of a track by its headers (R284 to R286, R300): encrypted or laced tracks, chroma formats of video other than
4:2:0 and monochrome, the coding, and then the limits, a channel that the record selects and the track lacks among them. -/
def trackStatus (m : Media) (r : BitVec 512) (t : Track) : Nat :=
  let chan := rbits r 271 264
  if !holds m.code t.coding ∨ t.encrypted ∨ (t.laced ∧ t.kind = 1) ∨ (t.kind = 1 ∧ 1 < t.chroma) then 0x11
  else if codingStatus t.coding ≠ 0 then codingStatus t.coding
  else if !withinLimits t ∨ (t.kind = 2 ∧ chan ≠ 0xFF ∧ t.channels ≤ chan) then 0x13
  else 0

/-- The track that an entry names: 0 is the first of the record's kind (R295). -/
def trackFor (m : Media) (r : BitVec 512) (n : Nat) : Option Track :=
  m.tracks.find? fun t => decide (t.kind = decKind r) && (decide (n = 0) || decide (t.num = n))

/-! ## What is sampled (R290) -/

/-- The times of the samples in µs. A picture is sampled once; a sample starts before the end of the stream. -/
def sampleTimes (r : BitVec 512) (t : Track) : List Nat :=
  if decKind r = 0 then [0]
  else
    let step := 1000 * (if rbits r 207 176 = 0 then rbits r 263 248 else rbits r 207 176)
    ((upto (rbits r 223 208)).map (· * step)).filter fun x => decide (x < t.dur)

/-- The picture on display at a time: the last whose presentation time is at or before it. -/
def pictureAt (t : Track) (x : Nat) : Nat := (t.pts.countP fun p => decide (p ≤ x)) - 1

/-! ## Numbers -/

/-- A value held to some fractional bits: exact, or one of its two neighbours. -/
def held (bits : Nat) (x : Rat) : Rat :=
  let f := (x * 2 ^ bits).floor
  ((if (f : Rat) = x * 2 ^ bits then f else if Config.roundsUp bits x then f + 1 else f : Int) : Rat) / 2 ^ bits

/-- The nearest whole number, halves up. -/
def nearest (x : Rat) : Nat := (x + 1 / 2).floor.toNat

/-- A rational as a value: exact to 200 fractional bits with a sticky bit below, which rounds as the rational does to every
format. -/
def ratVal (x : Rat) : FVal :=
  let n := x.num.natAbs * 2 ^ 200
  if x.num = 0 then .fin false 0 0
  else .fin (decide (x.num < 0)) (2 * (n / x.den) + (if n % x.den = 0 then 0 else 1)) (-201)

/-- A finite FP16 code as a rational. -/
def fp16Rat (c : Nat) : Rat :=
  match decodeFloat .fp16 c with
  | .fin neg m e => (signed neg m : Rat) * (if 0 ≤ e then (2 : Rat) ^ e.toNat else 1 / 2 ^ (-e).toNat)
  | _ => 0

/-! ## Colour and orientation (R287) -/

/-- A code of a component, with a lost unit concealed: copied from the co-located unit of the nearest reference picture, or
mid-grey in an intra picture (R301). The fuel bounds the chain of references. -/
def codeAt (bs : List Byte) (trk level : Nat) : Nat → Nat → Nat → Nat → Nat → Nat
  | 0, pic, x, y, k => Config.pixel bs trk pic level x y k
  | n + 1, pic, x, y, k =>
    let p := Config.picture bs trk pic
    if p.lost.contains (Config.unitOf bs trk pic (x * 2 ^ level) (y * 2 ^ level)) then
      if p.intra then 2 ^ (p.depth - 1) else codeAt bs trk level n p.ref x y k
    else Config.pixel bs trk pic level x y k

/-- Kr and Kb of the matrix, BT.601 where none is signalled (R287); the coefficients are those of the BT series (PRESUMED, log
entry 153). -/
def lumaOf (matrix : Nat) : Rat × Rat :=
  if matrix = 2 then (2126 / 10000, 722 / 10000) else if matrix = 3 then (2627 / 10000, 593 / 10000) else (299 / 1000, 114 / 1000)

/-- A value cut to [0, 1]. -/
def unit01 (x : Rat) : Rat := max 0 (min 1 x)

/-- Channel c (R', G', B') from the component values. -/
def channel (t : Track) (v : Nat → Rat) (c : Nat) : Rat :=
  match t.colour with
  | .grey => v 0
  | .rgb => v c
  | .ycc =>
    let k := lumaOf t.matrix
    let cb := v 1 - 1 / 2
    let cr := v 2 - 1 / 2
    let red := v 0 + 2 * (1 - k.1) * cr
    let blue := v 0 + 2 * (1 - k.2) * cb
    unit01 (if c = 0 then red else if c = 2 then blue else (v 0 - k.1 * red - k.2 * blue) / (1 - k.1 - k.2))

/-- An Exif JPEG and a HEIF item carry an orientation, which the record's orient bit has applied. -/
def turned (r : BitVec 512) (t : Track) : Fin 8 :=
  match t.coding with
  | .jpeg .. | .heif .. => if rbits r 15 15 = 1 then t.orient else 0
  | _ => 0

/-- The source pixel that an oriented picture shows at a place; w and h are the source's (Exif's orientations, PRESUMED). -/
def unturn (o : Fin 8) (w h x y : Nat) : Nat × Nat :=
  match o.val with
  | 0 => (x, y) | 1 => (w - 1 - x, y) | 2 => (w - 1 - x, h - 1 - y) | 3 => (x, h - 1 - y)
  | 4 => (y, x) | 5 => (y, h - 1 - x) | 6 => (w - 1 - y, h - 1 - x) | _ => (w - 1 - y, x)

/-! ## Scaling (R288) -/

/-- A picture as it is scaled: its oriented size and its channel values. -/
structure Image3 where
  w : Nat
  h : Nat
  at_ : Nat → Nat → Nat → Rat

/-- The scaled size of a W × H picture under the record's fit mode. -/
def scaledSize (r : BitVec 512) (w h : Nat) : Nat × Nat :=
  let sx : Rat := (rbits r 42 32 : Rat) / w
  let sy : Rat := (rbits r 53 43 : Rat) / h
  match rbits r 18 17 with
  | 0 => let s := max sx sy; (nearest (w * s), nearest (h * s))
  | 1 => let s := min sx sy; (nearest (w * s), nearest (h * s))
  | _ => (rbits r 42 32, rbits r 53 43)

/-- The level that Platen decodes at: with rrd set, JPEG and JPEG 2000 use the coarsest whose size is at least the scaled size. -/
def levelFor (r : BitVec 512) (t : Track) (w h : Nat) (size : Nat × Nat) : Nat :=
  let may := match t.coding with | .jpeg .. | .jpeg2000 .. => decide (rbits r 16 16 = 1) | _ => false
  if may then
    (((upto (t.levels + 1)).filter fun k => decide (size.1 ≤ (w + 2 ^ k - 1) / 2 ^ k) && decide (size.2 ≤ (h + 2 ^ k - 1) / 2 ^ k)).getLast?).getD 0
  else 0

/-- A source position held inside the axis: what lies beyond an edge repeats it (log entry 153). -/
def clampTo (n : Nat) (j : Int) : Nat := min (n - 1) j.toNat

/-- The area filter: the weights with which position k of an axis scaled from n to m takes the source's positions: a box average
when reducing, bilinear when enlarging. -/
def areaWeights (n m k : Nat) : List (Nat × Rat) :=
  if m ≤ n then
    let lo : Rat := (k : Rat) * n / m
    let hi : Rat := ((k : Rat) + 1) * n / m
    (upto (hi.ceil - lo.floor).toNat).map fun d =>
      let j := lo.floor.toNat + d
      (clampTo n j, (min hi ((j : Rat) + 1) - max lo (j : Rat)) * m / n)
  else
    let c : Rat := (2 * (k : Rat) + 1) * n / (2 * m) - 1 / 2
    [(clampTo n c.floor, 1 - (c - c.floor)), (clampTo n (c.floor + 1), c - c.floor)]

/-- The Lanczos filter: coefficients normalised to sum to 1 and held to 14 fractional bits; when reducing, its argument is in
output positions (log entry 153). -/
def lanczosWeights (n m k : Nat) : List (Nat × Rat) :=
  let c : Rat := (2 * (k : Rat) + 1) * n / (2 * m) - 1 / 2
  let s : Rat := max 1 ((n : Rat) / m)
  let lo : Int := (c - 3 * s).floor
  let taps : List Int := ((upto ((c + 3 * s).ceil - lo + 1).toNat).map fun d => lo + (d : Int)).filter fun (j : Int) =>
    decide (-3 < ((j : Rat) - c) / s ∧ ((j : Rat) - c) / s < 3)
  let vs := taps.map fun (j : Int) => (clampTo n j, Config.lanczos (((j : Rat) - c) / s))
  let sum := (vs.map (·.2)).foldl (· + ·) 0
  vs.map fun v => (v.1, held 14 (v.2 / sum))

/-- Weights under the record's filter. -/
def weights (r : BitVec 512) (n m k : Nat) : List (Nat × Rat) := if rbits r 19 19 = 1 then lanczosWeights n m k else areaWeights n m k

/-- A pixel of the scaled picture, in 24-bit fixed point. -/
def scaledAt (r : BitVec 512) (p : Image3) (size : Nat × Nat) (x y c : Nat) : Rat :=
  let wx := weights r p.w size.1 x
  let wy := weights r p.h size.2 y
  held 24 ((wy.map fun b => b.2 * ((wx.map fun a => a.2 * p.at_ a.1 b.1 c).foldl (· + ·) 0)).foldl (· + ·) 0)

/-- The mean and the deviation of a channel. -/
def meanOf (r : BitVec 512) (c : Nat) : Rat := fp16Rat (rbits r (79 + 16 * c) (64 + 16 * c))
def stdOf (r : BitVec 512) (c : Nat) : Rat := fp16Rat (rbits r (127 + 16 * c) (112 + 16 * c))

/-- A normalised pixel of the output picture: the scaled picture cut or centred at floor((scaled − out) / 2), with a border of the
channel means, which normalise to +0. -/
def outputAt (r : BitVec 512) (p : Image3) (size : Nat × Nat) (x y c : Nat) : FVal :=
  let sx : Int := x + ((size.1 : Int) - (rbits r 42 32 : Nat)) / 2
  let sy : Int := y + ((size.2 : Int) - (rbits r 53 43 : Nat)) / 2
  if 0 ≤ sx ∧ sx < size.1 ∧ 0 ≤ sy ∧ sy < size.2 then ratVal ((scaledAt r p size sx.toNat sy.toNat c - meanOf r c) / stdOf r c)
  else .fin false 0 0

/-- The vectors of a picture: patches in raster order, element (y × p + x) × 3 + c channel c of patch pixel (x, y). -/
def patches (r : BitVec 512) (p : Image3) (size : Nat × Nat) : List (List FVal) :=
  let q := decPatch r
  let cols := rbits r 42 32 / q
  (upto (cols * (rbits r 53 43 / q))).map fun v =>
    (upto (3 * q * q)).map fun n => outputAt r p size (v % cols * q + n / 3 % q) (v / cols * q + n / 3 / q) (n % 3)

/-- The picture that Platen scales: decoded at its level, turned, in the three channels. -/
def sourceOf (bs : List Byte) (r : BitVec 512) (t : Track) (pic level : Nat) : Image3 :=
  let p := Config.picture bs t.num pic
  let w := (p.w + 2 ^ level - 1) / 2 ^ level
  let h := (p.h + 2 ^ level - 1) / 2 ^ level
  let o := turned r t
  let swap := decide (4 ≤ o.val)
  { w := if swap then h else w
    h := if swap then w else h
    at_ := fun x y c =>
      let q := unturn o w h x y
      channel t (fun k => (codeAt bs t.num level (pic + 1) pic q.1 q.2 k : Rat) / ((2 ^ p.depth - 1 : Nat) : Rat)) c }

/-- The vectors of one picture. -/
def pictureVectors (bs : List Byte) (r : BitVec 512) (t : Track) (pic : Nat) : List (List FVal) :=
  let p := Config.picture bs t.num pic
  let swap := decide (4 ≤ (turned r t).val)
  let w := if swap then p.h else p.w
  let h := if swap then p.w else p.h
  let size := scaledSize r w h
  patches r (sourceOf bs r t pic (levelFor r t w h size)) size

/-! ## Sound (R289) -/

/-- The channel that the record selects, or the average of all. -/
def monoAt (bs : List Byte) (r : BitVec 512) (t : Track) (n : Nat) : Rat :=
  if rbits r 271 264 = 0xFF then
    ((upto t.channels).map fun c => Config.sound bs t.num c n).foldl (· + ·) 0 / t.channels
  else Config.sound bs t.num (rbits r 271 264) n

/-- A stored filter output: ln(max(E, 10^−10)). -/
def logMel (e : Rat) : FVal := ratVal (Config.ln (max e (1 / 10 ^ 10)))

/-- The n_mels values of a frame whose samples a signal gives. -/
def frameVals (r : BitVec 512) (sig : Nat → Rat) : List FVal :=
  let n := decFft r
  (upto (decMels r)).map fun j => logMel (((upto (n / 2 + 1)).map fun b =>
    Config.melWeight (rbits r 287 272) (rbits r 303 288) (decMels r) (decRate r) n j b * Config.power sig n b).foldl (· + ·) 0)

/-- The vectors of a span of sound that starts at a time in µs: whole frames of the span, G to a vector, a short last one padded
with frames of ln(10^−10). -/
def spanVectors (bs : List Byte) (r : BitVec 512) (t : Track) (x : Nat) : List (List FVal) :=
  let len := min (1000 * rbits r 263 248) (t.dur - x) * decRate r / 1000000
  let first := x * decRate r / 1000000
  let frames := if len < decFft r then 0 else (len - decFft r) / rbits r 239 231 + 1
  let g := rbits r 247 240
  let sig (f k : Nat) : Rat := Config.resampled (monoAt bs r t) t.rate (decRate r) (first + f * rbits r 239 231 + k)
  (upto ((frames + g - 1) / g)).map fun v => (upto g).flatMap fun i =>
    if g * v + i < frames then frameVals r (sig (g * v + i)) else List.replicate (decMels r) (logMel 0)

/-! ## The pipes' work (R282, R291) -/

/-- P_rate in hundredths of a Gpixel/s or Gsample/s, and B_rate in tenths of a GB/s (R282). -/
def ratesOf : Coding → Nat × Nat
  | .jpeg sof .. => if sof = 2 then (550, 10) else (1100, 20)
  | .jpeg2000 .. => (150, 10) | .png => (200, 10) | .tiff .. => (1600, 80) | .heif .. => (200, 10)
  | .h264 .. => (250, 5) | .hevc .. => (200, 5) | .av1 .. => (160, 5)
  | .pcm .. => (400, 80) | .flac _ => (100, 10) | .aac .. => (50, 5) | .opus => (25, 5)
  | .other => (1, 1)

/-- The pipe time in ns of one picture, video sample or sound span (R282). -/
def pipeNs (c : Coding) (px bytes : Nat) : Nat := 4000 + max (px * 100 / (ratesOf c).1) (bytes * 10 / (ratesOf c).2) + 3000

/-- The pictures that a pipe decodes for a video sample: those that it depends on, less what the pipe has decoded for the sample
before it (R291). -/
def newDeps (bs : List Byte) (t : Track) (before : Option Nat) (pic : Nat) : List Nat :=
  let d := (Config.picture bs t.num pic).deps
  match before with
  | some b => d.filter fun q => !(Config.picture bs t.num b).deps.contains q
  | none => d

/-- A random-access point lies after picture b, up to picture pic. -/
def accessBetween (bs : List Byte) (t : Track) (b pic : Nat) : Bool :=
  (upto (pic - b)).any fun k => (Config.picture bs t.num (b + 1 + k)).access

/-- The work of the samples of a video in runs: a pipe that has produced a sample carries on to the next without seeking when no
random-access point lies between them (R291); each run starts at the last one. -/
def videoRuns (bs : List Byte) (t : Track) : Option Nat → List Nat → List Nat
  | _, [] => []
  | before, p :: rest =>
    let go := match before with
      | some b => !accessBetween bs t b p
      | none => false
    let ds := newDeps bs t (if go then before else none) p
    let ns := pipeNs t.coding (ds.map fun q => (Config.picture bs t.num q).w * (Config.picture bs t.num q).h).sum
      (ds.map fun q => (Config.picture bs t.num q).bytes).sum
    let more := videoRuns bs t (some p) rest
    let joins := match rest with
      | q :: _ => !accessBetween bs t p q
      | [] => false
    match joins, more with
    | true, m :: ms => (ns + m) :: ms
    | _, ms => ns :: ms

/-- The work of an entry, in runs that one pipe each does. -/
def runsOf (bs : List Byte) (r : BitVec 512) (t : Track) (xs : List Nat) : List Nat :=
  if t.kind = 0 then [pipeNs t.coding (t.w * t.h) bs.length]
  else if t.kind = 1 then videoRuns bs t none (xs.map (pictureAt t))
  else xs.map fun x =>
    let us := min (1000 * rbits r 263 248) (t.dur - x)
    pipeNs t.coding (us * t.rate / 1000000 * t.channels) (Config.soundBytes bs t.num x us)

/-! ## One entry (R290, R295, R296, R299 to R301) -/

/-- What an entry comes to: its media status, the rest of its status record, its vectors and the work of its pipes. -/
structure Decoded where
  code : Nat
  info : Nat
  vectors : List (List FVal) := []
  runs : List Nat := [4000]
  deriving DecidableEq, Repr, Inhabited

/-- The status that one sampled picture gives: what the headers that govern it say, or errors that cannot be concealed (R301). -/
def sampleStatus (bs : List Byte) (r : BitVec 512) (m : Media) (t : Track) (pic : Nat) : Nat :=
  let p := Config.picture bs t.num pic
  let head := trackStatus m r { t with coding := p.coding, w := p.w, h := p.h }
  if head ≠ 0 then head
  else if p.lost ≠ [] ∧ (rbits r 14 14 = 0 ∨ p.units < 4 * p.lost.length) then 0x14
  else 0

/-- The samples that out_max allows, whole ones in order. -/
def fitVectors (limit : Nat) : List (List (List FVal)) → List (List (List FVal))
  | [] => []
  | v :: rest => if v.length ≤ limit then v :: fitVectors (limit - v.length) rest else []

/-- Bits of a flag. -/
def flagAt (b : Bool) (n : Nat) : Nat := if b then 2 ^ n else 0

/-- Extensions that are ignored: SBR and PS, film grain, HEIF auxiliary items (R284 to R286, R296). -/
def ignores : Coding → Bool
  | .aac _ sbr => sbr
  | .av1 _ _ _ grain => grain
  | .heif _ _ aux => aux
  | _ => false

/-- An entry that fails by its headers. -/
def failed (code fmt : Nat) : Decoded := { code, info := fmt * 2 ^ 8 }

/-- The fhint of an entry agrees with what the object is: its container's code or the track's own (R295, R300). -/
def hintFits (fhint : Nat) (m : Media) (r : BitVec 512) (trk : Nat) : Bool :=
  decide (fhint = 0) || decide (fhint = m.code) || (match trackFor m r trk with
    | some t => decide (fhint = codeOf t.coding)
    | none => false)

/-- What Platen makes of an object's bytes under a table entry and a decode record, and of nothing else (R299). -/
def decodeEntry (bs : List Byte) (x r : BitVec 512) : Decoded :=
  let fhint := rbits x 135 128
  let trk := rbits x 143 136
  match Config.media bs with
  | none => failed 0x10 0
  | some m =>
    if m.malformed then failed 0x14 m.code
    else if !m.op1a then failed 0x11 m.code
    else if !hintFits fhint m r trk then failed 0x17 m.code
    else match trackFor m r trk with
      | none => failed 0x16 m.code
      | some t =>
        if trackStatus m r t ≠ 0 then failed (trackStatus m r t) m.code
        else
          let xs := sampleTimes r t
          let pics := if t.kind = 2 then [] else xs.map (pictureAt t)
          match (pics.map (sampleStatus bs r m t)).find? (· ≠ 0) with
          | some code => { failed code m.code with runs := runsOf bs r t xs }
          | none =>
            if t.kind = 2 ∧ t.damaged ∧ rbits r 14 14 = 0 then { failed 0x14 m.code with runs := runsOf bs r t xs }
            else
              let all := if t.kind = 2 then xs.map (spanVectors bs r t) else pics.map (pictureVectors bs r t)
              let kept := fitVectors (rbits x 223 192) all
              let lost := ((pics.take kept.length).map fun p => (Config.picture bs t.num p).lost.length).sum
              let conc := decide (0 < lost) || (decide (t.kind = 2) && t.damaged)
              { code := 0
                info := m.code * 2 ^ 8 + flagAt conc 16 + flagAt (decide (kept.length < all.length)) 17 + flagAt (ignores t.coding) 18
                  + flagAt (decide (m.code ∈ [0x20, 0x21, 0x22]) && !m.indexed) 19 + flagAt (decide (turned r t ≠ 0)) 20
                  + (kept.map List.length).sum * 2 ^ 32 + kept.length * 2 ^ 64
                  + (if t.kind = 2 then 0 else t.w * 2 ^ 96 + t.h * 2 ^ 128) + lost % 2 ^ 32 * 2 ^ 160
                  + (if t.kind = 0 then 0 else t.dur % 2 ^ 64 * 2 ^ 192)
                vectors := kept.flatten
                runs := runsOf bs r t xs }

end Sys2Proof.Machine
end

