-- ==== Sys2Proof/Machine/Platen.lean ====
section
/-!
DEFINITION. Platen: PLATEN.DEC, its decode table, its decode contexts and pipes, and its status records (R281, R291 to R301).
-/
namespace Sys2Proof.Machine

/-! ## The decode table (R295) -/

/-- A decode table entry (R295). -/
structure DecEntry where
  off : Nat
  len : Nat
  valid : Bool
  first : Nat
  max : Nat
  key : W64
  raw : BitVec 512
  deriving DecidableEq, Repr, Inhabited

def decEntry (v : Nat) : DecEntry :=
  { off := bitsOf v 63 0, len := bitsOf v 127 64, valid := decide (bitsOf v 144 144 = 1), first := bitsOf v 191 160
    max := bitsOf v 223 192, key := BitVec.ofNat 64 (bitsOf v 319 256), raw := BitVec.ofNat 512 v }

/-! ## Issue -/

/-- The windows of an invocation: media, table, status, output (R292, R293). -/
structure DecWindows where
  media : DInfo
  table : DInfo
  stat : DInfo
  out : DInfo
  deriving DecidableEq, Repr, Inhabited

def decWindows (r : BitVec 512) (a t st c : Desc) : Except JFault DecWindows := do
  let media ← dcheck a false
  let table ← dwords t
  let stat ← dwords st
  let out ← dcheck c false
  let n := table.size / 64
  if media.layout ≠ 6 ∨ table.size % 64 ≠ 0 ∨ n = 0 ∨ 4096 < n ∨ stat.size < 32 * n then throw .descriptor
  if out.layout ≠ 3 ∨ out.bdim ≠ 0 ∨ out.e 0 ≠ decLen r ∨ !out.fmt.isCell then throw .descriptor
  pure { media, table, stat, out }

/-- What PLATEN.DEC asks for at issue, or the fault that it raises. -/
def State.platenReq (s : State) (e : Exec) (a : EArgs) : Except JFault (Exec × Req) := do
  let r := s.record e a.recOff
  let n := e.count a
  if n = 0 ∨ claimPipes (s.claimOf e) < n then throw .descriptor
  let td := e.descN (rbits r 8 4)
  let sd := e.descN (rbits r 13 9)
  let w ← decWindows r e.descs[a.ta] td sd e.descs[a.tc]
  pure (e, { op := { id := 0, kind := .platen n, ev := a.ev, a := e.descs[a.ta], c := e.descs[a.tc], aux := [td, sd], record := r }
             rds := (w.media.pages ++ w.table.pages).dedup
             wrs := w.stat.wins (issuerOf e 0) true ++ w.out.wins (issuerOf e 0) true, wins := 4 })

/-- PLATEN.DEC (R216, R220, R293): at most as many pipes as the claim grants. -/
def execPlatenDec (c : Fin 16) (p : Pred) (a : EArgs) (s : State) : Out :=
  .next (s.async c p [a.rn] fun s e => s.platenReq e a)

/-! ## One call -/

/-- What a call does with one entry: it is not valid, in progress, finished in an earlier call with a status, or finished now. -/
inductive EntryEnd where
  | invalid
  | waiting
  | before (status : BitVec 256)
  | finished (code : Nat) (d : Decoded)
  deriving DecidableEq, Repr, Inhabited

/-- A call's progress: the contexts as it leaves them, the work that each pipe has done in ns, the entries that hold a context
with the work at which they finish in this call, and each entry's end. -/
structure Call where
  ctxs : List DecodeCtx
  pipes : List Nat
  held : List (Nat × Option Nat)
  ends : List EntryEnd
  deriving DecidableEq, Repr, Inhabited

/-- Of some pipes the one that is free first, with its work so far. -/
def freePipe (ps : List (Nat × Nat)) : Option (Nat × Nat) :=
  match ps with
  | [] => none
  | p :: t => some (t.foldl (fun b q => if q.1 < b.1 then q else b) p)

/-- One entry's progress in a call: the pipes, those that it uses, the work left of runs that it has begun, the runs begun in this
call, and the work at which the last of its runs ended. -/
structure Work where
  pipes : List Nat
  used : List Nat := []
  left : List Nat := []
  begun : Nat := 0
  until_ : Nat := 0
  deriving DecidableEq, Repr, Inhabited

/-- A run of an entry goes to the pipe that is free first, of at most 8 that the entry uses at once (R291); the pipe stops when it
reaches cap (R299). -/
def Work.part (cap : Nat) (k : Work) (p : Nat × Bool) : Work :=
  let may := (k.pipes.zipIdx.filter fun q => decide (k.used.length < 8) || k.used.contains q.2).filter fun q => decide (q.1 < cap)
  match freePipe may with
  | none => if p.2 then k else { k with left := k.left ++ [p.1] }
  | some (t, n) =>
    let k := { k with used := if k.used.contains n then k.used else k.used ++ [n], begun := k.begun + if p.2 then 1 else 0 }
    if t + p.1 ≤ cap then { k with pipes := k.pipes.set n (t + p.1), until_ := max k.until_ (t + p.1) }
    else { k with pipes := k.pipes.set n cap, left := k.left ++ [p.1 - (cap - t)] }

/-- The entries that hold a context when a pipe has done t ns of work. -/
def Call.holding (cl : Call) (t : Nat) : List Nat := (cl.held.filter fun h => match h.2 with | some u => decide (t < u) | none => true).map (·.1)

/-- Take entry i (R297 to R299): the pipes that are free first work on its runs up to cap; an entry that holds no context starts
only while fewer than 256 do; pages are what a context takes, and quota says that T2 space for as many is left. -/
def Call.take (cl : Call) (cap : Nat) (quota : Nat → Bool) (pages : Nat) (i : Nat) (x : DecEntry) (d : Decoded) : Call :=
  let mine := cl.ctxs.find? fun c => c.entry == i
  let rest := cl.ctxs.filter fun c => c.entry != i
  let status (code : Nat) : BitVec 256 := BitVec.ofNat 256 (d.info / 256 * 256 + code)
  let stop (cl : Call) (code : Nat) : Call :=
    { cl with
      ctxs := rest ++ [{ entry := i, key := x.key, pages := 0, fin := some (status code) }]
      ends := cl.ends ++ [.finished code d] }
  if !x.valid then { cl with ends := cl.ends ++ [.invalid] }
  else match mine.bind (·.fin) with
    | some f => { cl with ends := cl.ends ++ [.before f] }
    | none => match freePipe (cl.pipes.zipIdx) with
      | none => { cl with ends := cl.ends ++ [.waiting] }
      | some (t, p) =>
        let holding := cl.holding t
        if cap ≤ t ∨ (mine.isNone ∧ 256 ≤ holding.length) then { cl with ends := cl.ends ++ [.waiting] }
        else if mine.isNone ∧ 16384 < pages then stop { cl with pipes := cl.pipes.set p (t + 4000) } 0x13
        else if mine.isNone ∧ !quota (pages + ((cl.ctxs.filter fun c => holding.contains c.entry).map (·.pages)).sum) then
          stop { cl with pipes := cl.pipes.set p (t + 4000) } 0x15
        else
          let had := mine.getD { entry := i, key := x.key, pages }
          let k := (had.left.map (·, false) ++ (d.runs.drop had.next).map (·, true)).foldl (Work.part cap) { pipes := cl.pipes }
          let held := cl.held.filter fun h => h.1 != i
          if k.left = [] ∧ d.runs.length ≤ had.next + k.begun then
            stop { cl with pipes := k.pipes, held := held ++ [(i, some k.until_)] } d.code
          else
            { ctxs := rest ++ [{ had with next := had.next + k.begun, left := k.left }], pipes := k.pipes
              held := held ++ [(i, none)], ends := cl.ends ++ [.waiting] }

/-- An entry's status record (R296, R299, R300). -/
def EntryEnd.status (x : EntryEnd) : Nat :=
  match x with
  | .invalid => 0xFF
  | .waiting => 0xFE
  | .before f => f.toNat
  | .finished code d => d.info / 256 * 256 + code

/-- The vectors that a finished entry writes, at out_first onwards (R299); none for a status from 0x10. -/
def entryOut (w : DInfo) (x : DecEntry) (q : EntryEnd) : List (Nat × Byte) :=
  match q with
  | .finished 0 d =>
    if d.vectors = [] then []
    else
      let w := { w with org := [w.o 0, w.o 1 + x.first, w.o 2, w.o 3], win := [w.w 0, d.vectors.length, 1, 1] }
      (w.outputs 0 (fun _ => .rne) d.vectors.flatten).bytes
  | _ => []

/-- The effect of a PLATEN.DEC call. -/
def State.doPlaten (s : State) (e : Exec) (o : Op) (n : Nat) : Except JFault Exec := do
  let rd := s.rdByte e
  let r := o.record
  let w ← decWindows r o.a (o.aux.getD 0 0) (o.aux.getD 1 0) o.c
  let xs := (upto (w.table.size / 64)).map fun k => decEntry (w.table.num rd (64 * k) 64)
  if xs.any (fun x => x.valid && (decide (x.len = 0) || decide (w.media.w 0 < x.off + x.len) || decide (w.out.w 1 < x.first + x.max))) then
    throw .descriptor
  let keep := (e.st.decode.getD e.decode).filter fun c =>
    match xs[c.entry]? with
    | some x => x.valid && x.key == c.key
    | none => false
  let others := s.quotaUsed e.ctx .t2 - ((e.st.decode.getD e.decode).map (·.pages)).sum
  let quota (k : Nat) : Bool := match s.quota e.ctx .t2 with
    | none => true
    | some q => decide (others + k ≤ q)
  let start : Call := { ctxs := keep, pipes := List.replicate n 0, ends := []
                        held := (keep.filter fun c => c.fin.isNone).map fun c => (c.entry, none) }
  let run := xs.zipIdx.foldl (fun (cl : Call) x =>
    let bytes := rdBytes rd (w.media.base + w.media.o 0 + x.1.off) x.1.len
    cl.take (1000 * decCap r) quota (Config.contextPages bytes) x.2 x.1 (decodeEntry bytes x.1.raw r)) start
  let stat := w.stat.putWords (run.ends.flatMap fun q => leBytes 32 q.status)
  let out := (xs.zip run.ends).flatMap fun q => entryOut w.out q.1 q.2
  let e := s.store e (stat ++ out)
  let st := { e.st with
    decode := some run.ctxs
    platenDone := e.st.platenDone + run.ends.countP fun q => match q with | .finished .. => true | _ => false
    platenFailed := e.st.platenFailed + run.ends.countP fun q => match q with | .finished c _ => decide (c ≠ 0) | _ => false }
  pure { e with st }

end Sys2Proof.Machine
end

