-- ==== Sys2Proof/Machine/Hold.lean ====
section
/-!
DEFINITION. Namespaces, zones and the write path: what it takes to hold a write (R24, R451 to R457, R485), the
superblocks that it is programmed into (R441 to R445, R454, R456), and the change maps of solo states (R504).
-/
namespace Sys2Proof.Machine

/-! ## Namespaces and zones (R400, R401, R482) -/

/-- The namespace with an NSID. -/
def State.ns? (s : State) (n : Nat) : Option Ns := s.host.nss.find? fun x => x.nsid == n

/-- Update a namespace. -/
def State.modNs (s : State) (n : Nat) (f : Ns → Ns) : State :=
  { s with host := { s.host with nss := mapWhere (fun x => x.nsid == n) f s.host.nss } }

/-- The group with an ANAGRPID, 1 to 64. -/
def State.group (s : State) (g : Nat) : Group := if g = 0 then {} else (s.twin.groups.toList[g - 1]?).getD {}

/-- Update a group. -/
def State.modGroup (s : State) (g : Nat) (f : Group → Group) : State :=
  if g = 0 then s else { s with twin := { s.twin with groups := vmod s.twin.groups (g - 1) f } }

/-- The ANAGRPID of a namespace; 0 when there is none. -/
def State.groupOf (s : State) (n : Nat) : Nat :=
  match s.ns? n with
  | some x => x.group
  | none => 0

/-- A zone; an unlisted zone is empty. -/
def Ns.zone (n : Ns) (z : Nat) : Zone := (assocGet z n.zones).getD { state := .empty, wp := 0 }

/-- Set a zone; an empty one is not listed. -/
def Ns.setZone (n : Ns) (z : Nat) (q : Zone) : Ns :=
  { n with zones := if q = { state := .empty, wp := 0 } then assocErase z n.zones else assocPut z q n.zones }

/-- A write moves the zone's write pointer and opens the zone; at the zone's capacity it is full (R401). -/
def Zone.wrote (q : Zone) (stop : Nat) : Zone :=
  { state := if Config.zoneBlocks ≤ max q.wp stop then .full else if q.state = .expOpen then .expOpen else .impOpen
    wp := max q.wp stop }

/-- The zone that a write of n blocks ends in has moved. -/
def State.advance (s : State) (nsid lba n : Nat) : State :=
  s.modNs nsid fun x =>
    if x.zoned then
      x.setZone (lba / Config.zoneBlocks) ((x.zone (lba / Config.zoneBlocks)).wrote (lba % Config.zoneBlocks + n))
    else x

/-- Deallocate n blocks: data, map entry and any dirty copy (R405, R460). -/
def State.dealloc (s : State) (nsid lba n : Nat) : State :=
  let lo := blkKey nsid lba
  let out (k : Nat) : Bool := decide (k < lo) || decide (lo + n ≤ k)
  { s with
    host := { s.host with blks := s.host.blks.filter fun b => out b.1 }
    flash := { s.flash with
      map := s.flash.map.filter fun m => out m.1
      dirty := s.flash.dirty.filter fun d => out d.key } }

/-- A zone action of Zone Management Send on one zone (R401): Reset also deallocates its blocks. -/
def State.zoneApply (s : State) (nsid z : Nat) (act : ZoneAct) : State :=
  match act with
  | .reset => (s.modNs nsid fun x => x.setZone z { state := .empty, wp := 0 }).dealloc nsid (z * Config.zoneBlocks) Config.zoneBlocks
  | .finish => s.modNs nsid fun x => x.setZone z { state := .full, wp := Config.zoneBlocks }
  | .open => s.modNs nsid fun x => x.setZone z { x.zone z with state := .expOpen }
  | .close => s.modNs nsid fun x =>
    x.setZone z (if (x.zone z).wp = 0 then { state := .empty, wp := 0 } else { x.zone z with state := .closed })
  | .offline | .setExt => s

/-! ## Superblocks (R441 to R445, R453, R454, R472) -/

/-- A superblock; an unlisted one is free and unworn. -/
def State.sb (s : State) (n : Nat) : Sb := (assocGet n s.flash.sbs).getD {}

/-- Update a superblock. -/
def State.modSb (s : State) (n : Nat) (f : Sb → Sb) : State :=
  { s with flash := { s.flash with sbs := assocPut n (f (s.sb n)) s.flash.sbs } }

/-- The die group of a superblock (R441). -/
def groupOfSb (sb : Nat) : Nat := sb / 2048

/-- The superblock of a die operation. -/
def DieOp.sb : DieOp → Nat
  | .program _ sb .. => sb
  | .erase _ sb .. => sb

/-- The channel of the parity page of stripe s of a superblock (R442). -/
def parityChan (sb s : Nat) : Nat := (sb + s) % 32

/-- The channel of a block's page: the 31 data pages of a stripe take 16 KiB runs in ascending channel order, with the parity
channel skipped (R443). -/
def locChan (l : Loc) : Nat :=
  let p := l.slot / 4
  if p < parityChan l.sb l.stripe then p else p + 1

/-- The die that holds a block's page (R441). -/
def onDie (l : Loc) (d : Die) : Bool :=
  decide (groupOfSb l.sb = 8 * d.bridge.val + d.pos.val) && decide (locChan l = d.chan.val)

/-- The unit epoch of its bridge that a die operation carries (R19). -/
def DieOp.uep : DieOp → BitVec 16
  | .program _ _ _ _ _ u => u
  | .erase _ _ _ _ u => u

/-- The unit epoch of the bridge of a superblock (R547). -/
def State.bridgeEpoch (s : State) (sb : Nat) : BitVec 16 := s.unitEpoch (unitCode (.bridge (Fin.ofNat 16 (groupOfSb sb / 8))))

/-- The number of a die operation. -/
def DieOp.id : DieOp → Nat
  | .program id .. => id
  | .erase id .. => id

/-- Blocks that a read waits for: those left of a host's Read or Verify, and those that the namespace pages of a
step's outstanding operations take. -/
def State.readKeys (s : State) : List Nat :=
  (s.host.cmds.flatMap fun o => match o.body with
    | .read nsid _ _ left _ => left.map (blkKey nsid)
    | _ => [])
  ++ s.sched.execs.flatMap fun e => e.st.ops.flatMap fun o => o.rdPages.flatMap fun p => match s.execPlace e p with
    | .ns nsid lba _ _ => (upto 16).map fun k => blkKey nsid (lba + k)
    | _ => []

/-- Die groups with a read queued (R445, R473). -/
def State.readGroups (s : State) : List Nat :=
  (s.readKeys.filterMap fun k => (assocGet k s.flash.map).map fun l => groupOfSb l.sb).dedup

/-- The busy limit of a die group (R445, R449, R461). -/
def State.busyLimit (s : State) (g : Nat) : Nat :=
  if s.flash.failed.any (fun f => decide (f.1 = g)) then 0
  else if s.life.phase = .flushing then 16
  else if s.readGroups.contains g then 1
  else s.flash.bmax

/-- Operations under way in a die group. -/
def State.busyIn (s : State) (g : Nat) : Nat := s.flash.ops.countP fun o => decide (groupOfSb o.sb = g)

/-- A die group may start one more operation (R445); after its bridge's brown-out trip none starts (R462). -/
def State.mayStart (s : State) (g : Nat) : Bool :=
  !s.flash.retired.contains g && !(s.flash.bridges[Fin.ofNat 16 (g / 8)]).bod && decide (s.busyIn g < s.busyLimit g)

/-- Stripes of a superblock: 2,048 in pSLC mode, which stores one bit in the place of four, otherwise
8,192 (R439, R442). -/
def stripesOf (pslc : Bool) : Nat := if pslc then 2048 else 8192

/-- Weighted erase count in twentieths of a QLC cycle (R472). -/
def Sb.wear (x : Sb) : Nat := 20 * x.eraseQ + x.eraseP

/-- Search upwards for a superblock that is not listed in a group that may start work. -/
def freshSb (s : State) : Nat → Nat → Option Nat
  | 0, _ => none
  | f + 1, n =>
    if Config.superblocks ≤ n then none
    else if !(s.mayStart (groupOfSb n)) then freshSb s f ((groupOfSb n + 1) * 2048)
    else if (assocGet n s.flash.sbs).isSome then freshSb s f (n + 1)
    else some n

/-- The least worn of some superblocks. -/
def leastWorn : List (Nat × Sb) → Option (Nat × Sb)
  | [] => none
  | x :: t => match leastWorn t with
    | none => some x
    | some y => some (if y.2.wear < x.2.wear then y else x)

/-- A free superblock to open, least worn first (R472); none of its dies is under erase (R465). -/
def State.freeSb (s : State) : Option Nat :=
  match freshSb s (s.flash.sbs.length + 129) 0 with
  | some n => some n
  | none => (leastWorn (s.flash.sbs.filter fun x => x.2.state == .free && s.mayStart (groupOfSb x.1)
      && !(s.flash.ops.any fun o => decide (o.sb = x.1)))).map (·.1)

/-- Superblocks that are free (R473, R458). -/
def State.freeSbs (s : State) : Nat :=
  Config.superblocks - 2048 * s.flash.retired.length
    - s.flash.sbs.countP fun x => !(x.2.state == .free) && !s.flash.retired.contains (groupOfSb x.1)

/-- Blocks whose place is in pSLC superblocks. -/
def State.pslcBlocks (s : State) : Nat :=
  let ps := (s.flash.sbs.filter fun x => x.2.state == .pslc || x.2.state == .open true false).map (·.1)
  s.flash.map.countP fun m => ps.contains m.2.sb

/-- F in 4 KiB blocks (R453). -/
def State.freeBlocks (s : State) : Nat := Config.userBlocks - s.flash.map.length - 16 * s.usedPages .t3

/-- S in GiB: F / 8 between 512 GiB and 24 TiB (R453). -/
def State.pslcGib (s : State) : Nat := max 512 (min 24576 (s.freeBlocks / 262144 / 8))

/-- The buffer has room for one more stripe (R454). -/
def State.pslcRoom (s : State) : Bool := decide (s.pslcBlocks + 124 ≤ s.pslcGib * 262144)

/-- Host writes may not open a superblock now: fewer than 256 are free, and garbage collection has freed none that they have not
taken (R458). -/
def State.paced (s : State) : Bool := decide (s.freeSbs < 256) && decide (s.flash.credit = 0)

/-- The superblock that can take a stripe: the open one of its kind, or a free one, which is then opened for it. Result: the
superblock, and whether it is newly opened. -/
def State.openSb (s : State) (pslc gc host : Bool) : Option (Nat × Bool) :=
  match s.flash.sbs.find? (fun x => x.2.state == .open pslc gc && decide (x.2.nextStripe < stripesOf pslc) && s.mayStart (groupOfSb x.1)) with
  | some x => some (x.1, false)
  | none => if host && s.paced then none else s.freeSb.map fun n => (n, true)

/-- Start the program of one stripe (R443). Where nothing can take it, nothing starts. -/
def State.program (s : State) (pslc gc : Bool) (entries : List (Nat × Option Loc)) (seqs : List Nat) : State :=
  let host := entries.any fun x => x.2.isNone
  match s.openSb pslc gc host with
  | none => s
  | some (n, new) =>
    let stripe := (s.sb n).nextStripe
    let last := decide (stripe + 1 = stripesOf pslc)
    let op := DieOp.program s.flash.nextOp n stripe entries seqs (s.bridgeEpoch n)
    let s := s.modSb n fun x =>
      { x with
        nextStripe := stripe + 1
        state := if last then (if pslc then .pslc else .closed) else .open pslc gc
        closedSeq := if last then s.flash.closeSeq else x.closedSeq }
    { s with flash := { s.flash with
        ops := s.flash.ops ++ [op]
        nextOp := s.flash.nextOp + 1
        credit := if host && new then s.flash.credit - 1 else s.flash.credit
        closeSeq := s.flash.closeSeq + 1
        pslcOrder := if pslc ∧ !s.flash.pslcOrder.contains n then s.flash.pslcOrder ++ [n] else s.flash.pslcOrder } }

/-! ## The write buffer (R451, R452, R456) -/

/-- The sequence numbers of dirty data that a program under way carries. -/
def State.programming (s : State) : List Nat :=
  s.flash.ops.flatMap fun o => match o with
    | .program _ _ _ _ seqs _ => seqs
    | .erase .. => []

/-- The stream that a dirty block is gathered in: its zone, or the conventional stream (R456). -/
def State.stream (s : State) (key : Nat) : Option (Nat × Nat) :=
  match s.ns? (key / 2 ^ 64) with
  | some n => if n.zoned then some (n.nsid, key % 2 ^ 64 / Config.zoneBlocks) else none
  | none => none

/-- A stream's partial stripe is padded: the module writes through (R452), flushes (R461), or the zone is
full (R456). -/
def State.pads (s : State) (st : Option (Nat × Nat)) : Bool :=
  s.flash.wthru || s.life.phase == .flushing || s.life.phase == .cleanShutdown || s.life.phase == .majorOut
    || (match st with
        | some q => (match s.ns? q.1 with
          | some n => (n.zone q.2).state == .full
          | none => false)
        | none => false)

/-- Gather the waiting dirty data of each stream into stripes and start one program for each (R443, R451). -/
def State.gather (s : State) : State :=
  let busy := s.programming
  let wait := s.flash.dirty.filter fun d => !busy.contains d.seq
  let streams := (wait.map fun d => s.stream d.key).dedup
  streams.foldl (fun s st =>
    let ds := (wait.filter fun d => s.stream d.key == st).take 124
    if ds.length = 124 ∨ (ds ≠ [] ∧ s.pads st) then
      s.program (st.isNone && s.pslcRoom) false (ds.map fun d => (d.key, none)) (ds.map (·.seq))
    else s) s

/-- Dirty data in bytes. -/
def State.dirtyBytes (s : State) : Nat := 4096 * s.flash.dirty.length

/-- The command writes blocks of a namespace through the write buffer. -/
def Body.isBlocks : Body → Bool
  | .write .. | .zoneAppend .. => true
  | .memWrite .. | .memRead .. | .load .. | .exec _ | .ingest .. | .read .. | .evictWait _ | .other => false

/-- Write data that has been asked for and is not yet in the write buffer. -/
def State.comingIn (s : State) : Nat :=
  ((s.host.cmds.filter fun o => o.body.isBlocks && o.wait == .data).map (·.asked)).sum

/-- The write buffer has room for more write data within the dirty limit (R451); a module that writes through
takes it regardless (R452). -/
def State.bufferRoom (s : State) (bytes : Nat) : Bool :=
  s.flash.wthru || decide (s.dirtyBytes + s.comingIn + bytes ≤ s.flash.limitMib * 1048576)

/-- A block is a root record (R308). -/
def isRoot (b : Blk) : Bool := decide (bitsOf b.toNat 31 0 = 0x58444E49)
/-- The generation of a root record. -/
def rootGen (b : Blk) : Nat := bitsOf b.toNat 191 128
/-- m_g of a root record. -/
def rootAbsorbed (b : Blk) : Nat := bitsOf b.toNat 255 192
/-- The stock capacity of a root record. -/
def rootCap (b : Blk) : Nat := bitsOf b.toNat 127 96

/-- Update an index, opening it if need be. -/
def State.modIndex (s : State) (n : Nat) (f : Index → Index) : State :=
  if s.indexes.any (fun x => x.nsid == n) then { s with indexes := mapWhere (fun x => x.nsid == n) f s.indexes }
  else { s with indexes := s.indexes ++ [f { nsid := n }] }

/-- A write of LBA 0 that puts a root record of another generation in the place of one publishes it: the old
root record is kept until its pages are deallocated (R318, R321). -/
def State.publish (s : State) (nsid lba : Nat) (b : PBlk) : State :=
  if lba = 0 ∧ isRoot b.data then
    let old := (s.blk nsid 0).data
    s.modIndex nsid fun x => if isRoot old ∧ rootGen old ≠ rootGen b.data then { x with old := x.old ++ [(rootGen old, old)] } else x
  else s

/-- Put one block into the write buffer; the newest copy of a block is the one that counts. -/
def State.hold1 (s : State) (nsid lba : Nat) (b : PBlk) : State :=
  let s := s.publish nsid lba b
  { s with flash := { s.flash with
      dirty := (s.flash.dirty.filter fun d => d.key != blkKey nsid lba) ++ [{ key := blkKey nsid lba, seq := s.flash.seq, blk := b }]
      seq := s.flash.seq + 1 } }

/-- Hold consecutive blocks. -/
def State.holdAll (s : State) (nsid lba : Nat) : List PBlk → State
  | [] => s
  | b :: t => (s.hold1 nsid lba b).holdAll nsid (lba + 1) t

/-- Hold a write: its blocks are in the write buffer, and its zone has moved (R451). -/
def State.hold (s : State) (nsid lba : Nat) (bs : List PBlk) : State :=
  ((s.holdAll nsid lba bs).advance nsid lba bs.length).gather

/-- Apply a write, a deallocation or a zone action on this module (R484). -/
def State.applyWrite (s : State) (w : MirWrite) : State :=
  match w.op with
  | .write => s.hold w.nsid w.lba w.blocks
  | .deallocate n => s.dealloc w.nsid w.lba n
  | .zone act => (s.zoneApply w.nsid (w.lba / Config.zoneBlocks) act).gather
  | .memory _ => s

/-- Blocks that a mirrored operation touches. -/
def mirCount (w : MirWrite) : Nat :=
  match w.op with
  | .write => w.blocks.length
  | .deallocate n => n
  | .zone _ => Config.zoneBlocks
  | .memory _ => 0

/-! ## Both modules (R24, R483, R485, R504) -/

/-- A solo state (R504, R506); conflict, in which a group is not mirrored (R505), is taken as one. -/
def State.solo (s : State) : Bool :=
  s.twin.st == .soloSplit || s.twin.st == .soloSurvivor || s.twin.st == .conflict

/-- Mark the 4 MiB regions of a change in its group's change map (R504). -/
def State.markChanged (s : State) (w : MirWrite) : State :=
  if s.solo then
    let rs := (upto ((w.lba % 1024 + (mirCount w) + 1023) / 1024)).map fun k => (w.nsid, w.lba / 1024 + k)
    s.modGroup (s.groupOf w.nsid) fun g => { g with changed := (g.changed ++ rs).dedup }
  else s

/-- One byte into a reflected 64-bit CRC with the NVMe polynomial. -/
def crcByte (c : W64) (b : Byte) : W64 :=
  (upto 8).foldl (fun c _ => if c.getLsbD 0 then (c >>> 1) ^^^ 0x9A6C9329AC4BC9B5#64 else c >>> 1) (c ^^^ b.setWidth 64)

/-- The 64-bit CRC of a list of bytes. -/
def crc64 (bs : List Byte) : W64 := ~~~(bs.foldl crcByte (~~~0#64))

/-- The guard of a block (R404). -/
def guardOf (b : Blk) : W64 := crc64 (blkBytes b)

/-- Protection information that the module itself gives a block. -/
def ownPi (t : ProtType) (lba : Nat) (b : Blk) : PInfo :=
  { guard := guardOf b, app := 0, ref := match t with | .type1 => BitVec.ofNat 48 lba | .type3 => 0 }

/-- The checks of a block's protection information are disabled by its tags, as the NVM command set has it. -/
def piOff (t : ProtType) (p : PInfo) : Bool :=
  match t with
  | .type1 => p.app == 0xFFFF
  | .type3 => p.app == 0xFFFF && p.ref == BitVec.allOnes 48

/-- The status code with which a block's protection information fails: guard 82h, reference tag 84h. -/
def piFault (t : ProtType) (lba : Nat) (b : PBlk) : Option Nat :=
  match b.pi with
  | none => some 0x82
  | some p =>
    if piOff t p then none
    else if p.guard ≠ guardOf b.data then some 0x82
    else if t = .type1 ∧ p.ref ≠ BitVec.ofNat 48 lba then some 0x84
    else none

/-- The first fault among consecutive blocks. -/
def piFaults (t : ProtType) (lba : Nat) : List PBlk → Option Nat
  | [] => none
  | b :: r => match piFault t lba b with
    | some c => some c
    | none => piFaults t (lba + 1) r

/-- A namespace's check of consecutive blocks; one without metadata has none. -/
def Ns.check (n : Ns) (lba : Nat) (bs : List PBlk) : Option Nat :=
  match n.pit with
  | some t => piFaults t lba bs
  | none => none

/-- Blocks as a namespace stores them: with protection information exactly where it has metadata. -/
def Ns.keep (n : Ns) (lba : Nat) (bs : List PBlk) : List PBlk :=
  bs.zipIdx.map fun b => match n.pit with
    | none => { b.1 with pi := none }
    | some t => { b.1 with pi := some (b.1.pi.getD (ownPi t (lba + b.2) b.1.data)) }

/-- A write with its blocks as the namespace stores them. -/
def State.kept (s : State) (w : MirWrite) : MirWrite :=
  match s.ns? w.nsid with
  | some n => { w with blocks := n.keep w.lba w.blocks }
  | none => w

/-- Give out a namespace write of a command or of an execution's release. A declarer holds it, numbers it
and sends it to the dummy; a dummy sends it to the declarer. The result is the group and sequence number
whose acknowledgement the write waits for. -/
def State.writeOut (s : State) (w : MirWrite) (hdr : Option Hdr) (exec : Option Nat) : State × Option (Nat × Nat) :=
  let g := s.groupOf w.nsid
  let w := s.kept w
  let bytes := 4096 * w.blocks.length
  if s.paired then
    if (s.group g).role = .dummy then
      let q := 2 ^ 64 + s.twin.memSeq
      let s := s.toPeer (.release { w with group := g, seq := q })
      ({ s with twin := { s.twin with
          memSeq := s.twin.memSeq + 1
          unacked := s.twin.unacked ++ [{ group := g, seq := q, bytes, hdr, exec, w := some w }] } }, some (g, q))
    else
      let q := (s.group g).seq + 1
      let s := (s.modGroup g fun x => { x with seq := q }).applyWrite w
      let s := s.toPeer (.write { w with group := g, seq := q })
      ({ s with twin := { s.twin with unacked := s.twin.unacked ++ [{ group := g, seq := q, bytes, hdr, exec, w := some w }] } }, some (g, q))
  else
    (((s.modGroup g fun x => { x with seq := x.seq + 1 }).applyWrite w).markChanged w, none)

/-- The blocks of a write that are not yet programmed, where the module writes through (R452). -/
def State.unprogrammed (s : State) (nsid lba n : Nat) : Bool :=
  s.flash.wthru && s.flash.dirty.any fun d => decide (blkKey nsid lba ≤ d.key) && decide (d.key < blkKey nsid lba + n)

/-- A namespace write of an execution, with all that it waits for: the partner's acknowledgement, and its own program where
the module writes through (R24, R452). -/
def State.writeHeld (s : State) (w : MirWrite) (exec : Nat) : State × List (Nat × Nat) :=
  let r := s.writeOut w none (some exec)
  let thru := if r.1.unprogrammed w.nsid w.lba w.blocks.length then (upto w.blocks.length).map fun k => (0, blkKey w.nsid (w.lba + k)) else []
  (r.1, r.2.toList ++ thru)

/-- Write commands that wait for their own program complete once their blocks are programmed (R452);
executions that wait so go on. -/
def State.wroteThrough (s : State) (keys : List Nat) : State :=
  let execs := s.sched.execs.map fun e => e.unwait fun a => a.1 == 0 && keys.contains a.2
  let s := { s with sched := { s.sched with execs := execs } }
  let ready := s.host.cmds.filter fun o => o.wait == .flash && (match o.body with
    | .write nsid lba bs => !(s.unprogrammed nsid lba bs.length)
    | _ => false)
  ready.foldl (fun s o => s.okDw o.hdr o.dw0 o.dw1) s

/-- The end of a program (R457, R459): verified data gets its map entries, unless its block has been
written or moved since; data that was not verified stays in the write buffer or at its source. -/
def State.programDone (s : State) (op : DieOp) (verified : Bool) : State :=
  let s := { s with flash := { s.flash with ops := s.flash.ops.filter fun o => o.id != op.id } }
  match op with
  | .erase .. => s
  | .program _ sb stripe entries seqs _ =>
    if !verified then s
    else
      let items := (entries.zip (seqs.map some ++ List.replicate entries.length none)).zipIdx
      let keep := items.filter fun x => match x.1.1.2, x.1.2 with
        | some src, _ => assocGet x.1.1.1 s.flash.map == some src
        | none, some q => s.flash.dirty.any fun d => decide (d.key = x.1.1.1) && decide (d.seq = q)
        | none, none => false
      let map := keep.foldl (fun m x => assocPut x.1.1.1 { sb, stripe, slot := x.2 } m) s.flash.map
      let done := s.flash.dirty.filter fun d => seqs.contains d.seq
      let dirty := s.flash.dirty.filter fun d => !(seqs.contains d.seq)
      let blks := done.foldl (fun m d => assocPut d.key d.blk m) s.host.blks
      let s := { s with host := { s.host with blks } }
      let s := { s with flash := { s.flash with map, dirty, journal := s.flash.journal + keep.length } }
      s.wroteThrough (entries.map (·.1))

/-- Complete every program under way, as verified. -/
def State.programsDone (s : State) : State :=
  (s.flash.ops.filter fun o => match o with | .program .. => true | .erase .. => false).foldl (fun s o => s.programDone o true) s

/-- Rounds of gathering and programming. -/
def flushRounds : Nat → State → State
  | 0, s => s
  | n + 1, s => flushRounds n s.gather.programsDone

/-- The flush of R461 from step 4: all dirty data is padded to whole stripes and programmed. -/
def State.flushAll (s : State) : State :=
  flushRounds (s.flash.dirty.length + 1) ({ s with life := { s.life with phase := .flushing } }).programsDone

/-- Dirty data is lost with the write buffer, and programs under way are interrupted (R466): a block reads
as it did before; an open zone ends before the first block lost in it and is closed. -/
def State.loseDirty (s : State) : State :=
  let lost := s.flash.dirty.map (·.key)
  let zone (n : Ns) (z : Nat × Zone) : Nat × Zone :=
    let lo := blkKey n.nsid (z.1 * Config.zoneBlocks)
    let first := ((lost.filter fun k => decide (lo ≤ k) && decide (k < lo + Config.zoneBlocks)).map (· - lo)).min?
    let wp := min z.2.wp (first.getD z.2.wp)
    (z.1, { state := if z.2.state = .full ∧ first = none then .full else .closed, wp })
  let nss := s.host.nss.map fun n => { n with zones := (n.zones.map (zone n)).filter fun z => z.2.wp != 0 }
  { s with
    host := { s.host with nss }
    flash := { s.flash with
      dirty := []
      ops := s.flash.ops.filter fun o => match o with | .program .. => false | .erase .. => true } }

end Sys2Proof.Machine
end

