-- ==== Sys2Proof/Machine/Service.lean ====
section
/-!
DEFINITION. Serving commands: which phases serve them (R576, R577, R592), whose context they run under (R393, R416,
R591), catching and aborting (R397), and the end of an association (R395).
-/
namespace Sys2Proof.Machine

/-! ## Service -/

/-- The firmware is up, so host commands are served (R575 to R577). -/
def State.serving (s : State) : Bool :=
  s.life.phase == .firmwareUp || s.life.phase == .inService || s.life.phase == .cleanShutdown

/-- I/O commands and jobs are served; otherwise they complete with Namespace Not Ready (R576, R577). -/
def State.nsReady (s : State) : Bool := s.life.phase == .inService

/-- The controller with an identifier. -/
def State.ctrl? (s : State) (n : Nat) : Option Ctrl := s.host.ctrls.find? fun c => c.id == n

/-- The context that a command runs under (R393, R591). -/
def State.ctxOf (s : State) (h : Hdr) : Option (Fin 64) :=
  match h.path with
  | .ctrl n => (s.ctrl? n).map (·.ctx)
  | _ => some 0

/-- The controller identifier of a command's path; 0 on the management paths. -/
def hdrCtrl (h : Hdr) : Nat := match h.path with | .ctrl n => n | _ => 0

/-- Context 0 over an authenticated connection, or the management path (R416, R591). -/
def State.isRoot (s : State) (h : Hdr) : Bool :=
  match h.path with
  | .ctrl n => (match s.ctrl? n with
    | some c => decide (c.ctx = 0) && c.auth
    | none => false)
  | _ => true

/-- The command's identity is that of an outstanding command. -/
def State.outstanding (s : State) (h : Hdr) : Bool :=
  s.host.cmds.any (fun o => o.hdr == h) || s.host.aerReqs.contains h

/-- Post a completion that belongs to no outstanding command: Command ID Conflict (type 0h, code 03h). -/
def State.conflict (s : State) (h : Hdr) : State :=
  { s with host := { s.host with cq := s.host.cq ++ [{ hdr := h, sct := 0, sc := 0x03, dw0 := 0, dw1 := 0 }] } }

/-- The module is in the Trump state or out of service: only four management commands are served (R592). -/
def State.miLimited (s : State) : Bool :=
  s.life.phase == .trump || s.life.phase == .outOfService

/-- The management controller runs while PD_AO does. -/
def State.miUp (s : State) : Bool := s.life.dom.ao && s.life.phase != .off

/-- Answer a management command: status and data (R591). -/
def State.mi (s : State) (h : Hdr) (status : Nat) (data : List Nat) : State :=
  if s.host.miDrop.contains h then { s with host := { s.host with miDrop := s.host.miDrop.erase h } }
  else { s with host := { s.host with mi := s.host.mi ++ [(h, status, data)] } }

/-- The path carries commands: I3C unless a short has it released (R613), the management port once it has a key
(R590). -/
def State.pathOpen (s : State) (h : Hdr) : Bool :=
  match h.path with
  | .ctrl _ => true
  | .i3c => !s.phys.i3cReleased
  | .mgmtPort => s.host.mgmtKey.isSome

/-- A command arrives on any path: its controller exists, its identity is free, and firmware is up. On a management
path it is tunnelled (R591); in the limited states it completes with Internal Error (R592), and before firmware is up
with an NVMe-MI status that no rule states. -/
def State.arriveAny (s : State) (h : Hdr) (f : Fin 64 → State) : State :=
  match h.path with
  | .ctrl n => (match s.ctrl? n with
    | none => s
    | some k => if !s.serving then s else if s.outstanding h then s.conflict h else f k.ctx)
  | _ =>
    if !s.miUp || !s.pathOpen h then s
    else if s.miLimited then s.mi h 0x02 []
    else if !s.serving then ({ s with free := s.free + 1 }).mi h ((Config.freeWord s.free).toNat % 256) []
    else if s.outstanding h then s.conflict h
    else f 0

/-- A command that only hosts may send: on a management path it is an unknown opcode (R591). -/
def State.arrive (s : State) (h : Hdr) (f : Fin 64 → State) : State :=
  s.arriveAny h fun c => match h.path with
    | .ctrl _ => f c
    | _ => s.badOpcode h

/-- A host command of an enabled context (R268). -/
def State.command (s : State) (h : Hdr) (f : Fin 64 → State) : State :=
  s.arrive h fun c => if s.enabled c then f c else s.denied h

/-- A command of an enabled context that is also tunnelled (R591). -/
def State.commandAny (s : State) (h : Hdr) (f : Fin 64 → State) : State :=
  s.arriveAny h fun c => if s.enabled c then f c else s.denied h

/-- A host command marked root (R416). -/
def State.rootCmd (s : State) (h : Hdr) (f : State) : State :=
  s.arrive h fun _ => if s.isRoot h then f else s.denied h

/-- A write of context c to a register that only context 0 may write is logged (R15); the register is named by its block code
and 256 times its index. -/
def State.refuseRs (s : State) (name : Nat) (c : Fin 64) : State := if c = 0 then s else s.log .rsRefused name c.val

/-- A host command marked root that writes root-settable fields (R15, R416). -/
def State.rsCmd (s : State) (h : Hdr) (name : Nat) (f : State) : State :=
  s.arrive h fun c => if s.isRoot h then f else (s.refuseRs name c).denied h

/-- A command marked root that is also tunnelled (R416, R591). -/
def State.rootAny (s : State) (h : Hdr) (f : State) : State :=
  s.arriveAny h fun _ => if s.isRoot h then f else s.denied h

/-- The connection of a command's admin queue uses TLS (R416, R419). The management paths carry their own
protection (R590). -/
def State.overTls (s : State) (h : Hdr) : Bool :=
  match h.path with
  | .ctrl n => (match s.ctrl? n with
    | some c => c.tls
    | none => false)
  | _ => true

/-- A management command arrives on a management path; lim says that it is served in the limited states. -/
def State.miCmd (s : State) (h : Hdr) (lim : Bool) (f : State) : State :=
  match h.path with
  | .ctrl _ => s
  | _ => if !s.miUp || !s.pathOpen h then s else if s.miLimited && !lim then s.mi h 0x02 [] else f

/-! ## Control state and the partner (R491, R493) -/

/-- A change of control state: a new epoch is due (R491). -/
def State.touchControl (s : State) : State := { s with twin := { s.twin with dirty := true } }

/-- Complete a control-state command: after adoption by the partner, or at once without one (R493). The
epoch that holds the change is the next one that starts. -/
def State.okAfterEpoch (s : State) (h : Hdr) (body : Body) (dw0 dw1 : W32) : State :=
  let s := s.touchControl
  if s.paired then
    s.await { hdr := h, body, wait := .epoch (s.twin.epSent + 1), dw0, dw1 }
  else s.okDw h dw0 dw1

/-! ## Catching a command (R397, R395) -/

/-- Whether an outstanding command can still be caught (R397). -/
def State.catchable (s : State) (o : OutCmd) : Bool :=
  match o.body with
  | .read _ _ _ _ send => send
  | .write .. | .memWrite .. | .memRead .. | .zoneAppend .. | .load .. => o.wait == .data || o.wait == .xlate
  | .exec id => (match s.ex? id with
    | some e => e.phase != .draining
    | none => false)
  | .ingest id obj => (match s.ex? id with
    | some e => !(e.objs.any fun x => x.hdr == obj.hdr && x.stage == .appended)
    | none => true)
  | .evictWait _ | .other => false

/-- Catch a command: it has no effect, and its completion is as the end says (aborted or silent). The other members of a gang
carry on (R365). -/
def State.caught (s : State) (o : OutCmd) (how : JobEnd) : State :=
  let plain (s : State) : State :=
    if how = .silent then { s with host := { s.host with cmds := s.host.cmds.filter fun x => !(x.hdr == o.hdr) } }
    else s.post o.hdr 0 0x07 0 0
  match o.body with
  | .exec id => (match s.ex? id with
    | some e => s.endExec e how
    | none => plain s)
  | .ingest id obj => (match s.ex? id with
    | some e =>
      (s.setEx { e with objs := e.objs.filter fun x => !(x.hdr == obj.hdr) }).jobDone o.hdr e.ctx obj.deadline how
    | none => plain s)
  | .load prog .. =>
    plain { s with sched := { s.sched with images := s.sched.images.filter fun i => i.prog != prog } }
  | _ => plain s

/-- The end of an association (R395): its commands are caught without a completion, and its controller,
queues and connections go. A command that can no longer be caught keeps its effect and sends nothing. -/
def State.endAssoc (s : State) (n : Nat) : State :=
  let mine := s.host.cmds.filter fun o => o.hdr.path == .ctrl n
  let s := mine.foldl (fun s o =>
    if s.host.cmds.any (fun x => x.hdr == o.hdr) then
      (if s.catchable o then s.caught o .silent
      else { s with host := { s.host with cmds := s.host.cmds.filter fun x => !(x.hdr == o.hdr) } })
    else s) s
  { s with host := { s.host with
      ctrls := s.host.ctrls.filter fun c => c.id != n
      queues := s.host.queues.filter fun q => q.cntlid != n
      conns := s.host.conns.filter fun c => c.cntlid != some n
      aerReqs := s.host.aerReqs.filter fun h => !(h.path == .ctrl n)
      aerQueue := s.host.aerQueue.filter fun a => a.1 != n
      nss := s.host.nss.map fun x => { x with attached := x.attached.filter (· != n) } } }

/-- Every association ends (R532). -/
def State.endAllAssocs (s : State) : State := (s.host.ctrls.map (·.id)).foldl State.endAssoc s

/-! ## Losing volatile state -/

/-- The switched domains lose power: executions, compositors, T0 to T3 pages of programs, translation, host
transport and the step machinery are gone; what NOR, flash and PD_AO hold stays (R461, R579, R583). -/
def State.dropVolatile (s : State) : State :=
  let s := s.endAllAssocs
  let comps := s.sched.comps.map fun _ => ({} : Comp)
  { s with
    sched := { ({} : Sched) with budget := s.sched.budget, comps }
    tiers := { ({} : Tiers) with spillGib := s.tiers.spillGib }
    indexes := s.indexes.map fun x => { x with waiting := [] }
    eng := {}
    trace := {}
    host := { s.host with log := [], logSeq := 0, cmds := [], conns := [], ctrls := [], queues := [], aerReqs := [], aerQueue := [], stopJobs := false } }

/-! ## Power down and module reset (R509, R577, R579) -/

/-- A paired module that goes out of service loses its roles to its partner: every group is a dummy's and
Inaccessible until resilvering has synchronised it (R499, R509). -/
def State.loseRoles (s : State) : State :=
  if s.paired then
    let groups := s.twin.groups.map fun g =>
      if g.role = .unused then g
      else { g with role := .dummy, synced := false, ana := .inaccessible, handing := false }
    { s with twin := { s.twin with st := .soloSplit, since := s.now, groups } }
  else s

/-- What the twin link loses with PD_TL and PD_CC. -/
def Twin.down (t : Twin) : Twin :=
  { t with
    cages := t.cages.map fun c => { c with lanes := 0, missed := 0, consec := 0, retrains := 0 }
    unacked := [], epFlight := none, owed := none, staging := [], waiting := [], checkAt := none, pairAt := none
    resDone := 0 }

/-- What is left of the 600 s of a trial, in ns; time spent down does not count (R582, R593). -/
def State.trialNs (s : State) : Nat :=
  if s.fw.inTrial then (if s.serving then s.fw.trialLeft - (s.now - s.life.fwUpAt) else s.fw.trialLeft) else 0

/-- Remove every switched domain (R33, R577 step 5): volatile state is lost, PD_AO stays on. Whether the measured forme rate
outlasts it no rule says: the model keeps it, as firmware's record (log entry 141). -/
def State.powerDown (s : State) : State :=
  let s := (s.loseRoles.dropVolatile).loseDirty
  let bridges := s.flash.bridges.map fun b => { b with up := false, resetting := false }
  { s with
    life := { s.life with dom := s.life.dom.lower, fallAfter := false }
    fw := { s.fw with trialLeft := s.trialNs }
    flash := { s.flash with bridges, bmax := 8 }
    fab := { s.fab with gated := 0, gatedNow := 0, freq := 16, freqNext := 16, stretch := 0, stretchCount := Vector.replicate 16 0 }
    twin := s.twin.down
    units := { s.units with resetting := [], stale := 0 }
    scrub := Vector.replicate 5 {}
    ptp := { s.ptp with locked := false, ever := false, ports := Vector.replicate 4 false }
    pwr := { s.pwr with rung := 0, lowTicks := 0, stretches := 0, keep16 := 16, loopRed := 0, coolMax := 4000, p1 := 0, p100 := 0, effW := s.pwr.capNext } }

/-- The conditions of R574 hold. -/
def State.mayStart574 (s : State) : Bool := s.life.dom.ao && s.life.aoReady && s.life.in48Ok && s.life.pwrEn

/-- A module reset turns a staged image into one on trial (R582). -/
def Firmware.enterTrial (f : Firmware) : Firmware :=
  if f.trial.isSome && !f.inTrial then { f with inTrial := true, trialLeft := 600000000000 } else f

/-- The slot that boots next (R581): the trial slot during a trial, otherwise the committed one; after 3 failed boots of
it, the other. -/
def State.bootSlot (s : State) : Bool :=
  let want := match s.fw.trial, s.fw.inTrial with
    | some b, true => b
    | _, _ => s.fw.committed
  if 3 ≤ (if want then s.fw.failsB else s.fw.failsA) then !want else want

/-- A module reset (R579): every switched domain goes without a flush, every unit epoch rises, and the module
stands at t0 of the start-up sequence; FAULT_N is released, since this is the exit of a Major fault (R531). -/
def State.moduleReset (s : State) : State :=
  let s := s.powerDown.raiseAll
  { s with
    life := { s.life with phase := if s.mayStart574 then .startReady else .standby, bootAt := s.now, held := false }
    fw := s.fw.enterTrial
    flt := { s.flt with active := none, latched := [], faultN := false } }

/-! ## Settings records (R583) -/

/-- The settings in force as a record. -/
def State.settings (s : State) : Settings :=
  { bind := s.host.bind, entries := s.part.entries, keys := s.host.keys, capW := s.pwr.capNext, budget := s.sched.budget
    domain := s.ptp.domain, transport := s.ptp.transport, refuse := s.twin.refuse, witness := s.twin.witness
    spillGib := s.tiers.spillGib, lowered := s.pwr.lowered }

/-- Load a settings record. -/
def State.loadSettings (s : State) (r : Settings) : State :=
  { s with
    host := { s.host with bind := r.bind, keys := r.keys }
    part := { s.part with entries := r.entries }
    pwr := { s.pwr with capW := r.capW, capNext := r.capW, lowered := r.lowered }
    sched := { s.sched with budget := r.budget }
    ptp := { s.ptp with domain := r.domain, transport := r.transport }
    twin := { s.twin with refuse := r.refuse, witness := r.witness }
    tiers := { s.tiers with spillGib := r.spillGib } }

/-- Fallback (R582, R586): a module reset into the old slot, with its own settings record. -/
def State.fallBack (s : State) : State :=
  let s := s.moduleReset
  let s := match s.fw.oldRecord with
    | some r => s.loadSettings r
    | none => s
  let s := s.log .fellBack 0 0
  { s with fw := { s.fw with trial := none, inTrial := false, trialLeft := 0, incompat := false, fellBack := true, oldRecord := none } }

end Sys2Proof.Machine
end

