-- ==== Sys2Proof/Machine/Pairing.lean ====
section
/-!
DEFINITION. What the pair does when its link falls silent (R476, R477, R495 to R497, R502 to R504): cable groups, the
witness check, solo split, and what becomes of the writes that wait for the partner.
-/
namespace Sys2Proof.Machine

/-- The number of bits set among the low n of v. -/
def popcount (n v : Nat) : Nat := (upto n).countP fun i => v.testBit i

/-- A cable group is up: at least 4 of its 8 lanes have trained, and it is not held down (R475, R476). -/
def Cable.isUp (c : Cable) : Bool := decide (4 ≤ popcount 8 c.lanes.toNat) && !c.held

/-- The Duno link is up (R476). -/
def State.linkIsUp (s : State) : Bool := s.twin.cages.toList.any Cable.isUp

/-- A witness is configured: some address differs from zero (R496). -/
def State.hasWitness (s : State) : Bool := (s.twin.witness.take 128).any (· != 0)

/-- The pair state changes, which every controller hears (R502, R506). -/
def State.pairTo (s : State) (st : PairSt) : State :=
  if s.twin.st = st then s
  else ({ s with twin := { s.twin with st, since := s.now } }).aer { typ := 7, info := 2, page := 0xD5 }

/-- The commands that wait for something. -/
def State.waitingOn (s : State) (p : WaitOn → Bool) : List OutCmd := s.host.cmds.filter fun o => p o.wait

/-- A command that waits for an acknowledgement has it, or needs none: it completes, unless its blocks must be
programmed first (R452). -/
def State.heldBoth (s : State) (o : OutCmd) : State :=
  let flashed := match o.body with
    | .write nsid lba bs => s.unprogrammed nsid lba bs.length
    | _ => false
  if flashed then
    { s with host := { s.host with cmds := mapWhere (fun x => x.hdr == o.hdr) (fun x => { x with wait := .flash }) s.host.cmds } }
  else s.okDw o.hdr o.dw0 o.dw1

/-- The acknowledgement that a write waits for no longer matters to executions. -/
def State.unawait (s : State) (g q : Nat) : State :=
  { s with sched := { s.sched with execs := s.sched.execs.map fun e => e.unwait fun a => a.1 == g && a.2 == q } }

/-- A write that waited for the partner when the module entered a solo state completes under the policy (R503): a
release that the partner was to order is applied here; a Memory Write is no write to a namespace. -/
def State.soloWrite (s : State) (u : Unacked) : State :=
  let refuse := s.solo && s.twin.refuse && decide (u.group ≠ 0)
  let s := match u.w with
    | some w => if decide (2 ^ 64 ≤ u.seq) && !refuse then (s.applyWrite w).markChanged w else s.markChanged w
    | none => s
  let s := s.unawait u.group u.seq
  (s.waitingOn (· == .mirror u.group u.seq)).foldl (fun s o =>
    if refuse then s.post o.hdr 0 0x20 0 0 else s.heldBoth o) s

/-- Commands that wait for the partner's adoption complete without it (R493). -/
def State.soloEpochs (s : State) : State :=
  (s.waitingOn fun w => match w with | .epoch _ => true | _ => false).foldl (fun s o => s.okDw o.hdr o.dw0 o.dw1) s

/-- Handovers under way end: the groups stay here. -/
def State.keepHanding (s : State) : State :=
  let groups := s.twin.groups.map fun g => if g.handing then { g with handing := false, handEp := none, ana := .optimized } else g
  let s := { s with twin := { s.twin with groups } }
  (s.waitingOn (· == .handover)).foldl (fun s o => s.badSeq o.hdr) s

/-- What leaves with the partner: acknowledgements, adoptions and handovers that are waited for (R493, R503). -/
def State.withoutPartner (s : State) : State :=
  let us := s.twin.unacked
  let s := { s with twin := { s.twin with unacked := [], epFlight := none, checkAt := none, owed := none } }
  (us.foldl State.soloWrite s).soloEpochs.keepHanding

/-- Solo split (R502). -/
def State.enterSplit (s : State) : State := (s.pairTo .soloSplit).withoutPartner

/-- Every cable group of a pair is down: the witness check begins, or, without a witness, split operation does (R495,
R497, R499). -/
def State.linkLost (s : State) : State :=
  if s.paired ∧ !s.linkIsUp ∧ s.twin.checkAt = none then
    if s.hasWitness then ({ s with twin := { s.twin with checkAt := some s.now } }).toPeer .probe else s.enterSplit
  else s

/-- A cable group goes down and retrains as a whole (R476, R477). -/
def State.groupDown (s : State) (g : Fin 4) : State :=
  if (s.twin.cages[g]).lanes = 0 then s
  else
    let cages := vmod s.twin.cages g fun c => { c with lanes := 0, consec := 0, retrains := satAdd 65535 c.retrains 1 }
    let twin := vmod s.phys.twin g fun c => { c with linkUp := false, downAt := if c.linkUp then s.now else c.downAt }
    ({ s with twin := { s.twin with cages }, phys := { s.phys with twin := twin } }).linkLost

end Sys2Proof.Machine
end

