-- ==== Sys2Proof/Machine/Collector.lean ====
section
/-!
DEFINITION. The fault collector (R525 to R539, R556 to R562): classes, what a sample records, the four responses, the
remedies of Minor faults, and what happens when faults meet.
-/
namespace Sys2Proof.Machine

/-! ## The table of sources (R525) -/

/-- The class of an event of a source; none where the table assigns none. -/
def faultClass (src : Fin 256) (ev : Nat) : Option FClass :=
  let n := src.val
  if n ≤ 0x0F then (match ev with | 1 | 3 | 4 => some .minor | 2 => some .note | _ => none)
  else if n ≤ 0x1F then (if ev = 1 then some .minor else none)
  else if n ≤ 0x5F then (match ev with | 1 => some .note | 2 => some .minor | 3 => some .major | _ => none)
  else if n ≤ 0x7F then (match ev with | 1 => some .note | 2 | 3 => some .minor | 4 | 5 => some .major | _ => none)
  else if n ≤ 0x8F then (match ev with | 1 | 2 => some .minor | 3 | 4 => some .major | _ => none)
  else if n ≤ 0x9F then (match ev with | 1 => some .note | 2 | 3 => some .minor | 4 => some .major | _ => none)
  else if n ≤ 0xA5 then (if ev = 1 then some .minor else none)
  else if n ≤ 0xA7 then (if ev = 1 then some .major else none)
  else if n ≤ 0xAA then
    (match ev with | 1 => some .note | 2 => some .major | 3 => if n = 0xA9 then some .note else none | _ => none)
  else if n = 0xAB then (if ev = 1 then some .note else none)
  else if 0xB0 ≤ n ∧ n ≤ 0xB7 then (match ev with | 1 => some .note | 2 => some .minor | _ => none)
  else if 0xB8 ≤ n ∧ n ≤ 0xC3 then (if ev = 1 then some .major else none)
  else if n = 0xC4 then (match ev with | 1 => some .note | 2 => some .major | _ => none)
  else if n = 0xC5 then (if ev = 1 then some .major else none)
  else if 0xC8 ≤ n ∧ n ≤ 0xDF then (match ev with | 1 | 2 => some .note | 3 => some .trump | _ => none)
  else if 0xE0 ≤ n ∧ n ≤ 0xE2 then (if ev = 1 then some .trump else none)
  else if n = 0xE8 then (match ev with | 1 => some .major | 2 => some .trump | _ => none)
  else if n = 0xE9 ∨ n = 0xEA then (if ev = 1 then some .note else none)
  else none

/-- Gravity of a class. -/
def grav : FClass → Nat
  | .note => 0 | .minor => 1 | .major => 2 | .trump => 3

/-- Order of handling: gravest class first, lowest source first within a class (R528, R537). -/
def sooner (a b : Report × FClass) : Bool :=
  decide (grav b.2 < grav a.2) || (decide (grav a.2 = grav b.2) && decide (a.1.src < b.1.src))

/-- Seconds since start-up. -/
def State.upSecs (s : State) : Nat := (s.now - s.life.bootAt) / 1000000000

/-! ## Recording (R526 to R528, R535, R560) -/

/-- Count a fault in the Health Detail counts of its class (R432); injected ones are not counted (R558). -/
def Health.count (h : Health) (c : FClass) : Health :=
  match c with
  | .trump => { h with trump := satAdd max64 h.trump 1 }
  | .major => { h with major := satAdd max64 h.major 1 }
  | .minor => { h with minor := satAdd max64 h.minor 1 }
  | .note => { h with note := satAdd max64 h.note 1 }

/-- The Fault Map entry of a source after one more report (R560). -/
def State.mapAfter (s : State) (r : Report) (c : FClass) : MapEntry :=
  match assocGet r.src.val s.flt.map with
  | some m => { worst := if grav m.worst < grav c then c else m.worst, inj := r.inj
                count := satAdd (2 ^ 24 - 1) m.count 1, lastS := s.upSecs, event := r.event, whr := r.whr }
  | none => { worst := c, inj := r.inj, count := 1, lastS := s.upSecs, event := r.event, whr := r.whr }

/-- Record one report: its sticky bit, its Fault Map entry, the Health Detail count, and the Minor reports of
the last second (R526, R535, R558, R560). -/
def State.record1 (s : State) (r : Report) (c : FClass) : State :=
  let recent := s.flt.minors.filter fun m => decide (s.now < m.2 + 1000000000)
  { s with
    flt := { s.flt with
      sticky := s.flt.sticky ||| BitVec.twoPow 256 r.src.val
      map := assocPut r.src.val (s.mapAfter r c) s.flt.map
      minors := if c = .minor then recent ++ [(r.src.val, s.now)] else recent }
    health := if r.inj then s.health else s.health.count c }

/-- FLT_FIRST takes the first of a sample when it holds nothing (R527, R528). -/
def State.recordFirst (s : State) (r : Report × FClass) : State :=
  match s.flt.first with
  | some _ => s
  | none => { s with flt := { s.flt with first := some { src := r.1.src, cls := r.2 } } }

/-- A source has sent more than 64 Minor reports within 1 s (R535). -/
def State.stormy (s : State) (src : Fin 256) : Bool :=
  decide (64 < s.flt.minors.countP fun m => decide (m.1 = src.val))

/-- Escalations since start-up (R529). -/
def State.escalate (s : State) : State :=
  { s with flt := { s.flt with escalated := satAdd 65535 s.flt.escalated 1 } }

/-! ## Remedies of Minor faults (R525) -/

/-- Fence a tile (R123), unless the fault was injected (R558) or it is fenced already. -/
def State.fenceTile (s : State) (prow pcol cause : Nat) (inj : Bool) : State :=
  if inj ∨ (s.fab.fences.any fun f => decide (f.prow = prow) && decide (f.pcol = pcol)) then s
  else { s with fab := { s.fab with fences := s.fab.fences ++ [{ prow, pcol, cause, sec := s.upSecs }] } }

/-- The physical row and column of a tile's report (R560). -/
def tileOf (w : BitVec 24) : Nat × Nat := (bitsOf w.toNat 6 0, bitsOf w.toNat 14 8)

/-- The execution whose open step met a fault detected at time t. -/
def State.openEx (s : State) (id : Option Nat) (t : Nat) : Option Exec :=
  match id with
  | none => none
  | some n => match s.ex? n with
    | some e => (match e.phase with
      | .running | .closing .. => if e.st.startedAt ≤ t then some e else none
      | _ => none)
    | none => none

/-- Executions leave a compositor that goes out of service; they resume on another one (R525). -/
def State.leaveComp (s : State) (c : Fin 16) : State :=
  let ids := (s.sched.execs.filter fun e => e.comp == some c).map (·.id)
  let s := ids.foldl (fun s i => (s.abandon1 i).modEx i fun e => { e with phase := .preempted, comp := none }) s
  let comps := vmod s.sched.comps c fun x => { x with oos := true }
  ({ s with sched := { s.sched with comps := comps } }).fillComps

/-- A die fails whole (R449): its group starts no new operation and is served by rebuild. -/
def State.failDie (s : State) (d : Die) : State :=
  let g := 8 * d.bridge.val + d.pos.val
  { s with flash := { s.flash with failed := s.flash.failed ++ [(g, d)] } }

/-- Start the reset of a media bridge (R468): its epoch rises and its FLS_BRG count. -/
def State.startBridgeReset (s : State) (b : Fin 16) : State :=
  if s.life.phase = .flushing ∨ (s.flash.bridges[b]).resetting then s
  else
    let bridges := vmod s.flash.bridges b fun x =>
      { x with resetting := true, resets := satAdd 255 x.resets 1, resetAt := s.now }
    let s := { s with flash := { s.flash with bridges }, units := { s.units with resetting := s.units.resetting ++ [ResetUnit.bridge b] } }
    s.raiseEpoch (unitCode (.bridge b))

/-- The timebase runs on its own oscillator from now (R421). -/
def Ptp.lose (p : Ptp) (now : Nat) : Ptp := if p.locked then { p with locked := false, lostAt := now } else p

/-- A port has no master any more: another port with one is used, else holdover begins (R420, R421). -/
def Ptp.drop (p : Ptp) (port : Fin 4) (now : Nat) : Ptp :=
  let ports := vset p.ports port false
  let p : Ptp := { p with ports := ports }
  if p.port = port then
    match (List.finRange 4).find? fun q => ports[q] with
    | some q => if p.locked then { p with port := q } else p
    | none => p.lose now
  else p

/-- A host port goes down: its associations end (R525, R395). -/
def State.portDown (s : State) (p : Fin 4) : State :=
  let ids := ((s.host.conns.filter fun c => c.port == p).filterMap (·.cntlid)).dedup
  let s := ids.foldl State.endAssoc s
  { s with
    host := { s.host with conns := s.host.conns.filter fun c => c.port != p }
    phys := { s.phys with host := vmod s.phys.host p fun c => { c with linkUp := false, downAt := if c.linkUp then s.now else c.downAt } }
    ptp := s.ptp.drop p s.now }

/-- A tile's report of a residue mismatch. -/
def residueReport (r : Report) : Bool := decide (r.src.val ≤ 0x0F) && decide (r.event = 1)

/-- The tiles that residue mismatches and failed self-tests fence (R87, R123, R523). -/
def State.fenceAll (s : State) (rs : List Report) : State :=
  rs.foldl (fun s r =>
    let s := if residueReport r && !r.inj then { s with health := { s.health with resid := satAdd max64 s.health.resid 1 } } else s
    if r.src.val ≤ 0x0F ∧ (r.event = 1 ∨ r.event = 4) then
      s.fenceTile (tileOf r.whr).1 (tileOf r.whr).2 (if r.event = 1 then 0 else 2) r.inj
    else s) s

/-- The step of each execution that met residue mismatches in one sample is run again, or ends with the number of its tiles that
mismatched (R87). -/
def State.residueReruns (s : State) (rs : List Report) : State :=
  let rs := rs.filter residueReport
  ((rs.filterMap (·.exec)).dedup).foldl (fun s i => match s.openEx (some i) s.now with
    | some e =>
      let n := ((rs.filter fun r => r.exec == some i).map fun r => tileOf r.whr).dedup.length
      let s := s.modEx e.id fun x => { x with residRetry := satAdd 255 x.residRetry 1 }
      s.rerunOr e .residue 0x89 (BitVec.ofNat 32 n) e.step32
    | none => s) s

/-- The step that met another Minor fault is abandoned and run again (R540, R542, R544); one whose tile fails its valid-bit check
has not begun, and is granted again (R523). -/
def State.stepHit (s : State) (r : Report) : State :=
  let n := r.src.val
  match s.openEx r.exec s.now with
  | none => s
  | some e =>
    if n ≤ 0x0F then
      if r.event = 1 then s
      else if r.event = 4 then s.abandon e
      else s.rerunOr e (.parity n (r.whr.toNat + 2 ^ 24 * e.parityWord)) 0x85 0 e.step32
    else if 0x20 ≤ n ∧ n ≤ 0x5F then s.rerunOr e (.parity n r.whr.toNat) 0x85 0 e.step32
    else if 0x60 ≤ n ∧ n ≤ 0x7F ∧ r.event = 3 then s.rerunOr e .dram 0x85 0 e.step32
    else if 0xA0 ≤ n ∧ n ≤ 0xA5 then s.rerunOr e .engine 0x89 0 e.step32
    else s

/-- What the Minor faults of one sample do at once, whatever else is being handled (R87, R116, R123): tiles are fenced, and the
steps that met them are abandoned. -/
def State.minorHits (s : State) (rs : List Report) : State := rs.foldl State.stepHit ((s.fenceAll rs).residueReruns rs)

/-- The remedy of a Minor report at its unit (R525); what it did to the step that met it has been done with its sample. -/
def State.remedy1 (s : State) (r : Report) : State :=
  let n := r.src.val
  if n ≤ 0x0F then s
  else if n ≤ 0x1F then s.leaveComp (Fin.ofNat 16 (n - 0x10))
  else if n ≤ 0x7F then s
  else if n ≤ 0x8F then (if r.event = 1 then s.startBridgeReset (Fin.ofNat 16 (n - 0x80)) else s)
  else if n ≤ 0x9F then
    if r.event = 3 ∧ !r.inj then
      s.failDie { bridge := Fin.ofNat 16 (n - 0x90), chan := Fin.ofNat 32 (bitsOf r.whr.toNat 4 0), pos := Fin.ofNat 8 (bitsOf r.whr.toNat 7 5) }
    else s
  else if 0xB0 ≤ n ∧ n ≤ 0xB3 then s.portDown (Fin.ofNat 4 (n - 0xB0))
  else if 0xB4 ≤ n ∧ n ≤ 0xB7 then s.groupDown (Fin.ofNat 4 (n - 0xB4))
  else s

/-- The class of a report, as the table has it. -/
def Report.isMinor (r : Report) : Bool := faultClass r.src r.event == some .minor

/-- The remedy of a Minor fault, for its report and the Minor reports merged into it (R537). -/
def State.remedy (s : State) (f : ActiveFault) : State := ((f.rep :: f.merged).filter Report.isMinor).foldl State.remedy1 s

/-! ## Responses (R531, R532) -/

/-- Announce the module's failure on every cable group that is up (R498). -/
def State.announce (s : State) : State :=
  if s.life.dom.tl ∧ s.linkIsUp then
    s.toPeer .announce
  else s

/-- Save the log ring and the Fault Map to NOR (R531, R561). -/
def State.saveMap (s : State) : State :=
  { s with
    flt := { s.flt with saved := { first := s.flt.first, sticky := s.flt.sticky, map := s.flt.map, latched := s.flt.latched.length } }
    host := { s.host with savedLog := s.host.log } }

/-- A boot under way fails (R581). -/
def State.bootFailed (s : State) : State :=
  if s.life.phase = .startReady then
    let fw := if s.bootSlot then { s.fw with failsB := s.fw.failsB + 1 } else { s.fw with failsA := s.fw.failsA + 1 }
    { s with fw }
  else s

/-- All service stops: associations end, executions leave no trace (R531, R532). -/
def State.stopService (s : State) : State :=
  let s := s.endAllAssocs
  s.sched.execs.foldl (fun s e => match s.ex? e.id with
    | some e => s.dropExec e
    | none => s) s

/-- The response to a Major fault (R531, R532, R577, R582, R593). -/
def State.majorResponse (s : State) : State :=
  match s.life.phase with
  | .off | .standby | .trump | .outOfService | .majorOut | .flushing => s
  | _ =>
    let s := ({ s with flt := { s.flt with faultN := true } }).bootFailed
    let s := s.announce.stopService.flushAll.saveMap
    let s := s.log .majorSaved 0 0
    let s := { s with
      fw := { s.fw with majorSinceBoot := true }
      life := { s.life with phase := .majorOut, cleanEnd := false, responseEnd := s.now } }
    let s := s.loseRoles
    if s.fw.inTrial then s.fallBack else s

/-- Sources whose Trump response does not flush: the power stage, the hold-up store and the monitors of the
flash rails (R531, R563). -/
def noFlush (src : Fin 256) : Bool := src == 0xE8 || src == 0xE9 || src == 0xD2 || src == 0xD3

/-- The response to a Trump fault (R531, R562). -/
def State.trumpResponse (s : State) (src : Fin 256) : State :=
  if s.life.phase = .off then s
  else
    let s := ({ s with flt := { s.flt with faultN := true } }).bootFailed
    let s := if s.life.phase = .majorOut then s else s.announce.stopService
    let s := if noFlush src then s else s.flushAll
    let s := s.saveMap.powerDown
    { s with life := { s.life with phase := .trump, cleanEnd := false } }

/-! ## Handling (R529, R531, R534 to R539) -/

/-- The core pair that runs the handler (R538); firmware chooses it (log entry 34). -/
def handlerPair (s : State) : Nat := (Config.logPair s.host.logSeq).toNat % 12

/-- A Major report in the resources of the handler that is running escalates to Trump (R538). -/
def State.hitsHandler (s : State) (f : ActiveFault) : Bool :=
  match s.flt.active with
  | some a => decide (grav a.cls ≤ 1) && decide (f.cls = .major) &&
      (f.rep.src == 0xC4 || (decide (0xB8 ≤ f.rep.src.val) && decide (f.rep.src.val ≤ 0xC3) && decide (f.rep.src.val - 0xB8 = handlerPair s)))
  | none => false

/-- The compositor of a source. -/
def compOf (src : Fin 256) : Option (Fin 16) :=
  if 0x10 ≤ src.val ∧ src.val ≤ 0x1F then some (Fin.ofNat 16 (src.val - 0x10)) else none

/-- A Minor fault has no spare to fence or retry with (R534): so the report says, or it is the last compositor in service. A tile
without a spare is the exception. -/
def State.noRetrySpare (s : State) (r : Report) : Bool :=
  (!r.spareLeft && !(decide (r.src.val ≤ 0x0F))) ||
  (match compOf r.src with
  | some c => (List.finRange 16).all fun d => d == c || (s.sched.comps[d]).oos
  | none => false)

/-- The handler of a fault starts. -/
def State.begin (s : State) (f : ActiveFault) : State :=
  match f.cls with
  | .note => s.log .statusOnly f.rep.src.val f.rep.event
  | .minor =>
    if s.stormy f.rep.src ∨ (f.rep :: f.merged).any s.noRetrySpare then
      let s := s.escalate
      ({ s with flt := { s.flt with active := some { f with cls := .major } } }).majorResponse
    else ({ s with flt := { s.flt with active := some f } }).remedy f
  | .major => ({ s with flt := { s.flt with active := some f } }).majorResponse
  | .trump => ({ s with flt := { s.flt with active := some f } }).trumpResponse f.rep.src

/-- Minor reports latched within the last 50 µs (R539). -/
def State.latchedMinors (s : State) : Nat :=
  s.flt.latched.countP fun l => decide (l.cls = .minor) && decide (s.now < l.since + 50000)

/-- The source holds a latched report. -/
def State.hasLatched (s : State) (src : Fin 256) : Bool := s.flt.latched.any fun l => l.rep.src == src

/-- A repeat merged into a latched report, which takes the graver class of the two (R537; log entry 157). -/
def ActiveFault.merge (l f : ActiveFault) : ActiveFault :=
  if grav l.cls < grav f.cls then { f with merged := l.rep :: l.merged } else { l with merged := l.merged ++ [f.rep] }

/-- Latch a report: one for each source, a repeat is merged (R537). -/
def State.latch (s : State) (f : ActiveFault) : State :=
  if s.hasLatched f.rep.src then
    { s with flt := { s.flt with latched := mapWhere (fun l => l.rep.src == f.rep.src) (fun l => l.merge f) s.flt.latched } }
  else { s with flt := { s.flt with latched := s.flt.latched ++ [f] } }

/-- A classed report meets the handler (R534 to R539). -/
def State.meet (s : State) (f : ActiveFault) : State :=
  match s.flt.active with
  | none => s.begin f
  | some a =>
    if s.hitsHandler f then s.escalate.begin { f with cls := .trump }
    else if grav a.cls < grav f.cls then s.begin f
    else if f.cls = .minor ∧ (s.stormy f.rep.src ∨ s.noRetrySpare f.rep ∨ (4 ≤ s.latchedMinors ∧ !s.hasLatched f.rep.src)) ∧ a.cls = .minor then
      s.escalate.begin { f with cls := .major }
    else s.latch f

/-- A source is armed by its injection register (R556, R557). -/
def State.armed (s : State) (src : Fin 256) : Bool :=
  match assocGet src.val s.flt.inj with
  | some x => decide (0 < x.2) && x.1 != 0
  | none => false

/-- An injected report is one of an armed source. -/
def State.asInjected (s : State) (r : Report) : Report := { r with inj := r.inj && s.armed r.src }

/-- One of the count checked accesses of an armed source has been used up (R557). -/
def State.useInj (s : State) (r : Report) : State :=
  if r.inj then
    match assocGet r.src.val s.flt.inj with
    | some x => { s with flt := { s.flt with inj := assocPut r.src.val (x.1, x.2 - 1) s.flt.inj } }
    | none => s
  else s

/-- Reports that reach the collector in one sample (R528): all are recorded, FLT_FIRST takes the gravest and lowest, and they
meet the handler in that order. -/
def State.sampled (s : State) (rs : List Report) : State :=
  let known := sortBy sooner (rs.filterMap fun r => (faultClass r.src r.event).map fun c => (r, c))
  match known with
  | [] => s
  | x :: _ =>
    let s := (known.foldl (fun s r => s.record1 r.1 r.2) s).recordFirst x
    known.foldl (fun s r => s.meet { rep := r.1, cls := r.2, since := s.now }) (s.minorHits ((known.filter fun r => decide (r.2 = .minor)).map (·.1)))

/-- One CK_AO sample of reports from the units (R528), with the injections that they use up (R557). -/
def State.sample (s : State) (rs : List Report) : State :=
  let rs := rs.map s.asInjected
  (rs.foldl State.useInj s).sampled rs

/-- One report. -/
def State.report (s : State) (src : Fin 256) (event : Nat) (whr : BitVec 24) (exec : Option Nat) : State :=
  s.sample [{ src, event, whr, inj := false, exec, spareLeft := true }]

/-- A reply with an older unit epoch than its requester's record is discarded and counted (R549). -/
def State.staleReply (s : State) : State := ({ s with units := { s.units with stale := s.units.stale + 1 } }).report 0xA9 3 0 none

/-- FAULT_REPORT (R528). PD_AO must be powered for the collector to sample. -/
def execFaultReport (rs : List Report) (s : State) : Out :=
  .next (if s.life.dom.ao ∧ s.life.phase ≠ .off then s.sample rs else s)

/-- LATCHED_FAULT_HANDLE (R537): the fault in progress ends, and the gravest and lowest latched report is
handled. A Major or Trump fault ends only through its exit (R531). -/
def execLatchedFaultHandle (s : State) : Out :=
  .next (match s.flt.active with
    | some a =>
      if grav a.cls ≥ 2 then s
      else
        let s := { s with flt := { s.flt with active := none } }
        match sortBy (fun (x y : ActiveFault) => sooner (x.rep, x.cls) (y.rep, y.cls)) s.flt.latched with
        | [] => s
        | f :: _ => ({ s with flt := { s.flt with latched := s.flt.latched.filter fun l => !(l.rep.src == f.rep.src) } }).begin f
    | none => match sortBy (fun (x y : ActiveFault) => sooner (x.rep, x.cls) (y.rep, y.cls)) s.flt.latched with
      | [] => s
      | f :: _ => ({ s with flt := { s.flt with latched := s.flt.latched.filter fun l => !(l.rep.src == f.rep.src) } }).begin f)

/-- MINOR_REMEDY_TIMEOUT (R534): a remedy that has not completed within 50 µs of detection makes the fault
a Major one. -/
def execMinorRemedyTimeout (s : State) : Out :=
  .next (match s.flt.active with
    | some a =>
      if a.cls = .minor ∧ a.since + 50000 ≤ s.now then
        let s := s.escalate
        ({ s with flt := { s.flt with active := some { a with cls := .major } } }).majorResponse
      else s
    | none => s)

end Sys2Proof.Machine
end

