-- ==== Sys2Proof/Machine/Complete.lean ====
section
/-!
DEFINITION. Completions of asynchronous operations (R182 to R187, R205, R206, R215, R218), responses of posted writes
(R222), and poisoned responses (R223, R544, R546).
-/
namespace Sys2Proof.Machine

/-! ## What an operation reads -/

/-- The descriptors whose windows an operation reads. -/
def Op.reads (o : Op) : List Desc :=
  match o.kind with
  | .move | .cvt _ | .cipherEnc _ | .cipherDec _ | .cipherHash | .hist _ | .sieveEval => [o.a]
  | .imp => if o.boundTo.isSome then [o.b] else [o.a, o.b]
  | .topk .. | .argmax _ | .sample _ => [o.a, o.b]
  | .platen _ => [o.a]
  | _ => []

/-- The pages that an operation reads completely (R238). -/
def Op.wholePages (o : Op) : List Nat := o.reads.flatMap fun d => match dinfo d with
  | .ok i => i.wholePages
  | .error _ => []

/-- The operation reads a poisoned word. -/
def State.readsPoison (s : State) (e : Exec) (o : Op) : Bool :=
  !s.tiers.poison.isEmpty && o.reads.any fun d => match dinfo d with
    | .ok i => i.runs.any fun r => decide (r.1 < r.2) && s.poisonAt e r.1 r.2
    | .error _ => false

/-- The operation reads or scans a block whose protection information fails its checks (R404). A write that the step itself holds has
none yet. -/
def State.readsBadPi (s : State) (e : Exec) (o : Op) : Bool :=
  o.rdPages.any fun p => match s.execPlace e p with
    | .ns nsid lba _ _ => (match s.ns? nsid with
      | some n => n.pit.isSome && (upto 16).any fun k =>
          (heldBlk e.st.ns nsid (lba + k)).isNone && (n.check (lba + k) [s.blk nsid (lba + k)]).isSome
      | none => false)
    | _ => false

/-- A job fails by protection information (R404, R432, R437). -/
def State.piJobFail (s : State) (e : Exec) : State :=
  ({ s with health := { s.health with piErr := satAdd max64 s.health.piErr 1 } }).jobFail e 0x85 0 e.step32

/-! ## The effect of each operation -/

/-- Sheets that a scan streams. -/
def scanSheets (o : Op) : Nat := match dinfo o.a with
  | .ok d => ((o.aux.drop 2).flatMap fun v => shelfPages d o.record (shelfOf v.toNat)).length
  | .error _ => 0

/-- The data effect of an operation as it completes; tier control and posted writes have none here, and an impression's is
`doImp`. -/
def State.perform (s : State) (e : Exec) (o : Op) : Except JFault Exec :=
  match o.kind with
  | .move => s.doMove e o
  | .cvt zp => s.doCvt e o zp
  | .platen n => s.doPlaten e o n
  | .sieveEval => s.doSieveEval e o
  | .sieveF => s.doSieveF e o
  | .topk k fed merge => s.doTopk e o k fed merge
  | .argmax fed => s.doArgmax e o fed
  | .hist n => s.doHist e o n
  | .sample fed => s.doSample e o fed
  | .cipherEnc k => s.doCipher e o k true
  | .cipherDec k => s.doCipher e o k false
  | .cipherHash => s.doHash e o
  | .sts => .ok (e.putBytes (bytesAt o.list.toNat (leBytes 8 o.record.toNat)))
  | .imp | .pref _ | .hint _ | .evict .. | .sieveArm | .galley .. => .ok e

/-- The operation must wait for the impression that it is bound to (R218). -/
def Exec.awaitsImp (e : Exec) (o : Op) : Bool :=
  let needs := o.kind.fed || (match o.kind with | .sieveArm | .galley .. => true | _ => false)
  needs && (match o.boundTo with
    | none => true
    | some i => e.st.ops.any fun q => decide (q.id = i))

/-- Mark an operation's moves as started. -/
def Exec.started (e : Exec) (o : Op) : Exec :=
  { e with st := { e.st with ops := e.st.ops.map fun q => if q.id = o.id then { q with done := true } else q } }

/-- An operation completes: its pages are used, it leaves the outstanding ones, and fences and waits see it. -/
def State.finish (s : State) (e : Exec) (o : Op) : State :=
  (s.used e (o.rdPages ++ o.wrPages) o.wholePages).settle (e.finishOp o)

/-- The completion of a tier-control operation (R204 to R206). -/
def State.tierDone (s : State) (e : Exec) (o : Op) : State :=
  let ps := match dinfo o.a with | .ok d => d.pages.filter fun p => s.execPage e p != .missing | .error _ => []
  match o.kind with
  | .hint code =>
    let s := (s.byAlloc e ps).foldl (fun s q => s.setHint q.1 q.2 code (.exec e.id)) s
    s.settle (e.finishOp o)
  | .pref t =>
    if !o.done then
      let s := (s.startPref e o t ps).setEx (e.started o)
      if s.opMoving e o then s else s.settle (e.finishOp o)
    else if s.opMoving e o then s else s.settle (e.finishOp o)
  | .evict t ra =>
    if !o.done then
      let r := s.startEvict e o t ps
      if 0 < r.2 then r.1.settle ((e.setReg ra 1).finishOp o)
      else if r.1.opMoving e o || r.1.stillAbove e ps t then r.1.setEx (e.started o)
      else r.1.settle ((e.setReg ra 0).finishOp o)
    else if s.opMoving e o || s.stillAbove e ps t then s
    else s.settle ((e.setReg ra (if s.opDeferred e o then 1 else 0)).finishOp o)
  | _ => s

/-- What an impression leaves in the fabric, and the reports of its residue checks, which abandon the step (R87, R102). -/
def State.impDone (s : State) (e : Exec) (o : Op) (d : ImpDone) : State :=
  let s := { s with fab := { s.fab with tiles := d.tiles }, flt := { s.flt with inj := d.checks.inj } }
  match d.checks.hits with
  | [] => s.finish d.ex o
  | hs => s.sampled (hs.map fun h =>
      { src := Fin.ofNat 256 (h.prow / 5 % 16), event := 0x01, whr := BitVec.ofNat 24 (h.prow % 128 + 256 * (h.pcol % 128))
        inj := h.inj, exec := some e.id, spareLeft := true })

/-- Bytes in the working banks whose pages a later write of the same step reaches drain early, so that the later write stands
(R114, R167). -/
def State.drainEarly (s : State) (e : Exec) (o : Op) : State × Exec :=
  if pagesMeet o.wrPages e.st.bankPages then
    let bs := s.fab.bankOf e.id
    let e := s.store e bs
    (({ s with fab := { s.fab with tiles := dropBytes s.fab.tiles e.id fun _ => true } }).setEx e, e)
  else (s, e)

/-- Completion of one outstanding operation (R184). An operation that must wait stays outstanding; one whose
next page no TLB holds starts its walk, and its later sheets wait behind it (R251, R254). -/
def State.opDone (s : State) (c : Fin 16) (e : Exec) (o : Op) : State :=
  match o.kind with
  | .sts => s
  | .hint _ | .pref _ | .evict .. => if e.blocked o then s else s.tierDone e o
  | _ =>
    if e.blocked o || e.awaitsImp o || s.draining e o.rdPages then s
    else
      let r := s.translate e c o
      match r.2.left with
      | a :: _ => (s.setEx r.1).miss r.1 (moverOf c o a.2) a.1 o.id a.2
      | [] =>
        let e := r.1
        let o := r.2
        if s.readsPoison e o then s.rerunOr e .dram 0x85 0 e.step32
        else if s.readsBadPi e o then s.piJobFail e
        else if o.kind = .imp then match s.doImp e o with
          | .error j => s.jfault e j o.pc
          | .ok d => s.impDone e o d
        else
          let p := s.drainEarly e o
          let s := p.1
          let e := p.2
          match s.perform e o with
          | .error j => s.jfault e j o.pc
          | .ok e' =>
            let n := match o.kind with | .galley .. => scanSheets o | _ => 0
            let s := { s with eng := { s.eng with sheets := satAdd (2 ^ 40 - 1) s.eng.sheets n } }
            s.finish e' o

/-- ASYNC_OPERATION_COMPLETE (R184). -/
def execAsyncOperationComplete (c : Fin 16) (op : Nat) (s : State) : Out :=
  .next (s.onOp c op fun s e o => s.opDone c e o)

/-- POSTED_WRITE_RESPONSE (R222): the write of an STS lands, and its slot is free. -/
def execPostedWriteResponse (c : Fin 16) (op : Nat) (s : State) : Out :=
  .next (s.onOp c op fun s e o =>
    match o.kind with
    | .sts =>
      if e.blocked o then s
      else
        let r := s.translate e c o
        match r.2.left with
        | a :: _ => (s.setEx r.1).miss r.1 (moverOf c o a.2) a.1 o.id a.2
        | [] =>
          let p := s.drainEarly r.1 r.2
          let s := p.1
          let e := p.2
          match s.perform e r.2 with
          | .error j => s.jfault e j o.pc
          | .ok e' => s.finish e' o
    | _ => s)

/-! ## Poisoned responses (R223, R546) -/

/-- A compositor's write of MOVE, CVT, ENG or STS failed: the fence or STEP that collects it will see it. -/
def State.poisonOp (s : State) (e : Exec) (o : Op) : State :=
  match o.kind with
  | .imp | .pref _ | .hint _ | .evict .. => s
  | k =>
    let st := if k.isFx then { e.st with poisonFx := true } else { e.st with poisonMv := true }
    s.settle (({ e with st }).finishOp o)

/-- A command whose data did not arrive whole ends with a generic status: it has no effect, and an image whose
piece it carried is not loaded. -/
def State.failData (s : State) (o : OutCmd) (sc : Nat) : State :=
  match o.body with
  | .ingest id obj => (match s.ex? id with
    | some e => (s.modEx id fun x => { x with objs := x.objs.filter fun y => !(y.hdr == obj.hdr) }).jobStd o.hdr e.ctx 0 sc
    | none => s.post o.hdr 0 sc 0 0)
  | .load prog .. =>
    ({ s with sched := { s.sched with images := s.sched.images.filter fun i => i.prog != prog } }).post o.hdr 0 sc 0 0
  | _ => s.post o.hdr 0 sc 0 0

/-- The host DMA's data transfer failed at its target: retried once, then Internal Error (R546, R550). -/
def State.hostRetry (s : State) (h : Hdr) : State :=
  match s.host.cmds.find? (fun o => o.hdr == h && o.wait == .data) with
  | some o =>
    if o.retried then s.failData o 0x06
    else { s with host := { s.host with cmds := mapWhere (fun x => x.hdr == h) (fun x => { x with retried := true, uep := s.units.epochs }) s.host.cmds } }
  | none => s

/-- POISONED_RESPONSE (R546). -/
def execPoisonedResponse (i : Issuer) (s : State) : Out :=
  .next (match i with
    | .compositor c op => s.onOp c op fun s e o => s.poisonOp e o
    | .hostDma h => s.hostRetry h
    | .tierManager mig => (match s.tiers.migs.find? (fun m => m.id == mig) with
      | some m => { s with tiers := { s.tiers with retired := s.tiers.retired ++ [(m.dst, s.tiers.retired.length)] } }
      | none => s)
    | .bridge b fixed =>
      let s := s.report (Fin.ofNat 256 (0x80 + b.val)) 0x02 0 none
      if fixed then s else s.startBridgeReset b)

end Sys2Proof.Machine
end

