-- ==== Sys2Proof/Machine/Stock.lean ====
section
/-!
DEFINITION. Indexes and the stock (R308 to R323), and the stages of an ingest execution's objects (R303 to R306).
-/
namespace Sys2Proof.Machine

/-! ## Generations (R315, R321) -/

/-- The shelf directory of a root record, as its namespace holds it. -/
def State.directory (s : State) (nsid : Nat) (root : Blk) : List Nat :=
  let n := bitsOf root.toNat 95 64
  let lba := bitsOf root.toNat 319 256
  (upto n).map fun k => leNat ((upto 64).map fun i =>
    blkByte (s.blk nsid (lba + (64 * k + i) / 4096)).data ((64 * k + i) % 4096))

/-- The blocks of a shelf's sheets, columns and tags: first LBA and count (R310, R312). -/
def shelfRuns (root : Blk) (v : Nat) : List (Nat × Nat) :=
  let h := shelfOf v
  let f := (Fmt.ofCode (bitsOf root.toNat 35 32)).getD .fp4
  let per := 65472 / max 1 (vbytes f (bitsOf root.toNat 63 48))
  let pages (off n : Nat) : List (Nat × Nat) := if n = 0 then [] else [(off / 4096, 16 * n)]
  pages h.vec ((h.count + per - 1) / max 1 per)
    ++ pages h.attr (bitsOf root.toNat 42 38 * ((h.count + 16383) / 16384))
    ++ (if bitsOf root.toNat 37 37 = 1 then pages h.tag ((h.count + 2047) / 2048) else [])

/-- The runs of generation g that generation g + 1 does not use. -/
def State.replacedRuns (s : State) (nsid : Nat) (old new : Blk) : List (Nat × Nat) :=
  let a := (s.directory nsid old).flatMap (shelfRuns old)
  let b := (s.directory nsid new).flatMap (shelfRuns new)
  let dir := if bitsOf old.toNat 319 256 = bitsOf new.toNat 319 256 then []
    else [(bitsOf old.toNat 319 256, (bitsOf old.toNat 95 64 * 64 + 4095) / 4096)]
  (a.filter fun r => !(b.any fun q => decide (q.1 = r.1))) ++ dir

/-- Runs of blocks of a namespace are deallocated, on both modules. -/
def State.giveBack (s : State) (nsid : Nat) (runs : List (Nat × Nat)) : State :=
  runs.foldl (fun s r => (s.writeOut { group := 0, seq := 0, nsid, lba := r.1, blocks := [], op := .deallocate r.2 } none none).1) s

/-- GENERATION_PAGES_DEALLOCATE (R321, R323): no admitted execution holds a snapshot on the generation, and the root
record that follows is held. Of the generation that would come next, what a meld without a publication has left. -/
def execGenerationPagesDeallocate (nsid : Nat) (gen : Nat) (s : State) : Out :=
  .next (match s.indexes.find? (fun x => x.nsid == nsid) with
    | none => s
    | some x => match x.old.find? (fun o => o.1 == gen) with
      | none =>
        if gen = rootGen (s.blk nsid 0).data + 1 then (s.modIndex nsid fun y => { y with orphans := [] }).giveBack nsid x.orphans else s
      | some o =>
        let busy := s.sched.execs.any fun e => e.index == some nsid && e.snap.map (·.1) == some gen
        let unheld := s.twin.unacked.any fun u => decide (u.group = s.groupOf nsid)
        if busy ∨ unheld then s
        else
          let new := match x.old.find? (fun q => q.1 == gen + 1) with
            | some q => q.2
            | none => (s.blk nsid 0).data
          let runs := s.replacedRuns nsid o.2 new
          (s.modIndex nsid fun y => { y with old := y.old.filter fun q => q.1 != gen }).giveBack nsid runs)

/-! ## Appending to the stock (R316, R322) -/

/-- The stock version of an index. -/
def State.stockVersion (s : State) (nsid : Nat) : Nat :=
  match s.indexes.find? (fun x => x.nsid == nsid) with
  | some x => x.version
  | none => 0

/-- n more inserts stay within the stock's capacity (R322). -/
def State.stockRoom (s : State) (nsid n : Nat) : Bool :=
  let root := (s.blk nsid 0).data
  decide (s.stockVersion nsid + n ≤ rootAbsorbed root + rootCap root)

/-- Update an object of an ingest execution. -/
def State.modObj (s : State) (e : Nat) (h : Hdr) (f : ObjCmd → ObjCmd) : State :=
  s.modEx e fun x => { x with objs := mapWhere (fun o => o.hdr == h) f x.objs }

/-- The snapshot (g, m_g, v) of an index (R26, R317). -/
def State.snapshotOf (s : State) (nsid : Nat) : Nat × Nat × Nat :=
  let root := (s.blk nsid 0).data
  (rootGen root, rootAbsorbed root, s.stockVersion nsid)

/-- The vectors that an index keeps from a block of its namespace on, as a layout 0x5 tensor over the namespace's bytes (R308 to
R310). -/
def indexVectors (root : Blk) (lba : Nat) : DInfo :=
  { base := 4096 * lba, fmt := (Fmt.ofCode (bitsOf root.toNat 35 32)).getD .fp4, layout := 5, rank := 2, bdim := 0, esc := false, rnd := 0
    srBits := 0, sat := false, slot := 0, slotEn := false, pieces := 1, ext := [bitsOf root.toNat 63 48], org := [], win := [] }

/-- First LBA of the stock region. -/
def rootStock (b : Blk) : Nat := bitsOf b.toNat 447 384
/-- First LBA of the centroid sheets. -/
def rootCentroids (b : Blk) : Nat := bitsOf b.toNat 383 320

/-- Bytes of a namespace. -/
def State.nsByte (s : State) (nsid : Nat) (a : Nat) : Byte := blkByte (s.blk nsid (a / 4096)).data (a % 4096)

/-- Vectors per sheet (R310). -/
def DInfo.perSheet (d : DInfo) : Nat := 65472 / max 1 (vbytes d.fmt (d.e 0))

/-- The elements of vector v. -/
def DInfo.vector (d : DInfo) (rd : Nat → Byte) (v : Nat) : List CellElem := (upto (d.e 0)).map fun k => d.vecAt rd k v

/-- The header of a stock sheet that holds vectors up to position i (R310, R311). -/
def DInfo.stockHeader (d : DInfo) (i : Nat) : List Byte :=
  let sh := i / d.perSheet
  leBytes 64 (0x5348 + d.fmt.code * 2 ^ 16 + 5 * 2 ^ 20 + (i % d.perSheet + 1) * 2 ^ 24 + sh * d.perSheet * 2 ^ 64
    + (d.e 0 + vbytes d.fmt (d.e 0) * 2 ^ 16 + 0xFFFFFFFF * 2 ^ 32) * 2 ^ 256)

/-- The bytes that an insert at position i of the stock writes: its vector in the stored format, as the ingest program's encoder
makes it, and its sheet's header (R304, R310, R316). -/
def DInfo.stockBytes (d : DInfo) (i : Nat) (vec : Nat → Byte) : List (Nat × Byte) :=
  let vb := vbytes d.fmt (d.e 0)
  let a := d.base + 65536 * (i / d.perSheet)
  bytesAt a (d.stockHeader i) ++ bytesAt (a + 0x40 + i % d.perSheet * vb) ((upto vb).map vec)

/-- ‖x‖² of a stored vector, summed exactly and rounded once with RNE (R313). -/
def sqNorm (xs : List CellElem) : W32 :=
  let vs := xs.map CellElem.val
  if vs.all FVal.isFin then
    let t := vs.foldl (fun (t : Int × Int) v => match v with
      | .fin _ m e => dySub t.1 t.2 (-((m * m : Nat) : Int)) (2 * e)
      | _ => t) (0, 0)
    toFp32 (.fin false t.1.natAbs t.2)
  else toFp32 .nan

/-- Bytes written into blocks of a namespace: the blocks with their new contents, by LBA. -/
def State.patched (s : State) (nsid : Nat) (ws : List (Nat × Byte)) : List (Nat × PBlk) :=
  let m := ws.foldl (fun m w => assocPut w.1 w.2 m) []
  ((ws.map fun w => w.1 / 4096).dedup).map fun lba =>
    (lba, { data := bytesToBits 32768 ((upto 4096).map fun k => (assocGet (4096 * lba + k) m).getD (s.nsByte nsid (4096 * lba + k))), pi := none })

/-- The stock's inserts of an object's vectors: their sheets in the stock region, held like every write of the execution (R24),
and their identity entries. Result: what they wait for. -/
def State.insert (s : State) (e : Exec) (o : ObjCmd) (nsid : Nat) : State × List (Nat × Nat) :=
  match s.indexes.find? (fun x => x.nsid == nsid), s.image? e.image with
  | some x, some i =>
    let root := (s.blk nsid 0).data
    let d := indexVectors root (rootStock root)
    let ws := (upto o.vectors).flatMap fun k => d.stockBytes (x.version + 1 + k - x.seqBase) (Config.embedding i.bytes o.bytes o.kind k)
    let r := (s.patched nsid ws).foldl (fun (r : State × List (Nat × Nat)) b =>
      let q := r.1.writeHeld { group := 0, seq := 0, nsid, lba := b.1, blocks := [b.2] } e.id
      (q.1, r.2 ++ q.2)) (s, [])
    let one (k : Nat) : StockEntry :=
      { seq := x.version + 1 + k, object := o.obj, sample := k
        norm := sqNorm (d.vector (r.1.nsByte nsid) (x.version + 1 + k - x.seqBase)) }
    (r.1.modIndex nsid fun y => { y with entries := y.entries ++ (upto o.vectors).map one, version := y.version + o.vectors }, r.2)
  | _, _ => (s, [])

/-- Append an object's vectors, which takes sequence numbers of the index, or wait for room. -/
def State.append (s : State) (e : Exec) (o : ObjCmd) : State :=
  match e.index with
  | none => s.modObj e.id o.hdr fun x => { x with stage := .appended }
  | some n =>
    if o.vectors = 0 then s.modObj e.id o.hdr fun x => { x with stage := .appended, version := s.stockVersion n }
    else if s.stockRoom n o.vectors then
      let s := s.modIndex n fun x => x
      let r := s.insert e o n
      r.1.modObj e.id o.hdr fun x => { x with stage := .appended, version := r.1.stockVersion n, waits := x.waits ++ r.2 }
    else s.modIndex n fun x =>
      if x.waiting.contains (e.id, o.obj) then x else { x with waiting := x.waiting ++ [(e.id, o.obj)] }

/-- The object of an append that waits. -/
def State.waitingObj (s : State) (w : Nat × W64) : Option (Exec × ObjCmd) :=
  match s.ex? w.1 with
  | some e => (e.objs.find? fun o => o.obj == w.2 && o.stage != .appended).map fun o => (e, o)
  | none => none

/-- STOCK_APPEND_RESUME (R322): the oldest waiting append goes on when there is room. -/
def execStockAppendResume (nsid : Nat) (s : State) : Out :=
  .next (match s.indexes.find? (fun x => x.nsid == nsid) with
    | none => s
    | some x => match x.waiting with
      | [] => s
      | w :: rest => match s.waitingObj w with
        | none => s.modIndex nsid fun y => { y with waiting := rest }
        | some (e, o) =>
          if s.stockRoom nsid o.vectors then (s.modIndex nsid fun y => { y with waiting := rest }).append e o else s)

/-- STOCK_APPEND_TIMEOUT (R322): the object command whose deadline has passed completes with 0x8A; which tier
bits its DW0 carries is not stated, so they are free. -/
def execStockAppendTimeout (nsid : Nat) (s : State) : Out :=
  .next (match s.indexes.find? (fun x => x.nsid == nsid) with
    | none => s
    | some x => match x.waiting.filterMap (fun w => (s.waitingObj w).map fun p => (w, p.1, p.2))
        |>.find? (fun q => isLate s.now q.2.2.deadline) with
      | none => s
      | some (w, e, o) =>
        let dw := ((Config.freeWord s.free).setWidth 2).setWidth 32
        let s := { s with free := s.free + 1 }
        let s := s.modIndex nsid fun y => { y with waiting := y.waiting.filter (· != w) }
        (s.modEx e.id fun y => { y with objs := y.objs.filter fun q => !(q.hdr == o.hdr) }).jobDone o.hdr e.ctx o.deadline (.failed 0x8A dw 0))

/-! ## Melds (R318, R320) -/

/-- The score of a vector against another under a metric (R337): the dot product, or twice it less the other's ‖y‖². -/
def metricScore (l2 : Bool) (x y : List CellElem) : FVal :=
  fp32 (fedScore l2 { val := toFp32 ((Acc.zero.terms x y).out 0), norm := sqNorm y })

/-- The shelf whose centroid gives a vector the best score; a tie goes to the lower shelf number (R318). -/
def bestShelf (l2 : Bool) (x : List CellElem) (cs : List (List CellElem)) : Nat :=
  let sc := cs.map (metricScore l2 x)
  ((sc.zipIdx).foldl (fun (b : Option (FVal × Nat)) q => match b with
    | none => some q
    | some p => if p.1.lt q.1 || (p.1.isNan && !q.1.isNan) then some q else b) none).elim 0 (·.2)

/-- The meld of an execution would give a shelf more than 16,777,215 vectors (R320): each insert that its snapshot sees goes to
its best shelf. -/
def State.shelfOverflow (s : State) (e : Exec) : Bool :=
  match e.index, e.snap with
  | some n, some (_, mg, v) =>
    let root := (s.blk n 0).data
    let cents := indexVectors root (rootCentroids root)
    let stock := indexVectors root (rootStock root)
    let rd := s.nsByte n
    let cs := (upto (bitsOf root.toNat 95 64)).map fun k => cents.vector rd k
    let x := (s.indexes.find? fun x => x.nsid == n).getD { nsid := n }
    let dest := (x.entries.filter fun q => decide (mg < q.seq ∧ q.seq ≤ v)).map fun q =>
      bestShelf (decide (bitsOf root.toNat 43 43 = 1)) (stock.vector rd (q.seq - x.seqBase)) cs
    (s.directory n root).zipIdx.any fun d => decide (16777215 < (shelfOf d.1).count + dest.count d.2)
  | _, _ => false

/-! ## The stages of an object (R304) -/

/-- The object's blocks, the last one padded with zeros (R412). -/
def ObjCmd.toBlocks (o : ObjCmd) : List PBlk :=
  (chunks 4096 o.bytes).map fun b => { data := bytesToBits 32768 b, pi := none }

/-- The table entry of an object that the ingest library decodes (R304): any format, the first track, no limit of vectors. -/
def ObjCmd.entry (o : ObjCmd) : BitVec 512 := BitVec.ofNat 512 (o.bytes.length * 2 ^ 64 + 2 ^ 144 + (2 ^ 32 - 1) * 2 ^ 192 + o.obj.toNat * 2 ^ 256)

/-- What decoding makes of an object: its status record, and the vectors that it will have in the stock, one embedding for each
sample (R304, R313; log entry 143), none after a media failure. -/
def ObjCmd.decode (o : ObjCmd) : ObjCmd :=
  let d := decodeEntry o.bytes o.entry (Config.ingestRecord o.kind)
  { o with mstat := BitVec.ofNat 256 (d.info / 256 * 256 + d.code), vectors := d.info / 2 ^ 64 % 2 ^ 32, stage := .decoded }

/-- Release the object's namespace write (R304). -/
def State.storeObj (s : State) (e : Exec) (o : ObjCmd) : State :=
  let r := s.writeHeld { group := 0, seq := 0, nsid := o.nsid, lba := o.lba, blocks := o.toBlocks } e.id
  r.1.modObj e.id o.hdr fun x =>
    { x with isStored := true, stage := if x.stage = .accepted then .stored else x.stage, waits := x.waits ++ r.2 }

/-- One object moves on by one stage at a commit of its execution (R304; the pace is the library's). -/
def State.advanceObj (s : State) (e : Exec) (o : ObjCmd) : State :=
  match o.stage with
  | .arriving => s
  | .accepted => if o.defer then s.modObj e.id o.hdr ObjCmd.decode else s.storeObj e o
  | .stored => s.modObj e.id o.hdr ObjCmd.decode
  | .decoded =>
    let s := if o.defer ∧ !o.isStored ∧ o.mstat.setWidth 8 = 0#8 then s.storeObj e o else s
    s.modObj e.id o.hdr fun x => { x with stage := .embedded }
  | .embedded => s.append e o
  | .appended => s

/-- Every object of an ingest execution moves on at its commit. -/
def State.advanceObjs (s : State) (id : Nat) : State :=
  match s.ex? id with
  | some e => if e.ingest then e.objs.foldl (fun s o => s.advanceObj e o) s else s
  | none => s

/-- INGEST_OBJECT_COMPLETE (R305): the object and its vectors are held by both modules, or by this one alone in
solo operation (R24). -/
def execIngestObjectComplete (exec : Nat) (obj : W64) (s : State) : Out :=
  .next (match s.ex? exec with
    | none => s
    | some e => match e.objs.find? (fun o => o.obj == obj && o.stage == .appended) with
      | none => s
      | some o =>
        if o.waits = [] then
          (s.modEx exec fun x => { x with objs := x.objs.filter fun y => !(y.hdr == o.hdr) }).objDone e o
        else s)

end Sys2Proof.Machine
end

