-- ==== Sys2Proof/Machine/Commit.lean ====
section
/-!
DEFINITION. The commit point of a step (R81 to R84, R113, R114, R144 to R148, R226, R246, R260, R489, R503, R513) and
what follows the last one (R194).
-/
namespace Sys2Proof.Machine

/-! ## Scale slots (R81 to R84) -/

/-- A 9-bit signed field. -/
def s9 (x : Int) : Nat := ((max (-256) (min 255 x)).emod 512).toNat

/-- Replace bits hi..lo of a number below 2^64. -/
def setBits (v hi lo x : Nat) : Nat := v - bitsOf v hi lo * 2 ^ lo + x % 2 ^ (hi + 1 - lo) * 2 ^ lo

/-- The new scale exponent of R83: H + 1 − L + margin, when some step of the history stored a nonzero value. -/
def slotNewT (hist : List Int) (L : Int) (margin : Nat) : Option Int :=
  match (hist.filter fun a => decide (a ≠ -256)).max? with
  | none => none
  | some H => some (max (-256) (min 255 (H + 1 - L + margin)))

/-- A slot after the commit of a step that stored through it. -/
def slotCommit (x : Slot) (m : SlotMeas) : Slot :=
  let w := x.word.toNat
  let a : Int := match m.amax with
    | some v => max (-255) (min 255 v)
    | none => -256
  let hist := (a :: x.hist).take (bitsOf w 14 11 + 1)
  let t := slotT x.word
  let new := slotNewT hist m.L (bitsOf w 17 15)
  let breach := decide (bitsOf w 31 18 < m.clip) || (match new with
    | some n => decide (n + 4 ≤ t)
    | none => false)
  let t' := match new with
    | some n => if bitsOf w 10 9 = 1 ∨ (bitsOf w 10 9 = 2 ∧ breach) then n else t
    | none => t
  let w := setBits (setBits (setBits w 8 0 (s9 t')) 40 32 (s9 a)) 63 48 (min 65535 m.clip)
  { word := BitVec.ofNat 64 w, hist }

/-- The slots after a commit. -/
def Exec.slotsAfter (e : Exec) : Vector Slot 64 :=
  e.st.meas.foldl (fun v m => vmod v m.slot fun x => slotCommit x m) e.slots

/-- FAB_NSTAT as the step's commit leaves it (R60). -/
def Exec.nstatAfter (e : Exec) : W64 :=
  BitVec.ofNat 64 (min 65535 e.st.nanOut + min 65535 e.st.dropOut * 2 ^ 16 + min 65535 e.st.clipOut * 2 ^ 32
    + min 255 e.residRetry * 2 ^ 48)

/-! ## Memory -/

/-- One byte of the step reaches memory. -/
def State.landByte (s : State) (e : Exec) (m : List Host.Cell) (b : Nat × Byte) : List Host.Cell :=
  match s.execPlace e (b.1 / 65536) with
  | .mem a i _ _ => memPut m (byteKey a i (b.1 % 65536)) b.2
  | _ => m

/-- Poison is cleared where a full 64-byte word is written (R544). -/
def State.cured (s : State) (e : Exec) (bs : List (Nat × Byte)) : List Nat :=
  s.tiers.poison.filter fun w => !(
    decide (64 ≤ bs.countP fun b => match s.execPlace e (b.1 / 65536) with
      | .mem a i _ _ => decide (byteKey a i (b.1 % 65536) / 64 = w)
      | _ => false))

/-- A migration is issued again for a page whose hint still stands (R246). -/
def State.reissue (s : State) (c : HintCode) (a : Alloc) (i : Nat) : State :=
  if s.hinted a.id i c then
    match c with
    | .hot => s.promote a [i] .t1 none (some .hot)
    | .streamed => s.demoteStreamed a [i]
    | .clear | .keep | .cold => s
  else s

/-- Migrations lose the pages that a commit replaces; those whose hint still stands are issued again against the committed
page (R246). -/
def State.cancelMig (s : State) (ps : List (Nat × Nat)) : State :=
  let lost := (s.tiers.migs ++ s.tiers.queue).flatMap fun m =>
    (m.pages.filter fun i => ps.contains (m.alloc, i)).filterMap fun i => m.cause.map fun c => (c, m.alloc, i)
  (lost.foldl (fun s l => match s.alloc? l.2.1 with
    | some a => s.reissue l.1 a l.2.2
    | none => s) (s.cutMigs ps)).movesOver

/-- Shadow pages replace the pages that they shadow (R147, R252): bytes, frames, translations. -/
def State.landPages (s : State) (e : Exec) : State :=
  let bs := e.st.shadow
  let hits := e.st.shPages.filterMap fun q => match s.execPlace e q.1 with
    | .mem a i _ _ => some (a.id, i, q.2)
    | _ => none
  let mem := bs.foldl (s.landByte e) s.tiers.mem
  let poison := s.cured e bs
  let s := { s with tiers := { s.tiers with mem, poison } }
  let s := hits.foldl (fun s h => s.modAlloc h.1 fun a =>
    a.setPage h.2.1 { a.page h.2.1 with tier := h.2.2, zod := false, sw := false, lastUse := s.now }) s
  let s := s.cancelMig (hits.map fun h => (h.1, h.2.1))
  s.invalidate fun t => !(e.st.shPages.any fun q => decide (s.ctxPage e q.1 = t.page))

/-- The bytes of a page as memory holds them. -/
def State.pageBytes (s : State) (a : Alloc) (i : Nat) : List Byte := (upto 65536).map fun k => memGet s.tiers.mem (byteKey a i k)

/-- The pages that the commit placed in allocations go to the partner (R489); T0 contents stay (R484). -/
def State.mirrorPages (s : State) (e : Exec) : State × List Nat :=
  if s.paired ∧ !e.twin then
    let ps := e.st.shPages.filterMap fun q => match s.execPlace e q.1 with
      | .mem a i _ _ => if (a.page i).tier = .t0 then none else some (a, i)
      | _ => none
    (ps.foldl (fun s p => s.toPeer (.page e.id (pageKey p.1 p.2) (s.pageBytes p.1 p.2))) s, ps.map fun p => pageKey p.1 p.2)
  else (s, [])

/-- Release the step's namespace writes (R148, R483); the partner of a twin-verified job discards its own
(R514). The result lists what each release waits for. -/
def State.releaseNs (s : State) (e : Exec) : State × List (Nat × Nat) :=
  if e.copy then (s, [])
  else e.st.ns.foldl (fun (acc : State × List (Nat × Nat)) h =>
    let r := acc.1.writeHeld { group := 0, seq := 0, nsid := h.nsid, lba := h.lba, blocks := h.blocks } e.id
    (r.1, acc.2 ++ r.2)) (s, [])

/-- The step with what its working banks hold written out: over its shadow pages, or into held namespace writes (R114, R147,
R148, R167). -/
def State.withBanks (s : State) (e : Exec) : Exec := s.store e (s.fab.bankOf e.id)

/-- The pages of allocations that an execution's committed banks drain to (R114). -/
def State.drainPages (s : State) (e : Exec) : List Nat :=
  e.st.bankPages.filterMap fun p => match s.execPlace e p with
    | .mem a i _ _ => some (pageKey a i)
    | _ => none

/-- The committed banks begin to drain. -/
def State.switchBanks (s : State) (e : Exec) : State :=
  if e.st.bankPages.isEmpty then s else { s with fab := s.fab.switch e.id (s.drainPages e) }

/-! ## Twin digests (R513) -/

/-- The digest of everything that a step commits: output banks and shadow pages in ascending virtual
address, then held namespace writes by LBA. -/
def State.digest (s : State) (e : Exec) : BitVec 256 :=
  let e := s.withBanks e
  let bs := e.st.shadow
  let ns := sortBy (fun (a b : NsHeld) => decide (a.lba < b.lba)) e.st.ns
  bytesToBits 256 (sha256 (bs.map (·.2) ++ ns.flatMap fun h => h.blocks.flatMap fun b => blkBytes b.data))

/-! ## The commit of one execution -/

/-- The run time of the step exceeded twice the budget (R156). -/
def State.overrun (s : State) (e : Exec) : Bool := decide (2 * s.sched.budget * 1000 < s.now - e.st.startedAt)

/-- Platen's counts of a committed step (R283). -/
def EngineRegs.platen (g : EngineRegs) (st : StepSt) : EngineRegs :=
  { g with done := satAdd (2 ^ 32 - 1) g.done st.platenDone, failed := satAdd 65535 g.failed st.platenFailed }

/-- The root record that a meld's step publishes (R318): the block that it writes at LBA 0 of its index namespace. -/
def Exec.newRoot (e : Exec) : Option Blk :=
  match e.index with
  | some n => if e.meld then (e.st.ns.findSome? fun h => if h.nsid = n ∧ h.lba = 0 then h.blocks.head?.map (·.data) else none) else none
  | none => none

/-- The runs of its index namespace that a meld's step writes; none remains to be given back once it publishes (R323). -/
def Exec.melded (e : Exec) : List (Nat × Nat) :=
  if e.newRoot.isSome then [] else (e.st.ns.filter fun h => e.index == some h.nsid).map fun h => (h.lba, h.blocks.length)

/-- The execution after its commit point (R135, R144, R226); keys are the pages sent to the partner, waits
what its released writes wait for. -/
def Exec.committed (e : Exec) (now est : Nat) (claim : BitVec 16) (final : Bool) (keys : List Nat) (waits : List (Nat × Nat)) : Exec :=
  let slots := e.slotsAfter
  let ledgers := e.st.ledgers.foldl (fun m l => assocPut l.1 l.2 m) e.ledgers
  { e with
    page := { regs := e.regs, descs := e.descs, lcs := e.lcs }
    slots, slotsC := slots, ledgers
    decode := e.st.decode.getD e.decode
    nstat := e.nstatAfter
    sentPages := (e.sentPages ++ keys).dedup
    awaitNs := e.awaitNs ++ waits
    evs := 0, pc := e.pc + 16, pcStep := e.pc + 16, rstack := e.rstack
    spent := e.spent + est
    wrote := if e.meld then e.wrote ++ e.melded else e.wrote
    step := e.step + 1, claim, reruns := [], stall := none, st := {}
    phase := if final then .draining else .waitGrant
    comp := if final then none else e.comp
    waitSince := now }

/-- One execution commits its step. A forme that has streamed gives firmware a measurement of the forme rate (R106), whose value
no rule states. -/
def State.commit1 (s : State) (e : Exec) (claim : BitVec 16) (final : Bool) : State :=
  let e := s.withBanks e
  let s := (s.switchBanks e).landPages e
  let m := s.mirrorPages e
  let r := m.1.releaseNs e
  let e := if e.newRoot.isSome then { e with wrote := [] } else e
  let s := ((r.1.setEx (e.committed s.now (s.stepEstimate e) claim final m.2 r.2)).advanceObjs e.id).release e.id
  { s with
    eng := s.eng.platen e.st
    fab := if !e.st.formed then s.fab else { s.fab with formeRate := some (Config.formeMeasured s.free + 1) }
    free := s.free + 1
    sched := { s.sched with overruns := if s.overrun e then satAdd 65535 s.sched.overruns 1 else s.sched.overruns } }

/-! ## Pre-emption at a commit point (R260) -/

/-- Executions that wait for a compositor. -/
def State.waiters (s : State) : List Exec := s.sched.execs.filter fun e => e.phase == .queued || e.phase == .preempted

/-- Some compositor is free. -/
def State.freeComp (s : State) : Bool :=
  (List.finRange 16).any fun c => !(s.busyComp c) && !(s.sched.comps[c]).oos && !(s.sched.comps[c]).resetting

/-- The execution that holds a compositor and comes last in deadline order. -/
def State.latest (s : State) : Option Exec :=
  (s.sched.execs.filter fun e => e.comp.isSome).foldl (fun acc e => match acc with
    | none => some e
    | some m => some (if s.before m e then e else m)) none

/-- A crew yields its compositor at its commit point (R260, R365). -/
def State.yields (s : State) (e : Exec) : State :=
  let ids := s.crew e
  let s := ids.foldl (fun s i => s.modEx i fun x =>
    { x with phase := .preempted, comp := none, preemptStep := none }) s
  ({ s with sched := { s.sched with boundary := satAdd 65535 s.sched.boundary 1 } }).fillComps

/-- Pre-emption by this module's arbiter, which the partner's copy of a twin-verified execution follows (R514). -/
def State.preempt (s : State) (e : Exec) : State :=
  (if e.twin then s.toPeer (.preempt e.id e.step) else s).yields e

/-- R260 for a crew that has committed: it is pre-empted when it is the running execution with the latest
deadline, no compositor is free, and a waiting execution has an earlier one. -/
def State.preemptCheck (s : State) (id : Nat) : State :=
  match s.ex? id, s.earliest s.waiters, s.latest with
  | some e, some w, some l =>
    if e.phase = .waitGrant ∧ e.comp.isSome ∧ !s.freeComp ∧ (s.crew l).contains e.id ∧ s.before w e ∧ s.dl w ≠ none ∧ s.dl w ≠ s.dl e then
      s.preempt e
    else s
  | _, _, _ => s

/-! ## The command -/

/-- The closing executions of compositor c: one, or the members of a gang. -/
def State.closingOn (s : State) (c : Fin 16) : List Exec :=
  s.sched.execs.filter fun e => e.comp == some c && (match e.phase with | .closing .. => true | _ => false)

/-- Bytes of the namespace writes that the commit of some executions releases. -/
def releaseBytes (es : List Exec) : Nat := 4096 * ((es.flatMap (·.st.ns)).map (·.blocks.length)).sum

/-- A commit must wait: an operation is outstanding (R145), a bank must be switched and an earlier one has
not drained (R114), or the write buffer has no room for what the commit releases (R451). -/
def State.commitWaits (s : State) (es : List Exec) : Bool :=
  es.any (fun e => !e.st.ops.isEmpty) || (es.any (fun e => !e.st.bankPages.isEmpty) && !s.fab.draining.isEmpty)
    || (decide (releaseBytes (es.map s.withBanks) ≠ 0) && !s.bufferRoom (releaseBytes (es.map s.withBanks)))

/-- A step that would release namespace writes under the refuse policy of a solo state (R503). -/
def State.refused (s : State) (es : List Exec) : Bool := s.solo && s.twin.refuse && es.any fun e => !(s.withBanks e).st.ns.isEmpty

/-- The claim and end mark that a closing execution carries. -/
def Exec.closing (e : Exec) : BitVec 16 × Bool := match e.phase with | .closing c f => (c, f) | _ => (0, false)

/-- What follows the commit of an execution that has more steps: it ends when a shutdown stops jobs (R577), it
yields where the partner's copy was pre-empted (R514), or R260 decides. -/
def State.afterCommit (s : State) (e : Exec) : State :=
  match s.ex? e.id with
  | none => s
  | some x =>
    if x.phase = .draining then s
    else if s.host.stopJobs then s.endExec x .takeover
    else if x.preemptStep = some x.step then s.yields x
    else s.preemptCheck x.id

/-- The commit of a crew, and what follows it. -/
def State.commitAll (s : State) (es : List Exec) : State :=
  let s := es.foldl (fun s e => match s.ex? e.id with
    | some x => s.commit1 x x.closing.1 x.closing.2
    | none => s) s
  let s := s.boundary.fillComps
  if s.host.stopJobs then es.foldl State.afterCommit s
  else match es with
    | e :: _ => s.afterCommit e
    | [] => s

/-- A twin mismatch: both modules abandon the step, and the job completes with 0x8C (R513, R435). -/
def State.twinFail (s : State) (e : Exec) : State := s.endExec e (.failed 0x8C 0 e.step32)

/-- The partner's digest of the step in progress. -/
def Exec.digestOf (e : Exec) : Option (BitVec 256) :=
  match e.peerDigest with
  | some q => if q.1 = e.step then some q.2 else none
  | none => none

/-- The digest exchange of a twin-verified step (R513): the step commits when both digests are equal. -/
def State.twinCommit (s : State) (e : Exec) : State :=
  match e.st.myDigest with
  | none =>
    let d := s.digest e
    let e := { e with st := { e.st with myDigest := some d } }
    let s := (s.setEx e).toPeer (.digest e.id e.step d)
    (match e.digestOf with
    | some q => if q = d then s.commitAll [e] else s.twinFail e
    | none => s)
  | some d => (match e.digestOf with
    | some q => if q = d then s.commitAll [e] else s.twinFail e
    | none => s)

/-- A step would publish a generation with a shelf of more than 16,777,215 vectors (R320). -/
def State.overfull (s : State) (e : Exec) : Bool := (s.withBanks e).newRoot.isSome && s.shelfOverflow e

/-- Such a meld ends with 0x8A and the generation in force stays (R320); the tier bits of DW0 are free (log entry 48). -/
def State.meldFull (s : State) (e : Exec) : State :=
  ({ s with free := s.free + 1 }).jobFail e 0x8A (((Config.freeWord s.free).setWidth 2).setWidth 32) 0

/-- COMMIT_POINT (R145, R146, R223, R503, R513). -/
def execCommitPoint (c : Fin 16) (s : State) : Out :=
  let es := s.closingOn c
  .next (
    if es = [] ∨ s.commitWaits es then s
    else match es.find? (fun e => e.st.poisonMv || e.st.poisonFx) with
      | some e => s.rerunOr e .poison 0x85 0 e.step32
      | none =>
        if es.any s.overfull then (match es.find? s.overfull with
          | some e => s.meldFull e
          | none => s)
        else if s.refused es then
          (es.foldl (fun s e => (s.abandon1 e.id).modEx e.id fun x =>
            { x with phase := .policyWait, comp := none }) s).fillComps
        else match es with
          | [e] => if e.twin then s.twinCommit e else s.commitAll es
          | _ => s.commitAll es)

/-- OUTPUT_BANK_DRAIN (R114): the committed banks of an execution's last step have drained. -/
def execOutputBankDrain (exec : Nat) (s : State) : Out := .next { s with fab := s.fab.drained exec }

/-- EXECUTION_COMPLETE (R194, R489): the final banks have drained, the released writes are held, and the
partner has acknowledged the finish note. -/
def execExecutionComplete (exec : Nat) (s : State) : Out :=
  .next (match s.ex? exec with
    | none => s
    | some e =>
      if e.phase ≠ .draining ∨ s.fab.draining.any (fun d => decide (d.1 = exec)) ∨ e.awaitNs ≠ [] ∨ (e.objs.any fun o => !o.waits.isEmpty) then s
      else if s.paired ∧ !e.twin then
        if e.finishSent then s
        else
          let late := isLate s.now e.deadline
          let cqe : Cqe := { hdr := e.hdr, sct := 0, sc := 0, dw0 := if late then 1 else 0, dw1 := if late then lateUs s.now e.deadline else 0 }
          (s.setEx { e with finishSent := true, finishAt := s.now }).toPeer (.finish e.id e.sentPages.length cqe e.deadline)
      else s.endExec e .success)

end Sys2Proof.Machine
end

