-- ==== Sys2Proof/Machine/Grant.lean ====
section
/-!
DEFINITION. The arbiter: grants (R23, R233, R275, R523), abandoning a step for a deadline (R261, R262), resuming
(R265), the wait backstop (R277), withdrawal (R266, R381), and launching a gang (R106 to R109, R364).
-/
namespace Sys2Proof.Machine

/-! ## What a crew's next step needs (R152, R234) -/

/-- Pages of the three tiers and engines. -/
structure Need where
  t0 : Nat
  t1 : Nat
  t2 : Nat
  engines : List Engine
  pipes : Nat
  deriving DecidableEq, Repr, Inhabited

/-- What one execution's claim needs beyond the held pages that lie in T0 already; those that have been spilled come back for it
(R234). -/
def State.need (s : State) (e : Exec) : Need :=
  let c := s.claimOf e
  { t0 := claimT0 c - e.heldT0.countP (s.resident e), t1 := claimT1 c, t2 := claimT2 c, engines := claimEngines c, pipes := claimPipes c }

/-- What the members of a crew need together (R365). -/
def State.needAll (s : State) (es : List Exec) : Need :=
  es.foldl (fun n e =>
    let m := s.need e
    { t0 := n.t0 + m.t0, t1 := n.t1 + m.t1, t2 := n.t2 + m.t2, engines := (n.engines ++ m.engines).dedup, pipes := n.pipes + m.pipes })
    { t0 := 0, t1 := 0, t2 := 0, engines := [], pipes := 0 }

/-- Need of a tier. -/
def Need.tier (n : Need) (t : Tier) : Nat := match t with | .t0 => n.t0 | .t1 => n.t1 | .t2 => n.t2 | .t3 => 0

/-- Platen's pipes that steps hold. -/
def State.pipesHeld (s : State) : Nat :=
  ((s.sched.holder.filter fun h => h.1 == .platen).filterMap fun h => (s.ex? h.2).map fun e => claimPipes (s.claimOf e)).sum

/-- An engine slot is free: each is granted whole to one step, and Platen's 64 pipes are granted by number
(R111, R152, R281, R348). -/
def State.slotFree (s : State) (n : Need) (g : Engine) : Bool :=
  if g = .platen then decide (s.pipesHeld + n.pipes ≤ 64) else !(s.sched.holder.any fun h => h.1 == g)

/-- The claim's pages and engines are all free. -/
def State.covers (s : State) (n : Need) : Bool :=
  [Tier.t0, .t1, .t2].all (fun t => decide (n.tier t ≤ s.freePages t)) && n.engines.all (s.slotFree n)

/-- A later claim takes nothing that the earliest waiting claim still lacks (R275). -/
def State.spares (s : State) (first later : Need) : Bool :=
  later.engines.all (fun g => !first.engines.contains g)
    && [Tier.t0, .t1, .t2].all fun t => decide (later.tier t = 0) || decide (later.tier t + first.tier t ≤ s.freePages t)

/-- Demote for a claim what it lacks beyond what is on its way out already (R233). -/
def State.demoteFor (s : State) (n : Need) : State :=
  [Tier.t0, .t1, .t2].foldl (fun s t => s.demoteSome t (n.tier t - (s.freePages t + s.leaving t))) s

/-- The first tier that neither demotion nor the end of other grants can free for a claim (R233). -/
def State.never (s : State) (n : Need) : Option Tier :=
  [Tier.t0, .t1, .t2].find? fun t => decide (s.canFree t + s.canDemote t < n.tier t)

/-! ## STEP_GRANT -/

/-- The crews that wait for a grant, in deadline order, each as its members. -/
def State.waitingCrews (s : State) : List (List Exec) :=
  let ws := s.sched.execs.filter fun e => e.phase == .waitGrant && e.comp.isSome
  let heads := ws.filter fun e => match e.gang with
    | none => true
    | some g => (ws.find? fun x => x.gang == some g).map (·.id) == some e.id
  (sortBy s.before heads).map fun e => match e.gang with
    | none => [e]
    | some g => ws.filter fun x => x.gang == some g

/-- The step of a crew starts: all of its claim is granted, fences, gates and clocks come into force, and the tiles are cleared
(R23, R34, R117, R122, R136), and held pages that had been spilled come back (R234). -/
def State.startStep (s : State) (es : List Exec) : State :=
  let s := if s.fabricHeld then s else { s with fab := s.fab.clear }
  let s := s.reshape
  es.foldl (fun s e =>
    let n := s.need e
    let s := s.restore e
    let s := s.modEx e.id fun x => { x with
      phase := .running, evs := 0, stall := none, resuming := false, st := { startedAt := s.now }
      began := if x.began = 0 then max 1 s.now else x.began
      snap := match x.index, x.snap with
        | some n, none => some (s.snapshotOf n)
        | _, g => g }
    { s with sched := { s.sched with
        holder := s.sched.holder ++ n.engines.map fun g => (g, e.id)
        grants := s.sched.grants ++ [(e.id, [claimT0 (s.claimOf e) - e.heldT0.length, n.t1, n.t2])] } }) s

/-- The reports of the valid-bit check (R523, R560). -/
def clearReport : ClearFail → Report
  | .tile r c => { src := Fin.ofNat 256 (r / 5 % 16), event := 0x04, whr := BitVec.ofNat 24 (r % 128 + 256 * (c % 128))
                   inj := false, exec := none, spareLeft := true }
  | .bank n => { src := Fin.ofNat 256 (0x20 + n % 64), event := 0x02, whr := 0, inj := false, exec := none, spareLeft := true }

/-- The crew at the head, or a later one that R275 lets go first, starts its step. -/
def State.grantOne (s : State) (crews : List (List Exec)) (bad : List ClearFail) : State :=
  match crews with
  | [] => s
  | first :: rest =>
    let n := s.needAll first
    match first.find? (fun e => (s.need e).engines.any fun g => !(s.mayEngine e.ctx g)) with
    | some e => s.endExec e (.failed 0x86 0 0x100)
    | none =>
      let s := if s.covers n then s else s.demoteFor n
      match s.never n with
      | some t => (match first with
        | e :: _ => s.endExec e (.failed 0x8A (BitVec.ofNat 32 (tierNo t)) 0)
        | [] => s)
      | none =>
        let pick := if s.covers n then some first
          else rest.find? fun es => s.covers (s.needAll es) && s.spares n (s.needAll es)
            && es.all fun e => (s.need e).engines.all (s.mayEngine e.ctx)
        match pick with
        | none => s
        | some es => if bad = [] then s.startStep es else s.sample (bad.map clearReport)

/-- STEP_GRANT (R23, R233, R275, R523). bad lists what fails the valid-bit check at the step's start. -/
def execStepGrant (bad : List ClearFail) (s : State) : Out := .next (s.grantOne s.waitingCrews bad)

/-! ## Abandoning, resuming, withdrawing -/

/-- A crew leaves its compositor without its step (R116, R264). -/
def State.pushOff (s : State) (e : Exec) : State :=
  ((s.crew e).foldl (fun s i => (s.abandon1 i).modEx i fun x => { x with phase := .preempted, comp := none }) s).fillComps

/-- The remaining part of a running step's estimate; past the estimate, the elapsed time (R261). -/
def State.remaining (s : State) (e : Exec) : Nat :=
  let est := s.stepEstimate e
  let run := s.now - e.st.startedAt
  if run ≤ est then est - run else run

/-- The execution with the earliest deadline among those that wait for a compositor or a grant. -/
def State.urgent (s : State) : Option Exec :=
  s.earliest (s.sched.execs.filter fun e => e.phase == .queued || e.phase == .preempted || (e.phase == .waitGrant && e.comp.isSome))

/-- Steps that R261 abandons for execution w. -/
def State.inTheWay (s : State) (w : Exec) (d : Nat) : List Exec :=
  s.sched.execs.filter fun e =>
    (match e.phase with | .running | .closing .. => true | _ => false)
      && (claimEngines (s.claimOf w)).any (fun g => s.sched.holder.any fun h => h.1 == g && decide (h.2 = e.id))
      && decide (d + s.sched.budget * 1000 < s.now + s.remaining e + w.workLeft)
      && (match s.earliest s.sched.execs with
          | some f => !((s.crew f).contains e.id)
          | none => true)

/-- STEP_ABANDON_FOR_DEADLINE (R261, R262). -/
def execStepAbandonForDeadline (s : State) : Out :=
  .next (match s.urgent with
    | none => s
    | some w => match s.dl w with
      | none => s
      | some d => match s.inTheWay w d with
        | [] => s
        | e :: _ => (({ s with sched := { s.sched with abandoned := satAdd 65535 s.sched.abandoned 1 } }).pushOff e))

/-- EXECUTION_RESUME (R265): a pre-empted crew takes a free compositor and waits for a fresh grant. -/
def execExecutionResume (exec : Nat) (c : Fin 16) (s : State) : Out :=
  .next (match s.ex? exec with
    | none => s
    | some e =>
      if e.phase ≠ .preempted ∨ isLate s.now e.deadline ∨ s.busyComp c ∨ s.sched.comps[c].oos ∨ s.sched.comps[c].resetting then s
      else (s.crew e).foldl (fun s i => s.modEx i fun x => { x with
        phase := .waitGrant, comp := some c, waitSince := s.now, resuming := true
        regs := x.page.regs, descs := x.page.descs, lcs := x.page.lcs, evs := 0, pc := x.pcStep }) s)

/-- The execution has waited for more than 2 ms for a grant, a completion or a response (R277), counted from when that wait
began (log entry 50). -/
def State.waitedLong (s : State) (e : Exec) : Bool :=
  let long := decide (e.waitSince + 2000000 < s.now)
  match e.phase with
  | .waitGrant => e.comp.isSome && long
  | .running => e.stall.isSome && long
  | .closing .. => long
  | _ => false

/-- Execution a waits for an engine or for pages that the step of b holds. -/
def State.waitsFor (s : State) (a b : Exec) : Bool :=
  let n := s.need a
  a.phase == .waitGrant && ((n.engines.any fun g => s.sched.holder.any fun h => h == (g, b.id))
    || [Tier.t0, .t1, .t2].any fun t => decide (s.freePages t < n.tier t) && s.sched.grants.any fun g => decide (g.1 = b.id) && decide (0 < g.2.getD (tierNo t) 0))

/-- Of two steps that wait on each other the more recently admitted is withdrawn (R277); by R276 there are none. -/
def State.backstopVictim (s : State) (e : Exec) : Exec :=
  match s.sched.execs.find? fun f => decide (e.id < f.id) && s.waitsFor e f && s.waitsFor f e with
  | some f => f
  | none => e

/-- WAIT_BACKSTOP_EXPIRY (R277): the step is withdrawn, which counts as a pre-emption. -/
def execWaitBackstopExpiry (exec : Nat) (s : State) : Out :=
  .next (match s.ex? exec with
    | none => s
    | some e =>
      if s.waitedLong e then
        ({ s with sched := { s.sched with withdrawn := satAdd 65535 s.sched.withdrawn 1 } }).pushOff (s.backstopVictim e)
      else s)

/-- The job is admitted but not running, or waits to run again a step that it has left (R266, R381). -/
def Exec.idleJob (e : Exec) : Bool :=
  match e.phase with
  | .queued | .gangWait | .preempted | .policyWait => true
  | .waitGrant => decide (e.began = 0) || e.resuming
  | _ => false

/-- Objects of an idle ingest execution, and those not yet started, whose deadline has passed are withdrawn. -/
def State.withdrawObjs (s : State) (e : Exec) : State :=
  let late := e.objs.filter fun o => isLate s.now o.deadline && (e.idleJob || o.stage == .accepted || o.stage == .arriving)
  late.foldl (fun s o =>
    (s.modEx e.id fun x => { x with objs := x.objs.filter fun y => !(y.hdr == o.hdr) }).jobDone o.hdr e.ctx o.deadline (.withdrawn 0)) s

/-- JOB_WITHDRAW (R266, R366, R381). -/
def execJobWithdraw (exec : Nat) (s : State) : Out :=
  .next (match s.ex? exec with
    | none => s
    | some e =>
      let s := s.withdrawObjs e
      match s.ex? exec with
      | none => s
      | some e => if e.idleJob ∧ isLate s.now e.deadline then s.endExec e (.withdrawn e.step32) else s)

/-! ## Gangs (R109, R364) -/

/-- The members of a gang. -/
def State.gangMembers (s : State) (g : Nat) : List Exec := s.sched.execs.filter fun e => e.gang == some g

/-- The order of two executions' own deadlines; without deadlines, by arrival (R109, R375). -/
def Exec.ownBefore (a b : Exec) : Bool :=
  match a.ownDl, b.ownDl with
  | some x, some y => decide (x < y) || (decide (x = y) && decide (a.id < b.id))
  | some _, none => true
  | none, some _ => false
  | none, none => decide (a.id < b.id)

/-- The batches that a launch takes, earliest deadline first: one that would take the gang above B_fill waits for the next
launch, and so a single larger one runs alone (R109). -/
def takeBatches (fill : Nat) : Nat → List Exec → List Exec
  | _, [] => []
  | n, e :: t => if n = 0 ∨ n + e.batch ≤ fill then e :: takeBatches fill (n + e.batch) t else takeBatches fill n t

/-- The members that the next launch of a gang takes. -/
def State.launchOf (s : State) (g : Gang) : List Exec :=
  match s.image? g.image with
  | some i => takeBatches (s.bFill i) 0 (sortBy Exec.ownBefore (s.gangMembers g.id))
  | none => s.gangMembers g.id

/-- A gang may launch: it has reached B_fill, or its earliest deadline allows no later start (R109). -/
def State.gangReady (s : State) (g : Gang) : Bool :=
  let ms := s.launchOf g
  let est := (ms.map (·.estimate)).foldl max 0
  (match s.image? g.image with
    | some i => decide (s.bFill i ≤ (ms.map (·.batch)).sum)
    | none => false)
    || (match (ms.filterMap Exec.ownDl).min? with
        | some d => decide (d ≤ s.now + est)
        | none => false)

/-- The batches that a launch leaves wait as a gang of their own (R109). -/
def State.leaveBehind (s : State) (g : Gang) (ms : List Exec) : State :=
  let rest := (s.gangMembers g.id).filter fun e => !(ms.any fun m => decide (m.id = e.id))
  if rest = [] then s
  else
    let n := s.sched.nextGang
    let s := rest.foldl (fun s e => s.modEx e.id fun x => { x with gang := some n }) s
    let gangs := mapWhere (fun x => x.id == g.id) (fun x => { x with members := ms.map (·.id) }) s.sched.gangs
    { s with sched := { s.sched with
      gangs := gangs ++ [{ id := n, image := g.image, model := g.model, members := rest.map (·.id) }], nextGang := n + 1 } }

/-- GANG_LAUNCH (R109, R364): the gang's membership is fixed, and it waits for a compositor; what it leaves waits for the next
launch. -/
def execGangLaunch (gang : Nat) (s : State) : Out :=
  .next (match s.sched.gangs.find? (fun g => g.id == gang) with
    | none => s
    | some g =>
      if g.launched ∨ !(s.gangReady g) then s
      else
        let s := s.leaveBehind g (s.launchOf g)
        let gangs := mapWhere (fun x => x.id == gang) (fun x => { x with launched := true }) s.sched.gangs
        let s := { s with sched := { s.sched with gangs := gangs } }
        ((s.gangMembers gang).foldl (fun s e => s.modEx e.id fun x => { x with phase := .queued }) s).fillComps)

end Sys2Proof.Machine
end

