-- ==== Sys2Proof/Machine/Translate.lean ====
section
/-!
DEFINITION. Walks (R251 to R254), the tier manager's events (R239 to R245, R278), and the table epoch (R270 to R274).
-/
namespace Sys2Proof.Machine

/-! ## Walks and faults -/

/-- The compositor's unit epoch, which a fault record carries (R254). -/
def State.compEpoch (s : State) (e : Exec) : Nat := match e.comp with
  | some c => (s.unitEpoch (unitCode (.comp c))).toNat
  | none => 0

/-- What the walk for an access of an execution finds in the table in force; a namespace that it could not write when the
operation issued stays denied (R253, R271). -/
def State.lookUp (s : State) (e : Exec) (p op : Nat) (wr : Bool) : Xlate :=
  if wr && e.st.ops.any (fun o => decide (o.id = op) && o.noNs.contains p) then .fault else xlate (s.execPage e p) wr

/-- TLB_WALK_COMPLETE (R251, R253, R254, R258). A mover whose channels all hold a fault keeps its walk. -/
def execTlbWalkComplete (walk : Nat) (s : State) : Out :=
  .next (match s.tiers.walks.find? (fun w => w.id == walk) with
    | none => s
    | some w =>
      let done := { s with tiers := { s.tiers with walks := s.tiers.walks.filter fun x => x.id != walk } }
      match s.ex? w.exec with
      | none => done
      | some e =>
        match s.lookUp e w.page w.op w.wr with
        | .ok => { done with tiers := { done.tiers with
            tlb := tlbFill done.tiers.tlb { mover := w.mover, ctx := w.ctx, epoch := s.part.epoch, page := s.ctxPage e w.page, wr := w.wr } } }
        | _ =>
          if chanCap w.mover ≤ s.channels w.mover then s
          else { done with tiers := { done.tiers with
            faults := done.tiers.faults ++ [{ id := w.id, ctx := w.ctx, mover := w.mover, chan := s.freeChan w.mover, va := w.page * 65536
                                              wr := w.wr, exec := w.exec, step := e.step, op := w.op, compEpoch := s.compEpoch e
                                              at_ := s.now }] } })

/-! ## Migrations (R240 to R245) -/

/-- The old frames of a move to new frames are retired when they come free (R543). -/
def State.retireOld (s : State) (m : Mig) : State :=
  if m.renew then { s with tiers := { s.tiers with old := mapWhere (fun o => o.mig == m.id) (fun o => { o with retire := true }) s.tiers.old } }
  else s

/-- MIGRATION_SWITCH (R245): the copy has completed. The first event of a migration begins its switch, which marks the entries
and invalidates them in every TLB; the next one ends it with the entries rewritten (log entry 17). Pages that a hint or pin
has come to hold meanwhile stay (R241). -/
def execMigrationSwitch (mig : Nat) (s : State) : Out :=
  .next (match s.tiers.migs.find? (fun m => m.id == mig) with
    | none => s
    | some m =>
      let done := { s with tiers := { s.tiers with migs := s.tiers.migs.filter fun x => x.id != mig } }
      match s.alloc? m.alloc with
      | none => done.movesOver
      | some a =>
        if m.switching then ((done.reframe m.id a m.pages m.dst).retireOld m).movesOver
        else
          let ps := s.due a m
          let late := if m.promo || (m.op.isNone && m.host.isNone) then []
            else m.pages.filter fun i => tierAbove (a.page i).tier m.dst && s.isHeld a i
          if ps = [] then (done.defer a late m.dst m.op m.host).movesOver
          else
            let s := s.defer a late m.dst m.op m.host
            let migs := mapWhere (fun x => x.id == mig) (fun x => { x with pages := ps, switching := true }) s.tiers.migs
            ({ s with tiers := { s.tiers with migs } }).markSwitch a ps)

/-- OLD_FRAME_FREE (R245, R430): no access translated to the frames is outstanding. A freed allocation goes, and
a frame whose words needed correction too often is retired (R543). -/
def execOldFrameFree (mig : Nat) (s : State) : Out :=
  .next (match s.tiers.old.find? (fun o => o.mig == mig) with
    | none => s
    | some o =>
      if o.waits.any (fun w => s.sched.execs.any fun e => decide (e.id = w.1) && e.st.ops.any fun q => decide (q.id = w.2)) then s
      else ({ s with tiers := { s.tiers with
        old := s.tiers.old.filter fun x => x.mig != mig
        retired := if o.retire then s.tiers.retired ++ (upto o.pages).map (fun k => (o.tier, s.tiers.retired.length + k)) else s.tiers.retired
        allocs := s.tiers.allocs.filter fun a => !(a.id == o.alloc && a.freed) } }).movesOver)

/-- DEFERRED_EVICTION_PROCEED (R242). -/
def execDeferredEvictionProceed (d : Nat) (s : State) : Out :=
  .next (match s.tiers.deferred.find? (fun x => x.id == d) with
    | none => s
    | some x => match s.alloc? x.alloc with
      | none => { s with tiers := { s.tiers with deferred := s.tiers.deferred.filter fun y => y.id != d } }
      | some a =>
        if s.inFlight a.id true then s
        else
          let go := x.pages.filter fun i => !(s.isHeld a i)
          let stay := x.pages.filter fun i => s.isHeld a i
          let rest := (s.tiers.deferred.map fun y => if y.id = d then { y with pages := stay } else y).filter fun y => !y.pages.isEmpty
          let s := { s with tiers := { s.tiers with deferred := rest } }
          s.migrate { id := 0, alloc := a.id, pages := go.filter (s.isAbove a x.dst), dst := x.dst, promo := false })

/-- A tier has more than 3 % of its grantable pages free. -/
def State.roomy (s : State) (t : Tier) : Bool := decide (3 * s.capPages t < 100 * s.freePages t)

/-- TIER_AUTO_PROMOTE (R239, R278): engines or the fabric have read the page some times within 10 ms, or the tier manager prefetches
it as part of a forme for an execution into T1 or T0. A prefetch passes no check of the partition table that an ordinary read
would fail, and its pages occupy the tier as the context's own (log entry 147). -/
def execTierAutoPromote (alloc : Nat) (page : Nat) (why : PromoteWhy) (s : State) : Out :=
  .next (match s.alloc? alloc with
    | none => s
    | some a =>
      match why with
      | .forme id t => (match s.ex? id with
        | some e =>
          let read : Bool := match s.pageAt e.ctx (alloc + page) with
            | .mem _ _ r _ => r
            | _ => false
          if page < a.pages ∧ (t = .t0 ∨ t = .t1) ∧ read = true ∧ !(a.page page).zod ∧ !a.freed then s.promote a [page] t none none else s
        | none => s)
      | .read reads =>
        if page < a.pages ∧ (a.page page).tier = .t2 ∧ !(a.page page).zod ∧ !s.anyHint a page ∧ 4 ≤ reads ∧ s.roomy .t1 then
          s.promote a [page] .t1 none none
        else s)

/-- TIER_AUTO_DEMOTE (R239): the least recently used page, to which no hint applies, of a tier with less than 3 % free moves
down; a T2 page only when it has not been touched for 1 s. -/
def execTierAutoDemote (alloc : Nat) (page : Nat) (s : State) : Out :=
  .next (match s.alloc? alloc with
    | none => s
    | some a =>
      let t := (a.page page).tier
      let first := ((s.victims t).filter fun v => match s.alloc? v.alloc with
        | some b => !s.anyHint b v.unit.1
        | none => false).head?
      if page < a.pages ∧ t ≠ .t3 ∧ 100 * s.freePages t < 3 * s.capPages t
          ∧ (first.any fun v => decide (v.alloc = alloc ∧ v.unit = a.unitAt page))
          ∧ (t ≠ .t2 ∨ (a.page page).lastUse + 1000000000 ≤ s.now) then
        (s.evict a [page] (tierDown t) none none none).1
      else s)

/-! ## Table epochs (R270 to R274) -/

/-- A step holds unreleased writes to a namespace that its context may no longer write, or has issued some that it was allowed
then (R271, R272). -/
def State.holdsLost (s : State) (e : Exec) : Bool :=
  (e.st.ns.any fun h => !(s.nsWr e.ctx h.nsid)) || e.st.bankPages.any (s.deniesNs e)
    || e.st.ops.any fun o => o.wrPages.any fun p => s.deniesNs e p && !o.noNs.contains p

/-- The entries in force are those of a new epoch: steps that R272 names are abandoned. -/
def State.applyTable (s : State) (epoch : Nat) : State :=
  let s := { s with part := { s.part with epoch } }
  (s.sched.execs.filter s.holdsLost).foldl State.abandon s

/-- A waiting update takes effect as a new table epoch (R270); a revocation abandons the steps that R272
names, and an update that is none goes on to its completion. -/
def State.switchTable (s : State) : State :=
  match s.part.next with
  | none => s
  | some n =>
    let s := ({ s with part := { s.part with entries := s.part.entries.set n.2.1 n.2.2, next := none } }).applyTable n.1
    let waits := s.host.cmds.filter fun o => o.wait == .revoke && decide (o.dw0 = BitVec.ofNat 32 n.1)
      && !(s.part.revoking.any fun r => r.1 == o.hdr)
    waits.foldl (fun s o =>
      ({ s with host := { s.host with cmds := s.host.cmds.filter fun x => !(x.hdr == o.hdr) } }).okAfterEpoch o.hdr .other o.dw0 0) s

/-- TABLE_EPOCH_SWITCH (R270). -/
def execTableEpochSwitch (s : State) : Out := .next s.switchTable

/-- The notice of an adopted epoch that changed the table goes out once the old accesses have drained (R494). -/
def State.payOwed (s : State) : State :=
  match s.twin.owed with
  | some n => if s.oldAccess then s else ({ s with twin := { s.twin with owed := none } }).toPeer (.adopted n)
  | none => s

/-- REVOCATION_COMPLETE (R272): no access of an earlier epoch is left; the commands go on to their completion,
which needs the partner's adoption too (R493, R494). -/
def execRevocationComplete (s : State) : Out :=
  .next (if s.part.next.isSome ∨ s.oldAccess then s
    else
      let rs := s.part.revoking
      let s := ({ s with part := { s.part with revoking := [] } }).payOwed
      rs.foldl (fun s r => match s.host.cmds.find? (fun o => o.hdr == r.1) with
        | some o =>
          ({ s with host := { s.host with cmds := s.host.cmds.filter fun x => !(x.hdr == r.1) } }).okAfterEpoch r.1 .other o.dw0 0
        | none => s) s)

end Sys2Proof.Machine
end

