-- ==== Sys2Proof/Machine/Fabrics.lean ====
section
/-!
DEFINITION. NVMe/TCP connections and NVMe over Fabrics commands (R387 to R395, R414 to R416, R481).
-/
namespace Sys2Proof.Machine

/-! ## Connections (R388, R390) -/

/-- The connection with an identifier. -/
def State.conn? (s : State) (n : Nat) : Option Conn := s.host.conns.find? fun c => c.id == n

/-- The link of a host port is up. -/
def State.portUp (s : State) (p : Fin 4) : Bool := (s.phys.host[p]).linkUp

/-- A connection ends; its association ends with it (R390, R395). -/
def State.dropConn (s : State) (n : Nat) : State :=
  match s.conn? n with
  | none => s
  | some c =>
    let s := match c.cntlid with
      | some k => s.endAssoc k
      | none => s
    { s with host := { s.host with conns := s.host.conns.filter fun x => x.id != n } }

/-- A new connection. -/
def State.addConn (s : State) (c : Conn) : State := { s with host := { s.host with conns := s.host.conns ++ [c] } }

/-- ICREQ (R388, R415): PFV 0, any HPDA to 31, and TLS where the port requires it; else C2HTermReq. -/
def execIcreq (conn : Nat) (port : Fin 4) (pfv hpda maxr2t : Nat) (hdgst ddgst tls : Bool) (s : State) : Out :=
  .next (if !s.serving ∨ !s.portUp port ∨ (s.conn? conn).isSome then s
    else if pfv ≠ 0 ∨ 31 < hpda ∨ (s.host.tlsOnly[port] ∧ !tls) then s.send (.c2hTermReq conn)
    else (s.addConn { id := conn, port, tls, hdgst, ddgst, maxr2t := min (maxr2t + 1) 16 }).send (.icResp conn))

/-- BAD_PDU (R390): the connection ends with a C2HTermReq. -/
def execBadPdu (conn : Nat) (s : State) : Out :=
  .next (if (s.conn? conn).isSome then (s.dropConn conn).send (.c2hTermReq conn) else s)

/-- ASSOCIATION_END (R395): Keep Alive expiry or the loss of a connection. -/
def execAssociationEnd (cntlid : Nat) (s : State) : Out := .next (s.endAssoc cntlid)

/-! ## Connect (R391 to R393, R481) -/

/-- The context that a host NQN is bound to (R393). -/
def State.bound (s : State) (nqn : List Nat) : Option (Fin 64) := (s.host.bind.find? fun b => b.1 == nqn).map (·.2)

/-- The controller identifiers that this module assigns (R481). -/
def State.ctrlIds (s : State) : List Nat :=
  if s.twin.st = .unpaired ∨ s.twin.st = .training then (upto 256).map (· + 1)
  else (upto 128).map (· + 1 + 128 * s.twin.rank)

/-- A completion for a command whose queue does not exist, or not yet. -/
def State.reply (s : State) (h : Hdr) (sct sc : Nat) (dw0 : W32) : State :=
  { s with host := { s.host with cq := s.host.cq ++ [{ hdr := h, sct, sc, dw0, dw1 := 0 }] } }

/-- Sum of the sizes of all I/O submission queues (R391). -/
def State.queueSum (s : State) : Nat := ((s.host.queues.filter fun q => q.qid != 0).map (·.size)).sum

/-- Give a connection its queue. -/
def State.addQueue (s : State) (conn cntlid qid size : Nat) : State :=
  let q : Queue := { cntlid, qid, size, conn }
  { s with host := { s.host with
      queues := s.host.queues ++ [q]
      conns := mapWhere (fun c => c.id == conn) (fun c => { c with cntlid := some cntlid, qid }) s.host.conns } }

/-- CONNECT (R391 to R393, R481): qid 0 makes a controller under the context bound to the host NQN; any other
adds an I/O queue to one. sqsize is the 0's based size of the queue. -/
def execConnect (conn : Nat) (cid : Nat) (nqn : List Nat) (cntlid qid sqsize kato : Nat) (s : State) : Out :=
  .next (match s.conn? conn with
    | none => s
    | some c =>
      let bad (code : Nat) : State := s.reply { path := .ctrl 0, sq := qid, cid } 1 code 0
      if !s.serving ∨ c.cntlid.isSome then s
      else match s.bound nqn with
        | none => bad 0x84
        | some ctx =>
          if !(s.enabled ctx) then bad 0x84
          else if sqsize = 0 ∨ Config.maxQueue ≤ sqsize then bad 0x82
          else if qid = 0 then
            if cntlid ≠ 0xFFFF ∨ kato < 1000 ∨ 120000 < kato then bad 0x82
            else match s.ctrlIds.find? (fun k => !(s.host.ctrls.any fun x => x.id == k)) with
              | none => bad 0x81
              | some k =>
                let x : Ctrl := { id := k, nqn, ctx, kato, aliveAt := s.now, tls := c.tls }
                let s := { s with host := { s.host with ctrls := s.host.ctrls ++ [x] } }
                (s.addQueue conn k 0 (sqsize + 1)).reply { path := .ctrl k, sq := 0, cid } 0 0 (BitVec.ofNat 32 k)
          else match s.ctrl? cntlid with
            | none => bad 0x82
            | some k =>
              if k.nqn ≠ nqn ∨ 128 < qid ∨ (s.host.queues.any fun q => decide (q.cntlid = cntlid) && decide (q.qid = qid))
                  ∨ Config.maxQueueSum < s.queueSum + sqsize + 1 then bad 0x82
              else (s.addQueue conn cntlid qid (sqsize + 1)).reply { path := .ctrl cntlid, sq := qid, cid } 0 0 (BitVec.ofNat 32 cntlid))

/-! ## Properties -/

/-- Update a controller. -/
def State.modCtrl (s : State) (n : Nat) (f : Ctrl → Ctrl) : State :=
  { s with host := { s.host with ctrls := mapWhere (fun c => c.id == n) f s.host.ctrls } }

/-- CAP: MQES 4,095 and MPSMIN 0 (R391); the bits that no rule gives are free. -/
def capValue (free : Nat) : W64 := (Config.freeWord free &&& 0xFFF0FFFFFFFF0000#64) ||| 0xFFF#64

/-- CSTS of a controller: RDY follows CC.EN, SHST follows CC.SHN. -/
def cstsValue (cc : W32) : W64 :=
  (if cc.getLsbD 0 then 1#64 else 0#64) ||| (if (cc >>> 14) &&& 3#32 ≠ 0#32 then 8#64 else 0#64)

/-- PROPERTY_GET (R387). VS is a free value: the rules name only NVMe 2.x. -/
def execPropertyGet (h : Hdr) (off : Nat) (s : State) : Out :=
  .next (s.arrive h fun _ =>
    match s.ctrl? (hdrCtrl h) with
    | none => s
    | some k =>
      let give (v : W64) : State := s.okDw h (v.setWidth 32) ((v >>> 32).setWidth 32)
      if off = 0x00 then ({ s with free := s.free + 1 }).okDw h ((capValue s.free).setWidth 32) ((capValue s.free >>> 32).setWidth 32)
      else if off = 0x08 then ({ s with free := s.free + 1 }).okDw h ((Config.freeWord s.free).setWidth 32) 0
      else if off = 0x14 then give (k.cc.setWidth 64)
      else if off = 0x1C then give (cstsValue k.cc)
      else s.badField h)

/-- A controller is disabled: its I/O queues and outstanding commands go. -/
def State.disableCtrl (s : State) (n : Nat) : State :=
  let mine := s.host.cmds.filter fun o => o.hdr.path == .ctrl n && o.hdr.sq != 0
  let s := mine.foldl (fun s o => if s.catchable o then s.caught o .silent
    else { s with host := { s.host with cmds := s.host.cmds.filter fun x => !(x.hdr == o.hdr) } }) s
  let gone := (s.host.queues.filter fun q => q.cntlid == n && q.qid != 0).map (·.conn)
  { s with host := { s.host with
      queues := s.host.queues.filter fun q => !(q.cntlid == n && q.qid != 0)
      conns := s.host.conns.filter fun c => !gone.contains c.id } }

/-- PROPERTY_SET (R387): CC is the one writable property; clearing CC.EN disables the controller. -/
def execPropertySet (h : Hdr) (off : Nat) (v : W64) (s : State) : Out :=
  .next (s.arrive h fun _ =>
    match s.ctrl? (hdrCtrl h) with
    | none => s
    | some k =>
      if off ≠ 0x14 then s.badField h
      else
        let was := k.cc.getLsbD 0
        let s := s.modCtrl k.id fun c => { c with cc := v.setWidth 32 }
        (if was && !(v.getLsbD 0) then s.disableCtrl k.id else s).ok h)

/-- DISCONNECT (R395): the command completes, and the association ends. -/
def execDisconnect (h : Hdr) (s : State) : Out :=
  .next (s.arrive h fun _ => (s.ok h).endAssoc (hdrCtrl h))

/-! ## Authentication and Keep Alive (R387, R414, R416) -/

/-- AUTHENTICATION_SEND (R414): last is the host's final message, valid says that its response verifies against
the secret of the host NQN. -/
def execAuthenticationSend (h : Hdr) (last : Bool) (valid : Bool) (s : State) : Out :=
  .next (s.arrive h fun _ =>
    match s.ctrl? (hdrCtrl h) with
    | none => s
    | some k =>
      let known := s.host.secrets.any fun x => x.nqn == k.nqn
      (s.modCtrl k.id fun c =>
        { c with authStep := if valid then c.authStep + 1 else 0, auth := c.auth || (last && valid && known) }).ok h)

/-- AUTHENTICATION_RECEIVE (R414). -/
def execAuthenticationReceive (h : Hdr) (s : State) : Out :=
  .next (s.arrive h fun _ => (s.modCtrl (hdrCtrl h) fun c => { c with authStep := c.authStep + 1 }).ok h)

/-- KEEP_ALIVE (R387): the timer restarts. -/
def execKeepAlive (h : Hdr) (s : State) : Out :=
  .next (s.arrive h fun _ => (s.modCtrl (hdrCtrl h) fun c => { c with aliveAt := s.now }).ok h)

end Sys2Proof.Machine
end

