-- ==== Sys2Proof/Machine/Nvm.lean ====
section
/-!
DEFINITION. The NVM and Zoned Namespace commands (R387, R394, R396, R400 to R406, R417, R418, R437, R451, R484 to R487,
R503). Zone rules and statuses that R401 takes from the Zoned Namespace command set are PRESUMED from it.
-/
namespace Sys2Proof.Machine

/-! ## Protection information (R404) -/

/-- A command fails by protection information (R404, R432). -/
def State.piFail (s : State) (h : Hdr) (code : Nat) : State :=
  ({ s with health := { s.health with piErr := satAdd max64 s.health.piErr 1 } }).post h 2 code 0 0

/-! ## What every I/O command meets -/

/-- Namespace Not Ready (type 0h, code 82h). -/
def State.notReady (s : State) (h : Hdr) : State := s.post h 0 0x82 0 0

/-- Namespace is Write Protected (type 0h, code 20h). -/
def State.writeProtected (s : State) (h : Hdr) : State := s.post h 0 0x20 0 0

/-- An I/O command to a namespace: service (R576), existence, rights (R268, R406), ANA state (R396). -/
def State.io (s : State) (h : Hdr) (nsid : Nat) (wr : Bool) (f : Ns → State) : State :=
  s.command h fun c =>
    if !s.nsReady then s.notReady h
    else match s.ns? nsid with
      | none => s.post h 0 0x0B 0 0
      | some n =>
        if !(if wr then s.nsWr c nsid else s.nsRd c nsid) then s.denied h
        else match (s.group n.group).ana with
          | .inaccessible => s.post h 3 0x02 0 0
          | .transition => s.post h 3 0x03 0 0
          | .optimized => f n

/-- Writes to the namespace are refused: module, group or namespace read-only, or the solo write policy
(R450, R503, R505). -/
def State.noWrites (s : State) (n : Ns) : Bool :=
  s.flash.ro || n.readOnly || (s.group n.group).readOnly || (s.solo && s.twin.refuse)

/-- An I/O command that writes. -/
def State.ioWrite (s : State) (h : Hdr) (nsid : Nat) (f : Ns → State) : State :=
  s.io h nsid true fun n => if s.noWrites n then s.writeProtected h else f n

/-- Bytes of a transfer of n blocks, metadata included. -/
def Ns.bytes (n : Ns) (k : Nat) : Nat := k * (if n.pit.isSome then 4112 else 4096)

/-- A range of blocks lies in the namespace, else LBA Out of Range (type 0h, code 80h); and its transfer within
MDTS (R391). -/
def State.ranged (s : State) (h : Hdr) (n : Ns) (lba k : Nat) (moves : Bool) (f : State) : State :=
  if n.blocks < lba + k then s.post h 0 0x80 0 0
  else if moves ∧ (k = 0 ∨ Config.mdts < n.bytes k) then s.badField h
  else f

/-! ## Zones (R401, R402) -/

/-- Zones of a namespace that hold resources. -/
def Ns.active (n : Ns) : Nat := n.zones.countP fun z => z.2.state == .impOpen || z.2.state == .expOpen || z.2.state == .closed

/-- Why a write of k blocks to a zoned namespace fails: Zone Is Full B9h, Zone Boundary Error B8h, Zone Invalid
Write BCh (R402), Too Many Active Zones BDh. -/
def Ns.zoneFault (n : Ns) (lba k : Nat) : Option Nat :=
  if !n.zoned then none
  else
    let q := n.zone (lba / Config.zoneBlocks)
    if q.state = .full then some 0xB9
    else if lba % Config.zoneBlocks ≠ q.wp then some 0xBC
    else if Config.zoneBlocks < lba % Config.zoneBlocks + k then some 0xB8
    else if q.state = .empty ∧ 4096 ≤ n.active then some 0xBD
    else none

/-! ## Writing -/

/-- Replace what a command waits for, or make it wait. -/
def State.waitFor (s : State) (o : OutCmd) : State :=
  { s with host := { s.host with cmds := s.host.cmds.filter (fun x => !(x.hdr == o.hdr)) ++ [o] } }

/-- Give out a command's write and complete it once both modules hold it (R24, R451, R452, R485). -/
def State.giveOut (s : State) (h : Hdr) (w : MirWrite) (dw0 dw1 : W32) : State :=
  let r := s.writeOut w (some h) none
  let body := Body.write w.nsid w.lba w.blocks
  match r.2 with
  | some (g, q) => r.1.waitFor { hdr := h, body, wait := .mirror g q, dw0, dw1 }
  | none =>
    if r.1.unprogrammed w.nsid w.lba w.blocks.length then r.1.waitFor { hdr := h, body, wait := .flash, dw0, dw1 }
    else r.1.okDw h dw0 dw1

/-- A write whose data has arrived: the zone's write pointer, then protection information, then the write. -/
def State.runWrite (s : State) (h : Hdr) (nsid lba : Nat) (bs : List PBlk) (dw0 dw1 : W32) : State :=
  match s.ns? nsid with
  | none => s.post h 0 0x0B 0 0
  | some n => match n.zoneFault lba bs.length with
    | some c => s.post h 1 c 0 0
    | none => match n.check lba bs with
      | some c => s.piFail h c
      | none => s.giveOut h { group := 0, seq := 0, nsid, lba, blocks := bs } dw0 dw1

/-- A Zone Append whose data has arrived takes its LBA at the write pointer (R487); DW0 and DW1 hold it. -/
def State.runAppend (s : State) (h : Hdr) (nsid zslba : Nat) (bs : List PBlk) : State :=
  match s.ns? nsid with
  | none => s.post h 0 0x0B 0 0
  | some n =>
    let lba := zslba + (n.zone (zslba / Config.zoneBlocks)).wp
    s.runWrite h nsid lba bs (BitVec.ofNat 32 lba) (BitVec.ofNat 32 (lba / 2 ^ 32))

/-- A command with write data: more than 8 KiB waits for its transfer (R389), and data in the capsule waits for
room in the write buffer. -/
def State.takeData (s : State) (h : Hdr) (bytes : Nat) (body : Body) (run : State) : State :=
  if Config.inCapsule < bytes then s.waitFor { hdr := h, body, wait := .data, total := bytes }
  else if s.bufferRoom bytes then run
  else s.waitFor { hdr := h, body, wait := .data }

/-- WRITE (R402 to R404, R451, R485, R503). -/
def execWrite (h : Hdr) (nsid slba : Nat) (blocks : List PBlk) (s : State) : Out :=
  .next (s.ioWrite h nsid fun n =>
    s.ranged h n slba blocks.length true
      (s.takeData h (n.bytes blocks.length) (.write nsid slba blocks) (s.runWrite h nsid slba blocks 0 0)))

/-- ZONE_APPEND (R401, R487): zslba is a zone's first block, and at most 1 MiB is appended. -/
def execZoneAppend (h : Hdr) (nsid zslba : Nat) (blocks : List PBlk) (s : State) : Out :=
  .next (s.ioWrite h nsid fun n =>
    if !n.zoned then s.badOpcode h
    else if zslba % Config.zoneBlocks ≠ 0 ∨ blocks = [] ∨ 256 < blocks.length then s.badField h
    else s.ranged h n zslba blocks.length true
      (s.takeData h (n.bytes blocks.length) (.zoneAppend nsid zslba blocks) (s.runAppend h nsid zslba blocks)))

/-- A block of zeros with protection information of its own where the namespace has metadata. -/
def zeroBlk (n : Ns) (lba : Nat) : PBlk := { data := 0, pi := n.pit.map fun t => ownPi t lba 0 }

/-- WRITE_ZEROES (R402, R484): mirrored as a write of zeros. -/
def execWriteZeroes (h : Hdr) (nsid slba nlb : Nat) (s : State) : Out :=
  .next (s.ioWrite h nsid fun n =>
    s.ranged h n slba nlb false (s.runWrite h nsid slba ((upto nlb).map fun k => zeroBlk n (slba + k)) 0 0))

/-! ## Reading -/

/-- The blocks of a range that must come from flash: mapped, with no copy in the write buffer. -/
def State.fromFlash (s : State) (nsid lba nlb : Nat) : List Nat :=
  ((upto nlb).map (lba + ·)).filter fun k =>
    (assocGet (blkKey nsid k) s.flash.map).isSome && !(s.flash.dirty.any fun d => d.key == blkKey nsid k)

/-- A Read or Verify whose blocks are at hand: protection information is checked (R404); then a Read sends its
data. -/
def State.finishRead (s : State) (h : Hdr) (nsid lba nlb : Nat) (send : Bool) : State :=
  let bs := (upto nlb).map fun k => s.blk nsid (lba + k)
  let s := { s with free := s.free + 1 }
  match s.ns? nsid with
  | none => s.post h 0 0x0B 0 0
  | some n => match n.check lba bs with
    | some c => s.piFail h c
    | none => (if send then s.send (.c2hBlocks h bs) else s).ok h

/-- Start a Read or Verify: blocks in flash are read first (FLASH_READ_COMPLETE). -/
def State.startRead (s : State) (h : Hdr) (nsid slba nlb : Nat) (send : Bool) : State :=
  s.io h nsid false fun n =>
    s.ranged h n slba nlb send (
      match s.fromFlash nsid slba nlb with
      | [] => s.finishRead h nsid slba nlb send
      | left => s.waitFor { hdr := h, body := .read nsid slba nlb left send, wait := .flash })

/-- READ (R394, R404, R405, R437). -/
def execRead (h : Hdr) (nsid slba nlb : Nat) (s : State) : Out := .next (s.startRead h nsid slba nlb true)

/-- VERIFY (R387): a Read that sends no data. -/
def execVerify (h : Hdr) (nsid slba nlb : Nat) (s : State) : Out := .next (s.startRead h nsid slba nlb false)

/-- FLUSH (R405): at once, with success. -/
def execFlush (h : Hdr) (s : State) : Out :=
  .next (s.command h fun _ => if !s.nsReady then s.notReady h else s.ok h)

/-! ## Dataset Management (R387, R460, R484) -/

/-- Give out several writes for one command, which completes after the last of them. -/
def State.giveOutAll (s : State) (h : Hdr) : List MirWrite → State
  | [] => s.ok h
  | [w] => s.giveOut h w 0 0
  | w :: t => (s.writeOut w none none).1.giveOutAll h t

/-- DATASET_MANAGEMENT (R387, R460): deallocate is the only attribute. -/
def execDatasetManagement (h : Hdr) (nsid : Nat) (ranges : List (Nat × Nat)) (deallocate other : Bool) (s : State) : Out :=
  .next (s.ioWrite h nsid fun n =>
    if other then s.badField h
    else if ranges.any (fun r => decide (n.blocks < r.1 + r.2)) then s.post h 0 0x80 0 0
    else if !deallocate then s.ok h
    else s.giveOutAll h (ranges.map fun r => { group := 0, seq := 0, nsid, lba := r.1, blocks := [], op := .deallocate r.2 }))

/-! ## Zone management (R401) -/

/-- A zone action meets a zone: it applies, has nothing to do, or is an invalid transition. -/
inductive ZoneStep where
  | apply | nothing | invalid
  deriving DecidableEq, Repr

/-- Zone Management Send's state machine. -/
def zoneStep (act : ZoneAct) (q : Zone) : ZoneStep :=
  match act, q.state with
  | .open, .full => .invalid
  | .open, .expOpen => .nothing
  | .open, _ => .apply
  | .close, .impOpen | .close, .expOpen => .apply
  | .close, .closed => .nothing
  | .close, _ => .invalid
  | .finish, .full => .nothing
  | .finish, _ => .apply
  | .reset, .empty => .nothing
  | .reset, _ => .apply
  | .offline, _ | .setExt, _ => .invalid

/-- Zones that the select-all form of an action acts on: Open takes closed zones, Close open ones, Finish open
and closed ones, Reset those and full ones. -/
def zoneAll (act : ZoneAct) (q : Zone) : Bool :=
  match act, q.state with
  | .open, .closed | .close, .impOpen | .close, .expOpen | .finish, .impOpen | .finish, .expOpen | .finish, .closed
  | .reset, .impOpen | .reset, .expOpen | .reset, .closed | .reset, .full => true
  | _, _ => false

/-- A zone action as a mirrored operation. -/
def zoneWrite (nsid z : Nat) (act : ZoneAct) : MirWrite :=
  { group := 0, seq := 0, nsid, lba := z * Config.zoneBlocks, blocks := [], op := .zone act }

/-- ZONE_MANAGEMENT_SEND (R401). -/
def execZoneManagementSend (h : Hdr) (nsid slba : Nat) (act : ZoneAct) (all : Bool) (s : State) : Out :=
  .next (s.ioWrite h nsid fun n =>
    if !n.zoned then s.badOpcode h
    else if act = .offline ∨ act = .setExt then s.badField h
    else if all then
      s.giveOutAll h ((n.zones.filter fun z => zoneAll act z.2).map fun z => zoneWrite nsid z.1 act)
    else if slba % Config.zoneBlocks ≠ 0 then s.badField h
    else if n.blocks ≤ slba then s.post h 0 0x80 0 0
    else
      let q := n.zone (slba / Config.zoneBlocks)
      match zoneStep act q with
      | .invalid => s.post h 1 0xBF 0 0
      | .nothing => s.ok h
      | .apply =>
        if act = .open ∧ q.state = .empty ∧ 4096 ≤ n.active then s.post h 1 0xBD 0 0
        else s.giveOut h (zoneWrite nsid (slba / Config.zoneBlocks) act) 0 0)

/-- State codes of the zone report. -/
def zoneCode : ZState → Nat
  | .empty => 1 | .impOpen => 2 | .expOpen => 3 | .closed => 4 | .full => 0xE

/-- One zone descriptor of the report. -/
def zoneDesc (n : Ns) (z : Nat) : List Byte :=
  let q := n.zone z
  [2#8, BitVec.ofNat 8 (zoneCode q.state * 16), 0#8, 0#8, 0#8, 0#8, 0#8, 0#8] ++ leBytes 8 Config.zoneBlocks
    ++ leBytes 8 (z * Config.zoneBlocks) ++ leBytes 8 (if q.state = .full then 2 ^ 64 - 1 else z * Config.zoneBlocks + q.wp)
    ++ List.replicate 32 0#8

/-- ZONE_MANAGEMENT_RECEIVE (R401): the report of the zones from slba upwards. -/
def execZoneManagementReceive (h : Hdr) (nsid slba : Nat) (s : State) : Out :=
  .next (s.io h nsid false fun n =>
    if !n.zoned then s.badOpcode h
    else if n.blocks ≤ slba then s.post h 0 0x80 0 0
    else
      let first := slba / Config.zoneBlocks
      let zs := (upto (n.blocks / Config.zoneBlocks - first)).map (first + ·)
      (s.send (.c2hData h (leBytes 8 zs.length ++ List.replicate 56 0#8 ++ zs.flatMap (zoneDesc n)))).ok h)

/-! ## Namespaces (R391, R406, R417, R418, R482) -/

/-- The lowest unused NSID. -/
def State.freeNsid (s : State) : Option Nat :=
  ((upto Config.maxNsid).map (· + 1)).find? fun n => (s.ns? n).isNone

/-- Blocks of all namespaces. -/
def State.nsBlocks (s : State) : Nat := (s.host.nss.map (·.blocks)).sum

/-- Create a namespace with a fresh media key; an unused group gets this module as its home and declarer. -/
def State.createNs (s : State) (id group blocks : Nat) (zoned : Bool) (pit : Option ProtType) : State :=
  let n : Ns := { nsid := id, group, blocks, zoned, pit, mediaKey := s.host.nextKey }
  let s := { s with host := { s.host with nss := s.host.nss ++ [n], nextKey := s.host.nextKey + 1 } }
  s.modGroup group fun g =>
    if g.role = .unused then { g with role := .declarer, homeHere := true, synced := true } else g

/-- Destroy a namespace's data: blocks, map entries, zones, and the index that it holds. -/
def State.wipe (s : State) (n : Ns) : State :=
  let s := { s with indexes := s.indexes.filter fun x => x.nsid != n.nsid }
  (s.dealloc n.nsid 0 n.blocks).modNs n.nsid fun x => { x with zones := [] }

/-- Delete a namespace with its key and its data. -/
def State.deleteNs (s : State) (n : Ns) : State :=
  let s := s.wipe n
  { s with host := { s.host with nss := s.host.nss.filter fun x => x.nsid != n.nsid } }

/-- The namespaces that an NSID names; 0xFFFFFFFF names all. -/
def State.nsNamed (s : State) (nsid : Nat) : List Ns :=
  if nsid = 0xFFFFFFFF then s.host.nss else s.host.nss.filter fun n => n.nsid == nsid

/-- A command that only context 0 may give (R406). -/
def State.rootCtx (s : State) (h : Hdr) (f : State) : State :=
  s.arrive h fun c => if c = 0 then f else s.denied h

/-- NAMESPACE_MANAGEMENT (R391, R406, R482, R493): create answers the NSID in DW0. What the spill area has taken no namespace can
(R231, log entry 148). -/
def execNamespaceManagement (h : Hdr) (create : Bool) (nsid group blocks : Nat) (zoned : Bool) (pit : Option ProtType) (s : State) : Out :=
  .next (s.rootCtx h (
    if create then
      if group = 0 ∨ 64 < group ∨ blocks = 0 ∨ (zoned ∧ blocks % Config.zoneBlocks ≠ 0) then s.badField h
      else match s.freeNsid with
        | none => s.post h 1 0x16 0 0
        | some id =>
          if Config.userBlocks < s.nsBlocks + 262144 * s.tiers.spillGib + blocks then s.post h 1 0x15 0 0
          else (s.createNs id group blocks zoned pit).okAfterEpoch h .other (BitVec.ofNat 32 id) 0
    else match s.nsNamed nsid with
      | [] => s.post h 0 0x0B 0 0
      | ns => (ns.foldl State.deleteNs s).okAfterEpoch h .other 0 0))

/-- NAMESPACE_ATTACHMENT (R406, R493). -/
def execNamespaceAttachment (h : Hdr) (nsid : Nat) (cntlid : Nat) (attach : Bool) (s : State) : Out :=
  .next (s.rootCtx h (
    match s.ns? nsid with
    | none => s.post h 0 0x0B 0 0
    | some n =>
      if (s.ctrl? cntlid).isNone then s.post h 1 0x1C 0 0
      else if attach ∧ n.attached.contains cntlid then s.post h 1 0x18 0 0
      else if !attach ∧ !n.attached.contains cntlid then s.post h 1 0x1A 0 0
      else (s.modNs nsid fun x => { x with
        attached := if attach then x.attached ++ [cntlid] else x.attached.filter (· != cntlid) }).okAfterEpoch h .other 0 0))

/-- Destroy a namespace's media key and data and draw a new key (R418). -/
def State.rekey (s : State) (n : Ns) : State :=
  let s := s.wipe n
  let s := { s with free := s.free + 1, host := { s.host with nextKey := s.host.nextKey + 1 } }
  s.modNs n.nsid fun x => { x with mediaKey := s.host.nextKey - 1 }

/-- FORMAT_NVM (R387, R418, R493): Secure Erase Settings 0 and 1 leave no data and the key in place, 2 also destroys
the media key on both modules. -/
def execFormatNvm (h : Hdr) (nsid : Nat) (ses : Nat) (s : State) : Out :=
  .next (s.command h fun c =>
    match s.nsNamed nsid with
    | [] => s.post h 0 0x0B 0 0
    | ns =>
      if 2 < ses then s.badField h
      else if !(ns.all fun n => s.nsWr c n.nsid) then s.denied h
      else if ns.any s.noWrites then s.writeProtected h
      else (ns.foldl (fun s n => if ses = 2 then s.rekey n else s.wipe n) s).okAfterEpoch h .other 0 0)

/-- SANITIZE (R387, R418, R493): cryptographic erase, action 4, is the one action supported. -/
def execSanitize (h : Hdr) (action : Nat) (s : State) : Out :=
  .next (s.command h fun c =>
    if action ≠ 4 then s.badField h
    else if !(s.host.nss.all fun n => s.nsWr c n.nsid) then s.denied h
    else (s.host.nss.foldl State.rekey s).okAfterEpoch h .other 0 0)

end Sys2Proof.Machine
end

