-- ==== Sys2Proof/WellFormed.lean ====
section
/-!
DEFINITION. Well-formed commands: the encoding rules of R176 to R181, R190, R199 to R207 and R221 for the
instructions of a program, and the ranges that a command's fields can hold.
-/
namespace Sys2Proof

/-- pflag and psense are 0 when pen is 0 (R176). -/
def Pred.wf (p : Pred) : Bool := p.pen || (!p.sense && p.flag == 0)

/-- A destination is not s61, s62 or s63 (R181). -/
def dstOk (r : Fin 64) : Bool := decide (r.val < 61)

/-- A branch target is a multiple of 16 (R180). -/
def targetOk (t : W32) : Bool := decide (t.toNat % 16 = 0)

/-- dim is 0 unless the selector is ext, org or win (R201). -/
def dimOk (f : DField) (dim : Fin 4) : Bool := f == .ext || f == .org || f == .win || dim == 0

/-- Format E: imm32 is 0 where rn names a register; rec is a multiple of 64 (R180). -/
def EArgs.wf (a : EArgs) : Bool := (a.rn == 0 || a.imm32 == 0) && decide (a.recOff.toNat % 64 = 0)

/-- An ENG variant without rp, without ta, without tb, without n, without tc, as its row has a dash (R216). -/
def EArgs.noRp (a : EArgs) : Bool := a.rp == 0
def EArgs.noTa (a : EArgs) : Bool := a.ta == 0
def EArgs.noTb (a : EArgs) : Bool := a.tb == 0
def EArgs.noTc (a : EArgs) : Bool := a.tc == 0
def EArgs.noN (a : EArgs) : Bool := a.rn == 0 && a.imm32 == 0
def EArgs.noRec (a : EArgs) : Bool := a.recOff == 0

/-- Serial numbers have 32 bytes (R481). -/
def serialOk (l : List Nat) : Bool := decide (l.length = 32) && l.all fun x => decide (x < 256)

/-- Well-formedness of a command. -/
def Instr.wf : Instr → Bool
  | .nop _ p | .ret _ p => p.wf
  | .br _ p t | .call _ p t => p.wf && targetOk t
  | .lcset _ p _ _ _ | .lcseti _ p _ _ => p.wf
  | .blc _ p _ t => p.wf && targetOk t
  | .add _ p rd _ _ | .sub _ p rd _ _ | .mul _ p rd _ _ | .mulhu _ p rd _ _ | .divu _ p rd _ _
  | .remu _ p rd _ _ | .and _ p rd _ _ | .or _ p rd _ _ | .xor _ p rd _ _ | .shl _ p rd _ _
  | .shr _ p rd _ _ | .sra _ p rd _ _ | .minu _ p rd _ _ | .maxu _ p rd _ _ | .mins _ p rd _ _
  | .maxs _ p rd _ _ => p.wf && dstOk rd
  | .cmpeq _ p rd _ _ _ | .cmpne _ p rd _ _ _ | .cmpltu _ p rd _ _ _ | .cmplts _ p rd _ _ _
  | .cmpgeu _ p rd _ _ _ | .cmpges _ p rd _ _ _ => p.wf && dstOk rd
  | .ldc _ p rd _ _ | .lds _ p rd _ _ => p.wf && dstOk rd
  | .sts _ p _ _ _ => p.wf
  | .rdstep _ p rd | .rdlc _ p rd _ | .slotr _ p rd _ => p.wf && dstOk rd
  | .slotw _ p _ _ => p.wf
  | .dld _ p _ imm => p.wf && decide (imm.toNat % 64 = 0)
  | .dcpy _ p _ _ | .dnull _ p _ => p.wf
  | .dset _ p _ _ _ f dim => p.wf && dimOk f dim
  | .dadv _ p _ _ _ _ => p.wf
  | .dget _ p ra _ f dim => p.wf && dstOk ra && dimOk f dim
  | .move _ p _ _ _ | .hint _ p _ _ _ | .cvt _ p _ _ _ _ => p.wf
  | .pref _ p _ t _ => p.wf && (t != .t3)
  | .evict _ p _ t ra _ => p.wf && dstOk ra && (t != .t0)
  | .imp _ p a => p.wf && a.wf && (a.rn != 0 || a.noRp) && a.imm32 == 0
  | .platenDec _ p a => p.wf && a.wf && a.noTb && a.noRp
  | .sieveArm _ p a => p.wf && a.wf && a.noTa && a.noTb && a.noTc && a.noRp && a.noN
  | .sieveEval _ p a => p.wf && a.wf && a.noTb && a.noRp && a.noN
  | .sieveF _ p a => p.wf && a.wf && a.noTa && a.noTb && a.noRp && a.noN
  | .galleyScan _ p a => p.wf && a.wf && a.noTb && a.noTc
  | .tallyTopk _ p a => p.wf && a.wf && a.noTb && a.noRp
  | .tallyTopkF _ p a => p.wf && a.wf && a.noTa && a.noTb && a.noRp
  | .tallyTopkM _ p a => p.wf && a.wf && a.noRp
  | .tallyTopkFm _ p a => p.wf && a.wf && a.noTa && a.noRp
  | .tallyArgmax _ p a => p.wf && a.wf && a.noTb && a.noRp && a.noN
  | .tallyArgmaxF _ p a => p.wf && a.wf && a.noTa && a.noTb && a.noRp && a.noN
  | .tallyHist _ p a => p.wf && a.wf && a.noTb && a.noRp
  | .tallySample _ p a => p.wf && a.wf && a.noTb && a.noRp && a.noN
  | .tallySampleF _ p a => p.wf && a.wf && a.noTa && a.noTb && a.noRp && a.noN
  | .cipherEnc _ p a | .cipherDec _ p a => p.wf && a.wf && a.noTb && a.noRp && a.noRec
  | .cipherHash _ p a => p.wf && a.wf && a.noTb && a.noRp && a.noN && a.noRec
  | .fence _ p | .fenceMv _ p | .fenceFx _ p => p.wf
  | .waitAll _ p m | .waitAny _ p m | .signalSet _ p m | .signalClr _ p m => p.wf && m != 0
  | .jend _ | .stepI _ _ => true
  | .laneTraining _ _ (some pat) => serialOk pat.serial
  | .write _ _ _ bs | .zoneAppend _ _ _ bs => decide (bs.length ≤ 2048)
  | .read _ _ _ n => decide (n ≤ 65536)
  | .hostBindingSet _ n _ => decide (n.length ≤ 223)
  | _ => true

end Sys2Proof
end

