-- ==== Sys2Proof/Machine/Words.lean ====
section
/-!
DEFINITION. Jenun instruction words (R175 to R181, R189, R195, R200, R202, R204, R207, R211, R216, R221): what a
128-bit word of a code area encodes. The verifier reads images with it; compositor 0 stands in the result.
-/
namespace Sys2Proof.Machine

/-- A field as a register or flag number. -/
def f6 (w lo : Nat) : Fin 64 := Fin.ofNat 64 (bitsOf w (lo + 5) lo)
/-- A field as a descriptor register number. -/
def f5 (w lo : Nat) : Fin 32 := Fin.ofNat 32 (bitsOf w (lo + 4) lo)

/-- Every bit outside the listed fields is 0 (R178, R180). -/
def onlyBits (w : Nat) (fs : List (Nat × Nat)) : Bool :=
  fs.foldl (fun v f => v - bitsOf v f.1 f.2 * 2 ^ f.2) w == 0

/-- The predicate of a word (R175). -/
def wordPred (w : Nat) : Pred := { pen := bitsOf w 23 23 = 1, sense := bitsOf w 22 22 = 1, flag := f6 w 16 }

/-- A completion flag, at bit lo with its enable bit above it (R180, R181). -/
def wordEv (w lo : Nat) : Option EvSel :=
  if bitsOf w (lo + 6) (lo + 6) = 1 then some (some (f6 w lo)) else if bitsOf w (lo + 5) lo = 0 then some none else none

/-- Bits [127:64] of a word. -/
def wordImm (w : Nat) : W64 := BitVec.ofNat 64 (bitsOf w 127 64)

/-- Class CTL, format B (R189). -/
def ctlWord (w v : Nat) : Option Instr :=
  let p := wordPred w
  let t : W32 := BitVec.ofNat 32 (bitsOf w 95 64)
  let imm : W32 := BitVec.ofNat 32 (bitsOf w 127 96)
  let lc : Fin 8 := Fin.ofNat 8 (bitsOf w 26 24)
  let only (fs : List (Nat × Nat)) (i : Instr) : Option Instr := if onlyBits w ((23, 0) :: fs) then some i else none
  match v with
  | 0x00 => only [] (.nop 0 p)
  | 0x01 => only [(95, 64)] (.br 0 p t)
  | 0x02 => only [(95, 64)] (.call 0 p t)
  | 0x03 => only [] (.ret 0 p)
  | 0x04 => only [(26, 24), (35, 30), (127, 96)] (.lcset 0 p lc (f6 w 30) imm)
  | 0x05 => only [(26, 24), (127, 96)] (.lcseti 0 p lc imm)
  | 0x06 => only [(26, 24), (95, 64)] (.blc 0 p lc t)
  | 0x07 => if bitsOf w 23 16 = 0 then only [] (.jend 0) else none
  | _ => none

/-- Class SCL, format A (R195). -/
def sclWord (w v : Nat) : Option Instr :=
  let p := wordPred w
  let rd := f6 w 24
  let ra := f6 w 30
  let rb := f6 w 36
  let ev := f6 w 42
  let imm := wordImm w
  let base := if 0x80 ≤ v then v - 0x80 else v
  let b : Src2 := if 0x80 ≤ v then .imm imm else .reg rb
  let bb := if 0x80 ≤ v then (127, 64) else (41, 36)
  let only (fs : List (Nat × Nat)) (i : Instr) : Option Instr := if onlyBits w ((23, 0) :: fs) then some i else none
  let alu (i : Instr) := only [(29, 24), (35, 30), bb] i
  let cmp (i : Instr) := only [(29, 24), (35, 30), bb, (47, 42)] i
  match base with
  | 0x00 => alu (.add 0 p rd ra b)
  | 0x01 => alu (.sub 0 p rd ra b)
  | 0x02 => alu (.mul 0 p rd ra b)
  | 0x03 => alu (.mulhu 0 p rd ra b)
  | 0x04 => alu (.divu 0 p rd ra b)
  | 0x05 => alu (.remu 0 p rd ra b)
  | 0x06 => alu (.and 0 p rd ra b)
  | 0x07 => alu (.or 0 p rd ra b)
  | 0x08 => alu (.xor 0 p rd ra b)
  | 0x09 => alu (.shl 0 p rd ra b)
  | 0x0A => alu (.shr 0 p rd ra b)
  | 0x0B => alu (.sra 0 p rd ra b)
  | 0x0C => alu (.minu 0 p rd ra b)
  | 0x0D => alu (.maxu 0 p rd ra b)
  | 0x0E => alu (.mins 0 p rd ra b)
  | 0x0F => alu (.maxs 0 p rd ra b)
  | 0x10 => cmp (.cmpeq 0 p rd ra b ev)
  | 0x11 => cmp (.cmpne 0 p rd ra b ev)
  | 0x12 => cmp (.cmpltu 0 p rd ra b ev)
  | 0x13 => cmp (.cmplts 0 p rd ra b ev)
  | 0x14 => cmp (.cmpgeu 0 p rd ra b ev)
  | 0x15 => cmp (.cmpges 0 p rd ra b ev)
  | _ =>
    match v with
    | 0x16 => only [(29, 24), (35, 30), (127, 64)] (.ldc 0 p rd ra imm)
    | 0x17 => only [(29, 24), (35, 30), (127, 64)] (.lds 0 p rd ra imm)
    | 0x18 => only [(41, 36), (35, 30), (127, 64)] (.sts 0 p rb ra imm)
    | 0x19 => only [(29, 24)] (.rdstep 0 p rd)
    | 0x1A => only [(29, 24), (41, 36)] (.rdlc 0 p rd rb)
    | 0x1B => only [(35, 30), (69, 64)] (.slotw 0 p ra (f6 w 64))
    | 0x1C => only [(29, 24), (69, 64)] (.slotr 0 p rd (f6 w 64))
    | _ => none

/-- A field selector (R200). -/
def wordField (n : Nat) : Option DField :=
  [DField.base, .fmt, .layout, .rank, .bdim, .esc, .rnd, .srBits, .sat, .slot, .slotEn, .pieces, .ext, .org, .win][n]?

/-- Class DSC, format C (R200). -/
def dscWord (w v : Nat) : Option Instr :=
  let p := wordPred w
  let td := f5 w 24
  let ts := f5 w 29
  let ra := f6 w 34
  let dim : Fin 4 := Fin.ofNat 4 (bitsOf w 46 45)
  let imm := wordImm w
  let only (fs : List (Nat × Nat)) (i : Instr) : Option Instr := if onlyBits w ((23, 0) :: fs) then some i else none
  match v with
  | 0x00 => only [(28, 24), (127, 64)] (.dld 0 p td imm)
  | 0x01 => only [(28, 24), (33, 29)] (.dcpy 0 p td ts)
  | 0x02 => (wordField (bitsOf w 44 40)).bind fun f => only [(28, 24), (46, 34), (127, 64)] (.dset 0 p td ra imm f dim)
  | 0x03 => if bitsOf w 44 40 = 0x0D then only [(28, 24), (46, 34), (127, 64)] (.dadv 0 p td ra imm dim) else none
  | 0x04 => (wordField (bitsOf w 44 40)).bind fun f => only [(33, 29), (46, 34)] (.dget 0 p ra ts f dim)
  | 0x05 => only [(28, 24)] (.dnull 0 p td)
  | _ => none

/-- A tier code (R204). -/
def wordTier (n : Nat) : Option Tier := [Tier.t0, .t1, .t2, .t3][n]?

/-- A hint code (R204). -/
def wordHint (n : Nat) : Option HintCode := [HintCode.clear, .keep, .hot, .cold, .streamed][n]?

/-- Class MOV, format D (R202). -/
def movWord (w v : Nat) : Option Instr :=
  let p := wordPred w
  let ts := f5 w 29
  let only (fs : List (Nat × Nat)) (i : Instr) : Option Instr := if onlyBits w ((23, 0) :: fs) then some i else none
  (wordEv w 40).bind fun ev =>
    match v with
    | 0x00 => only [(28, 24), (33, 29), (46, 40)] (.move 0 p (f5 w 24) ts ev)
    | 0x01 => (wordTier (bitsOf w 51 48)).bind fun t => only [(33, 29), (46, 40), (51, 48)] (.pref 0 p ts t ev)
    | 0x02 => (wordHint (bitsOf w 51 48)).bind fun k => only [(33, 29), (46, 40), (51, 48)] (.hint 0 p ts k ev)
    | 0x03 => (wordTier (bitsOf w 51 48)).bind fun t => only [(33, 29), (46, 34), (51, 48)] (.evict 0 p ts t (f6 w 34) ev)
    | _ => none

/-- Class CVT, format D (R207). -/
def cvtWord (w v : Nat) : Option Instr :=
  (wordEv w 40).bind fun ev =>
    if v = 0 ∧ onlyBits w [(23, 0), (46, 24)] then some (.cvt 0 (wordPred w) (f5 w 24) (f5 w 29) (f6 w 34) ev) else none

/-- Format E (R180). -/
def wordE (w : Nat) : Option EArgs :=
  (wordEv w 51).bind fun ev =>
    if bitsOf w 63 58 = 0 then
      some { ta := f5 w 24, tb := f5 w 29, tc := f5 w 34, rp := f6 w 39, rn := f6 w 45, ev
             recOff := BitVec.ofNat 32 (bitsOf w 95 64), imm32 := BitVec.ofNat 32 (bitsOf w 127 96) }
    else none

/-- Class ENG (R216). -/
def engWord (p : Pred) (a : EArgs) (v : Nat) : Option Instr :=
  match v with
  | 0x00 => some (.platenDec 0 p a)
  | 0x10 => some (.sieveArm 0 p a)
  | 0x11 => some (.sieveEval 0 p a)
  | 0x12 => some (.sieveF 0 p a)
  | 0x20 => some (.galleyScan 0 p a)
  | 0x30 => some (.tallyTopk 0 p a)
  | 0x31 => some (.tallyTopkF 0 p a)
  | 0x32 => some (.tallyTopkM 0 p a)
  | 0x33 => some (.tallyTopkFm 0 p a)
  | 0x34 => some (.tallyArgmax 0 p a)
  | 0x35 => some (.tallyArgmaxF 0 p a)
  | 0x36 => some (.tallyHist 0 p a)
  | 0x37 => some (.tallySample 0 p a)
  | 0x38 => some (.tallySampleF 0 p a)
  | 0x40 => some (.cipherEnc 0 p a)
  | 0x41 => some (.cipherDec 0 p a)
  | 0x42 => some (.cipherHash 0 p a)
  | _ => none

/-- Class SYNC, format F (R221). -/
def syncWord (w v : Nat) : Option Instr :=
  let p := wordPred w
  let m := wordImm w
  let only (fs : List (Nat × Nat)) (i : Instr) : Option Instr := if onlyBits w ((23, 0) :: fs) then some i else none
  match v with
  | 0x00 => only [] (.fence 0 p)
  | 0x01 => only [] (.fenceMv 0 p)
  | 0x02 => only [] (.fenceFx 0 p)
  | 0x10 => only [(127, 64)] (.waitAll 0 p m)
  | 0x11 => only [(127, 64)] (.waitAny 0 p m)
  | 0x20 => only [(127, 64)] (.signalSet 0 p m)
  | 0x21 => only [(127, 64)] (.signalClr 0 p m)
  | 0x30 => if bitsOf w 23 16 = 0 then only [(51, 36)] (.stepI 0 (BitVec.ofNat 16 (bitsOf w 51 36))) else none
  | _ => none

/-- The encoding rules that a decoded instruction still has to meet. A branch target is no part of them: it is
checked where a path reaches it (R190). -/
def wordOk : Instr → Bool
  | .br _ p _ | .call _ p _ | .blc _ p _ _ => p.wf
  | i => i.wf

/-- The instruction that a 128-bit word encodes; none is an encoding fault (R178). -/
def jenunWord (w : Nat) : Option Instr :=
  let v := bitsOf w 15 8
  let i := match bitsOf w 7 0 with
    | 0x01 => ctlWord w v
    | 0x02 => sclWord w v
    | 0x03 => dscWord w v
    | 0x04 => movWord w v
    | 0x05 => if v = 0 then (wordE w).map fun a => .imp 0 (wordPred w) a else none
    | 0x06 => (wordE w).bind fun a => engWord (wordPred w) a v
    | 0x07 => cvtWord w v
    | 0x08 => syncWord w v
    | _ => none
  i.bind fun i => if wordOk i then some i else none

end Sys2Proof.Machine
end

