-- ==== Sys2Proof/Machine/Paths.lean ====
section
/-!
DEFINITION. The paths of a program image from its entry (R153), and what the verifier knows on each of them from the image's
constants and static loop bounds: the values of registers, descriptor bits and loop counters (log entry 58).
-/
namespace Sys2Proof.Machine

/-! ## What is known at a point -/

/-- The instruction at index n of the code area. -/
def Image.insn (i : Image) (n : Nat) : Option Instr :=
  if 16 * n < i.codeLen then jenunWord (i.num (i.codeOff + 16 * n) 16) else none

/-- A descriptor of which some bits are known: its value, with 0 in every bit that is not, and the bits that are. -/
structure VDesc where
  val : Desc
  mask : Desc
  deriving DecidableEq, Repr, Inhabited

/-- What holds on every path that reaches a point: the static bound of each loop counter that has one (R193), the known
bits of the descriptor registers, and the scalar registers that are known. -/
structure VAbs where
  lcs : List (Option Nat)
  descs : List VDesc
  regs : List (Option W64)
  deriving DecidableEq, Repr, Inhabited

/-- A descriptor whose bits are all known. -/
def VDesc.of (d : Desc) : VDesc := { val := d, mask := BitVec.allOnes 512 }

/-- The bits that two paths agree on. -/
def VDesc.join (a b : VDesc) : VDesc :=
  let m := a.mask &&& b.mask &&& ~~~(a.val ^^^ b.val)
  { val := a.val &&& m, mask := m }

/-- What holds on both of two paths. -/
def VAbs.join (a b : VAbs) : VAbs :=
  { lcs := List.zipWith (fun x y => match x, y with | some n, some m => some (max n m) | _, _ => none) a.lcs b.lcs
    descs := List.zipWith VDesc.join a.descs b.descs
    regs := List.zipWith (fun x y => if x = y then x else none) a.regs b.regs }

/-- A known scalar register; s0 reads 0 (R134). -/
def VAbs.reg (a : VAbs) (r : Fin 64) : Option W64 := if r = 0 then some 0 else (a.regs[r.val]?).getD none

/-- Operand b, where it is known. -/
def VAbs.src2 (a : VAbs) : Src2 → Option W64
  | .reg r => a.reg r
  | .imm v => some v

/-- A scalar register gets a value, known or not. -/
def VAbs.setReg (a : VAbs) (r : Fin 64) (v : Option W64) : VAbs := if r = 0 then a else { a with regs := a.regs.set r.val v }

/-- A descriptor register. -/
def VAbs.desc (a : VAbs) (t : Fin 32) : VDesc := (a.descs[t.val]?).getD { val := 0, mask := 0 }

/-- A descriptor register gets a value. -/
def VAbs.put (a : VAbs) (t : Fin 32) (d : VDesc) : VAbs := { a with descs := a.descs.set t.val d }

/-- A field of a descriptor, where all its bits are known. -/
def VDesc.field (d : VDesc) (f : DField) (dim : Fin 4) : Option Nat :=
  let r := fieldRange f dim
  if dbits d.mask r.1 r.2 = 2 ^ (r.1 + 1 - r.2) - 1 then some (dfield d.val f dim) else none

/-- A field of a descriptor gets a value, known or not. -/
def VDesc.set (d : VDesc) (f : DField) (dim : Fin 4) (v : Option Nat) : VDesc :=
  match v with
  | some n => { val := dsetField d.val f dim n, mask := dsetField d.mask f dim (2 ^ 64 - 1) }
  | none => { val := dsetField d.val f dim 0, mask := dsetField d.mask f dim 0 }

/-- A descriptor built from constants: every bit of it is known. -/
def VAbs.get (a : VAbs) (t : Fin 32) : Option Desc := let d := a.desc t; if d.mask = BitVec.allOnes 512 then some d.val else none

/-- A descriptor whose bits are known but for its base, which decides no size: its base is taken as 0. -/
def VAbs.sized (a : VAbs) (t : Fin 32) : Option Desc :=
  let d := (a.desc t).set .base 0 (some 0)
  if d.mask = BitVec.allOnes 512 then some d.val else none

/-- Destination, first source, second source and function of a scalar instruction whose result two operands give (R195). -/
def aluOf : Instr → Option (Fin 64 × Fin 64 × Src2 × (W64 → W64 → W64))
  | .add _ _ d a b => some (d, a, b, fun x y => x + y)
  | .sub _ _ d a b => some (d, a, b, fun x y => x - y)
  | .mul _ _ d a b => some (d, a, b, fun x y => x * y)
  | .mulhu _ _ d a b => some (d, a, b, mulhu)
  | .divu _ _ d a b => some (d, a, b, divu)
  | .remu _ _ d a b => some (d, a, b, remu)
  | .and _ _ d a b => some (d, a, b, fun x y => x &&& y)
  | .or _ _ d a b => some (d, a, b, fun x y => x ||| y)
  | .xor _ _ d a b => some (d, a, b, fun x y => x ^^^ y)
  | .shl _ _ d a b => some (d, a, b, fun x y => x <<< shiftOf y)
  | .shr _ _ d a b => some (d, a, b, fun x y => x >>> shiftOf y)
  | .sra _ _ d a b => some (d, a, b, fun x y => x.sshiftRight (shiftOf y))
  | .minu _ _ d a b => some (d, a, b, fun x y => if y.ult x then y else x)
  | .maxu _ _ d a b => some (d, a, b, fun x y => if x.ult y then y else x)
  | .mins _ _ d a b => some (d, a, b, fun x y => if y.slt x then y else x)
  | .maxs _ _ d a b => some (d, a, b, fun x y => if x.slt y then y else x)
  | _ => none

/-- Destination, sources, flag and function of a compare (R195). -/
def cmpOf : Instr → Option (Fin 64 × Fin 64 × Src2 × Fin 64 × (W64 → W64 → Bool))
  | .cmpeq _ _ d a b f => some (d, a, b, f, fun x y => x == y)
  | .cmpne _ _ d a b f => some (d, a, b, f, fun x y => x != y)
  | .cmpltu _ _ d a b f => some (d, a, b, f, fun x y => x.ult y)
  | .cmplts _ _ d a b f => some (d, a, b, f, fun x y => x.slt y)
  | .cmpgeu _ _ d a b f => some (d, a, b, f, fun x y => y.ule x)
  | .cmpges _ _ d a b f => some (d, a, b, f, fun x y => y.sle x)
  | _ => none

/-- A function of two values, where both are known. -/
def both {α β : Type} (f : α → α → β) (x y : Option α) : Option β := x.bind fun a => y.map (f a)

/-- What an instruction that executes makes of the facts. -/
def Image.fact (i : Image) (x : Instr) (a : VAbs) : VAbs :=
  match aluOf x, cmpOf x with
  | some (d, r, b, f), _ => a.setReg d (both f (a.reg r) (a.src2 b))
  | _, some (d, r, b, _, f) => a.setReg d ((both f (a.reg r) (a.src2 b)).map fun v => if v then 1 else 0)
  | none, none =>
    match x with
    | .lcset _ _ lc r b => { a with lcs := a.lcs.set lc.val (if b = 0 then none else some (match a.reg r with
        | some v => v.toNat
        | none => b.toNat)) }
    | .lcseti _ _ lc v => { a with lcs := a.lcs.set lc.val (some v.toNat) }
    | .ldc _ _ d r v => a.setReg d ((a.reg r).bind fun y =>
        let o := (y + v).toNat
        if o + 8 ≤ i.constLen then some (BitVec.ofNat 64 (i.num (i.constOff + o) 8)) else none)
    | .lds _ _ d .. | .rdstep _ _ d | .rdlc _ _ d _ | .slotr _ _ d _ => a.setReg d none
    | .evict _ _ _ _ r _ => a.setReg r none
    | .dld _ _ td v => a.put td (.of (BitVec.ofNat 512 (i.num (i.constOff + v.toNat) 64)))
    | .dcpy _ _ td ts => a.put td (a.desc ts)
    | .dset _ _ td r v f dim => a.put td ((a.desc td).set f dim ((a.reg r).map fun y => (y + v).toNat))
    | .dadv _ _ td r v dim => a.put td ((a.desc td).set .org dim
        (both (fun (o y : Nat) => (o + y) % 2 ^ 32) ((a.desc td).field .org dim) ((a.reg r).map fun y => (y + v).toNat)))
    | .dget _ _ r ts f dim => a.setReg r (((a.desc ts).field f dim).map fun v => BitVec.ofNat 64 v)
    | .dnull _ _ td => a.put td (.of 0)
    | _ => a

/-- The predicate of an instruction that may have one (R176). -/
def predOf : Instr → Pred
  | .nop _ p | .br _ p _ | .call _ p _ | .ret _ p | .lcset _ p _ _ _ | .lcseti _ p _ _ | .blc _ p _ _
  | .add _ p _ _ _ | .sub _ p _ _ _ | .mul _ p _ _ _ | .mulhu _ p _ _ _ | .divu _ p _ _ _ | .remu _ p _ _ _
  | .and _ p _ _ _ | .or _ p _ _ _ | .xor _ p _ _ _ | .shl _ p _ _ _ | .shr _ p _ _ _ | .sra _ p _ _ _
  | .minu _ p _ _ _ | .maxu _ p _ _ _ | .mins _ p _ _ _ | .maxs _ p _ _ _
  | .cmpeq _ p _ _ _ _ | .cmpne _ p _ _ _ _ | .cmpltu _ p _ _ _ _ | .cmplts _ p _ _ _ _ | .cmpgeu _ p _ _ _ _ | .cmpges _ p _ _ _ _
  | .ldc _ p _ _ _ | .lds _ p _ _ _ | .sts _ p _ _ _ | .rdstep _ p _ | .rdlc _ p _ _ | .slotw _ p _ _ | .slotr _ p _ _
  | .dld _ p _ _ | .dcpy _ p _ _ | .dset _ p _ _ _ _ _ | .dadv _ p _ _ _ _ | .dget _ p _ _ _ _ | .dnull _ p _
  | .move _ p _ _ _ | .pref _ p _ _ _ | .hint _ p _ _ _ | .evict _ p _ _ _ _ | .cvt _ p _ _ _ _ | .imp _ p _
  | .platenDec _ p _ | .sieveArm _ p _ | .sieveEval _ p _ | .sieveF _ p _ | .galleyScan _ p _ | .tallyTopk _ p _ | .tallyTopkF _ p _
  | .tallyTopkM _ p _ | .tallyTopkFm _ p _ | .tallyArgmax _ p _ | .tallyArgmaxF _ p _ | .tallyHist _ p _ | .tallySample _ p _
  | .tallySampleF _ p _ | .cipherEnc _ p _ | .cipherDec _ p _ | .cipherHash _ p _
  | .fence _ p | .fenceMv _ p | .fenceFx _ p | .waitAll _ p _ | .waitAny _ p _ | .signalSet _ p _ | .signalClr _ p _ => p
  | _ => noPred

/-! ## Paths from the entry -/

/-- A point that a path reaches: instruction index, return stack, claim in force. -/
structure VNode where
  idx : Nat
  stack : List Nat
  claim : Nat
  facts : VAbs
  deriving DecidableEq, Repr, Inhabited

/-- Two points are the same place of the program. -/
def VNode.same (a b : VNode) : Bool := a.idx == b.idx && a.stack == b.stack && a.claim == b.claim

/-- The index that a branch from n leads to. -/
def branchTo (n : Nat) (t : W32) : Option Nat :=
  let x : Int := 16 * (n : Int) + t.toInt
  if 0 ≤ x ∧ x % 16 = 0 then some (x / 16).toNat else none

/-- Where the paths through a point go on. -/
def Image.succs (i : Image) (n : VNode) : List VNode :=
  match i.insn n.idx with
  | none => []
  | some x =>
    let next : VNode := { n with idx := n.idx + 1 }
    let skip := if (predOf x).pen then [next] else []
    let go (t : W32) (st : List Nat) : List VNode := match branchTo n.idx t with
      | some k => [{ n with idx := k, stack := st }]
      | none => []
    match x with
    | .br _ _ t => go t n.stack ++ skip
    | .call _ _ t => (if n.stack.length < 8 then go t ((n.idx + 1) :: n.stack) else []) ++ skip
    | .ret .. => (match n.stack with | r :: st => [{ n with idx := r, stack := st }] | [] => []) ++ skip
    | .blc _ _ _ t => go t n.stack ++ [next]
    | .jend _ => []
    | .stepI _ c => [{ next with claim := c.toNat }]
    | x => { next with facts := i.fact x n.facts } :: skip

/-- Every point that a path from a work list reaches, with what holds there. -/
def Image.explore (i : Image) : Nat → List VNode → List VNode → List VNode
  | 0, _, seen => seen
  | _ + 1, [], seen => seen
  | k + 1, n :: w, seen =>
    match seen.find? n.same with
    | none => i.explore k (i.succs n ++ w) (seen ++ [n])
    | some m =>
      let j := m.facts.join n.facts
      if j = m.facts then i.explore k w seen
      else
        let m' := { m with facts := j }
        i.explore k (i.succs m' ++ w) (mapWhere n.same (fun _ => m') seen)

/-- The entry: counters unset, descriptors null, registers as the command gives them (R134), claim record 0 (R226). -/
def Image.start (i : Image) : VNode :=
  { idx := i.entry / 16, stack := [], claim := 0
    facts := { lcs := List.replicate 8 none, descs := List.replicate 32 (.of 0), regs := List.replicate 64 none } }

/-- The points that the paths from the entry reach, in code order. -/
def Image.reached (i : Image) : List VNode :=
  sortBy (fun a b => decide (a.idx < b.idx)) (i.explore (2 ^ 64) [i.start] [])

/-- The plan record at a plan-area offset. -/
def Image.planAt (i : Image) (off : W32) : Nat := i.num (i.planOff + off.toNat) 64

/-- The 64-byte record at a constant-area offset. -/
def Image.recAt (i : Image) (off : W32) : BitVec 512 := BitVec.ofNat 512 (i.num (i.constOff + off.toNat) 64)

/-- The fields of an ENG instruction, with whether it takes a record, and its engine. -/
def engOf : Instr → Option (EArgs × Bool × Engine)
  | .platenDec _ _ a => some (a, true, .platen)
  | .sieveArm _ _ a | .sieveEval _ _ a | .sieveF _ _ a => some (a, true, .sieve)
  | .galleyScan _ _ a => some (a, true, .galley)
  | .tallyTopk _ _ a | .tallyTopkF _ _ a | .tallyTopkM _ _ a | .tallyTopkFm _ _ a | .tallyArgmax _ _ a
  | .tallyArgmaxF _ _ a | .tallyHist _ _ a | .tallySample _ _ a | .tallySampleF _ _ a => some (a, true, .tally)
  | .cipherEnc _ _ a | .cipherDec _ _ a | .cipherHash _ _ a => some (a, false, .cipher)
  | _ => none

/-- A number as a descriptor register; a record's field of 0 names none where opt holds. -/
def recReg (opt : Bool) (n : Nat) : List (Fin 32) := if opt && decide (n = 0) then [] else [Fin.ofNat 32 n]

/-- The descriptor registers that an instruction uses (R200 to R220), those that its record names among them. -/
def Image.uses (i : Image) (x : Instr) : List (Fin 32) :=
  match x with
  | .move _ _ td ts _ | .cvt _ _ td ts _ _ => [td, ts]
  | .pref _ _ ts _ _ | .hint _ _ ts _ _ | .evict _ _ ts _ _ _ => [ts]
  | .imp _ _ a => [a.ta, a.tb] ++ if planFeed (i.planAt a.recOff) = 0 then [a.tc] else []
  | .platenDec _ _ a => let r := i.recAt a.recOff; [a.ta, a.tc] ++ recReg false (rbits r 8 4) ++ recReg false (rbits r 13 9)
  | .sieveArm _ _ a => pred (i.recAt a.recOff)
  | .sieveEval _ _ a => [a.ta, a.tc] ++ pred (i.recAt a.recOff)
  | .sieveF _ _ a => a.tc :: pred (i.recAt a.recOff)
  | .galleyScan _ _ a => let r := i.recAt a.recOff; a.ta :: (recReg true (rbits r 21 17) ++ recReg true (rbits r 26 22))
  | .tallyTopk _ _ a => [a.ta, a.tc] ++ sum (i.recAt a.recOff)
  | .tallyTopkF _ _ a => a.tc :: sum (i.recAt a.recOff)
  | .tallyTopkM _ _ a => [a.ta, a.tb, a.tc] ++ sum (i.recAt a.recOff)
  | .tallyTopkFm _ _ a => [a.tb, a.tc] ++ sum (i.recAt a.recOff)
  | .tallyArgmax _ _ a | .tallyHist _ _ a => [a.ta, a.tc]
  | .tallyArgmaxF _ _ a => [a.tc]
  | .tallySample _ _ a => [a.ta, a.tc] ++ recReg false (rbits (i.recAt a.recOff) 4 0)
  | .tallySampleF _ _ a => a.tc :: recReg false (rbits (i.recAt a.recOff) 4 0)
  | .cipherEnc _ _ a | .cipherDec _ _ a | .cipherHash _ _ a => [a.ta, a.tc]
  | _ => []
where
  pred (r : BitVec 512) : List (Fin 32) := recReg false (rbits r 4 0) ++ recReg true (rbits r 9 5) ++ recReg true (rbits r 14 10)
  sum (r : BitVec 512) : List (Fin 32) := let x := selRec r; if x.sumEn then recReg false x.tSum else []

/-- The pages and descriptors that the instruction reads through scalar registers are known: a pointer list or a count. -/
def needsReg (x : Instr) : List (Fin 64) :=
  match x with
  | .imp _ _ a => [a.rn, a.rp]
  | .sts _ _ _ a _ => [a]
  | x => match engOf x with
    | some (a, _, _) => [a.rn]
    | none => []

end Sys2Proof.Machine
end

