-- ==== Sys2Proof/Machine/Estimate.lean ====
section
/-!
DEFINITION. The verifier's walk through the steps of an image: how long each step takes (R155 to R157, R376), and what it breaks of
R70, R113, R149 to R151 and R215. Loops run to their static bounds, and a predicate that nothing decides is followed both ways (log
entry 58).
-/
namespace Sys2Proof.Machine

/-! ## The walk's state -/

/-- An operation of the step: when it completes, whether FENCE.FX covers it, and the pages that it writes. -/
structure Past where
  fin : Nat
  fx : Bool
  wrs : List Nat
  deriving DecidableEq, Repr, Inhabited

/-- A path through a step: where it stands, the flags that are known, the step's tracking, the times at which the units are free and
the earliest start that a fence leaves, in the units of `unitsPerNs`; the bytes in each tile's bank; whether every size was known; the
step's first instruction; and the estimates of the steps before it. -/
structure Walker where
  node : VNode
  flags : List (Option Bool) := List.replicate 64 (some false)
  st : StepSt := {}
  nextOp : Nat := 0
  now : Nat := 0
  free : List (Nat × Nat) := []
  past : List Past := []
  floor : Nat := 0
  fed : Option Nat := none
  banks : List (Nat × Nat) := []
  sized : Bool := true
  first : Nat
  sum : Nat := 0
  deriving DecidableEq, Repr

/-- What the walk has found: the estimate of each step by its first instruction, in ns; the offset of the first instruction that
breaks a check; whether every size was known; and the largest sum of estimates of a path to END. -/
structure Found where
  ests : List (Nat × Nat) := []
  bad : List (Nat × Nat) := []
  sized : Bool := true
  total : Nat := 0
  deriving DecidableEq, Repr

/-! ## What an instruction asks for -/

/-- The module as the verifier sees it: its grade and the image. -/
def Image.stage (i : Image) (g : Grade) : State :=
  { State.reset with ident := { State.reset.ident with grade := g }, sched := { State.reset.sched with images := [i] } }

/-- An execution at a point of a path, with 0 in every bit that is not known. -/
def Walker.exec (i : Image) (w : Walker) : Exec :=
  { id := 0, hdr := default, ctx := 0, image := i.prog, deadline := 0, pc := BitVec.ofNat 32 (16 * w.node.idx)
    regs := Vector.ofFn fun r => ((w.node.facts.reg r).getD 0), descs := Vector.ofFn fun t => (w.node.facts.desc t).val
    claim := BitVec.ofNat 16 w.node.claim, st := w.st, nextOp := w.nextOp }

/-- The request of an asynchronous instruction whose registers and descriptors are all known; none also where it raises a fault, or
where it depends on what memory holds. -/
def State.reqOf (s : State) (e : Exec) (x : Instr) : Option (Exec × Req) :=
  match x with
  | .move _ _ td ts ev => (s.moveReq e td ts ev).toOption
  | .cvt _ _ td ts r ev => (s.cvtReq e td ts r ev).toOption
  | .pref _ _ ts t ev => (s.pageReq e ts (.pref t) ev).toOption
  | .hint _ _ ts h ev => (s.pageReq e ts (.hint h) ev).toOption
  | .evict _ _ ts t r ev => (s.pageReq e ts (.evict t r) ev).toOption
  | .sts _ _ b a v => (s.stsReq e b a v).toOption
  | .imp _ _ a => if a.rn = 0 then (s.impReq e a).toOption else none
  | .platenDec _ _ a => (s.platenReq e a).toOption
  | .sieveArm _ _ a => (s.sieveArmReq e a).toOption
  | .sieveEval _ _ a => (s.sieveEvalReq e a).toOption
  | .sieveF _ _ a => (s.sieveFReq e a).toOption
  | .tallyTopk _ _ a => (s.topkReq e a false false).toOption
  | .tallyTopkF _ _ a => (s.topkReq e a true false).toOption
  | .tallyTopkM _ _ a => (s.topkReq e a false true).toOption
  | .tallyTopkFm _ _ a => (s.topkReq e a true true).toOption
  | .tallyArgmax _ _ a => (s.argmaxReq e a false).toOption
  | .tallyArgmaxF _ _ a => (s.argmaxReq e a true).toOption
  | .tallyHist _ _ a => (s.histReq e a).toOption
  | .tallySample _ _ a => (s.sampleReq e a false).toOption
  | .tallySampleF _ _ a => (s.sampleReq e a true).toOption
  | .cipherEnc _ _ a => (s.cipherReq e a true).toOption
  | .cipherDec _ _ a => (s.cipherReq e a false).toOption
  | .cipherHash _ _ a => (s.hashReq e a).toOption
  | _ => none

/-- The asynchronous instructions (R182), with their completion flags. -/
def asyncOf : Instr → Option EvSel
  | .move _ _ _ _ ev | .pref _ _ _ _ ev | .hint _ _ _ _ ev | .evict _ _ _ _ _ ev | .cvt _ _ _ _ _ ev => some ev
  | .sts .. => some none
  | .imp _ _ a => some a.ev
  | x => (engOf x).map fun y => y.1.ev

/-- FENCE.FX covers the instruction's operation; otherwise FENCE.MV does (R221). -/
def fxOf : Instr → Bool
  | .imp .. => true
  | x => (engOf x).isSome

/-- A known conversion by stochastic rounding (R70, R210). -/
def Image.srAt (i : Image) (f : VAbs) (x : Instr) : Bool :=
  match x with
  | .imp _ _ a => decide (planFeed (i.planAt a.recOff) = 0) && (f.desc a.tc).field .rnd 0 == some 2
  | .cvt _ _ td _ _ _ => (f.desc td).field .rnd 0 == some 2
  | _ => false

/-! ## Sizes and durations (R155) -/

/-- A window whose sizes are known. -/
def VAbs.window (f : VAbs) (t : Fin 32) (operand : Bool) : Option DInfo :=
  (f.sized t).bind fun d => (dcheck d operand).toOption

/-- Bytes of a window as a sheet move carries it: elements with their scale and zero-point bytes (R48, R50). -/
def DInfo.moveBytes (d : DInfo) : Nat := if d.layout = 6 then d.w 0 else cdiv (d.count * bits32 d.fmt) 256

/-- Units that n values take at a rate per microsecond. -/
def atRate (n perUs : Nat) : Nat := cdiv (n * unitsPerNs * 1000) perUs

/-- Units of 2 µs for each 1,024 rows or part of them (R372). -/
def sampleTail (rows : Nat) : Nat := cdiv rows 1024 * 2000 * unitsPerNs

/-- An impression's operands and pointer-list entries, where its sizes are known. -/
structure ImpSize where
  a : DInfo
  b : DInfo
  m : Nat
  entries : Nat
  deriving DecidableEq, Repr, Inhabited

/-- The sizes of an impression: a Galley scan's vectors and a count in a register that is not known are sizes of run time. -/
def Walker.impSize (w : Walker) (a : EArgs) (mode : Nat) : Option ImpSize :=
  let f := w.node.facts
  match f.window a.ta true, f.window a.tb true, (if a.rn = 0 then some 1 else (f.reg a.rn).map BitVec.toNat) with
  | some x, some y, some n =>
    if decide (mode = 1) && decide (x.layout = 5) && w.st.armed.any (fun q => q.1 == .galley) then none
    else some { a := x, b := y, m := x.w 1, entries := n }
  | _, _, _ => none

/-- The placement of an impression on the grade's full logical shape. -/
def ImpSize.place (z : ImpSize) (g : Grade) (r : Nat) : Place := Sys2Proof.Machine.place r g.rows g.cols z.m (z.b.w 1) (z.a.w 0)

/-- Units of an impression. -/
def ImpSize.time (z : ImpSize) (g : Grade) (r : Nat) : Nat :=
  (z.place g r).time (planT1 r) { m := z.m, n := z.b.w 1, k := z.a.w 0, passes := (passes z.a z.b).length, a := z.a.fmt, b := z.b.fmt
                                  aSplit := z.a.fmt.isWide, entries := z.entries }

/-- Units that an operation takes on its unit; none where its size is one of run time, of which the issue cycle alone counts. Work
for which no chapter rates a throughput counts so as well. -/
def Image.cost (i : Image) (g : Grade) (w : Walker) (x : Instr) : Option Nat :=
  let f := w.node.facts
  match x with
  | .move _ _ _ ts _ | .cvt _ _ _ ts _ _ | .pref _ _ ts _ _ | .evict _ _ ts _ _ _ =>
    (f.window ts false).map fun d => transfer d.moveBytes csRate
  | .hint .. | .sts .. => some 0
  | .imp _ _ a => let r := i.planAt a.recOff; (w.impSize a (planMode r)).map fun z => z.time g r
  | .platenDec _ _ a => some ((decCap (i.recAt a.recOff) + 7) * 1000 * unitsPerNs)
  | .tallyTopk _ _ a | .tallyTopkM _ _ a => let q := selRec (i.recAt a.recOff); some (atRate (q.rows * q.len) 250000)
  | .tallyArgmax _ _ a => let q := selRec (i.recAt a.recOff); some (atRate (q.rows * q.len) 500000)
  | .tallyHist _ _ a => (f.window a.ta false).map fun d => atRate d.count 250000
  | .tallySample _ _ a =>
    let r := i.recAt a.recOff
    some (atRate (smpRows r * smpVocab r) 250000 + sampleTail (smpRows r))
  | .tallyTopkF .. | .tallyTopkFm .. | .tallyArgmaxF .. | .tallySampleF .. => some 0
  | _ => none

/-- What a fed Tally operation takes beside its offers (R347, R372). -/
def Image.fedTail (i : Image) : Instr → Option Nat
  | .tallyTopkF .. | .tallyTopkFm .. | .tallyArgmaxF .. => some 0
  | .tallySampleF _ _ a => some (sampleTail (smpRows (i.recAt a.recOff)))
  | _ => none

/-- The unit that runs an instruction's operation: 0 for the sheet movers, else 1 to 6 for the fabric and the engines. -/
def unitOf : Instr → Nat
  | .imp .. => 1
  | x => match engOf x with
    | some y => engineBit y.2.2 - 55
    | none => 0

/-! ## One instruction -/

/-- An operation of some duration takes its place on its unit (R155). -/
def Walker.run (w : Walker) (unit dur : Nat) (fx : Bool) (rds wrs : List Nat) : Walker :=
  let start := ((w.past.filter fun p => pagesMeet p.wrs rds).map (·.fin)).foldl max
    (max (max w.now w.floor) ((assocGet unit w.free).getD 0))
  { w with free := assocPut unit (start + dur) w.free, past := w.past ++ [{ fin := start + dur, fx, wrs }] }

/-- The bank bytes of a step with one more impression: a pointer list counts with its entries, or with its plan's largest count. -/
def Image.banksAt (i : Image) (g : Grade) (w : Walker) (x : Instr) : List (Nat × Nat) :=
  match x with
  | .imp _ _ a =>
    let r := i.planAt a.recOff
    let f := w.node.facts
    (match planFeed r, f.window a.ta true, f.window a.tb true, f.window a.tc false with
    | 0, some y, some z, some c =>
      let n := if a.rn = 0 then 1 else ((f.reg a.rn).map BitVec.toNat).getD (planList r)
      ((place r g.rows g.cols (c.w 1) (z.w 1) (y.w 0)).tileBytes (c.w 1) (z.w 1) n (bits32 c.fmt)).foldl
        (fun m b => assocPut b.1 ((assocGet b.1 m).getD 0 + b.2) m) w.banks
    | _, _, _, _ => w.banks)
  | _ => w.banks

/-- Record that an instruction breaks a check; the lowest offset stands. -/
def Found.breaks (f : Found) (code : Nat) (off : Nat) (b : Bool) : Found :=
  if b then { f with bad := assocPut code (min off ((assocGet code f.bad).getD off)) f.bad } else f

/-- An asynchronous instruction issues. -/
def Image.issue (i : Image) (g : Grade) (w : Walker) (x : Instr) (ev : EvSel) (out : Found) : Walker × Found :=
  let f := w.node.facts
  let known := (i.uses x).all (fun t => (f.get t).isSome) && (needsReg x).all fun r => (f.reg r).isSome
  let q := if known then (i.stage g).reqOf (w.exec i) x else none
  let sr := i.srAt f x
  let wins := match q with | some q => q.2.wins | none => (i.uses x).countP fun t => (f.get t).isSome
  let (rds, wrs, bank) := match q with | some q => (q.2.rds, q.2.wrs, q.2.bank) | none => ([], [], false)
  let banks := i.banksAt g w x
  let off := 16 * w.node.idx
  let out := ((out.breaks 0x05 off (w.st.breaks rds wrs wins bank)).breaks 0x08 off (sr && decide (srLimit ≤ w.st.srCount))).breaks
    0x0A off (banks.any fun b => decide (Config.bankBytes < b.2))
  let st := match q with
    | some q => { q.1.st with ops := q.1.st.ops ++ [{ q.2.op with id := w.nextOp, pc := BitVec.ofNat 32 off }] }
    | none => w.st
  let sh := st.shPages ++ (((runPages wrs).filter fun p => !(st.shPages.any fun y => decide (y.1 = p))).map fun p => (p, Tier.t0))
  let st := { st.noted rds wrs wins bank sh with srCount := st.srCount + if sr then 1 else 0 }
  let w1 := w.run (unitOf x) ((i.cost g w x).getD 0) (fxOf x) rds (runPages wrs)
  let offers := match x with
    | .imp _ _ a =>
      let r := i.planAt a.recOff
      if planFeed r = 1 then (w.impSize a (planMode r)).map fun z => atRate (z.m * z.b.w 1 * z.entries) 8000000 else none
    | _ => none
  let w2 := match offers, w.fed with
    | some t, some u => w1.run 6 (t + u) true [] []
    | _, _ => w1
  ({ w2 with
      st, banks, nextOp := w.nextOp + 1
      fed := match i.fedTail x with | some u => some u | none => w.fed
      flags := match ev with | some k => w.flags.set k.val (some true) | none => w.flags
      sized := w.sized && (i.cost g w x).isSome }, out)

/-- The flags after a synchronous instruction. -/
def Walker.flagsAfter (w : Walker) (x : Instr) : List (Option Bool) :=
  match x with
  | .signalSet _ _ m => w.flags.zipIdx.map fun q => if m.getLsbD q.2 then some true else q.1
  | .signalClr _ _ m => w.flags.zipIdx.map fun q => if m.getLsbD q.2 then some false else q.1
  | x => match cmpOf x with
    | some (_, r, b, k, f) => w.flags.set k.val (both f (w.node.facts.reg r) (w.node.facts.src2 b))
    | none => w.flags

/-- The path goes on at an index. -/
def Walker.at_ (w : Walker) (n : Nat) : Walker := { w with node := { w.node with idx := n } }

/-- The paths that an instruction which executes leads to. -/
def Image.go (i : Image) (g : Grade) (w : Walker) (x : Instr) (out : Found) : List Walker × Found :=
  let n := w.node.idx
  let jump (w : Walker) (t : W32) : List Walker := match branchTo n t with | some k => [w.at_ k] | none => []
  let fence (p : Past → Bool) : Walker := { w with floor := ((w.past.filter p).map (·.fin)).foldl max w.floor }
  match x with
  | .br _ _ t => (jump w t, out)
  | .call _ _ t => (jump { w with node := { w.node with stack := (n + 1) :: w.node.stack } } t, out)
  | .ret .. => (match w.node.stack with
      | r :: st => [{ w with node := { w.node with idx := r, stack := st } }]
      | [] => [], out)
  | .blc _ _ lc t =>
    let put (v : Option Nat) : Walker :=
      { w with node := { w.node with facts := { w.node.facts with lcs := w.node.facts.lcs.set lc.val v } } }
    (match (w.node.facts.lcs[lc.val]?).getD none with
      | some k => if 1 < k then jump (put (some (k - 1))) t else [(put (some 0)).at_ (n + 1)]
      | none => jump w t ++ [(put (some 0)).at_ (n + 1)], out)
  | .fence .. => ([(fence fun _ => true).at_ (n + 1)], out)
  | .fenceMv .. => ([(fence fun p => !p.fx).at_ (n + 1)], out)
  | .fenceFx .. => ([(fence fun p => p.fx).at_ (n + 1)], out)
  | x => match asyncOf x with
    | some ev =>
      let r := i.issue g w x ev out
      ([({ r.1 with node := { r.1.node with facts := i.fact x r.1.node.facts } }).at_ (n + 1)], r.2)
    | none =>
      let rds := match x with
        | .lds _ _ _ r v => ((w.node.facts.reg r).map fun y => (y + v).toNat / 65536).toList
        | _ => []
      let out := out.breaks 0x05 (16 * n) (w.st.breaks rds [] 0 false)
      ([({ w with st := w.st.noted rds [] 0 false w.st.shPages, flags := w.flagsAfter x, node := { w.node with facts := i.fact x w.node.facts } }).at_ (n + 1)], out)

/-- Fences drop what R150 no longer separates (R222). -/
def Walker.fenced (w : Walker) (x : Instr) : Walker :=
  let drop (mv fx : Bool) : Walker := { w with st := { w.st with wrWins := w.st.wrWins.filter fun v => if v.fx then !fx else !mv } }
  match x with
  | .fence .. => drop true true
  | .fenceMv .. => drop true false
  | .fenceFx .. => drop false true
  | _ => w

/-- The step's estimate in ns: when its last operation completes. -/
def Walker.estimate (w : Walker) : Nat := cdiv ((w.past.map (·.fin)).foldl max w.now) unitsPerNs

/-- A path ends its step; thru goes on with the next one. -/
def Walker.close (w : Walker) (claim : Nat) (thru : Bool) (out : Found) : List Walker × Found :=
  let t := w.estimate
  let out := { out with ests := assocPut w.first (max t ((assocGet w.first out.ests).getD 0)) out.ests, sized := out.sized && w.sized }
  (if thru then [{ node := { w.node with idx := w.node.idx + 1, claim }, first := w.node.idx + 1, sum := w.sum + t }] else [], out)

/-- One instruction of a path: one CK_CS cycle, and a predicate that nothing decides leads both ways. -/
def Image.advance (i : Image) (g : Grade) (thru : Bool) (w : Walker) (out : Found) : List Walker × Found :=
  match i.insn w.node.idx with
  | none => ([], out)
  | some x =>
    let w := { w with now := w.now + csCycle }
    match x with
    | .jend _ => let r := w.close 0 false out; ([], { r.2 with total := max r.2.total (w.sum + w.estimate) })
    | .stepI _ c => w.close c.toNat thru out
    | x =>
      let p := predOf x
      let run (w : Walker) (out : Found) := i.go g (w.fenced x) x out
      if !p.pen then run w out
      else match (w.flags[p.flag.val]?).getD none with
        | some v => if v = p.sense then run w out else ([w.at_ (w.node.idx + 1)], out)
        | none =>
          let set (v : Bool) : Walker := { w with flags := w.flags.set p.flag.val (some v) }
          let r := run (set p.sense) out
          ((set (!p.sense)).at_ (w.node.idx + 1) :: r.1, r.2)

/-- All paths of a work list; none when they do not end. -/
def Image.walk (i : Image) (g : Grade) (thru : Bool) : Nat → List Walker → Found → Option Found
  | 0, _, _ => none
  | _ + 1, [], out => some out
  | k + 1, w :: ws, out =>
    let r := i.advance g thru w out
    i.walk g thru k (r.1 ++ ws) r.2

/-! ## The image's steps -/

/-- Enough instructions for every loop nest that eight counters bound. -/
def walkFuel : Nat := 2 ^ 512

/-- What every step of an image does, each from its first instruction with what holds there on all paths. -/
def Image.steps (i : Image) (g : Grade) (all : List VNode) : Option Found :=
  let first (n : VNode) : Bool := n.idx == i.entry / 16 || (decide (0 < n.idx) && (match i.insn (n.idx - 1) with
    | some (.stepI ..) => true
    | _ => false))
  i.walk g false walkFuel ((all.filter fun n => first n && n.stack.isEmpty).map fun n => { node := n, first := n.idx }) {}

/-- The largest sum of step estimates of a path from the entry to END, where every step is bounded (R376). -/
def Image.wholeRun (i : Image) (g : Grade) : Option Nat :=
  match i.walk g true walkFuel [{ node := i.start, first := i.entry / 16 }] {} with
  | some f => if f.sized then some f.total else none
  | none => none

end Sys2Proof.Machine
end

