-- ==== Sys2Proof/Machine/Verify.lean ====
section
/-!
DEFINITION. The load-time verifier (R131, R153, R154, R190 to R193): header, encoding, control flow, and what the paths of the
image show broken from constants and static loop bounds (log entry 58).
-/
namespace Sys2Proof.Machine

/-! ## Header (check 0x01, R131) -/

/-- An area lies wholly inside the image. -/
def Image.holds (i : Image) (off len : Nat) : Bool := decide (off + len ≤ i.total)

/-- The header breaks no rule of R131. -/
def Image.headerOk (i : Image) : Bool :=
  let q := i.num 52 12
  decide (64 ≤ i.total ∧ i.total ≤ 16777216)
    && decide (i.h32 0 = 0x554E454A) && decide (i.num 4 2 = 1) && decide (bitsOf (i.num 6 2) 15 2 = 0)
    && decide (i.codeOff % 16 = 0 ∧ i.codeLen % 16 = 0 ∧ i.codeLen ≤ 4194304)
    && decide (i.planOff % 64 = 0 ∧ i.planLen % 64 = 0) && decide (1 ≤ i.claimN ∧ i.claimOff % 16 = 0)
    && decide (i.entry % 16 = 0 ∧ i.entry < i.codeLen)
    && i.holds i.codeOff i.codeLen && i.holds i.planOff i.planLen && i.holds i.constOff i.constLen
    && i.holds i.claimOff (16 * i.claimN)
    && (if i.quire then decide (bitsOf q 95 59 = 0) else decide (q = 0))

/-! ## The code area as instructions (check 0x02) -/

/-- The offset of DLD lies inside the constant area (R200). -/
def Image.encOk (i : Image) : Instr → Bool
  | .dld _ _ _ imm => decide (imm.toNat + 64 ≤ i.constLen)
  | _ => true

/-- Check 0x02 over every word of the code area. -/
def Image.badWord (i : Image) : Option Nat :=
  ((upto (i.codeLen / 16)).find? fun n => match i.insn n with
    | some x => !(i.encOk x)
    | none => true).map (16 * ·)

/-! ## Control flow (check 0x03) -/

/-- A branch or call that leaves the code area or is not aligned (R190). -/
def Image.badTarget (i : Image) (n : Nat) (t : W32) : Bool :=
  match branchTo n t with
  | some k => decide (i.codeLen ≤ 16 * k)
  | none => true

/-- A point breaks R190 or R191, or runs past the last instruction. -/
def Image.badFlow (i : Image) (n : VNode) : Bool :=
  let last := decide (i.codeLen ≤ 16 * (n.idx + 1))
  match i.insn n.idx with
  | none => true
  | some x => match x with
    | .br _ p t => i.badTarget n.idx t || (p.pen && last)
    | .call _ _ t => i.badTarget n.idx t || last || decide (8 ≤ n.stack.length)
    | .ret _ p => p.pen && last
    | .blc _ _ _ t => i.badTarget n.idx t || last
    | .jend _ => !n.stack.isEmpty
    | .stepI _ _ => !n.stack.isEmpty || last
    | _ => last

/-- Edges of a loop that R193 does not accept: those without a STEP, and without a back edge that is a BLC whose counter is
statically bounded on every path. -/
def Image.loopEdges (i : Image) (all : List VNode) (n : VNode) : List VNode :=
  match i.insn n.idx with
  | some (.stepI ..) => []
  | some (.blc _ _ lc _) =>
    let bounded := (all.filter fun m => m.idx == n.idx).all fun m => ((m.facts.lcs[lc.val]?).getD none).isSome
    if bounded then (i.succs n).filter fun m => decide (n.idx < m.idx) else i.succs n
  | _ => i.succs n

/-- Points that lie on or lead into a cycle of such edges. -/
def Image.prune (i : Image) (all : List VNode) : Nat → List VNode → List VNode
  | 0, l => l
  | k + 1, l =>
    let l' := l.filter fun n => (i.loopEdges all n).any fun m => l.any m.same
    if l'.length = l.length then l else i.prune all k l'

/-- Check 0x03: the first point that breaks it. -/
def Image.badPath (i : Image) (all : List VNode) : Option Nat :=
  match all.find? i.badFlow with
  | some n => some (16 * n.idx)
  | none => ((i.prune all all.length all).find? fun n => (i.loopEdges all n).any fun m => decide (m.idx ≤ n.idx)).map fun n => 16 * n.idx

/-! ## Plans, claims, lists and Quire (checks 0x06, 0x0B to 0x0E) -/

/-- The plan record breaks no rule of R160 to R163 that the record itself shows. -/
def planOk (r : Nat) : Bool :=
  let c := bitsOf r 59 56
  let t := bitsOf r 63 60
  let fixed := if planMode r = 0 then 4 else 5
  decide (planMode r < 2 ∧ planFeed r < 3) && decide (bitsOf r 7 4 = 0 ∧ bitsOf r 511 129 = 0)
    && decide (1 ≤ planD r ∧ planD r ≤ 80 ∧ 1 ≤ planKt r ∧ planKt r ≤ 60)
    && decide (c = fixed ∧ t = fixed) && decide (bitsOf r 67 64 < 8 ∧ bitsOf r 71 68 < 8)
    && decide (planMode r = 1 ∨ bitsOf r 111 88 = 0)

/-- An order whose innermost loop is k (R163). -/
def kInner (c : Nat) : Bool := c == 0 || c == 2 || c == 6 || c == 7

/-- The length of K that an operand's window shows. -/
def VAbs.lenK (f : VAbs) (a : EArgs) : Option Nat :=
  match f.window a.ta true with
  | some x => some (x.w 0)
  | none => (f.window a.tb true).map fun x => x.w 0

/-- Check 0x06 at a point (R160 to R163, R211, R213, R214, R216, R294). Where a plan divides K into more than one part, both
orders must have k innermost: the model's reading, since R163 speaks of either level (log entry 137). -/
def Image.badPlan (i : Image) (n : VNode) : Bool :=
  match i.insn n.idx with
  | some (.imp _ _ a) =>
    let r := i.planAt a.recOff
    decide (i.planLen < a.recOff.toNat + 64) || !(planOk r) || (decide (a.rn = 0) != decide (planList r = 0))
      || (decide (planFeed r ≠ 0) && a.tc != 0)
      || (match n.facts.lenK a with
        | some k => decide (planD r * planKt r < cdiv k 64) && !(kInner (planCs r) && kInner (planT1 r))
        | none => false)
  | some (.platenDec _ _ a) => decide (i.constLen < a.recOff.toNat + 64) || !(decOk (i.recAt a.recOff))
  | some x => (match engOf x with
    | some (a, true, _) => decide (i.constLen < a.recOff.toNat + 64)
    | _ => false)
  | none => false

/-- The claim in force at a point. -/
def Image.claimAt (i : Image) (n : VNode) : Nat := i.claim n.claim

/-- The descriptor registers of the windows that an instruction writes. -/
def Image.writes (i : Image) (x : Instr) : List (Fin 32) :=
  match x with
  | .move _ _ td _ _ | .cvt _ _ td _ _ _ => [td]
  | .imp _ _ a => if planFeed (i.planAt a.recOff) = 0 then [a.tc] else []
  | x => match engOf x with
    | some (a, _, _) => if a.tc = 0 then [] else [a.tc]
    | none => []

/-- The tier of a page of a Quire window (R170). -/
def quireTier (p : Nat) : Option Tier :=
  if p < 0x1000 then some .t0
  else if 0x100000 ≤ p ∧ p < 0x200000 then some .t1
  else if 0x200000 ≤ p ∧ p < 0x400000 then some .t2
  else none

/-- Pages of a tier that a claim names. -/
def claimOf (c : Nat) : Tier → Nat
  | .t0 => claimT0 c
  | .t1 => claimT1 c
  | .t2 => claimT2 c
  | .t3 => 0

/-- A tier that the claim leaves out (R152): the image itself shows the tier of a window only in Quire mode, by its address. -/
def Image.leftTier (i : Image) (n : VNode) (x : Instr) : Bool :=
  let pages (t : Fin 32) : List Nat := match n.facts.get t with
    | some d => (match dinfo d with | .ok w => w.pages | .error _ => [])
    | none => []
  let out (t : Tier) : Bool := decide (claimOf (i.claimAt n) t = 0)
  i.quire && (((i.writes x).flatMap pages).any (fun p => (quireTier p).any out)
    || ((i.uses x).flatMap pages).any fun p => quireTier p == some .t0 && out .t0)

/-- Check 0x0C at a point (R152, R220, R226). -/
def Image.badClaim (i : Image) (n : VNode) : Bool :=
  let has (g : Engine) : Bool := (claimEngines (i.claimAt n)).contains g
  match i.insn n.idx with
  | none => false
  | some x => i.leftTier n x || (match x with
    | .imp .. => !(has .fabric)
    | .stepI _ c => decide (i.claimN ≤ c.toNat)
    | .platenDec _ _ a =>
      !(has .platen) || (match (if a.rn = 0 then some a.imm32.toNat else (n.facts.reg a.rn).map BitVec.toNat) with
        | some k => decide (claimPipes (i.claimAt n) < k)
        | none => false)
    | x => match engOf x with
      | some (_, _, g) => !(has g)
      | none => false)

/-- A claim record holds a number that R152 or R231 rules out. -/
def Image.badClaims (i : Image) : Bool :=
  (upto i.claimN).any fun n => decide (3072 < claimT0 (i.claim n)) || decide (64 < claimPipes (i.claim n))

/-- Check 0x0D at a point. -/
def Image.badList (i : Image) (n : VNode) : Bool :=
  match i.insn n.idx with
  | some (.imp _ _ a) => decide (65536 < planList (i.planAt a.recOff))
  | _ => false

/-- Window sizes above the largest of R170. -/
def Image.badWindows (i : Image) : Bool :=
  let q := i.qw
  i.quire && (decide (3072 < q.1) || decide (1048576 < q.2.1) || decide (2097152 < q.2.2))

/-- Check 0x0E at a point (R173, R228): an operand whose pieces the image does not show to be 1 is another use. -/
def Image.badQuire (i : Image) (n : VNode) : Bool :=
  i.quire && (match i.insn n.idx with
    | some (.imp _ _ a) =>
      let r := i.planAt a.recOff
      decide (planMode r ≠ 1) || decide (5 < planCs r) || decide (5 < planT1 r) || decide (4096 < planList r)
        || [a.ta, a.tb].any fun t => (n.facts.desc t).field .pieces 0 != some 1
    | some (.platenDec ..) | some (.galleyScan ..) => true
    | _ => false)

/-! ## Descriptors (checks 0x07, 0x09, 0x0B, 0x0F) -/

/-- Bytes of one resident chunk (R166). -/
def chunkBytes (f : Fmt) (pieces : Nat) : Nat :=
  if f.isWide then 3200 * pieces
  else if f.bits = 4 then (if f = .int4 then 2304 else 2176) else (if f = .int6 then 3328 else 3200)

/-- The known format of a descriptor. -/
def VDesc.fmt (d : VDesc) : Option Fmt := (d.field .fmt 0).bind Fmt.ofCode

/-- The resident operand does not fit in the operand store (R166). -/
def storeFull (r : Nat) (d : VDesc) : Bool :=
  match d.fmt with
  | some f => decide (Config.storeBytes < planKt r * chunkBytes f (((d.field .pieces 0).bind pieceCount).getD 1))
  | none => false

/-- An activation-stream plan with kt above 1 holds more than 64 vectors a panel and sweep (R166). -/
def Image.vectorsFull (_i : Image) (g : Grade) (f : VAbs) (a : EArgs) (r : Nat) : Bool :=
  decide (planMode r = 1 ∧ 1 < planKt r) && (decide (1 < planAm r) || (decide (planAm r = 0) &&
    (match f.window a.ta true with
      | some x => decide (64 < cdiv (x.w 1) (max 1 (place r g.rows g.cols (x.w 1) 1 1).sm))
      | none => false)))

/-- Checks 0x07 (R56), 0x09 (R80) and 0x0B (R166) of an impression. -/
def Image.badImp (i : Image) (g : Grade) (code : Nat) (n : VNode) : Bool :=
  match i.insn n.idx with
  | some (.imp _ _ a) =>
    let r := i.planAt a.recOff
    let x := n.facts.desc a.ta
    let y := n.facts.desc a.tb
    let esc (d : VDesc) : Bool := d.field .esc 0 == some 1
    let wide (d : VDesc) : Bool := d.fmt.any Fmt.isWide
    if code = 0x07 then (match n.facts.lenK a with | some k => decide (2 ^ 20 < k) | none => false)
    else if code = 0x09 then (esc x && esc y) || (esc x && wide x) || (esc y && wide y)
    else storeFull r (if planMode r = 0 then x else y) || i.vectorsFull g n.facts a r
  | _ => false

/-- Two split operands with different P, both built from constants (R75, R88). -/
def VAbs.piecesDiffer (f : VAbs) (a : EArgs) : Bool :=
  match f.get a.ta, f.get a.tb with
  | some x, some y => (match dinfo x, dinfo y with
    | .ok p, .ok q => p.fmt.isWide && q.fmt.isWide && decide (p.pieces ≠ q.pieces)
    | _, _ => false)
  | _, _ => false

/-- Check 0x0F (R143) at a point. R153 names no code for the format faults that a load finds (R88, R139): a reserved format, rounding
or pieces code, and split operands with different P, are reported under 0x0F, the model's choice (log entry 136). -/
def Image.badDesc (i : Image) (n : VNode) : Bool :=
  match i.insn n.idx with
  | none => false
  | some x =>
    let (ops, diff) := match x with
      | .imp _ _ a => ([a.ta, a.tb], n.facts.piecesDiffer a)
      | _ => ([], false)
    let named (t : Fin 32) : Bool := match engOf x with
      | some (a, _, _) => !([a.ta, a.tb, a.tc].contains t)
      | none => false
    diff || (i.uses x).any fun t => match n.facts.get t with
      | some d => !(named t && decide (d = 0)) && (match dcheck d (ops.contains t) with | .ok _ => false | .error _ => true)
      | none => false

/-! ## The verdict (R153, R154) -/

/-- The offset of the first point that breaks a check. -/
def firstBad (all : List VNode) (bad : VNode → Bool) : Option Nat := (all.find? bad).map fun n => 16 * n.idx

/-- Check 0x04: the first step whose estimate is above the budget. R154 names the instruction that failed; the model takes the step's
first one (log entry 138). -/
def Found.overBudget (f : Found) (budgetUs : Nat) : Option Nat :=
  ((sortBy (fun (a b : Nat × Nat) => decide (a.1 < b.1)) f.ests).find? fun e => decide (budgetUs * 1000 < e.2)).map fun e => 16 * e.1

/-- The first check that fails, with DW1 of R154: 0xFFFF_FFFF where it concerns the whole image. -/
def Image.verify (i : Image) (g : Grade) (budgetUs : Nat) : Option (Nat × Nat) :=
  if !i.headerOk then some (0x01, 0xFFFFFFFF)
  else match i.badWord with
    | some o => some (0x02, o)
    | none =>
      let all := i.reached
      match i.badPath all with
      | some o => some (0x03, o)
      | none =>
        match i.steps g all with
        | none => some (0x04, i.entry)
        | some f =>
          let checks : List (Nat × Option Nat) :=
            [ (0x04, f.overBudget budgetUs)
            , (0x05, assocGet 0x05 f.bad)
            , (0x06, firstBad all i.badPlan)
            , (0x07, firstBad all (i.badImp g 0x07))
            , (0x08, assocGet 0x08 f.bad)
            , (0x09, firstBad all (i.badImp g 0x09))
            , (0x0A, assocGet 0x0A f.bad)
            , (0x0B, firstBad all (i.badImp g 0x0B))
            , (0x0C, if i.badClaims then some 0xFFFFFFFF else firstBad all i.badClaim)
            , (0x0D, firstBad all i.badList)
            , (0x0E, if i.badWindows then some 0xFFFFFFFF else firstBad all i.badQuire)
            , (0x0F, firstBad all i.badDesc) ]
          checks.findSome? fun c => c.2.map fun o => (c.1, o)

/-- The estimates of an image's steps, each with the offset of its first instruction, in ns (R155, R157). -/
def Image.stepTimes (i : Image) (g : Grade) : List (Nat × Nat) :=
  match i.steps g i.reached with
  | some f => f.ests.map fun e => (16 * e.1, e.2)
  | none => []

end Sys2Proof.Machine
end

