-- ==== Sys2Proof/Machine/Slm.lean ====
section
/-!
DEFINITION. Subsystem Local Memory (R410, R488), allocations and tier requests of hosts (R237 to R243, R429, R430), and
reads of a context's memory by the host DMA.
-/
namespace Sys2Proof.Machine

/-! ## A context's memory (R248, R410) -/

/-- The pages of a byte range. -/
def pagesIn (va n : Nat) : List Nat := if n = 0 then [] else (upto ((va + n - 1) / 65536 - va / 65536 + 1)).map (va / 65536 + ·)

/-- One byte of a context's memory. -/
def State.ctxByte (s : State) (c : Fin 64) (va : Nat) : Byte :=
  match s.pageAt c (va / 65536) with
  | .mem a i _ _ => memGet s.tiers.mem (byteKey a i (va % 65536))
  | .ns nsid lba _ _ => blkByte (s.blk nsid (lba + va % 65536 / 4096)).data (va % 4096)
  | .missing => 0

/-- A page lies in an allocation that has not been freed; may it be read, written. -/
def State.slmPage (s : State) (c : Fin 64) (p : Nat) : Option (Bool × Bool) :=
  match s.pageAt c p with
  | .mem a _ r w => if a.freed then none else some (r, w)
  | _ => none

/-- Read n bytes of a context's memory; the address of the first page that cannot be read otherwise. -/
def State.ctxRead (s : State) (c : Fin 64) (va n : Nat) : Except Nat (List Byte) :=
  match (pagesIn va n).find? fun p => match s.slmPage c p with | some (true, _) => false | _ => true with
  | some p => .error (max va (p * 65536))
  | none => .ok ((upto n).map fun k => s.ctxByte c (va + k))

/-- Poisoned words lie in a range of a context's memory. -/
def State.ctxPoison (s : State) (c : Fin 64) (va n : Nat) : Bool :=
  s.tiers.poison.any fun w => (pagesIn va n).any fun p => match s.pageAt c p with
    | .mem a i _ _ =>
      let lo := byteKey a i (if p = va / 65536 then va % 65536 else 0)
      let hi := byteKey a i (if p = (va + n - 1) / 65536 then (va + n - 1) % 65536 else 65535)
      decide (lo < 64 * w + 64) && decide (64 * w ≤ hi)
    | _ => false

/-- Pages of a range are used now. -/
def State.ctxTouch (s : State) (c : Fin 64) (va n : Nat) : State :=
  (pagesIn va n).foldl (fun s p => match s.pageAt c p with
    | .mem a i _ _ => s.touch a.id i
    | _ => s) s

/-- Pages of a range that have been read completely may be Streamed ones (R238). -/
def State.ctxStreamed (s : State) (c : Fin 64) (va n : Nat) : State :=
  ((pagesIn va n).filter fun p => decide (va ≤ 65536 * p ∧ 65536 * p + 65536 ≤ va + n)).foldl (fun s p => match s.pageAt c p with
    | .mem a i _ _ => s.demoteStreamed a [i]
    | _ => s) s

/-- Write bytes to a context's memory: zero-on-demand pages get their frame, and a 64-byte word written whole is
no longer poisoned (R256, R544). -/
def State.ctxWrite (s : State) (c : Fin 64) (va : Nat) (bs : List Byte) : State :=
  let s := (pagesIn va bs.length).foldl (fun s p => match s.pageAt c p with
    | .mem a i _ _ => if (a.page i).zod then s.mapZero a i (a.page i).tier else s
    | _ => s) s
  let key (k : Nat) : Option Nat := match s.pageAt c ((va + k) / 65536) with
    | .mem a i _ _ => some (byteKey a i ((va + k) % 65536))
    | _ => none
  let items : List (Nat × Byte) := bs.zipIdx.filterMap fun b => (key b.2).map fun k => (k, b.1)
  let mem := items.foldl (fun m b => memPut m b.1 b.2) s.tiers.mem
  let poison := s.tiers.poison.filter fun w => decide (items.countP (fun b => decide (b.1 / 64 = w)) < 64)
  ({ s with tiers := { s.tiers with mem, poison } }).ctxTouch c va bs.length

/-! ## Memory Read and Memory Write (R410, R437, R488) -/

/-- The connection that carries a command's queue. -/
def Conn.carries (c : Conn) (h : Hdr) : Bool :=
  match c.cntlid with
  | some k => h.path == .ctrl k && decide (c.qid = h.sq)
  | none => false

/-- The port whose DMA carries a command's data. -/
def State.dmaPort (s : State) (h : Hdr) : Fin 4 := ((s.host.conns.find? fun c => c.carries h).map (·.port)).getD 0

/-- The first page of a range whose access by the host DMA raises a translation fault that firmware can answer: it has no frame
yet, or its switch is under way (R253). -/
def State.ctxFault (s : State) (c : Fin 64) (va n : Nat) (wr : Bool) : Option Nat :=
  (pagesIn va n).find? fun p => match xlate (s.pageAt c p) wr with
    | .zod .. | .switching => true
    | .ok | .fault => false

/-- The host DMA stalls on a page: its fault record is queued, and the command waits (R254). A port whose channels all hold a
fault queues the record with the channel that comes free first: the model gives it that channel's number. -/
def State.hostFault (s : State) (h : Hdr) (c : Fin 64) (p : Nat) (wr : Bool) (body : Body) : State :=
  let m := Mover.host (s.dmaPort h)
  let f : FaultRec := { id := s.tiers.nextFault, ctx := c, mover := m, chan := s.freeChan m, va := p * 65536, wr, exec := 0, step := 0
                        op := 0, compEpoch := 0, at_ := s.now, host := some h }
  let s := { s with tiers := { s.tiers with faults := s.tiers.faults ++ [f], nextFault := s.tiers.nextFault + 1 } }
  s.waitFor { hdr := h, body, wait := .xlate }

/-- A Memory Read whose arguments are right (R410): each access is checked against the table in force as it is translated
(R271). -/
def State.runMemRead (s : State) (h : Hdr) (c : Fin 64) (va len : Nat) : State :=
  if (pagesIn va len).any (fun p => (s.slmPage c p).isNone) then s.badField h
  else match s.ctxRead c va len with
    | .error _ => s.denied h
    | .ok bs => match s.ctxFault c va len false with
      | some p => s.hostFault h c p false (.memRead c va len)
      | none =>
        if s.ctxPoison c va len then s.post h 2 0x81 0 0
        else (((s.ctxTouch c va len).ctxStreamed c va len).send (.c2hData h bs)).ok h

/-- MEMORY_READ (R410). -/
def execMemoryRead (h : Hdr) (addr : W64) (len : Nat) (s : State) : Out :=
  .next (s.command h fun c =>
    let va := addr.toNat
    if !s.nsReady then s.notReady h
    else if len = 0 ∨ Config.mdts < len then s.badField h
    else s.runMemRead h c va len)

/-- A Memory Write whose data has arrived: it is translated now (R271), and mirrored as a namespace write is (R488). -/
def State.runMemWrite (s : State) (h : Hdr) (c : Fin 64) (va : Nat) (bs : List Byte) : State :=
  if (pagesIn va bs.length).any (fun p => (s.slmPage c p).isNone) then s.badField h
  else if (pagesIn va bs.length).any (fun p => match s.slmPage c p with | some (_, w) => !w | none => false) then s.denied h
  else match s.ctxFault c va bs.length true with
  | some p => s.hostFault h c p true (.memWrite c va bs)
  | none =>
    let s := s.ctxWrite c va bs
    if s.paired then
      let q := s.twin.memSeq
      let u : Unacked := { group := 0, seq := q, bytes := bs.length, hdr := some h, exec := none }
      let s := s.toPeer (.memWrite q c va bs)
      let s := { s with twin := { s.twin with memSeq := q + 1, unacked := s.twin.unacked ++ [u] } }
      s.waitFor { hdr := h, body := .memWrite c va bs, wait := .mirror 0 q }
    else s.ok h

/-- MEMORY_WRITE (R389, R410, R488). -/
def execMemoryWrite (h : Hdr) (addr : W64) (data : List Byte) (s : State) : Out :=
  .next (s.command h fun c =>
    let va := addr.toNat
    if !s.nsReady then s.notReady h
    else if data = [] ∨ Config.mdts < data.length then s.badField h
    else if (pagesIn va data.length).any (fun p => (s.slmPage c p).isNone) then s.badField h
    else if (pagesIn va data.length).any (fun p => match s.slmPage c p with | some (_, w) => !w | none => false) then s.denied h
    else if Config.inCapsule < data.length then
      s.waitFor { hdr := h, body := .memWrite c va data, wait := .data, total := data.length }
    else s.runMemWrite h c va data)

/-- A command of the host DMA whose fault has been answered goes on at the page on which it stalled (R256). -/
def State.dmaResume (s : State) (h : Hdr) : State :=
  match s.host.cmds.find? (fun o => o.hdr == h && o.wait == .xlate) with
  | some o =>
    let s := { s with host := { s.host with cmds := s.host.cmds.filter fun x => !(x.hdr == h) } }
    (match o.body with
    | .memRead c va n => s.runMemRead h c va n
    | .memWrite c va bs => s.runMemWrite h c va bs
    | _ => s)
  | none => s

/-- MEMORY_RANGE_SET_MANAGEMENT (R387, R409): memory range set 0, the whole address space, is the only one there
is, so none can be created or deleted. -/
def execMemoryRangeSetManagement (h : Hdr) (_create : Bool) (s : State) : Out :=
  .next (s.command h fun _ => if !s.nsReady then s.notReady h else s.badField h)

/-! ## Allocations (R171, R237, R429) -/

/-- Make an allocation; its identifier meets the alignment that large and huge pages need (R429). -/
def State.newAlloc (s : State) (c : Fin 64) (n : Nat) (home : Tier) (pin zod large huge : Bool) : State × Nat :=
  let u := if huge then 16384 else if large then 32 else 1
  let id := (s.tiers.nextAlloc + u - 1) / u * u
  let a : Alloc := { id, ctx := c, pages := n, home, pin, zod, large, huge }
  ({ s with tiers := { s.tiers with allocs := s.tiers.allocs ++ [a], nextAlloc := id + n } }, id)

/-- What keeps a context from n more pages in a tier: its quota (true) or the tier's space (false). -/
def State.noSpace (s : State) (c : Fin 64) (t : Tier) (n : Nat) (zod : Bool) : Option Bool :=
  if !(s.inQuota c t n) then some true
  else if !zod ∧ s.freePages t < n then some false
  else none

/-- Status 0x8A's DW0 (R435). -/
def capDw (t : Tier) (quota : Bool) : W32 := BitVec.ofNat 32 (tierNo t + if quota then 4 else 0)

/-- A tier's home code (R237); the manager chooses T2 for 0b11. -/
def homeTier (n : Nat) : Tier := if n = 0 then .t1 else if n = 2 then .t0 else .t2

/-- A hint code of an allocation's flags or of a tier-hint command (R204). -/
def hintOf (n : Nat) : Option HintCode := wordHint n

/-- ALLOCATE (R237, R428, R429, R488). -/
def execAllocate (h : Hdr) (size : Nat) (flags : W32) (s : State) : Out :=
  .next (s.commandAny h fun c =>
    let f := flags.toNat
    let n := size / 65536
    let home := homeTier (bitsOf f 1 0)
    let zod := decide (bitsOf f 3 3 = 1)
    if size = 0 ∨ size % 65536 ≠ 0 then s.badField h
    else match hintOf (bitsOf f 8 6) with
      | none => s.laesk h 0x87 0 0xFFFFFFFF
      | some hint => match s.noSpace c home n zod with
        | some q => s.laesk h 0x8A (capDw home q) 0
        | none =>
          let r := s.newAlloc c n home (decide (bitsOf f 2 2 = 1)) zod (decide (bitsOf f 4 4 = 1)) (decide (bitsOf f 5 5 = 1))
          let s := match r.1.alloc? r.2 with
            | some a => if hint = HintCode.clear then r.1 else r.1.setHint a (upto n) hint (.host c)
            | none => r.1
          s.okAfterEpoch h .other (BitVec.ofNat 32 r.2) (BitVec.ofNat 32 (r.2 / 2 ^ 32)))

/-- An allocation is no longer usable; its frames stay until the accesses translated to it have completed. -/
def State.freeAlloc (s : State) (a : Alloc) : State :=
  let s := s.modAlloc a.id fun x => { x with freed := true }
  let old : OldFrame := { mig := s.tiers.nextMig, tier := a.home, pages := 0, alloc := a.id, waits := s.reaching a.id }
  { s with tiers := { s.tiers with
      old := s.tiers.old ++ [old], nextMig := s.tiers.nextMig + 1
      migs := s.tiers.migs.filter fun m => m.alloc != a.id
      queue := s.tiers.queue.filter fun m => m.alloc != a.id
      deferred := s.tiers.deferred.filter fun d => d.alloc != a.id
      hints := s.tiers.hints.filter fun x => x.alloc != a.id } }

/-- FREE (R242, R430, R488): the allocation is no longer usable; its frames are freed when the accesses translated
to it have completed (OLD_FRAME_FREE). -/
def execFree (h : Hdr) (alloc : Nat) (s : State) : Out :=
  .next (s.commandAny h fun c =>
    match s.alloc? alloc with
    | none => s.badField h
    | some a =>
      if a.ctx ≠ c ∨ a.freed then s.badField h
      else ((s.freeAlloc a).evictsDone).okAfterEpoch h .other 0 0)

/-- The pages that a tier request names: 0 pages means to the end. -/
def Alloc.range (a : Alloc) (first pages : Nat) : List Nat :=
  (upto (if pages = 0 then a.pages - first else pages)).map (first + ·)

/-- A tier request on an allocation of the context, or one that a window grant lets it reach, as the example of R247 has it
(log entry 149). -/
def State.tierReq (s : State) (h : Hdr) (alloc first pages : Nat) (f : Fin 64 → Alloc → State) : State :=
  s.commandAny h fun c =>
    match s.alloc? alloc with
    | none => s.badField h
    | some a =>
      if (a.ctx ≠ c ∧ s.grantOf c a = (false, false)) ∨ a.freed ∨ a.pages ≤ first ∨ a.pages < first + pages then s.badField h
      else f c a

/-- TIER_HINT (R238, R428). -/
def execTierHint (h : Hdr) (alloc first pages code : Nat) (s : State) : Out :=
  .next (s.tierReq h alloc first pages fun c a =>
    match hintOf code with
    | none => s.badField h
    | some k => (s.setHint a (a.range first pages) k (.host c)).okAfterEpoch h .other 0 0)

/-- TIER_EVICT (R241 to R243, R430): to T1, T2 or T3. -/
def execTierEvict (h : Hdr) (alloc first pages code : Nat) (s : State) : Out :=
  .next (s.tierReq h alloc first pages fun _ a =>
    match wordTier code with
    | none | some .t0 => s.badField h
    | some t =>
      let r := s.evict a (a.range first pages) t none (some h) none
      if 0 < r.2 then r.1.laesk h 0x8B (BitVec.ofNat 32 r.2) 0
      else if (r.1.tiers.migs ++ r.1.tiers.queue).any (fun m => m.host == some h) then
        r.1.waitFor { hdr := h, body := .evictWait s.tiers.nextMig, wait := .evict }
      else r.1.ok h)

end Sys2Proof.Machine
end

