-- ==== Sys2Proof/Machine/Jobs.lean ====
section
/-!
DEFINITION. Admission of jobs (R157, R374 to R378, R382, R421): estimates, the projection in earliest-deadline order,
and the limits.
-/
namespace Sys2Proof.Machine

/-! ## Estimates (R376) -/

/-- The estimate of an execution of an image with an s2, in ns. -/
def State.estimateOf (s : State) (i : Image) (s2 : Nat) : Nat :=
  match i.sum with
  | some n => n
  | none =>
    let rs := (s.sched.runTimes.filter fun r => decide (r.1 = i.prog) && decide (r.2.1 = s2)).map (·.2.2)
    if rs = [] then i.estimate else rs.sum / rs.length

/-- The pipe time of an object (R282, R376): what its format asks once its data is here, none once it is decoded; before its data
has arrived the format is not known, and a free value stands for it. -/
def ObjCmd.pipeTime (o : ObjCmd) (bytes : Nat) : Nat :=
  match o.stage with
  | .arriving => Config.pipeTime o.kind bytes
  | .accepted | .stored => (decodeEntry o.bytes o.entry (Config.ingestRecord o.kind)).runs.sum
  | .decoded | .embedded | .appended => 0

/-- The estimate of an object command: its pipe time and one encoder step. -/
def objEstimate (i : Image) (o : ObjCmd) (bytes : Nat) : Nat := o.pipeTime bytes + i.estimate

/-! ## The projection (R377) -/

/-- What the projection serves one load at a time: the fabric, each engine, the flash (R377). -/
inductive Server where
  | engine (g : Engine)
  | flash
  deriving DecidableEq, Repr, Inhabited

/-- Work that the projection serves as one: an execution, a gang (R365), or an object command. jobs are the
deadlines of its jobs, dl the earliest of them. -/
structure Load where
  ids : List Nat
  obj : Option Hdr := none
  jobs : List Nat
  work : Nat
  res : List Server
  deriving DecidableEq, Repr, Inhabited

/-- The deadline that orders a load; none comes last. -/
def Load.dl (l : Load) : Option Nat := (l.jobs.filter (· != 0)).min?

/-- The number under which a load's first execution arrived. -/
def Load.first (l : Load) : Nat := (l.ids.min?).getD 0

/-- Order of service (R23, R375): by deadline; those without one come last, in order of arrival. -/
def Load.sooner (a b : Load) : Bool :=
  match a.dl, b.dl with
  | some x, some y => decide (x < y)
  | some _, none => true
  | none, none => decide (a.first < b.first)
  | none, some _ => false

/-- What an image asks of the projection: the engines that its claims name, and the flash where one of them is Galley or Platen,
which read stored data (log entry 61). -/
def Image.servers (i : Image) : List Server :=
  let gs := ((upto i.claimN).flatMap fun n => claimEngines (i.claim n)).dedup
  gs.map .engine ++ (if gs.contains .galley || gs.contains .platen then [.flash] else [])

/-- Servers of a program. -/
def State.serversOf (s : State) (prog : Nat) : List Server := match s.image? prog with | some i => i.servers | none => []

/-- The loads of everything admitted. -/
def State.loads (s : State) : List Load :=
  let es := s.sched.execs.filter fun e => !(e.phase == .draining)
  let solo := (es.filter fun e => e.gang.isNone).map fun e =>
    ({ ids := [e.id], jobs := if e.ingest then [] else [e.deadline], work := e.workLeft, res := s.serversOf e.image } : Load)
  let gangs := s.sched.gangs.map fun g =>
    let ms := es.filter fun e => e.gang == some g.id
    ({ ids := ms.map (·.id), jobs := ms.map (·.deadline), work := (ms.map Exec.workLeft).foldl max 0, res := s.serversOf g.image } : Load)
  let objs := es.flatMap fun e => e.objs.map fun o =>
    ({ ids := [e.id], obj := some o.hdr, jobs := [o.deadline]
       work := (match s.image? e.image with | some i => objEstimate i o o.bytes.length | none => 0), res := s.serversOf e.image } : Load)
  solo ++ (gangs.filter fun l => l.ids != []) ++ objs

/-- The projection so far: when each server and each compositor is free, and the finish of each load. -/
structure Projection where
  free : List (Server × Nat) := []
  comps : List Nat
  done : List (Load × Nat) := []
  deriving DecidableEq, Repr

/-- Serve one load: it starts when all that it asks for is free at once, a compositor among it (R23). An object command runs in the
compositor of its ingest execution. -/
def Projection.serve (p : Projection) (now : Nat) (l : Load) : Projection :=
  let ready := l.res.map fun g => ((p.free.find? fun f => f.1 == g).map (·.2)).getD now
  let comp := if l.obj.isSome then now else (p.comps.min?).getD now
  let fin := (ready.foldl max (max now comp)) + l.work
  { free := l.res.map (fun g => (g, fin)) ++ p.free.filter fun f => !l.res.contains f.1
    comps := if l.obj.isSome then p.comps else (p.comps.erase comp) ++ [fin]
    done := p.done ++ [(l, fin)] }

/-- Serve loads in order; the result is each load's projected finish. -/
def project (now : Nat) (ls : List Load) : List (Load × Nat) :=
  ((sortBy Load.sooner ls).foldl (fun (p : Projection) l => p.serve now l) { comps := List.replicate 16 now }).done

/-- The finish of the load that is or contains another. -/
def finishOf (ps : List (Load × Nat)) (l : Load) : Nat :=
  match ps.find? (fun p => p.1.obj == l.obj && l.ids.all p.1.ids.contains) with
  | some p => p.2
  | none => 0

/-- The verdict of R377: refused with DW0 and DW1, or admitted. old are the loads of the admitted jobs, all those
and the new one, new the load that holds the new job, work its estimate alone. -/
def feasible (now dl work : Nat) (old all : List Load) (new : Load) : Option (W32 × W32) :=
  if dl = 0 then none
  else
    let before := project now old
    let after := project now all
    let own := finishOf after new
    let pushed := before.flatMap fun p => p.1.jobs.filterMap fun d =>
      if d ≠ 0 ∧ p.2 ≤ d ∧ d < finishOf after p.1 then some (finishOf after p.1 - d) else none
    let ideal := decide (dl < now + work)
    if own ≤ dl ∧ pushed = [] ∧ !ideal then none
    else
      let excess := if ideal then now + work - dl else if dl < own then own - dl else pushed.foldl max 0
      some ((if ideal then 2#32 else 0#32) ||| (if pushed = [] then 0#32 else 4#32), BitVec.ofNat 32 (min 0xFFFFFFFF (excess / 1000)))

/-! ## Limits (R378, R421) -/

/-- Executions of a context that are admitted; the partner's copies count on the partner (R512). -/
def State.admitted (s : State) (c : Fin 64) : Nat := s.sched.execs.countP fun e => e.ctx == c && !e.copy

/-- The reason of R378 for which an execution is refused; a second meld of an index is one (R319). -/
def State.overload (s : State) (c : Fin 64) (meldOf : Option Nat) : Option Nat :=
  if (match s.maxExec c with | some m => decide (m ≤ s.admitted c) | none => false) then some 1
  else if Config.maxExecs ≤ s.sched.execs.length then some 2
  else if (match meldOf with | some n => s.sched.execs.any (fun e => e.meld && e.index == some n) | none => false) then some 4
  else if !(s.enabled c) then some 5
  else none

/-- The timebase has not locked since start-up and the job has a deadline (R421). -/
def State.noTime (s : State) (dl : Nat) : Bool := decide (dl ≠ 0) && !s.ptp.ever

/-- Refuse a job: it is counted, and its completion carries the status (R382, R384). -/
def State.refuseJob (s : State) (h : Hdr) (c : Fin 64) (sc : Nat) (dw0 dw1 : W32) : State :=
  let s := if sc = 0x80 then { s with sched := { s.sched with refusedInf := satAdd 65535 s.sched.refusedInf 1 } }
    else if sc = 0x81 then { s with sched := { s.sched with refusedOvl := satAdd 65535 s.sched.refusedOvl 1 } }
    else s
  s.jobDone h c 0 (.refused sc dw0 dw1)

end Sys2Proof.Machine
end

