-- ==== Sys2Proof/Machine/Programs.lean ====
section
/-!
DEFINITION. The Computational Programs commands (R132 to R134, R157, R171, R349, R353 to R355, R374 to R378, R407 to
R409, R421, R511, R512) and Ingest Object (R304, R402, R411 to R413).
-/
namespace Sys2Proof.Machine

/-! ## Load Program (R407, R408) -/

/-- Bytes received of all images. -/
def State.imageBytes (s : State) : Nat := (s.sched.images.map (·.received)).sum

/-- Discard an image. -/
def State.dropImage (s : State) (prog : Nat) : State :=
  { s with sched := { s.sched with images := s.sched.images.filter fun i => i.prog != prog } }

/-- A piece that has arrived: its bytes are placed, and the piece with the last byte has the image verified. -/
def State.runLoad (s : State) (h : Hdr) (prog off total : Nat) (data : List Byte) : State :=
  match s.image? prog with
  | none => s.badSeq h
  | some i =>
    let bytes := data.zipIdx.foldl (fun m b => assocPut (off + b.2) b.1 m) i.bytes
    let i := { i with bytes, received := i.received + data.length }
    let s := { s with sched := { s.sched with images := mapWhere (fun x => x.prog == prog) (fun _ => i) s.sched.images } }
    if off + data.length = total then
      match i.verify s.ident.grade s.sched.budget with
      | some (code, at_) => (s.dropImage prog).laesk h 0x87 (BitVec.ofNat 32 code) (BitVec.ofNat 32 at_)
      | none =>
        let ts := i.stepTimes s.ident.grade
        let i : Image :=
          { i with verified := true, times := ts, estimate := (ts.map (·.2)).foldl max 0, sum := i.wholeRun s.ident.grade }
        let s := { s with sched := { s.sched with images := mapWhere (fun x => x.prog == prog) (fun _ => i) s.sched.images } }
        s.okAfterEpoch h .other 0 0
    else s.okAfterEpoch h .other 0 0

/-- LOAD_PROGRAM (R130, R153, R154, R407, R493). -/
def execLoadProgram (h : Hdr) (prog off total : Nat) (data : List Byte) (s : State) : Out :=
  .next (s.command h fun c =>
    let old := s.image? prog
    if !s.nsReady then s.notReady h
    else if (match old with | some i => i.verified || decide (i.owner ≠ c) || decide (i.total ≠ total) | none => false) then s.badSeq h
    else if Config.mdts < data.length ∨ data = [] ∨ total < off + data.length then s.badField h
    else if 16777216 < off + data.length then (s.dropImage prog).laesk h 0x87 1 0xFFFFFFFF
    else if old.isNone ∧ 1024 ≤ s.sched.images.length then s.laesk h 0x8A 0xA 0
    else if 4294967296 < s.imageBytes + data.length then (s.dropImage prog).laesk h 0x8A 2 0
    else
      let i : Image := { prog, owner := c, total }
      let s := if old.isNone then { s with sched := { s.sched with images := s.sched.images ++ [i] } } else s
      if Config.inCapsule < data.length then
        s.waitFor { hdr := h, body := .load prog off total data, wait := .data, total := data.length }
      else s.runLoad h prog off total data)

/-- PROGRAM_ACTIVATION_MANAGEMENT (R408): sel 0 deactivates, 1 activates, 2 unloads. -/
def execProgramActivationManagement (h : Hdr) (prog : Nat) (sel : Nat) (s : State) : Out :=
  .next (s.command h fun c =>
    if !s.nsReady then s.notReady h
    else match s.image? prog with
      | none => s.badField h
      | some i =>
        if c ≠ 0 ∧ i.owner ≠ c then s.denied h
        else if sel = 2 then
          if s.sched.execs.any (fun e => decide (e.image = prog)) then s.badSeq h else (s.dropImage prog).okAfterEpoch h .other 0 0
        else if 2 < sel then s.badField h
        else
          let images := mapWhere (fun x => x.prog == prog) (fun x => { x with active := decide (sel = 1) }) s.sched.images
          ({ s with sched := { s.sched with images := images } }).okAfterEpoch h .other 0 0)

/-! ## Execute Program: the execution header (R133) -/

/-- Eight bytes of the parameter data. -/
def param64 (ps : List Byte) (off : Nat) : W64 := bytesToBits 64 ((ps.drop off).take 8)

/-- The number of arguments. -/
def argc (ps : List Byte) : Nat := (ps.getD 8 0).toNat

/-- The sixteen argument registers: arguments beyond argc load as 0. -/
def argsOf (ps : List Byte) : List W64 := (upto 16).map fun k => if k < argc ps then param64 ps (16 + 8 * k) else 0

/-- Register k of an argument list: s1 is the first. -/
def argN (as : List W64) (k : Nat) : Nat := ((as[k - 1]?).getD 0).toNat

/-- The scalar registers at the start of an execution (R134). -/
def startRegs (as : List W64) (c : Fin 64) (id dl : Nat) : Vector W64 64 :=
  let v := (as.zipIdx).foldl (fun v a => vset v (a.2 + 1) a.1) (Vector.replicate 64 0#64)
  vset (vset (vset v 61 (BitVec.ofNat 64 c.val)) 62 (BitVec.ofNat 64 id)) 63 (BitVec.ofNat 64 dl)

/-! ## Library arguments (R349, R355, R357) -/

/-- A sequence record keeps R354. -/
def seqOk (r : Nat) : Bool :=
  let len := bitsOf r 95 64
  let mx := bitsOf r 127 96
  let temp := bitsOf r 287 256
  let topP := bitsOf r 319 288
  decide (len ≤ mx ∧ 1 ≤ mx ∧ mx ≤ 131072) && decide (bitsOf r 191 160 = 0 ∧ bitsOf r 511 335 = 0)
    && decide (bitsOf r 255 192 % 65536 = 0 ∧ temp < 0x7F800000)
    && decide (1 ≤ topP ∧ topP ≤ 0x3F800000) && decide (bitsOf r 334 320 ≤ 16384)

/-- Why a library program's arguments are refused: a status with DW0 and DW1. -/
abbrev ArgFault := Nat × W32 × W32

/-- An argument outside its range. -/
def badArg : ArgFault := (0x87, 0x10, 0xFFFFFFFF)

/-- An access that is refused (R256, R435). -/
def badAddr (va : Nat) : ArgFault := (0x86, BitVec.ofNat 32 (bitsOf va 47 16), BitVec.ofNat 32 (0x100 + bitsOf va 55 48))

/-- The addresses of the sequence records that a round names. -/
def State.seqList (s : State) (c : Fin 64) (as : List W64) : Except ArgFault (List Nat) :=
  let n := argN as 2
  if n < 1 ∨ 4096 < n then .error badArg
  else match s.ctxRead c (argN as 1) (8 * n) with
    | .error va => .error (badAddr va)
    | .ok bs => .ok ((chunks 8 bs).map leNat)

/-- The sequence record at an address. -/
def State.seqRec (s : State) (c : Fin 64) (a : Nat) : Except ArgFault Nat :=
  match s.ctxRead c a 64 with
  | .error va => .error (badAddr va)
  | .ok bs => .ok (leNat bs)

/-- A list names an element twice. -/
def repeats : List Nat → Bool
  | [] => false
  | x :: t => t.contains x || repeats t

/-- Prompts of PREFILL, one for each sequence: a count and its tokens, padded to 8 bytes (R357). -/
def State.promptsOk (s : State) (c : Fin 64) (at_ : Nat) : List Nat → Except ArgFault Unit
  | [] => .ok ()
  | r :: t => match s.ctxRead c at_ 4 with
    | .error va => .error (badAddr va)
    | .ok bs =>
      let n := leNat bs
      if bitsOf r 127 96 < bitsOf r 95 64 + n then .error badArg
      else s.promptsOk c (at_ + (4 + 4 * n + 7) / 8 * 8) t

/-- The checks of a round or prefill before its first step; the result is the records that it names. -/
def State.roundArgs (s : State) (c : Fin 64) (as : List W64) (prefill : Bool) : Except ArgFault (List Nat) := do
  let ads ← s.seqList c as
  let recs ← ads.mapM (s.seqRec c)
  if !(recs.all seqOk) ∨ repeats ads ∨ (s.sched.execs.any fun e => e.ctx == c && ads.any e.seqs.contains) then throw badArg
  if prefill then s.promptsOk c (argN as 5) recs
  pure ads

/-- The argument ranges of the search library (R349). -/
def State.searchArgs (s : State) (c : Fin 64) (as : List W64) : Bool :=
  let root := (s.blk (argN as 1) 0).data.toNat
  let shelves := bitsOf root 95 64
  let k := argN as 4
  let p := argN as 5
  let deep := if bitsOf (argN as 12) 0 0 = 1 then 0 else argN as 6
  (s.ns? (argN as 1)).isSome && s.nsRd c (argN as 1) && Sys2Proof.Machine.isRoot (s.blk (argN as 1) 0).data
    && decide (1 ≤ argN as 3 ∧ argN as 3 ≤ 4096) && decide (1 ≤ k ∧ k ≤ 16384)
    && decide (p = 0 ∨ p ≤ min 4096 shelves) && decide (deep = 0 ∨ (k ≤ deep ∧ deep ≤ 16384))
    && decide (deep = 0 ∨ bitsOf root 36 36 = 1) && decide (1 ≤ argN as 9 ∧ argN as 9 ≤ 16)

/-- Library checks by role; the result is the sequence records. -/
def State.libraryArgs (s : State) (c : Fin 64) (r : Config.LibRole) (as : List W64) : Except ArgFault (List Nat) :=
  match r with
  | .search => if s.searchArgs c as then .ok [] else .error badArg
  | .round => s.roundArgs c as false
  | .prefill => s.roundArgs c as true
  | .plain | .ingest | .meld => .ok []

/-! ## Quire windows and the parameter page (R171, R234, R409) -/

/-- Place the windows W0 to W2 of a Quire execution, zeroed and pinned. -/
def State.quireWindows (s : State) (c : Fin 64) (e : Exec) (q : Nat × Nat × Nat) : Except (Tier × Bool) (State × Exec) :=
  [(0, Tier.t0, q.1), (0x100000, Tier.t1, q.2.1), (0x200000, Tier.t2, q.2.2)].foldlM (fun (acc : State × Exec) w =>
    if w.2.2 = 0 then .ok acc
    else match acc.1.noSpace c w.2.1 w.2.2 false with
      | some quota => .error (w.2.1, quota)
      | none =>
        let r := acc.1.newAlloc c w.2.2 w.2.1 true false false false
        .ok (r.1, { acc.2 with
          qwin := acc.2.qwin ++ [(w.1, w.2.2, r.2)]
          own := acc.2.own ++ [r.2]
          heldT0 := acc.2.heldT0 ++ (if w.2.1 = .t0 then (upto w.2.2).map (w.1 + ·) else []) })) (s, e)

/-- Put bytes into page 0 of an allocation. -/
def State.fillPage (s : State) (alloc : Nat) (bs : List Byte) : State :=
  match s.alloc? alloc with
  | some a => { s with tiers := { s.tiers with mem := memPutAll s.tiers.mem (byteKey a 0 0) bs } }
  | none => s

/-- The parameter data beyond the header goes into the first held page: window W0 of a Quire execution, otherwise a
page of the execution's own. -/
def State.paramPage (s : State) (c : Fin 64) (e : Exec) (rest : List Byte) : Except (Tier × Bool) (State × Exec) :=
  if rest = [] then .ok (s, e)
  else match e.qwin.find? (fun w => w.1 == 0) with
    | some w => .ok (s.fillPage w.2.2 rest, e)
    | none => match s.noSpace c .t0 1 false with
      | some quota => .error (.t0, quota)
      | none =>
        let r := s.newAlloc c 1 .t0 true false false false
        .ok (r.1.fillPage r.2 rest, { e with own := e.own ++ [r.2], heldT0 := e.heldT0 ++ [r.2] })

/-! ## Admission and start -/

/-- The gang that a host batch joins (R109, R110, R364): the one of the same image and model that has not launched. A batch
larger than B_fill runs alone. -/
def State.gangFor (s : State) (i : Image) (batch : Nat) : Option Gang :=
  if s.bFill i < batch then none
  else s.sched.gangs.find? fun g => !g.launched && decide (g.image = i.prog) && g.model == i.model
    && !(s.sched.execs.any fun e => e.gang == some g.id && decide (s.bFill i < e.batch))

/-- A new execution of an image, before it is placed. -/
def State.newExec (s : State) (h : Hdr) (c : Fin 64) (i : Image) (id : Nat) (params : List Byte) (dl : Nat) (twin copy : Bool) : Exec :=
  let as := argsOf params
  let regs := startRegs as c id dl
  let role := Config.libraryRole i.bytes
  let entry : W32 := BitVec.ofNat 32 i.entry
  let index := match role with
    | .search => some (argN as 1)
    | .ingest | .meld => some (Config.libraryIndex i.bytes as)
    | .plain | .round | .prefill => none
  { id, hdr := h, ctx := c, image := i.prog, deadline := dl, seed := param64 params 0
    arg2 := (as[1]?).getD 0, estimate := s.estimateOf i (argN as 2), regs, page := { regs }, pc := entry, pcStep := entry
    ingest := decide (role = .ingest), meld := decide (role = .meld), index, twin, copy
    quire := i.quire, qns := if i.quire then argN as 1 else 0, batch := argN as 2 }

/-- Queue an execution: a member of a gang waits for its launch, any other takes a free compositor (R23, R109). -/
def State.placeExec (s : State) (i : Image) (e : Exec) : State :=
  let s := { s with sched := { s.sched with nextExec := if e.copy then s.sched.nextExec else s.sched.nextExec + 1 } }
  if i.gang ∧ !e.twin then
    match s.gangFor i e.batch with
    | some g =>
      let gangs := mapWhere (fun x => x.id == g.id) (fun x => { x with members := x.members ++ [e.id] }) s.sched.gangs
      { s with sched := { s.sched with gangs := gangs, execs := s.sched.execs ++ [{ e with phase := .gangWait, gang := some g.id }] } }
    | none =>
      let g : Gang := { id := s.sched.nextGang, image := i.prog, model := i.model, members := [e.id] }
      { s with sched := { s.sched with
        gangs := s.sched.gangs ++ [g], nextGang := s.sched.nextGang + 1
        execs := s.sched.execs ++ [{ e with phase := .gangWait, gang := some g.id }] } }
  else ({ s with sched := { s.sched with execs := s.sched.execs ++ [e] } }).fillComps

/-- The loads with a new execution, and the load that holds it. -/
def State.loadsWith (s : State) (i : Image) (e : Exec) : List Load × Load :=
  let mine : Load := { ids := [e.id], jobs := if e.ingest then [] else [e.deadline], work := e.estimate, res := i.servers }
  match (if i.gang ∧ !e.twin then s.gangFor i e.batch else none) with
  | none => (s.loads ++ [mine], mine)
  | some g =>
    let joined (l : Load) : Load := { l with ids := l.ids ++ [e.id], jobs := l.jobs ++ [e.deadline], work := max l.work e.estimate }
    (s.loads.map fun l => if l.obj.isNone && l.ids.any g.members.contains then joined l else l, mine)

/-- Why the module does not admit an execution: a refusal of R378, R421, R157, R133 or R377. -/
def State.refuses (s : State) (i : Image) (e : Exec) (params : List Byte) : Option (Nat × W32 × W32) :=
  match s.overload e.ctx (if e.meld then e.index else none) with
  | some r => some (0x81, BitVec.ofNat 32 (16 * r), 0)
  | none =>
    if s.noTime e.deadline then some (0x80, 8, 0)
    else if 16 < argc params then some badArg
    else if s.sched.budget * 1000 < i.estimate then some (0x87, 0x04, 0xFFFFFFFF)
    else
      let l := s.loadsWith i e
      (feasible s.now e.deadline e.estimate s.loads l.1 l.2).map fun d => (0x80, d.1, d.2)

/-- Admit an execution or say why not: the limits, the library's arguments, and the tier space of R171 and R409. -/
def State.takeIn (s : State) (i : Image) (e : Exec) (params : List Byte) : Except (Bool × Nat × W32 × W32) State :=
  match s.refuses i e params with
  | some r => .error (true, r)
  | none => match s.libraryArgs e.ctx (Config.libraryRole i.bytes) (argsOf params) with
    | .error r => .error (false, r)
    | .ok seqs => match (do
        let q ← if i.quire then s.quireWindows e.ctx e i.qw else .ok (s, e)
        q.1.paramPage e.ctx q.2 (params.drop 192)) with
      | .error t => .error (true, 0x8A, capDw t.1 t.2, 0)
      | .ok q => .ok (q.1.placeExec i { q.2 with seqs })

/-- EXECUTE_PROGRAM (R132, R133, R376 to R378, R382, R408, R409, R511, R512). -/
def execExecuteProgram (h : Hdr) (prog : Nat) (params : List Byte) (deadline : W64) (cdw13 : W32) (mrs : Nat) (s : State) : Out :=
  .next (s.arrive h fun c =>
    let twin := cdw13.getLsbD 0
    if !s.nsReady then s.jobStd h c 0 0x82
    else if mrs ≠ 0 ∨ params.length < 192 ∨ 8192 < params.length then s.jobStd h c 0 0x02
    else match s.image? prog with
      | none => s.jobStd h c 0 0x02
      | some i =>
        if !i.verified then s.jobStd h c 0 0x02
        else if i.owner ≠ 0 ∧ i.owner ≠ c then s.jobStd h c 2 0x86
        else if !i.active ∨ (twin ∧ !s.paired) then s.jobStd h c 0 0x0C
        else
          let e := s.newExec h c i s.sched.nextExec params deadline.toNat twin false
          match s.takeIn i e params with
          | .error (refused, sc, dw0, dw1) =>
            if refused then s.refuseJob h c sc dw0 dw1 else s.jobDone h c e.deadline (.failed sc dw0 dw1)
          | .ok s' =>
            let s' := s'.touchControl.waitFor { hdr := h, body := .exec e.id, wait := .job }
            if twin then s'.toPeer (.twinCopy e.id prog c.val params deadline) else s')

/-! ## Ingest Object (R304, R411 to R413) -/

/-- The command that CDW13 names on the same controller. -/
def cdw13Hdr (h : Hdr) (cdw13 : W32) : Hdr :=
  { path := h.path, sq := bitsOf cdw13.toNat 31 16, cid := bitsOf cdw13.toNat 15 0 }

/-- The bytes of an object: the data itself, or what its source descriptor names. -/
def State.objBytes (s : State) (c : Fin 64) (slm : Bool) (data : List Byte) : Option (List Byte) :=
  if slm then
    let va := leNat (data.take 8)
    let n := leNat ((data.drop 8).take 8)
    if n = 0 ∨ 2 ^ 40 < n then none else match s.ctxRead c va n with | .ok bs => some bs | .error _ => none
  else some data

/-- An object command whose data has arrived becomes an entry of the ingest execution's table (R304), or ends
with what is wrong with its data. -/
def State.runIngest (s : State) (id : Nat) (o : ObjCmd) (slm : Bool) : State :=
  let drop (s : State) : State := s.modEx id fun x => { x with objs := x.objs.filter fun y => !(y.hdr == o.hdr) }
  match s.ex? id with
  | none => s.badField o.hdr
  | some e => match s.objBytes e.ctx slm o.bytes, s.ns? o.nsid with
    | some bs, some n =>
      let blocks := (bs.length + 4095) / 4096
      if n.blocks < o.lba + blocks then (drop s).jobStd o.hdr e.ctx 0 0x80
      else match n.zoneFault o.lba blocks with
        | some code => (drop s).jobStd o.hdr e.ctx 1 code
        | none =>
          (s.modObj id o.hdr fun x => { x with bytes := bs, stage := .accepted }).waitFor
            { hdr := o.hdr, body := .ingest id { o with bytes := [] }, wait := .job }
    | _, _ => (drop s).jobStd o.hdr e.ctx 0 0x02

/-- Why an object command is not admitted (R377, R378, R421). -/
def State.refusesObj (s : State) (e : Exec) (o : ObjCmd) (bytes : Nat) : Option (Nat × W32 × W32) :=
  if Config.maxObjects ≤ e.objs.length then some (0x81, 0x30, 0)
  else if s.noTime o.deadline then some (0x80, 8, 0)
  else match s.image? e.image with
    | none => none
    | some i =>
      let w := objEstimate i o bytes
      let l : Load := { ids := [e.id], obj := some o.hdr, jobs := [o.deadline], work := w, res := i.servers }
      (feasible s.now o.deadline w s.loads (s.loads ++ [l]) l).map fun d => (0x80, d.1, d.2)

/-- INGEST_OBJECT (R314, R374, R389, R402, R411 to R413). -/
def execIngestObject (h : Hdr) (nsid : Nat) (obj lba : W64) (cdw12 cdw13 : W32) (deadline : W64) (data : List Byte) (s : State) : Out :=
  .next (s.arrive h fun c => (s.countFailed c).ioWrite h nsid fun n =>
    let w := cdw12.toNat
    let count := bitsOf w 23 0
    let slm := decide (bitsOf w 27 27 = 1)
    if obj = BitVec.allOnes 64 ∨ bitsOf w 25 24 = 3 ∨ count = 0 ∨ Config.mdts < count ∨ count ≠ data.length ∨ (slm ∧ count ≠ 16) then s.jobStd h c 0 0x02
    else match s.sched.execs.find? (fun e => e.ingest && e.hdr == cdw13Hdr h cdw13 && !e.copy) with
      | none => s.jobStd h c 0 0x02
      | some e =>
        let o : ObjCmd := { hdr := h, obj, nsid, lba := lba.toNat, deadline := deadline.toNat, defer := decide (bitsOf w 26 26 = 1)
                            kind := bitsOf w 25 24, blocks := [], stage := .arriving, bytes := data }
        if !slm ∧ n.blocks < o.lba + (count + 4095) / 4096 then s.jobStd h c 0 0x80
        else match s.refusesObj e o count with
          | some (sc, dw0, dw1) => s.refuseJob h e.ctx sc dw0 dw1
          | none =>
            let s := s.modEx e.id fun x => { x with objs := x.objs ++ [{ o with bytes := [] }], queued := x.queued + 1 }
            if Config.inCapsule < count then
              s.waitFor { hdr := h, body := .ingest e.id o, wait := .data, total := count }
            else s.runIngest e.id o slm)

end Sys2Proof.Machine
end

