-- ==== Sys2Proof/Machine/Transport.lean ====
section
/-!
DEFINITION. Host-to-controller data (R388 to R390, R451): ready-to-transfer PDUs, data PDUs, and what a command does
once its data has arrived.
-/
namespace Sys2Proof.Machine

/-! ## Data PDUs (R388, R390) -/

/-- A command whose data has arrived whole has its effect. -/
def State.dataArrived (s : State) (o : OutCmd) : State :=
  match o.body with
  | .write nsid lba blocks => s.runWrite o.hdr nsid lba blocks 0 0
  | .zoneAppend nsid zslba blocks => s.runAppend o.hdr nsid zslba blocks
  | .memWrite c va data => s.runMemWrite o.hdr c va data
  | .load prog off total data => s.runLoad o.hdr prog off total data
  | .ingest id obj => s.runIngest id obj false
  | .exec _ | .read .. | .memRead .. | .evictWait _ | .other => s

/-- Take len bytes off the front of the pending R2T that starts at an offset. -/
def takeR2t (off len : Nat) (rs : List (Nat × Nat)) : List (Nat × Nat) :=
  (rs.map fun r => if r.1 = off then (off + len, r.2 - len) else r).filter fun r => r.2 != 0

/-- MAXH2CDATA (R388). -/
def maxH2c : Nat := 131072

/-- H2C_DATA (R388, R390): a pending R2T of the command must cover the data. -/
def execH2cData (conn : Nat) (h : Hdr) (off len : Nat) (digestOk : Bool) (s : State) : Out :=
  .next (match s.conn? conn with
    | none => s
    | some c =>
      let stop : State := (s.dropConn conn).send (.c2hTermReq conn)
      match s.host.cmds.find? (fun o => o.hdr == h && o.wait == .data) with
      | none => stop
      | some o =>
        if !c.carries h ∨ len = 0 ∨ maxH2c < len ∨ !(o.r2ts.any fun r => decide (r.1 = off) && decide (len ≤ r.2)) then stop
        else if !digestOk then s.failData o 0x04
        else
          let o := { o with r2ts := takeR2t off len o.r2ts, got := o.got + len }
          if o.got = o.total then s.dataArrived o else s.waitFor o)

/-! ## Ready to transfer (R389, R451) -/

/-- Most R2Ts that may be outstanding for a command: min(MAXR2T + 1, 16) of its connection (R388, R389). -/
def State.maxR2t (s : State) (h : Hdr) : Nat :=
  match s.host.conns.find? (fun c => c.carries h) with
  | some c => c.maxr2t
  | none => 0

/-- Bytes that the next R2T of a command asks for (R389). -/
def OutCmd.nextR2t (o : OutCmd) : Nat := min 1048576 (o.total - o.asked)

/-- READY_TO_TRANSFER_ISSUE (R389, R451): the next R2T of a command, or, where its data came in its capsule and
waited for room in the write buffer, its effect. -/
def execReadyToTransferIssue (h : Hdr) (s : State) : Out :=
  .next (match s.host.cmds.find? (fun o => o.hdr == h && o.wait == .data) with
    | none => s
    | some o =>
      if !s.serving then s
      else if o.total = 0 then
        (match o.body with
        | .write _ _ bs | .zoneAppend _ _ bs => if s.bufferRoom (4096 * bs.length) then s.dataArrived o else s
        | _ => s)
      else if o.nextR2t = 0 ∨ s.maxR2t h ≤ o.r2ts.length then s
      else if o.body.isBlocks && !s.bufferRoom o.nextR2t then s
      else (s.waitFor { o with asked := o.asked + o.nextR2t, r2ts := o.r2ts ++ [(o.asked, o.nextR2t)] }).send (.r2t h o.asked o.nextR2t))

end Sys2Proof.Machine
end

