-- ==== Sys2Proof/Machine/Registers.lean ====
section
/-!
DEFINITION. Register Read and Register Write (R15, R423, R424): the value of every register, and what a write changes.
-/
namespace Sys2Proof.Machine

/-! ## Values -/

/-- A register from its fields: each at its lowest bit, with its width. -/
def reg64 (fs : List (Nat × Nat × Nat)) : W64 := BitVec.ofNat 64 ((fs.map fun f => f.2.2 % 2 ^ f.2.1 * 2 ^ f.1).sum)

/-- A flag as a field value. -/
def bit (b : Bool) : Nat := if b then 1 else 0

/-- An integer in two's complement of w bits. -/
def twos (w : Nat) (x : Int) : Nat := (x.emod (2 ^ w)).toNat

/-- FAB_SHAPE (R124). -/
def State.fabShape (s : State) : W64 :=
  reg64 [(0, 8, s.ident.grade.cols), (8, 8, s.rows), (16, 14, s.tiles), (32, 16, s.fab.gatedNow.toNat)
    , (48, 7, (upto 80).countP s.rowRetired), (55, 1, bit (decide (s.rows < s.ident.grade.rows)))]

/-- FAB_ROWMAPn (R125). -/
def State.fabRowmap (s : State) (r : Nat) : W64 :=
  reg64 [(0, 7, if s.rowRetired r then 0 else s.usable r - s.ident.grade.cols), (7, 1, bit (s.rowRetired r))
    , (8, 7, if s.rowIn r then s.lrow r else 0x7F), (15, 1, bit (s.rowGated r))
    , (16, 7, s.fencedTiles r), (23, 8, s.badTiles r)]

/-- FAB_BANDCLKn (R128). -/
def State.fabBandclk (s : State) (b : Nat) : W64 :=
  reg64 [(0, 5, s.fab.freq), (5, 1, bit (s.fab.stretch.getLsbD b)), (6, 1, bit (s.fab.gatedNow.getLsbD b))
    , (16, 16, (s.fab.stretchCount.toList[b]?).getD 0)]

/-- SCH_STEPBUDGET (R156). -/
def State.schStepbudget (s : State) : W64 := reg64 [(0, 10, s.sched.budget), (16, 16, s.sched.overruns)]

/-- SCH_PREEMPT (R267). -/
def State.schPreempt (s : State) : W64 :=
  reg64 [(0, 16, s.sched.boundary), (16, 16, s.sched.abandoned), (32, 16, s.sched.withdrawn)]

/-- SCH_ADMIT (R379). -/
def State.schAdmit (s : State) : W64 :=
  reg64 [(0, 13, s.sched.execs.length), (16, 16, s.sched.gangs.countP fun g => !g.launched)
    , (32, 16, s.sched.refusedInf), (48, 16, s.sched.refusedOvl)]

/-- TIR_FREEn (R247). -/
def State.tirFree (s : State) (t : Tier) : W64 := reg64 [(0, 40, s.freePages t)]

/-- TIR_MIG (R247). -/
def State.tirMig (s : State) : W64 :=
  let n (up : Bool) := ((s.tiers.migs.filter fun m => m.promo == up).map (·.pages.length)).sum
  reg64 [(0, 16, min 65535 (n true)), (16, 16, min 65535 (n false))
    , (32, 16, min 65535 ((s.tiers.deferred.map (·.pages.length)).sum))]

/-- XLT_FSTAT (R259). -/
def State.xltFstat (s : State) : W64 :=
  reg64 [(0, 10, s.tiers.faults.length), (16, 16, min 65535 s.tiers.maxUs), (32, 16, s.tiers.refused)]

/-- PTB_EPOCH (R274). -/
def State.ptbEpoch (s : State) : W64 := reg64 [(0, 32, s.part.epoch), (32, 1, bit s.oldAccess)]

/-- GAL_STAT (R329). -/
def State.galStat (s : State) : W64 := reg64 [(0, 40, s.eng.sheets), (40, 16, s.eng.rebuilt)]

/-- Platen's pipes at work (R283): those of the call under way in each step, its first that is outstanding (R187). -/
def State.pipesBusy (s : State) : Nat :=
  min 64 (s.sched.execs.map fun e => (e.st.ops.findSome? fun o => match o.kind with | .platen n => some n | _ => none).getD 0).sum

/-- PLT_STAT (R283). -/
def State.pltStat (s : State) : W64 :=
  reg64 [(0, 1, bit s.eng.half), (8, 7, s.pipesBusy), (16, 32, s.eng.done), (48, 16, s.eng.failed)]

/-- Seconds of holdover since the last lock (R422). -/
def State.holdover (s : State) : Nat :=
  if s.ptp.ever && !s.ptp.locked then min 65535 ((s.now - s.ptp.lostAt) / 1000000000) else 0

/-- HNI_PTP (R422). -/
def State.hniPtp (s : State) : W64 :=
  reg64 [(0, 1, bit s.ptp.locked), (1, 1, bit s.ptp.ever), (2, 2, s.ptp.port.val), (4, 7, s.ptp.domain)
    , (16, 32, s.ptp.offset.toNat), (48, 16, s.holdover)]

/-- FLS_STAT (R473). -/
def State.flsStat (s : State) : W64 :=
  reg64 [(0, 5, s.flash.bmax), (8, 8, s.readGroups.length), (16, 8, s.flash.retired.length)
    , (24, 1, bit s.flash.ro), (25, 1, bit s.flash.wthru), (32, 32, s.freeSbs)]

/-- FLS_SLC (R473). -/
def State.flsSlc (s : State) : W64 := reg64 [(0, 24, s.pslcGib), (24, 24, s.pslcBlocks / 262144)]

/-- FLS_WBUF (R473). -/
def State.flsWbuf (s : State) : W64 := reg64 [(0, 14, s.dirtyBytes / 1048576), (16, 14, s.flash.limitMib)]

/-- FLS_BRGn (R473). -/
def Bridge.reg (b : Bridge) : W64 :=
  reg64 [(0, 1, bit b.up), (1, 1, bit b.bod), (8, 8, b.resets), (16, 16, b.reissued), (32, 32, b.jseq)]

/-- Pair state codes (R506). -/
def pairCode : PairSt → Nat
  | .unpaired => 0 | .training => 1 | .paired => 2 | .resilvering => 3 | .soloSplit => 4 | .soloSurvivor => 5 | .conflict => 6

/-- Trained lanes of all cages. -/
def State.lanesUp (s : State) : Nat := (s.twin.cages.toList.map fun c => popcount 8 c.lanes.toNat).sum

/-- TWN_STAT (R480). -/
def State.twnStat (s : State) : W64 :=
  reg64 [(0, 4, pairCode s.twin.st), (4, 1, s.twin.rank), (5, 1, bit s.hasWitness), (8, 8, s.lanesUp)
    , (16, 16, min 65535 s.twin.takeovers), (32, 32, s.twin.epAdopted)]

/-- TWN_CGRPn (R480). -/
def Cable.reg (c : Cable) : W64 :=
  reg64 [(0, 8, c.lanes.toNat), (8, 2, c.peer.val), (10, 1, bit c.isUp), (11, 1, bit c.crossed), (12, 1, bit c.held)
    , (16, 16, c.missed), (32, 16, c.retrains)]

/-- Class codes (R527). -/
def classCode : FClass → Nat := grav

/-- FLT_FIRST (R527). -/
def fltFirst (f : Option FirstFault) : W64 :=
  match f with
  | none => 0
  | some f => reg64 [(0, 8, f.src.val), (8, 2, classCode f.cls), (10, 1, 1)]

/-- FLT_STATE (R529). -/
def State.fltState (s : State) : W64 :=
  reg64 [(0, 1, bit s.flt.active.isSome)
    , (1, 2, match s.flt.active with | some a => classCode a.cls | none => 0)
    , (3, 8, match s.flt.active with | some a => a.rep.src.val | none => 0)
    , (16, 9, s.flt.latched.length), (32, 16, s.flt.escalated)]

/-- FLT_STICKYn (R526). -/
def stickyWord (v : BitVec 256) (n : Nat) : W64 := v.extractLsb' (64 * n) 64

/-- FLT_INJn (R556). -/
def State.fltInj (s : State) (n : Nat) : W64 :=
  match assocGet n s.flt.inj with
  | none => 0
  | some i => reg64 [(0, 8, i.1.toNat), (8, 8, i.2), (16, 1, bit (decide (0 < i.2)))]

/-- The hardware cap in W (R566, R593): it follows cap_w at once. -/
def State.hwCap (s : State) : Nat := s.pwr.capNext * 105 / 100

/-- PWR_CAP (R572). -/
def State.pwrCap (s : State) : W64 := reg64 [(0, 13, s.pwr.capNext), (16, 13, s.pwr.effW), (32, 13, s.hwCap)]

/-- PWR_STAT (R572). -/
def State.pwrStat (s : State) : W64 :=
  reg64 [(0, 13, s.pwr.p1), (16, 13, s.pwr.p100), (32, 6, s.pwr.rung), (38, 5, s.pwr.keep16), (48, 16, s.pwr.stretches)]

/-- THM_STAT (R572). -/
def State.thmStat (s : State) : W64 :=
  reg64 [(0, 8, twos 8 s.pwr.inletC), (8, 8, twos 8 s.pwr.outletC), (16, 8, min 255 s.pwr.flow), (24, 1, bit s.pwr.reverse)
    , (25, 1, bit (s.pwr.above != 0)), (32, 8, s.pwr.hotSrc.val), (40, 8, twos 8 s.pwr.hotC)]

/-- Failed boots of the running slot. -/
def State.failsRunning (s : State) : Nat := if s.fw.running then s.fw.failsB else s.fw.failsA

/-- FWU_STAT (R587). -/
def State.fwuStat (s : State) : W64 :=
  reg64 [(0, 1, bit s.fw.running), (1, 1, bit s.fw.committed)
    , (2, 2, if s.fw.inTrial then 2 else if s.fw.trial.isSome then 1 else 0), (4, 2, min 3 s.failsRunning)
    , (6, 1, bit s.fw.incompat), (7, 1, bit s.fw.fellBack), (16, 10, s.trialNs / 1000000000)]

/-- TRC_CTL (R587). -/
def State.trcCtl (s : State) : W64 :=
  reg64 [(0, 1, bit s.trace.run), (1, 1, bit s.trace.stopFull), (32, 32, s.trace.dropped)]

/-- FAULT_N reads low. -/
def State.faultPin (s : State) : Bool := s.phys.faultForced.getD s.flt.faultN

/-- PHY_STAT (R615). The voltages are what the pins carry: free values. -/
def State.phyStat (s : State) : W64 :=
  reg64 [(0, 4, s.phys.slotId.val), (4, 1, bit s.life.pwrEn), (5, 1, bit s.flt.faultN), (6, 1, bit s.faultPin)
    , (8, 8, s.phys.flags.toNat), (16, 16, (Config.freeWord s.free).toNat)
    , (32, 16, if s.phys.senseOpen then 0 else (Config.freeWord (s.free + 1)).toNat), (48, 8, min 255 s.phys.contact)]

/-- PHY_LAMP (R615). -/
def State.phyLamp (s : State) : W64 := reg64 [(0, 1, bit s.phys.locate), (1, 1, bit s.phys.dim)]

/-! ## Table entries (R248, R249, R621) -/

/-- Pages that an entry of a level covers. -/
def levelPages (l : Nat) : Nat := if l = 0 then 1 else if l = 1 then 32 else if l = 2 then 16384 else 134217728

/-- The level at which page p of a context's address space, which lies in an allocation, is mapped (R237). -/
def Alloc.leafLevel (a : Alloc) (p : Nat) : Nat :=
  match (a.unitAt (p - a.id)).2 with
  | 16384 => 2
  | 32 => 1
  | _ => 0

/-- The level of the leaf that maps a page of a context. -/
def State.leafLevel (s : State) (c : Fin 64) (p : Nat) : Option Nat :=
  match s.pageAt c p with
  | .mem a _ _ _ => some (a.leafLevel p)
  | .ns .. => some 0
  | .missing => none

/-- Some page that the context can reach lies in a range. -/
def State.reaches (s : State) (c : Fin 64) (lo n : Nat) : Bool :=
  (s.tiers.allocs.any fun a => decide (a.id < lo + n) && decide (lo < a.id + a.pages)
    && (a.ctx == c || (s.grantOf c a).1 || (s.grantOf c a).2))
    || s.tiers.nsMaps.any fun m => m.1 == c && decide (m.2.1 < lo + n) && decide (lo < m.2.1 + m.2.2.2.2)

/-- A leaf entry, that of the page that holds p; its frame number is a free value, and 0 while no frame is assigned. -/
def State.leafEntry (s : State) (c : Fin 64) (p : Nat) : W64 :=
  match s.pageAt c p with
  | .mem a i _ wr =>
    let i := (a.unitAt i).1
    let p := a.id + i
    let q := a.page i
    reg64 [(0, 1, 1), (1, 1, 1), (2, 1, bit wr), (3, 2, tierNo q.tier), (5, 1, bit a.pin), (6, 1, bit q.sw), (7, 1, bit q.zod)
      , (16, 34, if q.zod then 0 else (Config.frame s.free p).toNat)]
  | .ns _ _ _ wr => reg64 [(0, 1, 1), (1, 1, 1), (2, 1, bit wr), (3, 2, 3), (16, 34, (Config.frame s.free p).toNat)]
  | .missing => 0

/-- A non-leaf entry of level l for page p: the address of the next table, a free value that is a multiple of that table's size:
256 bytes, 4 KiB or 64 KiB (R248, R249, R621). -/
def State.tablePtr (s : State) (l p : Nat) : W64 :=
  let k := 4 * (p / levelPages l) + l
  let lo := (Config.tableLo s.free k).toNat
  reg64 [(0, 1, 1), (8, 8, if l = 1 then lo else if l = 2 then lo / 16 * 16 else 0), (16, 34, (Config.frame s.free k).toNat)]

/-- The entry at a level for a virtual address. There is no entry below a leaf, and it reads as 0. -/
def State.tableEntry (s : State) (c : Fin 64) (l : Nat) (va : Nat) : W64 :=
  let p := bitsOf va 55 16
  match s.leafLevel c p with
  | some k => if l = k then s.leafEntry c p else if l < k then 0 else s.tablePtr l p
  | none => if 0 < l ∧ s.reaches c (p / levelPages l * levelPages l) (levelPages l) then s.tablePtr l p else 0

/-! ## Selectors (R424) -/

/-- Why a register access fails. -/
inductive RegFault where
  | field
  | denied
  | reset (block : Nat)
  deriving DecidableEq, Repr

/-- A value at qualifier 0. -/
def plainReg (q : W32) (v : W64) : Except RegFault W64 := if q = 0 then .ok v else .error .field

/-- The execution that a qualifier names (R424). -/
def State.qualExec (s : State) (h : Hdr) (q : W32) : Option Exec :=
  let x : Hdr := { path := h.path, sq := bitsOf q.toNat 31 16, cid := bitsOf q.toNat 15 0 }
  s.sched.execs.find? fun e => e.hdr == x && !e.copy

/-- A register of an execution. -/
def State.execReg (s : State) (h : Hdr) (q : W32) (f : Exec → W64) : Except RegFault W64 :=
  match s.qualExec h q with
  | some e => .ok (f e)
  | none => .error .field

/-- Tier number n. -/
def tierOf (n : Nat) : Tier := if n = 0 then .t0 else if n = 1 then .t1 else if n = 2 then .t2 else .t3

/-- Registers of blocks 0x01 to 0x08. -/
def State.coreRegs (s : State) (h : Hdr) (b i : Nat) (q : W32) : Except RegFault W64 :=
  if b = 1 then
    if i = 0 then s.execReg h q (·.nstat)
    else if i = 1 then plainReg q s.fabShape
    else if 0x10 ≤ i ∧ i ≤ 0x5F then plainReg q (s.fabRowmap (i - 0x10))
    else if 0x60 ≤ i ∧ i ≤ 0x6F then plainReg q (s.fabBandclk (i - 0x60))
    else .error .field
  else if b = 2 then (if i < 64 then s.execReg h q (fun e => ((e.slotsC.toList[i]?).getD {}).word) else .error .field)
  else if b = 3 then
    if i = 0 then plainReg q s.schStepbudget else if i = 1 then plainReg q s.schPreempt
    else if i = 2 then plainReg q s.schAdmit else .error .field
  else if b = 4 then
    if i < 4 then plainReg q (s.tirFree (tierOf i)) else if i = 4 then plainReg q s.tirMig else .error .field
  else if i ≠ 0 then .error .field
  else if b = 5 then plainReg q s.xltFstat
  else if b = 6 then plainReg q s.ptbEpoch
  else if b = 7 then plainReg q s.galStat
  else plainReg q s.pltStat

/-- The flash registers, block 0x0B; those of a bridge under reset do not answer. -/
def State.flsRegs (s : State) (i : Nat) (q : W32) : Except RegFault W64 :=
  if i = 0 then plainReg q s.flsStat
  else if i = 1 then plainReg q s.flsSlc
  else if i = 2 then plainReg q s.flsWbuf
  else if 0x10 ≤ i ∧ i ≤ 0x1F ∧ q = 0 then
    let b := s.flash.bridges[Fin.ofNat 16 (i - 0x10)]
    if b.resetting then .error (.reset 0x0B) else .ok b.reg
  else .error .field

/-- The twin-link registers, block 0x0C. -/
def State.twnRegs (s : State) (i : Nat) (q : W32) : Except RegFault W64 :=
  if i = 0 then plainReg q s.twnStat
  else if 0x10 ≤ i ∧ i ≤ 0x13 ∧ q = 0 then
    let g := Fin.ofNat 4 (i - 0x10)
    if s.units.resetting.contains (ResetUnit.cable g) then .error (.reset 0x0C) else .ok (s.twin.cages[g]).reg
  else .error .field

/-- The fault registers, block 0x0D. -/
def State.fltRegs (s : State) (i : Nat) (q : W32) : Except RegFault W64 :=
  if i = 0 then plainReg q (fltFirst s.flt.first)
  else if i = 1 then plainReg q s.fltState
  else if 0x10 ≤ i ∧ i ≤ 0x13 then plainReg q (stickyWord s.flt.sticky (i - 0x10))
  else if 0x100 ≤ i ∧ i ≤ 0x1FF then plainReg q (s.fltInj (i - 0x100))
  else .error .field

/-- The firmware and trace registers, block 0x0F. -/
def State.fwuRegs (s : State) (i : Nat) (q : W32) : Except RegFault W64 :=
  if i = 0 then plainReg q s.fwuStat
  else if i = 1 then plainReg q s.trcCtl
  else if 0x10 ≤ i ∧ i ≤ 0x17 then plainReg q (s.trace.en[Fin.ofNat 8 (i - 0x10)])
  else .error .field

/-- The value that a selector reads for a context (R424, R530, R587). -/
def State.readReg (s : State) (h : Hdr) (c : Fin 64) (r : RegSel) : Except RegFault W64 :=
  let b := r.block
  let i := r.index
  let q := r.qual
  if 1 ≤ b ∧ b ≤ 8 then s.coreRegs h b i q
  else if b = 9 then (if i = 0 then plainReg q s.hniPtp else .error .field)
  else if b = 0x0A then
    if 3 < i ∨ q.toNat ≥ 64 then .error .field
    else if c ≠ 0 ∧ c.val ≠ q.toNat then .error .denied
    else .ok (s.tableEntry (Fin.ofNat 64 q.toNat) i r.addr.toNat)
  else if b = 0x0B then s.flsRegs i q
  else if b = 0x0C then s.twnRegs i q
  else if b = 0x0D then (if c ≠ 0 then .error .denied else s.fltRegs i q)
  else if b = 0x0E then
    if i = 0 then plainReg q s.pwrCap else if i = 1 then plainReg q s.pwrStat
    else if i = 2 then plainReg q s.thmStat else .error .field
  else if b = 0x0F then (if c ≠ 0 then .error .denied else s.fwuRegs i q)
  else if b = 0x10 then
    if i = 0 then plainReg q s.phyStat else if i = 1 then plainReg q s.phyLamp else .error .field
  else .error .field

/-- A register access that fails. -/
def State.regFail (s : State) (h : Hdr) (f : RegFault) : State :=
  match f with
  | .field => s.badField h
  | .denied => s.denied h
  | .reset b => s.laesk h 0x88 (BitVec.ofNat 32 b) 0

/-- REGISTER_READ (R423, R424). -/
def execRegisterRead (h : Hdr) (r : RegSel) (s : State) : Out :=
  .next (s.commandAny h fun c =>
    match s.readReg h c r with
    | .ok v => ({ s with free := s.free + 2 }).okDw h (v.setWidth 32) ((v >>> 32).setWidth 32)
    | .error f => s.regFail h f)

/-! ## Writing (R15, R81, R156, R526, R527, R556, R565, R572, R587, R615) -/

/-- The step budget: out of range is ignored and logged (R156). -/
def State.putBudget (s : State) (v : Nat) : State :=
  let b := bitsOf v 9 0
  if b < 50 ∨ 1000 < b then s.log .budgetIgnored b 0
  else ({ s with sched := { s.sched with budget := b } }).touchControl

/-- The configured cap: out of range is ignored and logged (R565, R572). -/
def State.putCap (s : State) (v : Nat) : State :=
  let w := bitsOf v 12 0
  if w < 1500 ∨ 4000 < w then s.log .capIgnored w 0
  else ({ s with pwr := { s.pwr with capNext := w } }).touchControl

/-- The RW fields of a scale slot of an execution (R81, R82): its copy and its compositor's. -/
def State.putSlot (s : State) (id n : Nat) (v : W64) : State :=
  s.modEx id fun e => { e with
    slots := vmod e.slots n fun x => slotWrite x v
    slotsC := vmod e.slotsC n fun x => slotWrite x v }

/-- FLT_FIRST: writing 1 to valid clears all three fields (R527). -/
def State.putFirst (s : State) (v : W64) : State :=
  if v.getLsbD 10 then { s with flt := { s.flt with first := none } } else s

/-- FLT_STICKYn: each bit written as 1 is cleared (R526). -/
def State.putSticky (s : State) (n : Nat) (v : W64) : State :=
  { s with flt := { s.flt with sticky := s.flt.sticky &&& ~~~(v.setWidth 256 <<< (64 * n)) } }

/-- FLT_INJn: mask and count (R556). -/
def State.putInj (s : State) (n mask count : Nat) : State :=
  { s with flt := { s.flt with inj := assocPut n (BitVec.ofNat 8 mask, count % 256) s.flt.inj } }

/-- TRC_CTL: run and stop_full (R587). -/
def State.putTrace (s : State) (v : W64) : State :=
  { s with trace := { s.trace with run := v.getLsbD 0, stopFull := v.getLsbD 1 } }

/-- TRC_ENn (R587). -/
def State.putTraceEn (s : State) (n : Nat) (v : W64) : State :=
  { s with trace := { s.trace with en := vset s.trace.en n v } }

/-- PHY_LAMP (R615). -/
def State.putLamp (s : State) (v : W64) : State :=
  { s with phys := { s.phys with locate := v.getLsbD 0, dim := v.getLsbD 1 } }

/-- PHY_STAT: its write-one-to-clear bits 15 to 8 (R615). -/
def State.putPhy (s : State) (v : W64) : State :=
  { s with phys := { s.phys with flags := s.phys.flags &&& ~~~((v >>> 8).setWidth 8) } }

/-- A write to a selector that exists: it changes only the fields that can be written (R424). -/
def State.putReg (s : State) (h : Hdr) (r : RegSel) (v : W64) : State :=
  let b := r.block
  let i := r.index
  if b = 2 then (match s.qualExec h r.qual with
    | some e => s.putSlot e.id i v
    | none => s)
  else if b = 3 ∧ i = 0 then s.putBudget v.toNat
  else if b = 0x0D then
    if i = 0 then s.putFirst v
    else if 0x10 ≤ i ∧ i ≤ 0x13 then s.putSticky (i - 0x10) v
    else if 0x100 ≤ i then s.putInj (i - 0x100) (bitsOf v.toNat 7 0) (bitsOf v.toNat 15 8)
    else s
  else if b = 0x0E ∧ i = 0 then s.putCap v.toNat
  else if b = 0x0F then
    if i = 1 then s.putTrace v else if 0x10 ≤ i then s.putTraceEn (i - 0x10) v else s
  else if b = 0x10 then (if i = 0 then s.putPhy v else s.putLamp v)
  else s

/-- A selector names a register with fields that only context 0 may write (R15): SCH_STEPBUDGET, FLT_INJn, PWR_CAP, TRC_CTL,
TRC_ENn and PHY_LAMP. -/
def hasRs (r : RegSel) : Bool :=
  r.qual == 0 &&
    ((r.block == 3 && r.index == 0) || (r.block == 0x0D && decide (0x100 ≤ r.index) && decide (r.index ≤ 0x1FF))
      || (r.block == 0x0E && r.index == 0)
      || (r.block == 0x0F && (r.index == 1 || (decide (0x10 ≤ r.index) && decide (r.index ≤ 0x17))))
      || (r.block == 0x10 && r.index == 1))

/-- A refused write of another context to such a register is logged, with the register and the context (R15). -/
def State.logRefused (s : State) (h : Hdr) (r : RegSel) : State :=
  match s.ctxOf h with
  | some c => if hasRs r then s.refuseRs (r.block + 256 * r.index) c else s
  | none => s

/-- Register Write (R423, R424). -/
def State.writeReg (s : State) (h : Hdr) (r : RegSel) (v : W64) : State :=
  s.arriveAny h fun c =>
    if !(s.isRoot h) then (s.logRefused h r).denied h
    else match s.readReg h c r with
      | .ok _ => (s.putReg h r v).ok h
      | .error f => s.regFail h f

/-- A selector at qualifier 0. -/
def sel (block index : Nat) : RegSel := { block, index, qual := 0, addr := 0 }

/-- REGISTER_WRITE (R423, R424). -/
def execRegisterWrite (h : Hdr) (r : RegSel) (v : W64) (s : State) : Out := .next (s.writeReg h r v)

/-- STEP_BUDGET_WRITE (R156). -/
def execStepBudgetWrite (h : Hdr) (v : W64) (s : State) : Out := .next (s.writeReg h (sel 3 0) v)

/-- POWER_CAP_WRITE (R565, R572). -/
def execPowerCapWrite (h : Hdr) (v : W64) (s : State) : Out := .next (s.writeReg h (sel 0x0E 0) v)

/-- SCALE_SLOT_WRITE (R81, R82). -/
def execScaleSlotWrite (h : Hdr) (slot : Fin 64) (qual : W32) (v : W64) (s : State) : Out :=
  .next (s.writeReg h { block := 2, index := slot.val, qual, addr := 0 } v)

/-- FAULT_FIRST_CLEAR (R527). -/
def execFaultFirstClear (h : Hdr) (v : W64) (s : State) : Out := .next (s.writeReg h (sel 0x0D 0) v)

/-- FAULT_STICKY_CLEAR (R526). -/
def execFaultStickyClear (h : Hdr) (n : Fin 4) (v : W64) (s : State) : Out := .next (s.writeReg h (sel 0x0D (0x10 + n.val)) v)

/-- FAULT_INJECTION_WRITE (R556). -/
def execFaultInjectionWrite (h : Hdr) (src : Fin 256) (v : W64) (s : State) : Out :=
  .next (s.writeReg h (sel 0x0D (0x100 + src.val)) v)

/-- TRACE_CONTROL_WRITE (R587). -/
def execTraceControlWrite (h : Hdr) (v : W64) (s : State) : Out := .next (s.writeReg h (sel 0x0F 1) v)

/-- TRACE_ENABLE_WRITE (R587). -/
def execTraceEnableWrite (h : Hdr) (n : Fin 8) (v : W64) (s : State) : Out := .next (s.writeReg h (sel 0x0F (0x10 + n.val)) v)

/-- LAMP_WRITE (R615). -/
def execLampWrite (h : Hdr) (v : W64) (s : State) : Out := .next (s.writeReg h (sel 0x10 1) v)

/-- PHY_STAT_CLEAR (R615). -/
def execPhyStatClear (h : Hdr) (v : W64) (s : State) : Out := .next (s.writeReg h (sel 0x10 0) v)

end Sys2Proof.Machine
end

