-- ==== Sys2Proof/Machine/Pages.lean ====
section
/-!
DEFINITION. Log pages and identify data: the Laesk pages 0xD0 to 0xD7 (R383, R431 to R434, R515, R555, R560, R561, R589)
and the standard pages that the rules fill (R471, R581, R396).
-/
namespace Sys2Proof.Machine

/-- A page: its length and its bytes by offset. -/
structure Page where
  len : Nat
  byte : Nat → Byte

/-- A page whose first bytes are listed; the rest read 0. -/
def listPage (len : Nat) (bs : List Byte) : Page := { len, byte := fun i => bs.getD i 0 }

/-- Free bytes: where no rule gives them. -/
def freeByte (n i : Nat) : Byte := ((Config.freeWord (n * 65536 + i)).setWidth 8)

/-- Bytes that read 0. -/
def zeros (n : Nat) : List Byte := List.replicate n 0#8

/-! ## Health (R432, R471, R472) -/

/-- Superblocks of the spare area at manufacture: 69 TiB of 4 GiB superblocks (R440, R441). -/
def spareSbs : Nat := 69 * 256

/-- Superblocks that have left the spare area: those of retired groups (R449). -/
def State.goneSbs (s : State) : Nat := 2048 * s.flash.retired.length

/-- spare_pct (R432). -/
def State.sparePct (s : State) : Nat := (spareSbs - s.goneSbs) * 100 / spareSbs

/-- wear_pct (R472): the mean weighted erase count, in twentieths, over 1,500 cycles. -/
def State.wearPct (s : State) : Nat :=
  (s.flash.sbs.map fun x => x.2.wear).sum * 100 / (20 * 1500 * Config.superblocks)

/-- The Health Detail page (R432). -/
def State.healthPage (s : State) : Page :=
  let h := s.health
  listPage 512 ([BitVec.ofNat 8 s.sparePct, BitVec.ofNat 8 (min 255 s.wearPct)] ++ zeros 6
    ++ ([h.trump, h.major, h.minor, h.note, h.rebuilt, h.ldpcCorr, h.uncorr, h.dramCorr, h.sramPar, h.resid, h.piErr]
        ++ (h.tempHist.take 32).map (· / 1000000000)).flatMap (leBytes 8))

/-- Critical Warning of the SMART log (R471). -/
def State.warning (s : State) : Nat :=
  let uncorr := match s.health.uncorrAt with
    | some t => decide (s.now < t + 86400000000000)
    | none => false
  bit (decide (s.sparePct < 10)) + 4 * bit (uncorr || !s.flash.retired.isEmpty) + 8 * bit s.flash.ro + 16 * bit s.flash.wthru

/-- The SMART / Health Information page (R471), in the layout of the NVMe base specification (PRESUMED); what R471
does not fill is free. The Composite Temperature, in kelvin, is the hottest flash die's of the last pass of the thermal loop. -/
def State.smartPage (s : State) : Page :=
  { len := 512
    byte := fun i =>
      if i = 0 then BitVec.ofNat 8 s.warning
      else if i = 1 then BitVec.ofNat 8 (s.pwr.flashC + 273).toNat
      else if i = 2 then BitVec.ofNat 8 ((s.pwr.flashC + 273).toNat / 256)
      else if i = 3 then BitVec.ofNat 8 s.sparePct
      else if i = 4 then 10
      else if i = 5 then BitVec.ofNat 8 (min 255 s.wearPct)
      else freeByte s.free i }

/-! ## Firmware slots and namespace groups -/

/-- Two decimal digits in ASCII. -/
def digits2 (n : Nat) : List Nat := [48 + n / 10 % 10, 48 + n % 10]

/-- The firmware revision mm.nn.pp of an image (R6). -/
def revOf (i : FwImage) : List Nat := digits2 i.major ++ [46] ++ digits2 i.minor ++ [46] ++ digits2 i.patch

/-- The image in the running slot. -/
def State.runningImg (s : State) : Option FwImage := if s.fw.running then s.fw.imgB else s.fw.imgA

/-- ASCII codes as bytes. -/
def ascii (l : List Nat) : List Byte := l.map (BitVec.ofNat 8)

/-- A slot's revision in the Firmware Slot Information page: zeros where it is empty. -/
def slotRev (i : Option FwImage) : List Byte := match i with | some x => ascii (revOf x) | none => zeros 8

/-- The Firmware Slot Information page (R581; layout PRESUMED from NVMe): active slot, slot of the next reset,
revisions. -/
def State.fwSlotPage (s : State) : Page :=
  let now := if s.fw.running then 2 else 1
  let next := match s.fw.trial with
    | some b => if b then 2 else 1
    | none => 0
  listPage 512 ([BitVec.ofNat 8 (now + 16 * next)] ++ zeros 7 ++ slotRev s.fw.imgA ++ slotRev s.fw.imgB)

/-- ANA state codes. -/
def anaCode : Ana → Nat
  | .optimized => 1 | .inaccessible => 3 | .transition => 0xF

/-- The Asymmetric Namespace Access page (R396; layout PRESUMED from NVMe); its change counts are free. -/
def State.anaPage (s : State) : Page :=
  let gs := ((upto 64).map (· + 1)).filter fun g => s.host.nss.any fun n => n.group == g
  let desc (g : Nat) : List Byte :=
    let ns := (s.host.nss.filter fun n => n.group == g).map (·.nsid)
    leBytes 4 g ++ leBytes 4 ns.length ++ leBytes 8 (Config.freeWord s.free).toNat
      ++ [BitVec.ofNat 8 (anaCode (s.group g).ana)] ++ zeros 15 ++ ns.flatMap (leBytes 4)
  let bs := leBytes 8 (Config.freeWord s.free).toNat ++ leBytes 2 gs.length ++ zeros 6 ++ gs.flatMap desc
  listPage bs.length bs

/-! ## Faults, logs, jobs, scrubbing (R383, R555, R560, R561, R589) -/

/-- One entry of the Fault Map page (R560). -/
def MapEntry.bytes (m : MapEntry) : List Byte :=
  leBytes 4 (classCode m.worst + 4 + 8 * bit m.inj + 256 * m.count) ++ leBytes 4 m.lastS ++ leBytes 1 m.event ++ leBytes 3 m.whr.toNat

/-- The Fault Map page (R560), from the collector or its saved copy (R561). -/
def mapPage (first : Option FirstFault) (sticky : BitVec 256) (latched : Nat) (map : List (Nat × MapEntry)) : Page :=
  listPage 4096 (leBytes 8 (fltFirst first).toNat ++ leBytes 32 sticky.toNat ++ leBytes 4 latched ++ zeros 20
    ++ (upto 256).flatMap fun n => match assocGet n map with
      | some m => m.bytes
      | none => zeros 12)

/-- The Fault Map page; bit 0 of the log-specific field reads the copy saved in the previous life (R561). -/
def State.faultPage (s : State) (saved : Bool) : Page :=
  let v := s.flt.saved
  if saved then mapPage v.first v.sticky v.latched v.map
  else mapPage s.flt.first s.flt.sticky s.flt.latched.length s.flt.map

/-- A ring of 32-byte entries behind a 64-byte header (R589): the entries kept with their numbers, and the number
of the next entry. -/
def ringPage (len next : Nat) (entry : Nat → Option (List Byte)) : Page :=
  let cap := (len - 64) / 32
  { len
    byte := fun i =>
      if i < 8 then (leBytes 8 (64 + 32 * (next % cap))).getD i 0
      else if i < 16 then (leBytes 8 (next / cap)).getD (i - 8) 0
      else if i < 64 ∨ 64 + 32 * cap ≤ i then 0
      else
        let slot := (i - 64) / 32
        let n := if slot < next % cap then next / cap * cap + slot else next / cap * cap + slot - cap
        match entry n with
        | some bs => bs.getD ((i - 64) % 32) 0
        | none => 0 }

/-- A log ring entry (R589); message code, severity and core pair are free. -/
def LogEntry.bytes (x : LogEntry) : List Byte :=
  leBytes 8 x.time ++ leBytes 2 (Config.logCode x.code).toNat
    ++ [Config.logSev x.code, BitVec.ofNat 8 ((Config.logPair x.seq).toNat % 12)] ++ leBytes 4 x.seq ++ leBytes 8 x.arg0 ++ leBytes 8 x.arg1

/-- The Firmware Log Ring page (R588, R589), current or as saved on a Major fault. -/
def State.logPage (s : State) (saved : Bool) : Page :=
  let l := if saved then s.host.savedLog else s.host.log
  let next := match l.getLast? with
    | some x => x.seq + 1
    | none => 0
  ringPage 4194304 next fun n => (l.find? fun x => x.seq == n).map LogEntry.bytes

/-- A trace record (R589); its point data are free. -/
def TraceRec.bytes (r : TraceRec) (free : Nat) : List Byte :=
  leBytes 8 r.time ++ leBytes 2 r.point.val ++ [0#8, match r.comp with | some c => BitVec.ofNat 8 c.val | none => 0xFF#8]
    ++ leBytes 4 r.exec ++ leBytes 4 r.step ++ (upto 12).map (freeByte free)

/-- Records that the 64 MiB trace buffer holds beside its header. -/
def traceCap : Nat := (67108864 - 64) / 32

/-- The Trace Buffer page (R589). -/
def State.tracePage (s : State) : Page :=
  let t := s.trace
  ringPage 67108864 t.count fun n =>
    if t.count ≤ n ∨ n + t.buf.length < t.count then none
    else (t.buf[n + t.buf.length - t.count]?).map fun r => r.bytes s.free

/-- An entry of the Tenant Job Counters page (R383). -/
def JobCount.bytes (j : JobCount) : List Byte :=
  [j.onTime, j.late, j.refusedInf, j.refusedOvl, j.withdrawn, j.takeover, j.aborted, j.failed].flatMap (leBytes 8)

/-- The Tenant Job Counters page (R383, R431): another context's entry reads 0, but to context 0. -/
def State.jobsPage (s : State) (c : Fin 64) : Page :=
  listPage 4096 ((List.finRange 64).flatMap fun n => if c = 0 ∨ n = c then (s.sched.counts[n]).bytes else zeros 64)

/-- An entry of the Scrub Laps page (R555). -/
def Scrub.bytes (x : Scrub) : List Byte :=
  [x.laps, x.lastMs, x.progress, x.corrected, x.poisoned, x.yielded].flatMap (leBytes 8) ++ zeros 16

/-- The Scrub Laps page (R555). -/
def State.scrubPage (s : State) : Page := listPage 512 (zeros 64 ++ s.scrub.toList.flatMap Scrub.bytes)

/-! ## Pair Status (R434, R515, R516) -/

/-- Role codes. -/
def roleCode : Role → Nat
  | .unused => 0 | .declarer => 1 | .dummy => 2 | .conflict => 3

/-- A group entry of the page. -/
def Group.bytes (g : Group) : List Byte :=
  leBytes 8 (roleCode g.role + 4 * bit g.homeHere + 8 * bit g.synced + 16 * bit g.readOnly + 65536 * (g.seq % 2 ^ 48))

/-- A record of 32 bytes (R434): the completion queue entry with its identity and status, the controller, the
deadline. The submission queue head pointer is free. -/
def PairRec.bytes (r : PairRec) (free : Nat) : List Byte :=
  leBytes 4 r.cqe.dw0.toNat ++ leBytes 4 r.cqe.dw1.toNat ++ leBytes 2 (Config.freeWord free).toNat ++ leBytes 2 r.cqe.hdr.sq
    ++ leBytes 2 r.cqe.hdr.cid ++ leBytes 2 (2 * (r.cqe.sc + 256 * r.cqe.sct)) ++ leBytes 2 r.cntlid ++ zeros 6 ++ leBytes 8 r.deadline

/-- Records that fit in the page. -/
def recCap : Nat := 1920

/-- Mirrored bytes that wait for the partner's acknowledgement. -/
def State.unackedBytes (s : State) : Nat := (s.twin.unacked.map (·.bytes)).sum

/-- The Pair Status page (R515) as a context reads it. -/
def State.pairPage (s : State) (c : Fin 64) : Page :=
  let t := s.twin
  let recs := (t.records.take recCap).flatMap fun r => if c = 0 ∨ r.ctx = c.val then r.bytes s.free else zeros 32
  listPage 65536 ([BitVec.ofNat 8 (pairCode t.st), BitVec.ofNat 8 t.rank, BitVec.ofNat 8 s.lanesUp, BitVec.ofNat 8 (bit s.hasWitness)]
    ++ zeros 4 ++ leBytes 8 t.epSent ++ leBytes 8 t.epAdopted ++ leBytes 8 ((s.now - t.since) / 1000000000)
    ++ (ascii t.peerSerial ++ zeros 32).take 32 ++ leBytes 8 t.resLeft ++ leBytes 8 t.resDone ++ leBytes 8 s.unackedBytes
    ++ leBytes 2 (min recCap t.records.length) ++ leBytes 4 (t.records.length - recCap) ++ zeros 418
    ++ t.groups.toList.flatMap Group.bytes ++ zeros 3072 ++ recs)

/-! ## Tile Fence Map (R433) -/

/-- Tiles disabled at test in row order: all 128 of a row left out (R119, R433). -/
def State.testTiles (s : State) : List (Nat × Nat) :=
  (upto 80).flatMap fun r =>
    if s.fab.leftOut.contains r then (upto 128).map fun c => (r, c) else s.fab.bad.filter fun b => b.1 == r

/-- The Tile Fence Map page (R433). -/
def State.fencePage (s : State) : Page :=
  let one (row col cause sec : Nat) : List Byte := leBytes 4 (row % 128 + 256 * (col % 128) + 65536 * (cause % 4)) ++ leBytes 4 sec
  let recs := (s.testTiles.map fun t => one t.1 t.2 3 0) ++ s.fab.fences.map fun f => one f.prow f.pcol f.cause f.sec
  listPage (704 + 8 * recs.length) (leBytes 8 s.fabShape.toNat ++ leBytes 4 recs.length ++ zeros 52
    ++ (upto 80).flatMap (fun r => leBytes 8 (s.fabRowmap r).toNat) ++ recs.flatten)

/-! ## Get Log Page (R431) -/

/-- Why a page cannot be read. -/
inductive PageFault where
  | noPage
  | denied
  deriving DecidableEq, Repr

/-- The page that a context reads. -/
def State.logPageOf (s : State) (c : Fin 64) (page lsp : Nat) : Except PageFault Page :=
  let saved := decide (lsp % 2 = 1)
  let root (p : Page) : Except PageFault Page := if c = 0 then .ok p else .error .denied
  if page = 0xD0 then .ok s.healthPage
  else if page = 0xD1 then root (s.faultPage saved)
  else if page = 0xD2 then root (s.logPage saved)
  else if page = 0xD3 then .ok (s.jobsPage c)
  else if page = 0xD4 then root s.scrubPage
  else if page = 0xD5 then .ok (s.pairPage c)
  else if page = 0xD6 then .ok s.fencePage
  else if page = 0xD7 then root s.tracePage
  else if page = 0x01 then .ok { len := 64, byte := freeByte s.free }
  else if page = 0x02 then .ok s.smartPage
  else if page = 0x03 then .ok s.fwSlotPage
  else if page = 0x0C then .ok s.anaPage
  else .error .noPage

/-- The bytes of a page from an offset; those beyond its end are free. -/
def Page.bytes (p : Page) (free off len : Nat) : List Byte :=
  (upto len).map fun k => if off + k < p.len then p.byte (off + k) else freeByte (free + 1) (off + k)

/-! ## Identify (R5, R6, R391, R403) -/

/-- Place bytes at an offset over free ones. -/
def overlay (off : Nat) (bs : List Byte) (rest : Nat → Byte) : Nat → Byte :=
  fun i => if off ≤ i ∧ i < off + bs.length then bs.getD (i - off) 0 else rest i

/-- Text padded with spaces. -/
def padded (n : Nat) (l : List Nat) : List Byte := ascii ((l ++ List.replicate n 32).take n)

/-- Identify Controller: serial number, Model Number (R5), Firmware Revision (R6), MDTS 11 (R391), the controller's
identifier (R481), AWUN = AWUPF = 255 (R403), no volatile write cache (R405), in the places of the NVMe base
specification (PRESUMED); every other byte is free. -/
def State.identCtrl (s : State) (cntlid : Nat) : Nat → Byte :=
  let rev := match s.runningImg with | some i => revOf i | none => List.replicate 8 48
  overlay 4 (padded 20 s.ident.serial) (overlay 24 (padded 40 s.ident.grade.model) (overlay 64 (padded 8 rev)
    (overlay 77 [11#8] (overlay 78 (leBytes 2 cntlid) (overlay 525 [0#8] (overlay 526 (leBytes 2 255) (overlay 528 (leBytes 2 255)
      (freeByte s.free))))))))

/-- Identify Namespace: size, capacity, NAWUN = NAWUPF = 255 and no atomic boundary (R403), ANA group; the rest is
free. -/
def Ns.ident (n : Ns) (free : Nat) : Nat → Byte :=
  overlay 0 (leBytes 8 n.blocks ++ leBytes 8 n.blocks) (overlay 34 (leBytes 2 255) (overlay 36 (leBytes 2 255)
    (overlay 40 (leBytes 2 0) (overlay 92 (leBytes 4 n.group) (freeByte free)))))

end Sys2Proof.Machine
end

