-- ==== Sys2Proof/Machine/Admin.lean ====
section
/-!
DEFINITION. Admin commands of the NVMe base specification (R5, R6, R387, R391, R397 to R399, R403, R431, R434).
-/
namespace Sys2Proof.Machine

/-- 4 KiB of identify data. -/
def identBytes (f : Nat → Byte) : List Byte := (upto 4096).map f

/-- A list of NSIDs above a given one, padded with zeros. -/
def nsidList (ids : List Nat) (above : Nat) : Nat → Byte :=
  let l := (sortBy (fun (a b : Nat) => decide (a < b)) (ids.filter fun n => decide (above < n))).flatMap (leBytes 4)
  fun i => l.getD i 0

/-- Identify structures that the module answers: 0x00 a namespace, 0x01 the controller, 0x02 the attached and 0x10 all
NSIDs, and with free contents those that the command sets of R387 add (0x03, 0x05, 0x06, 0x08, 0x1C). -/
def State.identData (s : State) (cntlid cns nsid : Nat) : Option (Nat → Byte) :=
  if cns = 0x00 then (s.ns? nsid).map fun n => n.ident s.free
  else if cns = 0x01 then some (s.identCtrl cntlid)
  else if cns = 0x02 then some (nsidList ((s.host.nss.filter fun n => n.attached.contains cntlid).map (·.nsid)) nsid)
  else if cns = 0x10 then some (nsidList (s.host.nss.map (·.nsid)) nsid)
  else if cns = 0x03 ∨ cns = 0x05 ∨ cns = 0x06 ∨ cns = 0x08 ∨ cns = 0x1C then some (freeByte s.free)
  else none

/-- IDENTIFY (R5, R6). -/
def execIdentify (h : Hdr) (cns : Nat) (nsid : Nat) (s : State) : Out :=
  .next (s.commandAny h fun _ =>
    match s.identData (hdrCtrl h) cns nsid with
    | some f => (({ s with free := s.free + 1 }).send (.c2hData h (identBytes f))).ok h
    | none => if cns = 0x00 then s.post h 0 0x0B 0 0 else s.badField h)

/-- GET_LOG_PAGE (R431): len bytes from a dword offset within the page. -/
def execGetLogPage (h : Hdr) (page : Nat) (lsp : Nat) (off len : Nat) (s : State) : Out :=
  .next (s.commandAny h fun c =>
    match s.logPageOf c page lsp with
    | .error .denied => s.denied h
    | .error .noPage => s.post h 1 0x09 0 0
    | .ok p =>
      if off % 4 ≠ 0 ∨ p.len ≤ off ∨ len = 0 ∨ len % 4 ≠ 0 ∨ Config.mdts < len then s.badField h
      else (({ s with free := s.free + 2 }).send (.c2hData h (p.bytes s.free off len))).ok h)

/-- ASYNCHRONOUS_EVENT_REQUEST (R387, R434): it waits for an event, or takes one that waits for it. -/
def execAsynchronousEventRequest (h : Hdr) (s : State) : Out :=
  .next (s.command h fun _ =>
    match s.host.aerQueue.find? (fun a => a.1 == hdrCtrl h) with
    | some a => { s with host := { s.host with aerQueue := s.host.aerQueue.erase a, aers := s.host.aers ++ [(h, a.2)] } }
    | none => { s with host := { s.host with aerReqs := s.host.aerReqs ++ [h] } })

/-- ABORT (R394, R397, R398): bit 0 of DW0 is 0 when the command was caught, and its completion is posted first. -/
def execAbort (h : Hdr) (sq cid : Nat) (s : State) : Out :=
  .next (s.command h fun _ =>
    match s.host.cmds.find? (fun o => o.hdr == { path := h.path, sq, cid }) with
    | some o => if s.catchable o then (s.caught o .aborted).okDw h 0 0 else s.okDw h 1 0
    | none => s.okDw h 1 0)

/-- UNSUPPORTED_COMMAND (R387, R423, R591). -/
def execUnsupportedCommand (h : Hdr) (_opc : Nat) (s : State) : Out := .next (s.arriveAny h fun _ => s.badOpcode h)

end Sys2Proof.Machine
end

