-- ==== Sys2Proof/Machine/Answers.lean ====
section
/-!
DEFINITION. The service of translation faults (R255 to R259, R263, R279): what firmware answers, and what waits for it.
-/
namespace Sys2Proof.Machine

/-- What the access of a fault record finds now; none when whoever raised it is gone. -/
def State.faultFinds (s : State) (f : FaultRec) : Option Xlate :=
  match f.host with
  | some h => if s.outstanding h then some (xlate (s.pageAt f.ctx (f.va / 65536)) f.wr) else none
  | none => (s.ex? f.exec).map fun e => s.lookUp e (f.va / 65536) f.op f.wr

/-- Records leave the queue, and their service time is measured (R256, R259). -/
def State.dequeue (s : State) (fs : List FaultRec) : State :=
  let us (f : FaultRec) : Nat := min 65535 ((s.now - f.at_) / 1000)
  { s with tiers := { s.tiers with
      faults := s.tiers.faults.filter fun x => !(fs.any fun f => f.id == x.id)
      maxUs := fs.foldl (fun m f => max m (us f)) s.tiers.maxUs } }

/-- A record is answered with a mapping: so is every other record on the page of its context that the mapping answers (R279).
Commands of the host DMA go on. -/
def State.answered (s : State) (f : FaultRec) : State :=
  let fs := s.tiers.faults.filter fun x => x.id == f.id || (x.ctx == f.ctx && x.va == f.va && s.faultFinds x == some .ok)
  (fs.filterMap (·.host)).foldl State.dmaResume (s.dequeue fs)

/-- A record is refused: its execution ends, or its host command does (R256, R257; log entry 150). -/
def State.refuseFault (s : State) (f : FaultRec) (sc : Nat) (dw : W32 × W32) : State :=
  let s := s.dequeue [f]
  match f.host with
  | some h => if s.outstanding h then s.laesk h sc dw.1 dw.2 else s
  | none => (match s.ex? f.exec with
    | some e => s.faultEnd e sc dw
    | none => s)

/-- What firmware's search for a zero frame comes to. -/
inductive Frame where
  | mapped (s : State)
  | later (s : State)
  | never

/-- A zero frame for a page (R256): in its own tier, after demotion if need be, else in another tier of its kind. A page of T1 or
T2 takes a frame of the firmware reserve while a demotion is under way, since fault service waits for nothing (R231, R276);
one of T0 waits for the demotion. -/
def State.zeroFrame (s : State) (a : Alloc) (i : Nat) : Frame :=
  let t := (a.page i).tier
  let n := (a.unitAt i).2
  if n ≤ s.freePages t then .mapped (s.mapZero a i t)
  else if n ≤ s.freePages t + s.leaving t + s.canDemote t then
    let r := s.demoteSome t (n - (s.freePages t + s.leaving t))
    if t = .t0 then .later r else .mapped (r.mapZero a i t)
  else if t = .t0 then .never
  else match [Tier.t1, .t2, .t3].find? (fun u => decide (n ≤ s.freePages u)) with
    | some u => .mapped (s.mapZero a i u)
    | none => .never

/-- FAULT_RECORD_ANSWER (R256, R263): firmware maps the page, waits for a switch, or refuses. A mapping that it had begun for a
step that has been abandoned is completed and kept. -/
def execFaultRecordAnswer (rec : Nat) (s : State) : Out :=
  .next (match s.tiers.faults.find? (fun f => f.id == rec) with
    | some f => (match s.faultFinds f with
      | none => s.dequeue [f]
      | some .ok => s.answered f
      | some .switching => s
      | some (.zod a i) => (match s.zeroFrame a i with
        | .mapped t => t.answered f
        | .later t => t
        | .never => s.refuseFault f 0x8A (BitVec.ofNat 32 (tierNo (a.page i).tier), 0))
      | some .fault => s.refuseFault f 0x86 (faultDw f.va 1))
    | none => match s.tiers.cancelled.find? (fun f => f.id == rec) with
      | none => s
      | some f =>
        let s := { s with tiers := { s.tiers with cancelled := s.tiers.cancelled.filter fun x => x.id != rec } }
        match xlate (s.pageAt f.ctx (f.va / 65536)) f.wr with
        | .zod a i => (match s.zeroFrame a i with
          | .mapped t => t
          | .later _ | .never => s)
        | _ => s)

/-- TRANSLATION_FAULT_TIMEOUT (R257). -/
def execTranslationFaultTimeout (rec : Nat) (s : State) : Out :=
  .next (match s.tiers.faults.find? (fun f => f.id == rec) with
    | none => s
    | some f => if s.now < f.at_ + 20000 then s else s.refuseFault f 0x86 (faultDw f.va 0))

end Sys2Proof.Machine
end

