-- ==== Sys2Proof/Machine/Upkeep.lean ====
section
/-!
DEFINITION. Firmware commands (R582, R585), Fault Inject (R426), Partition Table Update (R268 to R272, R427) and Settings
(R419, R428 to R430, R496, R503), and the IEEE 1588 clock of the host ports (R420 to R422).
-/
namespace Sys2Proof.Machine

/-! ## Firmware (R581, R582, R585, R586) -/

/-- FIRMWARE_IMAGE_DOWNLOAD (R582): a piece of the image; img is what the whole image is. -/
def execFirmwareImageDownload (h : Hdr) (off : Nat) (len : Nat) (img : FwImage) (s : State) : Out :=
  .next (s.rootAny h (
    if len = 0 ∨ len % 4 ≠ 0 ∨ off % 4 ≠ 0 ∨ Config.mdts < len then s.badField h
    else ({ s with fw := { s.fw with download := some img, downloadLen := max s.fw.downloadLen (off + len) } }).ok h))

/-- The image in a slot; slot B is true. -/
def Firmware.slot (f : Firmware) (b : Bool) : Option FwImage := if b then f.imgB else f.imgA

/-- Put an image into a slot; its count of failed boots starts afresh. -/
def Firmware.putSlot (f : Firmware) (b : Bool) (i : FwImage) : Firmware :=
  if b then { f with imgB := some i, failsB := 0 } else { f with imgA := some i, failsA := 0 }

/-- The partner runs a different major number (R585). -/
def State.otherMajor (s : State) (i : FwImage) : Bool := s.paired && decide (i.major ≠ s.fw.partnerMajor)

/-- Stage the other slot, or leave it neither trial nor committed (R582); any commit ends fell_back (R586). -/
def State.stage (s : State) (f : Firmware) (b : Bool) (on : Bool) : State :=
  { s with fw := { f with
      trial := if on then some b else none, fellBack := false, download := none, downloadLen := 0
      stagedPaired := on && s.paired, oldRecord := none } }

/-- FIRMWARE_COMMIT (R582, R585). Slots 1 and 2 are A and B; slot 0 leaves the choice to the module, which takes the
other slot. -/
def execFirmwareCommit (h : Hdr) (action slot : Nat) (s : State) : Out :=
  .next (s.rootAny h (
    let b := if slot = 0 then !s.fw.running else decide (slot = 2)
    if s.fw.inTrial then s.badSeq h
    else if 2 < action then s.badField h
    else if 2 < slot ∨ b = s.fw.running then s.post h 1 0x06 0 0
    else
      let img := if action = 2 then s.fw.slot b else s.fw.download
      match img with
      | none => s.post h 1 0x07 0 0
      | some i =>
        if !i.signed then s.post h 1 0x07 0 0
        else if s.otherMajor i then s.badSeq h
        else if action = 2 then (s.stage s.fw b true).ok h
        else (s.stage (s.fw.putSlot b i) b (decide (action = 1))).ok h))

/-! ## Fault Inject (R426, R435, R550) -/

/-- The unit that a fault source stands for, among those that can be reset alone (R525, R547). -/
def sourceUnit (n : Nat) : Option ResetUnit :=
  if 0x10 ≤ n ∧ n ≤ 0x1F then some (.comp (Fin.ofNat 16 (n - 0x10)))
  else if 0x60 ≤ n ∧ n ≤ 0x6F then some (.t1 (Fin.ofNat 16 (n - 0x60)))
  else if 0x70 ≤ n ∧ n ≤ 0x7F then some (.t2 (Fin.ofNat 16 (n - 0x70)))
  else if 0x80 ≤ n ∧ n ≤ 0x8F then some (.bridge (Fin.ofNat 16 (n - 0x80)))
  else if 0xB0 ≤ n ∧ n ≤ 0xB3 then some (.hostPort (Fin.ofNat 4 (n - 0xB0)))
  else if 0xB4 ≤ n ∧ n ≤ 0xB7 then some (.cable (Fin.ofNat 4 (n - 0xB4)))
  else none

/-- The register block of a unit, or 0 (R435). -/
def unitBlock : ResetUnit → Nat
  | .bridge _ => 0x0B
  | .cable _ => 0x0C
  | .hostPort _ => 0x09
  | .pipe _ => 0x08
  | .t1 _ | .t2 _ | .comp _ => 0

/-- FAULT_INJECT (R15, R426). -/
def execFaultInject (h : Hdr) (src : Fin 256) (mask count : Nat) (s : State) : Out :=
  .next (s.rsCmd h (0x0D + 256 * (0x100 + src.val)) (
    if count = 0 ∨ 255 < count then s.badField h
    else match sourceUnit src.val with
      | some u => if s.units.resetting.contains u then s.laesk h 0x88 (BitVec.ofNat 32 (unitBlock u)) 0 else (s.putInj src.val mask count).ok h
      | none => (s.putInj src.val mask count).ok h))

/-! ## Partition Table Update (R268 to R272, R427) -/

/-- Some reserved field of an entry is not 0 (R268). -/
def reservedSet (e : Nat) : Bool :=
  bitsOf e 2055 2054 != 0 || bitsOf e 2063 2057 != 0 || bitsOf e 4095 3520 != 0
    || (upto 16).any fun k => bitsOf e (2303 + 64 * k) (2288 + 64 * k) != 0

/-- Window k of an entry: owner and allocation, read, write. -/
def winAt (e k : Nat) : Nat × Nat × Bool × Bool :=
  let w := bitsOf e (2303 + 64 * k) (2240 + 64 * k)
  (bitsOf w 5 0, bitsOf w 47 8, decide (bitsOf w 6 6 = 1), decide (bitsOf w 7 7 = 1))

/-- Some entry grants a right in one of its windows. -/
def winRight (e : Nat) (o a : Nat) (wr : Bool) : Bool :=
  (upto 16).any fun k => let w := winAt e k; decide (w.1 = o) && decide (w.2.1 = a) && (if wr then w.2.2.2 else w.2.2.1)

/-- An update removes a right (R272): a namespace, an engine, enabled, a key slot or a window. -/
def revokes (old new : Nat) : Bool :=
  let lost (hi lo : Nat) : Bool := (bitsOf old hi lo &&& bitsOf new hi lo) != bitsOf old hi lo
  lost 2053 0 || lost 2056 2056 || lost 3519 3264
    || (upto 16).any fun k => let w := winAt old k
        (w.2.2.1 && !(winRight new w.1 w.2.1 false)) || (w.2.2.2 && !(winRight new w.1 w.2.1 true))

/-- PARTITION_TABLE_UPDATE (R15, R270 to R272, R427, R493): an update that is still to take effect takes effect first. The
log names a refused one's entry by block code 0x06, whose indexes from 1 on the model gives to the entries (log entry 34). -/
def execPartitionTableUpdate (h : Hdr) (ctx : Fin 64) (entry : BitVec 4096) (s : State) : Out :=
  .next (s.rsCmd h (0x06 + 256 * (1 + ctx.val)) (
    if ctx = 0 ∨ reservedSet entry.toNat then s.badField h
    else
      let s := s.switchTable
      let n := s.part.epoch + 1
      let old := s.part.entries[ctx]
      let rev := if revokes old.toNat entry.toNat then s.part.revoking ++ [(h, ctx, old)] else s.part.revoking
      let s := { s with part := { s.part with next := some (n, ctx, entry), revoking := rev } }
      s.waitFor { hdr := h, body := .other, wait := .revoke, dw0 := BitVec.ofNat 32 n }))

/-! ## Settings (R393, R419, R428, R430, R496, R503) -/

/-- Bind a host NQN to a context (R393). -/
def State.bindNqn (s : State) (nqn : List Nat) (c : Fin 64) : State :=
  { s with host := { s.host with bind := s.host.bind.filter (fun b => !(b.1 == nqn)) ++ [(nqn, c)] } }

/-- The command came over a host port. -/
def hostPath (h : Hdr) : Bool := match h.path with | .ctrl _ => true | _ => false

/-- HOST_BINDING_SET (R393, R428): context 0 is bound through the management path. -/
def execHostBindingSet (h : Hdr) (nqn : List Nat) (ctx : Fin 64) (s : State) : Out :=
  .next (s.rootAny h (
    if 256 < nqn.length ∨ (ctx = 0 ∧ hostPath h = true) then s.badField h
    else (s.bindNqn nqn ctx).okAfterEpoch h .other 0 0))

/-- An NQN in 256 bytes. -/
def nqnBytes (n : List Nat) : List Byte := (ascii n ++ zeros 256).take 256

/-- HOST_BINDING_GET (R428). -/
def execHostBindingGet (h : Hdr) (ctx : Fin 64) (s : State) : Out :=
  .next (s.rootAny h ((s.send (.c2hData h ((s.host.bind.filter fun b => b.2 == ctx).flatMap fun b => nqnBytes b.1))).ok h))

/-- SPILL_AREA_SET (R231, R430): below its occupied pages it is refused with status 0x8A, and so is one for which the namespaces
leave too little flash (log entry 148). -/
def execSpillAreaSet (h : Hdr) (gib : Nat) (s : State) : Out :=
  .next (s.rootAny h (
    if 16384 < gib then s.badField h
    else if gib * 16384 < s.usedPages .t3 ∨ Config.userBlocks < s.nsBlocks + 262144 * gib then s.laesk h 0x8A (capDw .t3 false) 0
    else ({ s with tiers := { s.tiers with spillGib := gib } }).okAfterEpoch h .other 0 0))

/-- SPILL_AREA_GET (R428). -/
def execSpillAreaGet (h : Hdr) (s : State) : Out := .next (s.rootAny h (s.okDw h (BitVec.ofNat 32 s.tiers.spillGib) 0))

/-- KEY_INSTALL (R416, R419): over TLS, two distinct 256-bit halves. -/
def execKeyInstall (h : Hdr) (slot : Fin 256) (key : BitVec 512) (s : State) : Out :=
  .next (s.rootAny h (
    if !s.overTls h then s.denied h
    else if key.extractLsb' 0 256 = key.extractLsb' 256 256 then s.badField h
    else ({ s with host := { s.host with keys := assocPut slot.val key s.host.keys } }).okAfterEpoch h .other 0 0))

/-- KEY_CLEAR (R419). -/
def execKeyClear (h : Hdr) (slot : Fin 256) (s : State) : Out :=
  .next (s.rootAny h (({ s with host := { s.host with keys := assocErase slot.val s.host.keys } }).okAfterEpoch h .other 0 0))

/-- TIME_SET (R428). -/
def execTimeSet (h : Hdr) (domain transport : Nat) (s : State) : Out :=
  .next (s.rootAny h (
    if 127 < domain ∨ 2 < transport then s.badField h
    else ({ s with ptp := { s.ptp with domain, transport } }).okAfterEpoch h .other 0 0))

/-- TIME_GET (R428). -/
def execTimeGet (h : Hdr) (s : State) : Out :=
  .next (s.rootAny h (s.okDw h (BitVec.ofNat 32 (s.ptp.domain + 256 * s.ptp.transport)) 0))

/-- Executions that wait under the refuse policy may resume (R503, R517). -/
def State.endPolicyWait (s : State) : State :=
  { s with sched := { s.sched with execs := s.sched.execs.map fun e =>
      if e.phase = .policyWait then { e with phase := .preempted } else e } }

/-- SOLO_WRITE_POLICY_SET (R503). -/
def execSoloWritePolicySet (h : Hdr) (refuse : Bool) (s : State) : Out :=
  .next (s.rootAny h (
    let s := { s with twin := { s.twin with refuse } }
    (if refuse then s else s.endPolicyWait).okAfterEpoch h .other 0 0))

/-- SOLO_WRITE_POLICY_GET (R428). -/
def execSoloWritePolicyGet (h : Hdr) (s : State) : Out :=
  .next (s.rootAny h (s.okDw h (if s.twin.refuse then 1 else 0) 0))

/-- WITNESS_SET (R496): 256 bytes of up to four addresses. -/
def execWitnessSet (h : Hdr) (data : List Byte) (s : State) : Out :=
  .next (s.rootAny h (
    if data.length ≠ 256 then s.badField h
    else ({ s with twin := { s.twin with witness := data } }).okAfterEpoch h .other 0 0))

/-- WITNESS_GET (R428). -/
def execWitnessGet (h : Hdr) (s : State) : Out :=
  .next (s.rootAny h ((s.send (.c2hData h ((s.twin.witness ++ zeros 256).take 256))).ok h))

/-! ## Time (R420 to R422) -/

/-- PTP_MESSAGE (R420, R422): the port's clock has a master in the configured domain, with the offset measured from
it, or has lost it. Of several ports with a master the one in use stays in use; which one the best master clock
algorithm prefers is the message's own choice when none is. -/
def execPtpMessage (port : Fin 4) (domain : Nat) (master : Bool) (offset : W32) (s : State) : Out :=
  .next (
    if !s.serving ∨ !s.portUp port ∨ domain ≠ s.ptp.domain then s
    else
      if master then
        let p : Ptp := { s.ptp with ports := vset s.ptp.ports port true }
        let p : Ptp := if !p.locked then { p with locked := true, ever := true, port, offset }
          else if p.port = port then { p with offset } else p
        { s with ptp := p }
      else { s with ptp := s.ptp.drop port s.now })

/-- PTP_MASTER_LOSS (R421): every port has lost its master, and holdover begins. -/
def execPtpMasterLoss (s : State) : Out :=
  .next { s with ptp := ({ s.ptp with ports := Vector.replicate 4 false }).lose s.now }

end Sys2Proof.Machine
end

