-- ==== Sys2Proof/Machine/FlashEvents.lean ====
section
/-!
DEFINITION. What happens in the flash (R441 to R470, R519): reads and their recovery, programs, erases, the fold, garbage
collection, patrol, die failures, the hold-up measurement, loss of power, recovery, and bridge resets.
-/
namespace Sys2Proof.Machine

/-! ## Blocks in superblocks -/

/-- The valid blocks of a superblock: key and place, in the order in which they were written. -/
def State.validIn (s : State) (sb : Nat) : List (Nat × Loc) :=
  sortBy (fun (a b : Nat × Loc) => decide (a.2.stripe * 124 + a.2.slot < b.2.stripe * 124 + b.2.slot))
    (s.flash.map.filter fun m => decide (m.2.sb = sb))

/-- Keys of blocks that a move under way carries. -/
def State.movingKeys (s : State) : List Nat :=
  s.flash.ops.flatMap fun o => match o with
    | .program _ _ _ entries .. => (entries.filter fun e => e.2.isSome).map (·.1)
    | .erase .. => []

/-- Valid blocks of a superblock that no move carries yet, a stripe of them at most. -/
def State.toMove (s : State) (sb : Nat) : List (Nat × Loc) :=
  let ks := s.movingKeys
  ((s.validIn sb).filter fun m => !ks.contains m.1).take 124

/-- Start to move some of a superblock's valid blocks (R455, R458, R459). -/
def State.move (s : State) (sb : Nat) (gc : Bool) : State :=
  match s.toMove sb with
  | [] => s
  | ms => s.program false gc (ms.map fun m => (m.1, some m.2)) []

/-- The superblock was last used in pSLC mode. -/
def Sb.isPslc (x : Sb) : Bool :=
  match x.state with
  | .pslc | .open true _ | .erasing true => true
  | _ => false

/-! ## Erasing (R464, R465, R472) -/

/-- Erase operations under way on a superblock. -/
def State.erasingIn (s : State) (sb : Nat) : Bool := s.flash.ops.any fun o => match o with
  | .erase _ n .. => decide (n = sb)
  | .program .. => false

/-- Start the erase of one erase block: an erase-intent record first (R464). -/
def State.eraseBlock (s : State) (sb : Nat) (ch : Fin 32) : State :=
  let b := Fin.ofNat 16 (groupOfSb sb / 8)
  let j := (s.flash.bridges[b]).jseq + 1
  let x := s.sb sb
  let rest := s.flash.intents.filter fun i => !(decide (i.sb = sb) && i.chan == ch)
  let one : Intent := { sb, chan := ch, count := x.eraseQ + x.eraseP + 1, jseq := j }
  { s with flash := { s.flash with
      bridges := vmod s.flash.bridges b fun y => { y with jseq := j }
      intents := rest ++ [one]
      ops := s.flash.ops ++ [DieOp.erase s.flash.nextOp sb ch j (s.bridgeEpoch sb)]
      nextOp := s.flash.nextOp + 1 } }

/-- Start the erases of a superblock's blocks that are neither erased nor under way, as far as its group's busy limit
allows (R445). -/
def State.eraseSome (s : State) (sb : Nat) : State :=
  (List.finRange 32).foldl (fun s c =>
    let under := s.flash.ops.any fun o => match o with
      | .erase _ n k .. => decide (n = sb) && k == c
      | .program .. => false
    if (s.sb sb).erased.getLsbD c.val || under || !s.mayStart (groupOfSb sb) then s else s.eraseBlock sb c) s

/-- Erase an empty superblock. -/
def State.eraseSb (s : State) (sb : Nat) : State :=
  (match (s.sb sb).state with
    | .erasing _ => s
    | _ => s.modSb sb fun x => { x with state := .erasing x.isPslc, erased := 0 }).eraseSome sb

/-- The end of one erase: the block has its erase-complete stamp; with its last block the superblock is free. -/
def State.eraseDone (s : State) (op : DieOp) : State :=
  match op with
  | .program .. => s
  | .erase id sb ch j _ =>
    let x := s.sb sb
    let rest := s.flash.stamps.filter fun i => !(decide (i.sb = sb) && i.chan == ch)
    let one : Intent := { sb, chan := ch, count := x.eraseQ + x.eraseP + 1, jseq := j }
    let s := { s with flash := { s.flash with
      ops := s.flash.ops.filter fun o => !(decide (o.id = id)), stamps := rest ++ [one] } }
    let er := x.erased ||| BitVec.twoPow 32 ch.val
    if er = BitVec.allOnes 32 then
      let pslc := x.isPslc
      let s := s.modSb sb fun y => { y with
        state := .free, nextStripe := 0, reads := [], erased := 0, refresh := false
        eraseQ := if pslc then y.eraseQ else y.eraseQ + 1
        eraseP := if pslc then y.eraseP + 1 else y.eraseP }
      { s with flash := { s.flash with
          pslcOrder := s.flash.pslcOrder.filter fun n => n != sb
          credit := if s.freeSbs < 256 then s.flash.credit + 1 else 0 } }
    else s.modSb sb fun y => { y with erased := er }

/-- FLASH_ERASE_COMPLETE (R464). A reply to a request that its bridge's reset has already answered is discarded (R549). -/
def execFlashEraseComplete (op : Nat) (s : State) : Out :=
  .next (match s.flash.ops.find? (fun o => decide (o.id = op)) with
    | some o => if o.uep = s.bridgeEpoch o.sb then s.eraseDone o else s.staleReply
    | none => s)

/-- A block is half-erased by the table of R465. -/
def State.halfErased (s : State) (sb : Nat) (ch : Fin 32) (over96 : Bool) : Bool :=
  match s.flash.intents.find? (fun i => decide (i.sb = sb) && i.chan == ch) with
  | none => over96
  | some i => over96 || !(s.flash.stamps.any fun t => decide (t.sb = sb) && t.chan == ch && decide (t.jseq = i.jseq) && decide (t.count = i.count))

/-- Erase one half-erased block of a free superblock again. -/
def State.eraseAgain (s : State) (sb : Nat) (ch : Fin 32) : State :=
  (s.modSb sb fun x => { x with state := .erasing false, erased := ~~~(BitVec.twoPow 32 ch.val) }).eraseBlock sb ch

/-- BLOCK_OPEN_ERASE_VERIFY (R465): before a free block is opened. -/
def execBlockOpenEraseVerify (sb : Nat) (chan : Fin 32) (over96 : Bool) (s : State) : Out :=
  .next (if Config.superblocks ≤ sb ∨ (s.sb sb).state ≠ .free ∨ s.erasingIn sb then s
    else if s.halfErased sb chan over96 then s.eraseAgain sb chan else s)

/-! ## Programs, the fold, garbage collection, checkpoints (R455 to R459) -/

/-- FLASH_PROGRAM_COMPLETE (R457, R459). A reply to a request that its bridge's reset has already answered is discarded
(R549). -/
def execFlashProgramComplete (op : Nat) (verified : Bool) (s : State) : Out :=
  .next (match s.flash.ops.find? (fun o => decide (o.id = op)) with
    | some (.program id sb st en sq u) =>
      if u = s.bridgeEpoch sb then (s.programDone (.program id sb st en sq u) verified).gather else s.staleReply
    | _ => s)

/-- PSLC_FOLD (R455): a group has a spare busy slot; the oldest pSLC data moves, and a pSLC superblock without valid
data is erased. -/
def execPslcFold (group : Fin 128) (s : State) : Out :=
  .next (if !s.mayStart group.val then s
    else match s.flash.pslcOrder.find? (fun n => (s.toMove n) != [] || ((s.sb n).state == .pslc && (s.validIn n).isEmpty)) with
      | none => s
      | some n => if (s.toMove n) ≠ [] then s.move n false else s.eraseSb n)

/-- Superblocks with blocks that a snapshot holds: replaced pages of generations not yet deallocated (R321). -/
def State.heldSbs (s : State) : List Nat :=
  (s.indexes.flatMap fun x => x.old.flatMap fun o =>
    let new := match x.old.find? (fun q => q.1 == o.1 + 1) with
      | some q => q.2
      | none => (s.blk x.nsid 0).data
    (s.replacedRuns x.nsid o.2 new).flatMap fun r =>
      (upto r.2).filterMap fun k => (assocGet (blkKey x.nsid (r.1 + k)) s.flash.map).map (·.sb)).dedup

/-- The better victim: fewer valid blocks, then closed earlier (R458). -/
def State.victim (s : State) (a b : Nat × Sb) : Nat × Sb :=
  let na := (s.validIn a.1).length
  let nb := (s.validIn b.1).length
  if na < nb then a else if nb < na then b else if a.2.closedSeq ≤ b.2.closedSeq then a else b

/-- The victim of garbage collection (R458). -/
def State.gcVictim (s : State) : Option Nat :=
  let held := s.heldSbs
  let cs := s.flash.sbs.filter fun x => x.2.state == .closed && !held.contains x.1 && !s.flash.retired.contains (groupOfSb x.1)
    && !(s.flash.failed.any fun f => decide (f.1 = groupOfSb x.1))
  match cs with
  | [] => none
  | x :: t => some (t.foldl s.victim x).1

/-- Relocate a superblock: its blocks move, and once it is empty it is erased. -/
def State.collect (s : State) (sb : Nat) : State :=
  if (s.toMove sb) ≠ [] then s.move sb true
  else if (s.validIn sb).isEmpty then s.eraseSb sb
  else s

/-- GARBAGE_COLLECTION (R458, R469): superblocks that are being erased or refreshed go on; below 2,048 free ones a
victim is collected. -/
def execGarbageCollection (s : State) : Out :=
  .next (match s.flash.sbs.find? (fun x => match x.2.state with | .erasing _ => x.2.erased != BitVec.allOnes 32 && !s.erasingIn x.1 | _ => false) with
    | some x => s.eraseSome x.1
    | none => match s.flash.sbs.find? (fun x => x.2.refresh && (x.2.state == .closed || x.2.state == .pslc)) with
      | some x => s.collect x.1
      | none => if s.freeSbs < 2048 then (match s.gcVictim with
          | some n => s.collect n
          | none => s) else s)

/-- MAP_CHECKPOINT (R457, R465): the journal starts afresh, and with it the record of intents that have their
stamp. -/
def execMapCheckpoint (s : State) : Out :=
  .next (let open_ := s.flash.intents.filter fun i => s.halfErased i.sb i.chan false
    { s with flash := { s.flash with journal := 0, intents := open_, stamps := [] } })

/-! ## Reads and their recovery (R444, R448, R519, R552) -/

/-- How a read ends. -/
inductive ReadEnd where
  | clean
  | corrected
  | rebuilt (busy : Bool)
  | fetched
  | lost
  deriving DecidableEq, Repr

/-- The die group of a die (R441). -/
def dieGroup (d : Die) : Nat := 8 * d.bridge.val + d.pos.val

/-- The status word that a busy die returns to a read (R444): its state in bits [7:0], and in bits [31:8] the µs that its operation
has left, which no rule gives. A stripe program keeps one die of its group busy at a time, and which one it has come to is a free
value (log entry 35). -/
def State.dieStatus (s : State) (d : Die) : Option W32 :=
  (s.flash.ops.find? fun o => decide (groupOfSb o.sb = (dieGroup d)) && (match o with
    | .erase _ _ c .. => c == d.chan
    | .program id .. => Config.programDie id s.now == d.chan)).map fun o =>
      (Config.dieLeft o.id s.now <<< 8) ||| (match o with | .program .. => 0x01#32 | .erase .. => 0x02#32)

/-- The read is served by rebuild: its die is the one busy die of its group, or the group has a failed die (R444, R449). Where
another die of the group is busy too, the operation is suspended for the read, and ends as if it had not been (R446). -/
def State.byRebuild (s : State) (d : Die) : Bool :=
  s.flash.failed.any (fun f => decide (f.1 = (dieGroup d))) || (decide (s.busyIn (dieGroup d) = 1) && (s.dieStatus d).isSome)

/-- The other pages of a stripe can serve a rebuild: they decode, and no second die of the group has failed (R448, R449). -/
def State.othersOk (s : State) (d : Die) (f : ReadFacts) : Bool :=
  f.others && decide (s.flash.failed.countP (fun x => decide (x.1 = (dieGroup d))) ≤ 1)

/-- The ladder of R448; a guard that does not match is uncorrectable data (R519). -/
def State.ladder (s : State) (d : Die) (f : ReadFacts) : ReadEnd :=
  let last : ReadEnd := if s.paired ∧ f.partner then .fetched else .lost
  if !f.guardOk then .lost
  else if s.byRebuild d then (if s.othersOk d f then .rebuilt true else last)
  else if f.first then .clean
  else if f.retry.isSome ∨ f.soft then .corrected
  else if s.othersOk d f then .rebuilt false
  else last

/-- Count a read's end in the Health Detail counts (R432, R448). -/
def Health.readEnd (h : Health) (now : Nat) : ReadEnd → Health
  | .clean => h
  | .corrected => { h with ldpcCorr := satAdd max64 h.ldpcCorr 1 }
  | .rebuilt _ => { h with rebuilt := satAdd max64 h.rebuilt 1 }
  | .fetched => { h with uncorr := satAdd max64 h.uncorr 1 }
  | .lost => { h with uncorr := satAdd max64 h.uncorr 1, uncorrAt := some now }

/-- One more read of a block's pages (R470). -/
def Sb.readOnce (x : Sb) (ch : Nat) : Sb := { x with reads := assocPut ch ((assocGet ch x.reads).getD 0 + 1) x.reads }

/-- The pages that a read takes its data from count it (R444, R470): the target's, and for a rebuild the other 31 of the stripe. A
busy die's page is not read. -/
def Sb.readFor (x : Sb) (ch : Nat) (e : ReadEnd) : Sb :=
  match e with
  | .rebuilt busy => (upto 32).foldl (fun x c => if busy ∧ c = ch then x else x.readOnce c) x
  | _ => x.readOnce ch

/-- A block recovered at step 3 or 4 is rewritten at a new place, and its source is scheduled for a check (R448). -/
def State.rewrite (s : State) (key : Nat) : State :=
  match assocGet key s.flash.map with
  | none => s
  | some l =>
    let s := { s with flash := { s.flash with retireCheck := if s.flash.retireCheck.contains l.sb then s.flash.retireCheck else s.flash.retireCheck ++ [l.sb] } }
    if s.movingKeys.contains key then s else s.program false true [(key, some l)] []

/-- The reader of a block gets it, or is told that it is lost. -/
def State.readTo (s : State) (rd : Reader) (nsid lba : Nat) (e : ReadEnd) : State :=
  match rd with
  | .host h => (match s.host.cmds.find? (fun o => o.hdr == h) with
    | some o => (match o.body with
      | .read n l k left send =>
        if n ≠ nsid ∨ !left.contains lba then s
        else if e = .lost then s.post h 2 0x81 0 0
        else match left.erase lba with
          | [] => s.finishRead h n l k send
          | left' => s.waitFor { o with body := .read n l k left' send }
      | _ => s)
    | none => s)
  | .step id => (match s.running? id with
    | some x =>
      if e = .lost then s.jobFail x 0x85 0 x.step32
      else match e with
        | .rebuilt _ =>
          if x.st.ops.any (fun o => match o.kind with | .galley .. => true | _ => false) then
            { s with eng := { s.eng with rebuilt := satAdd 65535 s.eng.rebuilt 1 } }
          else s
        | _ => s
    | none => s)
  | .patrol | .runAhead _ => s

/-- A run-ahead read of a namespace passes the checks that an ordinary read of its execution would: it is not made otherwise
(R278). An execution that is gone discards the data; its read disturb has happened. -/
def State.mayRunAhead (s : State) (id nsid : Nat) : Bool :=
  match s.ex? id with
  | some e => s.nsRd e.ctx nsid
  | none => true

/-- The number of a flash source (R525). -/
def flashSrc (d : Die) : Fin 256 := Fin.ofNat 256 (0x90 + d.bridge.val)

/-- The location field of a die (R560). -/
def dieWhere (d : Die) : BitVec 24 := BitVec.ofNat 24 (d.chan.val + 32 * d.pos.val)

/-- FLASH_READ_COMPLETE (R444, R448, R519, R552). A run-ahead read that fails is discarded with a Note. -/
def execFlashReadComplete (rd : Reader) (nsid lba : Nat) (die : Die) (f : ReadFacts) (s : State) : Out :=
  .next (
    let key := blkKey nsid lba
    match assocGet key s.flash.map with
    | none => s
    | some l =>
      if !onDie l die then s
      else if !(match rd with | .runAhead id => s.mayRunAhead id nsid | _ => true) then s
      else
        let e := s.ladder die f
        let s := s.modSb l.sb fun x => x.readFor die.chan.val e
        match rd with
        | .runAhead _ => if e = .lost then s.report (flashSrc die) 1 (dieWhere die) none else s
        | _ =>
          let s := { s with health := s.health.readEnd s.now e }
          let s := match e with
            | .corrected | .rebuilt false => s.report (flashSrc die) 1 (dieWhere die) none
            | .lost => s.report (flashSrc die) 2 (dieWhere die) none
            | .fetched => s.toPeer (.fetch nsid lba)
            | .clean | .rebuilt true => s
          let s := match e with
            | .rebuilt false | .fetched => s.rewrite key
            | _ => s
          s.readTo rd nsid lba e)

/-- PARTNER_BLOCK_FETCH (R448): the partner asks for a block, and gets it where this module holds it. -/
def execPartnerBlockFetch (nsid lba : Nat) (s : State) : Out :=
  .next (if !s.paired then s
    else
      let key := blkKey nsid lba
      let holds := (assocGet key s.flash.map).isSome || s.flash.dirty.any fun d => d.key == key
      s.toPeer (.fetched nsid lba (if holds then some (s.blk nsid lba) else none)))

/-- Superblocks in use: their dies have programmed pages. -/
def State.programmedStripes (s : State) : Nat :=
  (s.flash.sbs.map fun x => match x.2.state with | .free | .erasing _ => 0 | _ => x.2.nextStripe).sum

/-- Progress of a scrubber: a lap ends when all of its bytes have been checked (R555). -/
def Scrub.advance (x : Scrub) (now bytes total : Nat) : Scrub :=
  if total ≤ x.progress + bytes then
    { x with laps := satAdd max64 x.laps 1, lastMs := (now - x.startAt) / 1000000, progress := 0, startAt := now }
  else { x with progress := x.progress + bytes }

/-- PATROL_READ (R469, R470): one stripe, only while none of its group's dies is busy; a stripe that is hard to read
has its superblock refreshed. -/
def execPatrolRead (sb stripe : Nat) (retries iterPct : Nat) (s : State) : Out :=
  .next (
    let x := s.sb sb
    let used := match x.state with | .free | .erasing _ => false | _ => decide (stripe < x.nextStripe)
    if !used ∨ s.busyIn (groupOfSb sb) ≠ 0 ∨ s.readGroups.contains (groupOfSb sb) then s
    else
      let hard := decide (3 < retries) || decide (80 < iterPct)
      let s := s.modSb sb fun y => { (upto 32).foldl Sb.readOnce y with refresh := y.refresh || hard }
      { s with scrub := vmod s.scrub 4 fun r =>
          { r.advance s.now 524288 (524288 * s.programmedStripes) with poisoned := if hard then satAdd max64 r.poisoned 1 else r.poisoned } })

/-- READ_DISTURB_REFRESH (R470): 100,000 reads of a QLC block since its erase, 1,000,000 of one in pSLC mode. -/
def execReadDisturbRefresh (sb : Nat) (chan : Fin 32) (s : State) : Out :=
  .next (
    let x := s.sb sb
    if (if x.isPslc then 1000000 else 100000) ≤ (assocGet chan.val x.reads).getD 0 then s.modSb sb fun y => { y with refresh := true } else s)

/-! ## Die failures (R449, R450) -/

/-- A group has a failed die and is not yet retired. -/
def State.relocating (s : State) (g : Nat) : Bool :=
  s.flash.failed.any (fun f => decide (f.1 = g)) && !s.flash.retired.contains g

/-- DIE_FAILURE (R449, R525): a second failing die of a group under relocation is a Major fault. -/
def execDieFailure (die : Die) (s : State) : Out :=
  .next (
    let g := 8 * die.bridge.val + die.pos.val
    if s.flash.retired.contains g ∨ s.flash.failed.contains (g, die) then s
    else if s.relocating g then s.report (flashSrc die) 4 (dieWhere die) none
    else s.report (flashSrc die) 3 (dieWhere die) none)

/-- Superblocks that hold 917 TiB at 3.875 GiB each, and those of the pSLC and metadata reserves (R440, R442). -/
def neededSbs : Nat := 242325 + 1536

/-- The spare area no longer holds the user capacity with 1,024 free superblocks (R450). -/
def State.noSpare (s : State) : Bool := decide (Config.superblocks < neededSbs + 1024 + s.goneSbs)

/-- DIE_GROUP_RETIRE (R449, R450): while the group holds valid data more of it moves; then the group is retired. -/
def execDieGroupRetire (group : Fin 128) (s : State) : Out :=
  .next (
    let g := group.val
    if !(s.relocating g) then s
    else
      let ks := s.movingKeys
      let left := s.flash.map.filter fun m => decide (groupOfSb m.2.sb = g)
      if left = [] then
        let s := { s with flash := { s.flash with retired := s.flash.retired ++ [g], ops := s.flash.ops.filter fun o => groupOfSb o.sb != g } }
        let s := { s with flash := { s.flash with ro := s.flash.ro || s.noSpare } }
        s.log .flashRetired g 0
      else match left.filter fun m => !ks.contains m.1 with
        | [] => s
        | ms => s.program false true ((ms.take 124).map fun m => (m.1, some m.2)) [])

/-! ## Hold-up and loss of power (R452, R461 to R467) -/

/-- HOLDUP_MEASUREMENT (R452): pct of the rating, and the dirty data in MiB that the energy can flush. -/
def execHoldupMeasurement (pct : Nat) (flushMib : Nat) (s : State) : Out :=
  .next (
    let low := decide (pct < 50)
    let s := { s with flash := { s.flash with wthru := low, limitMib := if low then 0 else min 8192 flushMib } }
    let s := if low then s.report 0xE9 1 0 none else s
    s.gather)

/-- Leave the fault states that a restart ends (R531, R533). -/
def State.clearFaults (s : State) : State := { s with flt := { s.flt with active := none, latched := [], faultN := false } }

/-- Both inputs are gone: PD_AO stops (R564). The Trump state outlasts a gap of less than 1 s (R531). -/
def State.allOff (s : State) : State :=
  { s with
    life := { s.life with
      phase := if s.life.phase = .trump then .trump else .off, dom := { ao := false }, aoReady := false, offAt := s.now }
    flt := { s.flt with faultN := false } }

/-- PD_AO starts: the collector, PHY_STAT's found mistakes and the thermistors' state begin afresh (R526, R615). The
Trump state ends only when both inputs were gone for at least 1 s (R531). -/
def State.aoStart (s : State) : State :=
  if s.life.phase = .trump ∧ s.now < s.life.offAt + 1000000000 then
    { s with
      life := { s.life with dom := { s.life.dom with ao := true } }
      flt := { s.flt with faultN := true } }
  else
    { s with
      life := { s.life with phase := .standby, dom := {} }
      flt := { saved := s.flt.saved }
      phys := { s.phys with flags := 0, senseOpen := false, faultForced := none, i3cReleased := false, contact := 0 }
      pwr := { s.pwr with above := 0, inletFailA := false, inletFailB := false, outletFailA := false, outletFailB := false } }

/-- Stand at t0 of the start-up sequence (R575). -/
def State.atStart (s : State) : State :=
  let s := s.clearFaults
  { s with life := { s.life with phase := .startReady, bootAt := s.now } }

/-- A module that waits for the conditions of R574 starts when they all hold (R463, R578). -/
def State.tryStart (s : State) : State :=
  if (s.life.phase = .standby ∨ s.life.phase = .powerLost) ∧ s.mayStart574 ∧ !s.life.held then s.atStart else s

/-- The switched domains have power. -/
def State.isPowered (s : State) : Bool :=
  match s.life.phase with
  | .firmwareUp | .inService | .cleanShutdown | .flushing | .majorOut => true
  | .off | .powerLost | .standby | .startReady | .outOfService | .trump => false

/-- 48 V is lost while a firmware image is being downloaded: the slot that it is written to fails its signature at the next boot
(R593). It is the slot that does not run, which a trial keeps for its fallback (log entry 158). -/
def Firmware.spoil (f : Firmware) : Firmware :=
  if f.download.isNone then f
  else
    let f := { f with download := none, downloadLen := 0 }
    let bad (i : Option FwImage) : Option FwImage := i.map fun x => { x with signed := false }
    if f.inTrial then f else if f.running then { f with imgA := bad f.imgA } else { f with imgB := bad f.imgB }

/-- The 48 V input is gone from a powered module (R36, R461): the bands, PD_T1 and PD_HN go first, the fault is a Major one
of source 0xE8, and after the flush every switched domain is off. The model takes the whole sequence in one step
(log entry 140). -/
def State.losePower (s : State) : State :=
  let s := { s with life := { s.life with dom := s.life.dom.shed }, fw := s.fw.spoil }
  let s := (s.report 0xE8 1 0 none).flushAll
  let s := s.powerDown
  { s with life := { s.life with phase := .powerLost, cleanEnd := false } }

/-- The 48 V input leaves its range (R461, R564). -/
def State.lose48 (s : State) : State :=
  let s := { s with life := { s.life with in48Ok := false } }
  let s := if s.isPowered then s.losePower
    else if s.life.phase = .startReady then { s with life := { s.life with phase := .standby } }
    else s
  if s.life.auxOk ∨ !s.life.dom.ao then s else s.allOff

/-- POWER_LOSS (R461, R525, R564). -/
def execPowerLoss (s : State) : Out := .next s.lose48

/-- POWER_LOSS_RESTART (R463): 48 V is back in range. Without the 12 V auxiliary input it feeds a PD_AO that is not ready
(R564, R574). -/
def execPowerLossRestart (s : State) : Out :=
  .next (
    let s := { s with life := { s.life with in48Ok := true } }
    (if s.life.dom.ao then s else s.aoStart).tryStart)

/-- BRIDGE_BROWNOUT_TRIP (R462): a Major fault while the 48 V input is good. -/
def execBridgeBrownoutTrip (b : Fin 16) (s : State) : Out :=
  .next (
    let s := { s with flash := { s.flash with bridges := vmod s.flash.bridges b fun x => { x with bod := true } } }
    if s.life.in48Ok then s.report (Fin.ofNat 256 (0x80 + b.val)) 4 0 none else s)

/-- Recovery of the flash (R465, R466): open superblocks are closed at their last verified stripe, and erases without
a stamp are run again with a fresh intent. -/
def State.recoverFlash (s : State) : State :=
  let sbs := s.flash.sbs.map fun x => match x.2.state with
    | .open p _ => (x.1, { x.2 with state := if p then SbState.pslc else .closed, closedSeq := s.flash.closeSeq })
    | _ => x
  let erases := s.flash.ops.filter fun o => match o with | .erase .. => true | .program .. => false
  let s := { s with flash := { s.flash with sbs, ops := [], closeSeq := s.flash.closeSeq + 1 } }
  erases.foldl (fun s o => match o with
    | .erase _ sb ch .. => s.eraseBlock sb ch
    | .program .. => s) s

/-- NAMESPACES_READY (R467): recovery is complete, and I/O is served. -/
def execNamespacesReady (s : State) : Out :=
  .next (if s.life.phase ≠ .firmwareUp then s
    else { s.recoverFlash with life := { s.life with phase := .inService } })

/-! ## Bridge reset (R468) -/

/-- BRIDGE_RESET (R468, R525): for a time-out or a link error (cause); one that needs link retraining is a Major
fault. -/
def execBridgeReset (b : Fin 16) (cause : Bool) (s : State) : Out :=
  .next (s.report (Fin.ofNat 256 (0x80 + b.val)) (if cause then 1 else 3) 0 none)

/-- The bridge of a superblock. -/
def bridgeOf (sb : Nat) : Nat := groupOfSb sb / 8

/-- Blocks that wait for a read from a bridge. -/
def State.readsOn (s : State) (b : Fin 16) : Nat :=
  s.readKeys.countP fun k => match assocGet k s.flash.map with
    | some l => decide (bridgeOf l.sb = b.val)
    | none => false

/-- One operation of a bridge after its reset: done as reported; an erase not reported is reissued, a program not
reported is discarded and its data programmed again. -/
def State.afterReset (s : State) (done : List Nat) (o : DieOp) : State :=
  if done.contains o.id then (match o with
    | .program .. => s.programDone o true
    | .erase .. => s.eraseDone o)
  else match o with
    | .program .. => { s with flash := { s.flash with ops := s.flash.ops.filter fun x => x.id != o.id } }
    | .erase id sb ch j _ =>
      let again := DieOp.erase id sb ch j (s.bridgeEpoch sb)
      { s with flash := { s.flash with ops := mapWhere (fun x => x.id == o.id) (fun _ => again) s.flash.ops } }

/-- A bridge accepts work again; done lists the operations that its dies report complete. A reset longer than 30 µs is a
Major fault. -/
def State.bridgeBack (s : State) (b : Fin 16) (done : List Nat) : State :=
  let x := s.flash.bridges[b]
  if !x.resetting then s
  else
    let ops := s.flash.ops.filter fun o => decide (bridgeOf o.sb = b.val)
    let again := (ops.countP fun o => !done.contains o.id && (match o with | .erase .. => true | .program .. => false)) + s.readsOn b
    let s := ops.foldl (fun s o => s.afterReset done o) s
    let bridges := vmod s.flash.bridges b fun y => { y with resetting := false, reissued := satAdd 65535 y.reissued again }
    let s := { s with
      flash := { s.flash with bridges }
      units := { s.units with resetting := s.units.resetting.filter fun u => u != ResetUnit.bridge b } }
    let s := s.gather
    if x.resetAt + 30000 < s.now then s.report (Fin.ofNat 256 (0x80 + b.val)) 3 0 none else s

/-- BRIDGE_RESET_COMPLETE (R468). -/
def execBridgeResetComplete (b : Fin 16) (done : List Nat) (s : State) : Out := .next (s.bridgeBack b done)

end Sys2Proof.Machine
end

