-- ==== Sys2Proof/Machine/TwinEvents.lean ====
section
/-!
DEFINITION. The Duno link (ch. 12): training, heartbeats and the witness (R475 to R477, R495 to R498), mirrored writes and
allocation pages (R483 to R490), state epochs (R491 to R494), takeover (R499 to R501), the Pair Control functions (R505 to
R510, R516), and twin verify (R511 to R514).
-/
namespace Sys2Proof.Machine

/-! ## Training, heartbeats, the witness -/

/-- The source of a cable group (R525). -/
def cableSrc (g : Fin 4) : Fin 256 := Fin.ofNat 256 (0xB4 + g.val)

/-- Update a cage. -/
def State.modCage (s : State) (g : Fin 4) (f : Cable → Cable) : State :=
  { s with twin := { s.twin with cages := vmod s.twin.cages g f } }

/-- The lamp of a cage follows its group. -/
def State.lightCage (s : State) (g : Fin 4) : State :=
  let up := (s.twin.cages[g]).isUp
  { s with phys := { s.phys with twin := vmod s.phys.twin g fun c =>
      { c with linkUp := up, amber := c.amber && !up, downAt := if c.linkUp && !up then s.now else c.downAt } } }

/-- One more trained lane; while the link is up no witness check runs. -/
def State.laneUp (s : State) (g : Fin 4) (lane : Fin 8) (p : TrainPat) : State :=
  let odd := p.lane != lane || p.inverted
  let s := (s.modCage g fun c => { c with
    lanes := c.lanes ||| BitVec.twoPow 8 lane.val, peer := p.cage, held := false, consec := 0
    crossed := (c.crossed && c.lanes != 0) || odd }).lightCage g
  if s.linkIsUp then { s with twin := { s.twin with checkAt := none } } else s

/-- LANE_TRAINING (R475): a pattern of this module, or of another module than the partner, holds the group down. -/
def execLaneTraining (cage : Fin 4) (lane : Fin 8) (pat : Option TrainPat) (s : State) : Out :=
  .next (
    if !s.life.dom.tl ∨ (s.phys.twin[cage]).supplyOff then s
    else match pat with
      | none => s
      | some p =>
        if p.serial = s.ident.serial ∨ (s.twin.peerSerial ≠ [] ∧ p.serial ≠ s.twin.peerSerial) then
          (((s.groupDown cage).modCage cage fun c => { c with held := true }).lightCage cage)
        else s.laneUp cage lane p)

/-- A cable group goes down, and is reported (R477, R525). -/
def State.groupFails (s : State) (g : Fin 4) : State := (s.groupDown g).report (cableSrc g) 2 0 none

/-- LANE_ERROR_RETRAIN (R477). -/
def execLaneErrorRetrain (cage : Fin 4) (lane : Fin 8) (s : State) : Out :=
  .next (
    let c := s.twin.cages[cage]
    if !c.lanes.getLsbD lane.val then s
    else
      let s := s.modCage cage fun c => { c with lanes := c.lanes &&& ~~~(BitVec.twoPow 8 lane.val), retrains := satAdd 65535 c.retrains 1 }
      if c.isUp ∧ !(s.twin.cages[cage]).isUp then s.groupFails cage else s.report (cableSrc cage) 1 0 none)

/-- HEARTBEAT_SEND (R495): on every cable group that is up. -/
def execHeartbeatSend (s : State) : Out :=
  .next (if s.life.dom.tl ∧ s.life.dom.cc then
      ((List.finRange 4).filter fun g => (s.twin.cages[g]).isUp).foldl (fun s g => s.toPeer (.heartbeat g)) s
    else s)

/-- HEARTBEAT_MISS (R495): the fourth in a row takes the group down. Misses more than 3 µs apart are not in a row: a
heartbeat is due every 2 µs. -/
def execHeartbeatMiss (cage : Fin 4) (s : State) : Out :=
  .next (
    if !(s.twin.cages[cage]).isUp then s
    else
      let s := s.modCage cage fun c => { c with
        missed := satAdd 65535 c.missed 1, consec := if s.now ≤ c.lastMiss + 3000 then c.consec + 1 else 1, lastMiss := s.now }
      if 4 ≤ (s.twin.cages[cage]).consec then s.groupFails cage else s)

/-- WITNESS_PROBE (R496): answered while the control complex is alive. -/
def execWitnessProbe (addr : Nat) (s : State) : Out :=
  .next (if s.life.dom.cc ∧ s.life.dom.hn then s.toPeer (.probeAnswer addr) else s)

/-- WITNESS_ANSWER (R502): within 20 µs of the first probe. -/
def execWitnessAnswer (s : State) : Out :=
  .next (match s.twin.checkAt with
    | some t => if s.now < t + 20000 ∧ !s.linkIsUp then s.enterSplit else s
    | none => s)

/-! ## Memory as the link carries it (R488, R489) -/

/-- A page's bytes reach this module's copy of an allocation, which then has its frame; its poison is gone. -/
def State.putPage (s : State) (key : Nat) (data : List Byte) : State :=
  let p := key % 2 ^ 40
  let s := match s.allocAt p with
    | some a => if decide (a.ctx.val = key / 2 ^ 40) && (a.page (p - a.id)).zod then s.mapZero a (p - a.id) (a.page (p - a.id)).tier else s
    | none => s
  { s with tiers := { s.tiers with
      mem := memPutAll s.tiers.mem (key * 65536) data
      poison := s.tiers.poison.filter fun w => !(decide (w / 1024 = key)) } }

/-- Apply a staging area: its pages, in order. -/
def State.putStaging (s : State) (g : Staging) : State := g.pages.foldl (fun s p => s.putPage p.1 p.2) s

/-- Every page that the finish note counts is here. -/
def Staging.isWhole (g : Staging) : Bool :=
  match g.note with
  | some n => decide (n.1 ≤ g.pages.length)
  | none => false

/-! ## Takeover (R499 to R501, R517) -/

/-- The record of a finish note (R500). -/
def Staging.record (g : Staging) : List PairRec :=
  match g.note with
  | some n => [{ cqe := n.2.1, cntlid := n.2.2.1, deadline := n.2.2.2, ctx := g.ctx }]
  | none => []

/-- The takeover record of a job (R500). -/
def PeerJob.record (j : PeerJob) : PairRec :=
  let cqe : Cqe := { hdr := { path := .ctrl j.cntlid, sq := j.sq, cid := j.cid }, sct := 7, sc := 0x84, dw0 := 0, dw1 := 0 }
  { cqe, cntlid := j.cntlid, deadline := j.deadline, ctx := j.ctx }

/-- The failed module's jobs (R500): whole finish notes keep their outputs; every other job of the last adopted epoch
gets a record with status 0x84 and is counted here. -/
def State.takeJobs (s : State) : State :=
  let whole := s.twin.staging.filter Staging.isWhole
  let s := (whole.filter fun g => !g.applied).foldl State.putStaging s
  let jobs : List PeerJob := match s.twin.adopted with
    | some e => e.jobs.filter fun j => !(whole.any fun g => decide (g.exec = j.exec))
    | none => []
  let counts := jobs.foldl (fun v j => vmod v j.ctx fun c => countJob c .takeover false) s.sched.counts
  let recs := whole.flatMap Staging.record ++ jobs.map PeerJob.record
  let s := { s with
    sched := { s.sched with counts := counts }
    twin := { s.twin with
      staging := [], records := s.twin.records ++ recs
      adopted := s.twin.adopted.map fun e => { e with jobs := [] } } }
  if recs = [] then s else s.aer { typ := 7, info := 1, page := 0xD5 }

/-- Mirrored writes held for the failed module's groups become authoritative (R499). -/
def State.takeWrites (s : State) : State :=
  let ws := sortBy (fun (a b : MirWrite) => decide (a.seq < b.seq)) (s.twin.waiting.filter fun w => decide (w.group ≠ 0 ∧ w.seq < 2 ^ 64))
  let s := ws.foldl (fun s w => (s.applyWrite w).modGroup w.group fun g => { g with seq := max g.seq w.seq }) s
  { s with twin := { s.twin with waiting := [] } }

/-- The partner's groups come here (R499); a group that was not synchronised is lost to service (R517). -/
def State.takeGroups (s : State) : State :=
  let groups := s.twin.groups.map fun g =>
    if g.role = .dummy ∧ g.synced then { g with role := .declarer, ana := .optimized }
    else if g.role = .dummy then { g with ana := .inaccessible }
    else g
  let s := { s with twin := { s.twin with groups } }
  s.aer { typ := 2, info := 3, page := 0x0C }

/-- Twin-verified jobs end: this module's own with status 0x84, the partner's copies without trace (R517). -/
def State.takeTwins (s : State) : State :=
  let ids := (s.sched.execs.filter fun e => e.twin || e.copy).map (·.id)
  ids.foldl (fun s i => match s.ex? i with
    | some e => if e.copy then s.dropExec e else s.endExec e .takeover
    | none => s) s

/-- Takeover (R499). -/
def State.takeover (s : State) : State :=
  let s := s.takeWrites.takeJobs.takeTwins.takeGroups
  let s := ({ s with twin := { s.twin with takeovers := satAdd 65535 s.twin.takeovers 1 } }).log .takeover 0 0
  (s.pairTo .soloSurvivor).withoutPartner

/-- WITNESS_TIMEOUT (R496, R497): no answer within 20 µs while every cable group is down. -/
def execWitnessTimeout (s : State) : Out :=
  .next (match s.twin.checkAt with
    | some t => if t + 20000 ≤ s.now ∧ !s.linkIsUp ∧ s.paired then s.takeover else s
    | none => s)

/-- FAILURE_ANNOUNCEMENT (R498): acted on at once. -/
def execFailureAnnouncement (s : State) : Out := .next (if s.paired then s.takeover else s)

/-- LINK_RETURN (R505, R508): partnerDeclares lists the groups whose declarer the partner says it is. -/
def execLinkReturn (partnerDeclares : List Nat) (s : State) : Out :=
  .next (
    if !s.linkIsUp ∨ !(s.twin.st = .soloSplit ∨ s.twin.st = .soloSurvivor) then s
    else
      let both := partnerDeclares.filter fun g => (s.group g).role == .declarer
      if both = [] then s.pairTo .soloSplit
      else
        let s := both.foldl (fun s g => s.modGroup g fun x => { x with role := .conflict, readOnly := decide (s.twin.rank = 1) }) s
        s.pairTo .conflict)

/-! ## Resilvering (R507, R508) -/

/-- Some namespace is in a group. -/
def State.nssIn (s : State) (g : Nat) : List Ns := s.host.nss.filter fun n => n.group == g

/-- The blocks that a namespace holds within a range. -/
def State.heldIn (s : State) (nsid lo hi : Nat) : List Nat :=
  let ks := ((s.flash.dirty.map (·.key)) ++ (s.host.blks.map (·.1))).filter fun k =>
    decide (blkKey nsid lo ≤ k) && decide (k < blkKey nsid hi)
  (sortBy (fun (a b : Nat) => decide (a < b)) ks.dedup).map (· - blkKey nsid 0)

/-- Copies of a range of a namespace: it is deallocated first, then each block that it holds follows. -/
def State.copyRange (s : State) (g seq : Nat) (n : Ns) (lo hi : Nat) : List MirWrite :=
  { group := g, seq, nsid := n.nsid, lba := lo, blocks := [], op := .deallocate (hi - lo) }
    :: (s.heldIn n.nsid lo hi).map fun l => { group := g, seq, nsid := n.nsid, lba := l, blocks := [s.blk n.nsid l] }

/-- Copies of one zone: reset, its blocks, and the state that it is in. -/
def State.copyZone (s : State) (g seq : Nat) (n : Ns) (z : Nat) : List MirWrite :=
  let q := n.zone z
  let act (a : ZoneAct) : MirWrite := { group := g, seq, nsid := n.nsid, lba := z * Config.zoneBlocks, blocks := [], op := .zone a }
  let blocks := (s.heldIn n.nsid (z * Config.zoneBlocks) ((z + 1) * Config.zoneBlocks)).map fun l =>
    ({ group := g, seq, nsid := n.nsid, lba := l, blocks := [s.blk n.nsid l] } : MirWrite)
  act .reset :: blocks ++ (match q.state with
    | .full => [act .finish]
    | .expOpen => [act .open]
    | .closed => [act .close]
    | .empty | .impOpen => [])

/-- The copies of a group: all of it, or the regions that its change map marks (R504, R508). -/
def State.copies (s : State) (g : Nat) (all : Bool) : List MirWrite :=
  let x := s.group g
  (s.nssIn g).flatMap fun n =>
    let rs := (x.changed.filter fun r => r.1 == n.nsid).map (·.2)
    if n.zoned then
      let zs := if all then n.zones.map (·.1) else (rs.map fun r => r * 1024 / Config.zoneBlocks).dedup
      zs.flatMap fun z => s.copyZone g x.seq n z
    else if all then s.copyRange g x.seq n 0 n.blocks
    else rs.flatMap fun r => s.copyRange g x.seq n (1024 * r) (min n.blocks (1024 * r + 1024))

/-- The number that the end of a group's copies is acknowledged under. -/
def markSeq (seq : Nat) : Nat := 2 ^ 65 + seq

/-- Send the copies of a group, and the mark that ends them. -/
def State.sendGroup (s : State) (g : Nat) (all : Bool) : State :=
  let ws := s.copies g all
  let seq := (s.group g).seq
  let bytes := 4096 * (ws.map (·.blocks.length)).sum
  let s := ws.foldl (fun s w => s.toPeer (.resilver w)) s
  let s := s.toPeer (.resilver { group := g, seq, nsid := 0, lba := 0, blocks := [] })
  let u : Unacked := { group := g, seq := markSeq seq, bytes, hdr := none, exec := none }
  { s with twin := { s.twin with unacked := s.twin.unacked ++ [u], resLeft := s.twin.resLeft + bytes } }

/-- Enter Resilvering: what was numbered before is void, this module's copies of the partner's groups are not
synchronised, and the copies of its own groups are sent. -/
def State.resilver (s : State) (all : Bool) : State :=
  let s := s.pairTo .resilvering
  let groups := s.twin.groups.map fun g => if g.role = .dummy then { g with synced := false, ana := .inaccessible } else g
  let s := { s with twin := { s.twin with
    groups, memSeq := 0, memRecv := 0, waiting := [], applied := [], staging := [], resLeft := 0, resDone := 0, dirty := true } }
  ((upto 64).map (· + 1)).foldl (fun s g => if (s.group g).role = .declarer then s.sendGroup g all else s) s

/-- Every group is synchronised here and there: the pair is paired (R508); executions that waited under the refuse
policy may resume (R503). -/
def State.resilverEnd (s : State) : State :=
  let left := s.twin.unacked.any fun u => decide (2 ^ 65 ≤ u.seq)
  if s.twin.st = .resilvering ∧ !left ∧ s.twin.groups.toList.all (fun g => g.role == .unused || g.synced) then
    let groups := s.twin.groups.map fun g => { g with changed := [] }
    let s := { s with twin := { s.twin with groups, applied := [], resLeft := 0 } }
    (s.pairTo .paired).endPolicyWait
  else s

/-- A conflicted group keeps this module's copy, which goes to the partner whole (R507). -/
def State.keepOurs (s : State) (g : Nat) : State :=
  s.modGroup g fun x => { x with role := .declarer, readOnly := false, synced := true, changed := [] }

/-- A conflicted group keeps the partner's copy. -/
def State.keepTheirs (s : State) (g : Nat) : State :=
  s.modGroup g fun x => { x with role := .dummy, readOnly := false, synced := false, ana := .inaccessible, changed := [] }

/-- The conflicted groups. -/
def State.conflicts (s : State) : List Nat := ((upto 64).map (· + 1)).filter fun g => (s.group g).role == .conflict

/-- The partner is asked for its copy of a group: a copy that deallocates nothing. -/
def askFor (g : Nat) : TwinMsg := .resilver { group := g, seq := 0, nsid := 0, lba := 0, blocks := [], op := .deallocate 0 }

/-- START_RESILVERING (R507, R508). -/
def execStartResilvering (h : Hdr) (cdw11 : W32) (s : State) : Out :=
  .next (s.rootCmd h (
    if (s.twin.st = .soloSplit ∨ s.twin.st = .soloSurvivor) ∧ s.linkIsUp then (s.resilver false).ok h
    else if s.twin.st = .conflict then
      let gs := s.conflicts
      if cdw11.getLsbD 0 then
        let s := (gs.foldl State.keepTheirs s).resilver false
        (gs.foldl (fun s g => s.toPeer (askFor g)) s).ok h
      else
        let s := s.resilver false
        (gs.foldl (fun s g => (s.keepOurs g).sendGroup g true) s).ok h
    else s.badSeq h))

/-- A solo module whose partner has started to resilver does so too (R507, R508). -/
def State.join (s : State) : State := if s.solo ∧ s.linkIsUp then s.resilver false else s

/-- A block has been written by a mirrored write of a higher number (R508), or is newer on the declarer's side. -/
def State.newer (s : State) (w : MirWrite) (lba : Nat) : Bool :=
  (match assocGet (blkKey w.nsid lba) s.twin.applied with
    | some q => decide (w.seq < q)
    | none => false)
  || ((s.group w.group).role == .declarer && (s.group w.group).changed.contains (w.nsid, lba / 1024))

/-- Deallocate the blocks of a range that no newer write has written. -/
def State.deallocOld (s : State) (w : MirWrite) (n : Nat) : State :=
  let lo := blkKey w.nsid w.lba
  let out (k : Nat) : Bool := decide (k < lo) || decide (lo + n ≤ k) || s.newer w (k - blkKey w.nsid 0)
  { s with
    host := { s.host with blks := s.host.blks.filter fun b => out b.1 }
    flash := { s.flash with
      map := s.flash.map.filter fun m => out m.1
      dirty := s.flash.dirty.filter fun d => out d.key } }

/-- Some block of a zone has been written by a newer write. -/
def State.newerZone (s : State) (w : MirWrite) : Bool :=
  s.twin.applied.any fun a => decide (blkKey w.nsid w.lba ≤ a.1) && decide (a.1 < blkKey w.nsid w.lba + Config.zoneBlocks) && decide (w.seq < a.2)

/-- Take a copy where nothing newer stands (R508). -/
def State.takeCopy (s : State) (w : MirWrite) : State :=
  match w.op with
  | .write => if s.newer w w.lba then s else s.applyWrite w
  | .deallocate n => s.deallocOld w n
  | .zone _ => if s.newerZone w then s else s.applyWrite w
  | .memory _ => s

/-- RESILVER_COPY (R507, R508): a copy, the mark that ends a group's copies, or the partner's request for a group. -/
def execResilverCopy (w : MirWrite) (s : State) : Out :=
  .next (
    let s := s.join
    if !s.paired then s
    else
      let role := (s.group w.group).role
      if w.op = .deallocate 0 then
        (if role = .conflict then (s.keepOurs w.group).sendGroup w.group true else s)
      else
        let s := if role = .conflict then s.keepTheirs w.group else s
        if w.blocks = [] ∧ w.op = .write then
          let s := s.modGroup w.group fun g => { g with synced := true, seq := max g.seq w.seq }
          (s.toPeer (.ack w.group (markSeq w.seq))).resilverEnd
        else s.takeCopy w)

/-! ## Mirrored writes (R483, R485 to R488) -/

/-- Record that mirrored writes have written blocks, while the group is not synchronised. -/
def State.noteApplied (s : State) (w : MirWrite) : State :=
  if s.twin.st = .resilvering then
    let m := (upto w.blocks.length).foldl (fun m k => assocPut (blkKey w.nsid (w.lba + k)) w.seq m) s.twin.applied
    { s with twin := { s.twin with applied := m } }
  else s

/-- Acknowledge a mirrored write. -/
def State.ackWrite (s : State) (w : MirWrite) : State := s.toPeer (.ack w.group w.seq)

/-- A group that is being copied takes a mirrored write at once: a block of it keeps a newer write's data. -/
def State.takeUnsynced (s : State) (w : MirWrite) : State :=
  let s := match w.op with
    | .write => (w.blocks.zipIdx).foldl (fun (s : State) (b : PBlk × Nat) =>
        let one : MirWrite := { w with lba := w.lba + b.2, blocks := [b.1] }
        if s.newer one one.lba then s else (s.applyWrite one).noteApplied one) s
    | .deallocate n => s.deallocOld w n
    | .zone _ => s.applyWrite w
    | .memory _ => s
  (s.modGroup w.group fun g => { g with seq := max g.seq w.seq }).ackWrite w

/-- The next mirrored write of a group in sequence order (R486): it is applied and acknowledged. -/
def State.takeNext (s : State) (w : MirWrite) : State :=
  (((s.applyWrite w).noteApplied w).modGroup w.group fun g => { g with seq := w.seq }).ackWrite w

/-- Order a release of the partner as a mirrored write (R483): both modules hold it once the partner has
acknowledged it. -/
def State.order (s : State) (w : MirWrite) : State :=
  let q := (s.group w.group).seq + 1
  let s := (s.modGroup w.group fun g => { g with seq := q }).applyWrite w
  let s := s.toPeer (.write { w with seq := q })
  let u : Unacked := { group := w.group, seq := q, bytes := 4096 * w.blocks.length, hdr := none, exec := none, w := some w, rel := some w.seq }
  { s with twin := { s.twin with unacked := s.twin.unacked ++ [u] } }

/-- The number of a Memory Write or a release among those that the partner sends. -/
def sentNo (w : MirWrite) : Nat := if 2 ^ 64 ≤ w.seq then w.seq - 2 ^ 64 else w.seq

/-- The write is a Memory Write or a release, which one count numbers. -/
def isSent (w : MirWrite) : Bool := decide (w.group = 0) || decide (2 ^ 64 ≤ w.seq)

/-- The next Memory Write or release of the partner. -/
def State.takeSent (s : State) (w : MirWrite) : State :=
  let s := { s with twin := { s.twin with memRecv := s.twin.memRecv + 1 } }
  match w.op with
  | .memory bs => (s.ctxWrite (Fin.ofNat 64 w.nsid) w.lba bs).ackWrite w
  | _ => if (s.group w.group).role = .declarer then s.order w else s

/-- A waiting write that can be applied now. -/
def State.ripe (s : State) : Option MirWrite :=
  s.twin.waiting.find? fun w => if isSent w then sentNo w == s.twin.memRecv else w.seq == (s.group w.group).seq + 1

/-- Apply waiting writes as long as one is next. -/
def takeRipe : Nat → State → State
  | 0, s => s
  | n + 1, s => match s.ripe with
    | none => s
    | some w =>
      let s := { s with twin := { s.twin with waiting := s.twin.waiting.erase w } }
      takeRipe n (if isSent w then s.takeSent w else s.takeNext w)

/-- MIRRORED_WRITE_RECEIVE (R483, R485 to R488): a write that arrives again is acknowledged again (R477). -/
def execMirroredWriteReceive (w : MirWrite) (s : State) : Out :=
  .next (
    let s := s.join
    if !s.paired then s
    else
      let wait (s : State) : State :=
        let s := { s with twin := { s.twin with waiting := if s.twin.waiting.contains w then s.twin.waiting else s.twin.waiting ++ [w] } }
        takeRipe s.twin.waiting.length s
      if isSent w then
        (if sentNo w < s.twin.memRecv then (if w.group = 0 then s.ackWrite w else s) else wait s)
      else
        let g := s.group w.group
        if g.role ≠ .dummy then s
        else if !g.synced then s.takeUnsynced w
        else if w.seq ≤ g.seq then s.ackWrite w
        else wait s)

/-- MIRROR_ACKNOWLEDGEMENT (R485): the write is held by both modules. -/
def execMirrorAcknowledgement (group seq : Nat) (s : State) : Out :=
  .next (match s.twin.unacked.find? (fun u => u.group == group && u.seq == seq) with
    | none => s
    | some u =>
      let s := { s with twin := { s.twin with unacked := s.twin.unacked.erase u } }
      if 2 ^ 65 ≤ seq then
        ({ s with twin := { s.twin with resLeft := s.twin.resLeft - u.bytes, resDone := s.twin.resDone + u.bytes } }).resilverEnd
      else
        let s := match u.rel with
          | some r => s.toPeer (.ack group r)
          | none => s
        let s := s.unawait group seq
        (s.waitingOn (· == .mirror group seq)).foldl State.heldBoth s)

/-! ## Allocation pages and notes (R489, R490) -/

/-- The staging area of an execution of the partner. -/
def State.staging? (s : State) (exec : Nat) : Option Staging := s.twin.staging.find? fun g => g.exec == exec

/-- Put a staging area back. -/
def State.putArea (s : State) (g : Staging) : State :=
  { s with twin := { s.twin with staging := s.twin.staging.filter (fun x => x.exec != g.exec) ++ [g] } }

/-- The partner's note is acknowledged, and pages and note are applied as one, once every staged page is here. -/
def State.settleArea (s : State) (g : Staging) : State :=
  if g.isWhole ∧ !g.applied then
    ((s.putStaging g).putArea { g with applied := true }).toPeer (.finishAck g.exec)
  else s.putArea g

/-- ALLOCATION_PAGE_RECEIVE (R489): a later version of a page replaces an earlier one. -/
def execAllocationPageReceive (exec ctx : Nat) (key : Nat) (data : List Byte) (s : State) : Out :=
  .next (if !s.paired then s
    else
      let g := (s.staging? exec).getD { exec, ctx }
      if g.applied then s
      else s.settleArea { g with pages := g.pages.filter (fun p => p.1 != key) ++ [(key, data)] })

/-- The context of a job of the partner. -/
def State.peerCtx (s : State) (exec : Nat) : Nat :=
  match s.twin.adopted with
  | some e => (match e.jobs.find? (fun j => j.exec == exec) with
    | some j => j.ctx
    | none => 0)
  | none => 0

/-- FINISH_NOTE (R489). -/
def execFinishNote (exec pages : Nat) (cqe : Cqe) (cntlid : Nat) (deadline : Nat) (s : State) : Out :=
  .next (if !s.paired then s
    else
      let g := (s.staging? exec).getD { exec, ctx := s.peerCtx exec }
      if g.applied then s.toPeer (.finishAck exec)
      else s.settleArea { g with note := some (pages, cqe, cntlid, deadline) })

/-- FINISH_NOTE_ACK (R489): the completion is posted. -/
def execFinishNoteAck (exec : Nat) (s : State) : Out :=
  .next (match s.ex? exec with
    | some e =>
      if e.phase = .draining ∧ e.finishSent then ({ s with twin := { s.twin with dirty := true } }).endExecAt e.finishAt e .success else s
    | none => s)

/-- CANCEL_NOTE (R490). -/
def execCancelNote (exec : Nat) (s : State) : Out :=
  .next { s with twin := { s.twin with staging := s.twin.staging.filter fun g => g.exec != exec || g.applied } }

/-! ## State epochs (R491 to R494, R510) -/

/-- An allocation's flags as Allocate's CDW12 has them (R237). -/
def Alloc.flags (a : Alloc) : W32 :=
  let b (x : Bool) : Nat := if x then 1 else 0
  let home := match a.home with | .t1 => 0 | .t2 => 1 | .t0 => 2 | .t3 => 3
  BitVec.ofNat 32 (home + 4 * b a.pin + 8 * b a.zod + 16 * b a.large + 32 * b a.huge)

/-- The module's control state at one instant (R491). What it holds of the partner's is left out. -/
def State.snapshot (s : State) (num : Nat) : EpochImage :=
  let theirs : List Nat := match s.twin.adopted with | some e => e.allocs.map (·.id) | none => []
  let gs := (upto 64).map (· + 1)
  let jobs := s.sched.execs.filterMap fun e => match e.hdr.path, e.copy with
    | .ctrl n, false => some ({ cntlid := n, sq := e.hdr.sq, cid := e.hdr.cid, ctx := e.ctx.val, exec := e.id, deadline := e.deadline } : PeerJob)
    | _, _ => none
  { num
    fwMajor := ((s.fw.slot s.fw.running).map fun i => i.major).getD 1
    nss := s.host.nss.map fun n => { nsid := n.nsid, group := n.group, blocks := n.blocks, zoned := n.zoned, pit := n.pit }
    declares := gs.filter fun g => (s.group g).role == .declarer && (s.group g).handEp.isNone
    homes := gs.filter fun g => (s.group g).homeHere && (s.group g).handEp.isNone
    bind := s.host.bind
    keys := s.host.keys
    tableEpoch := s.part.epoch
    part := (List.finRange 64).filterMap fun c => if s.part.entries[c] = 0 then none else some (c, s.part.entries[c])
    jobs
    allocs := (s.tiers.allocs.filter fun a => !a.freed && !theirs.contains a.id).map fun a =>
      { id := a.id, ctx := a.ctx.val, pages := a.pages, flags := a.flags }
    whole := true
    verified := true }

/-- Groups that are being handed over and whose mirrored writes are all acknowledged leave with this epoch (R510). -/
def State.handNow (s : State) (num : Nat) : State :=
  ((upto 64).map (· + 1)).foldl (fun s g =>
    let x := s.group g
    if x.handing && x.handEp.isNone && !(s.twin.unacked.any fun u => u.group == g) then s.modGroup g fun y => { y with handEp := some num }
    else s) s

/-- STATE_EPOCH_SEND (R491). -/
def execStateEpochSend (s : State) : Out :=
  .next (
    if s.paired ∧ ((s.twin.dirty ∧ s.twin.epFlight = none) ∨ s.twin.epAt + 1000000 ≤ s.now) then
      let n := s.twin.epSent + 1
      let s := { s with twin := { s.twin with epSent := n, epFlight := some n, epAt := s.now, dirty := false } }
      let s := s.handNow n
      s.toPeer (.epoch (s.snapshot n))
    else s)

/-- EPOCH_ADOPTION_NOTICE (R493, R510): the partner has adopted epoch num. -/
def execEpochAdoptionNotice (num : Nat) (s : State) : Out :=
  .next (
    if !s.paired ∨ s.twin.epSent < num then s
    else
      let gone (g : Group) : Bool := match g.handEp with | some n => decide (n ≤ num) | none => false
      let groups := s.twin.groups.map fun g =>
        if gone g then { g with role := .dummy, homeHere := false, ana := .inaccessible, handing := false, handEp := none } else g
      let flight := match s.twin.epFlight with | some n => if n ≤ num then none else some n | none => none
      let s := { s with twin := { s.twin with groups, epFlight := flight } }
      let s := if groups.toList.any (·.handing) then s
        else (s.waitingOn (· == .handover)).foldl (fun s o => s.ok o.hdr) s
      (s.waitingOn fun w => match w with | .epoch n => decide (n ≤ num) | _ => false).foldl (fun s o => s.okDw o.hdr o.dw0 o.dw1) s)

/-- The partner's groups as its epoch has them: a group new to this module is a dummy, a group that the partner no
longer declares has been handed here (R510). -/
def State.adoptGroups (s : State) (prev : EpochImage) (e : EpochImage) : State :=
  let s := e.declares.foldl (fun s g => s.modGroup g fun x =>
    if x.role = .unused then { x with role := .dummy, synced := x.synced || s.twin.st == .paired || decide (prev.num ≠ 0), ana := .inaccessible } else x) s
  let handed := prev.declares.filter fun g => !e.declares.contains g && (s.group g).role == .dummy && (s.group g).synced
  let s := handed.foldl (fun s g => s.modGroup g fun x => { x with role := .declarer, ana := .optimized }) s
  let given := prev.homes.filter fun g => !e.homes.contains g && (s.group g).role == .declarer
  let s := given.foldl (fun s g => s.modGroup g fun x => { x with homeHere := true }) s
  if handed = [] then s else s.aer { typ := 2, info := 3, page := 0x0C }

/-- The partner's namespaces: new ones appear here, deleted ones go (R482). -/
def State.adoptNss (s : State) (prev : EpochImage) (e : EpochImage) : State :=
  let gone := prev.nss.filter fun n => !(e.nss.any fun m => m.nsid == n.nsid) && !(e.declares.contains n.group && (s.group n.group).role == .declarer)
  let s := gone.foldl (fun s n => match s.ns? n.nsid with
    | some x => s.deleteNs x
    | none => s) s
  e.nss.foldl (fun s n =>
    if (s.ns? n.nsid).isSome ∨ prev.nss.contains n then s
    else
      let x : Ns := { nsid := n.nsid, group := n.group, blocks := n.blocks, zoned := n.zoned, pit := n.pit, mediaKey := s.host.nextKey }
      { s with host := { s.host with nss := s.host.nss ++ [x], nextKey := s.host.nextKey + 1 } }) s

/-- The partner's allocations exist here under the same identifiers and addresses (R488). -/
def State.adoptAllocs (s : State) (prev : EpochImage) (e : EpochImage) : State :=
  let gone := prev.allocs.filter fun a => !(e.allocs.any fun b => b.id == a.id)
  let s := gone.foldl (fun s a => match s.alloc? a.id with
    | some x => if x.freed then s else s.freeAlloc x
    | none => s) s
  e.allocs.foldl (fun s a =>
    if (s.alloc? a.id).isSome ∨ prev.allocs.contains a then s
    else
      let f := a.flags.toNat
      let x : Alloc := { id := a.id, ctx := Fin.ofNat 64 a.ctx, pages := a.pages, home := homeTier (bitsOf f 1 0)
                         pin := decide (bitsOf f 2 2 = 1), zod := decide (bitsOf f 3 3 = 1)
                         large := decide (bitsOf f 4 4 = 1), huge := decide (bitsOf f 5 5 = 1) }
      { s with tiers := { s.tiers with allocs := s.tiers.allocs ++ [x], nextAlloc := max s.tiers.nextAlloc (a.id + a.pages) } }) s

/-- Bindings and keys that the partner's control state has gained or lost. -/
def State.adoptSettings (s : State) (prev : EpochImage) (e : EpochImage) : State :=
  let bind := (s.host.bind.filter fun b => !(prev.bind.contains b && !e.bind.contains b))
  let bind := (e.bind.filter fun b => !prev.bind.contains b).foldl (fun l b => l.filter (fun x => !(x.1 == b.1)) ++ [b]) bind
  let keys := (prev.keys.filter fun k => (assocGet k.1 e.keys).isNone).foldl (fun l k => assocErase k.1 l) s.host.keys
  let keys := (e.keys.filter fun k => !prev.keys.contains k).foldl (fun l k => assocPut k.1 k.2 l) keys
  { s with host := { s.host with bind, keys } }

/-- The partner's partition table, when it is a later epoch (R494). -/
def State.adoptTable (s : State) (e : EpochImage) : State :=
  if s.part.epoch < e.tableEpoch then
    let entries := e.part.foldl (fun v p => v.set p.1 p.2) (Vector.replicate 64 (0 : BitVec 4096))
    ({ s with part := { s.part with entries } }).applyTable e.tableEpoch
  else s

/-- Staging areas of jobs that the partner no longer has: their completions have been posted. -/
def State.adoptStaging (s : State) (prev : EpochImage) (e : EpochImage) : State :=
  let out := (prev.jobs.map (·.exec)).filter fun j => !(e.jobs.any fun k => k.exec == j)
  { s with twin := { s.twin with staging := s.twin.staging.filter fun g => !out.contains g.exec } }

/-- The empty image, which stands before the first epoch. -/
def noEpoch : EpochImage :=
  { num := 0, nss := [], declares := [], homes := [], bind := [], keys := [], tableEpoch := 0, part := [], jobs := [], allocs := []
    whole := true, verified := true }

/-- Adopt an epoch in the place of the one adopted before (R492). -/
def State.adopt (s : State) (prev : EpochImage) (e : EpochImage) : State :=
  let s := (((s.adoptNss prev e).adoptGroups prev e).adoptAllocs prev e).adoptSettings prev e
  let s := (s.adoptTable e).adoptStaging prev e
  let s := { s with fw := { s.fw with partnerMajor := e.fwMajor }, twin := { s.twin with adopted := some e, epAdopted := e.num } }
  if s.oldAccess then { s with twin := { s.twin with owed := some e.num } } else s.toPeer (.adopted e.num)

/-- STATE_EPOCH_ADOPT (R491, R492): a partial epoch, or one whose trailer does not verify, is discarded. During a
pairing the partner's first epoch is kept until the pair is made. -/
def execStateEpochAdopt (e : EpochImage) (s : State) : Out :=
  .next (
    if !(e.whole && e.verified) then s
    else if s.twin.st = .training then { s with twin := { s.twin with adopted := some e } }
    else if !s.paired ∨ (s.twin.adopted.isSome ∧ e.num ≤ s.twin.epAdopted) then s
    else s.adopt (s.twin.adopted.getD noEpoch) e)

/-! ## Pair Control (R425, R507, R510, R516) -/

/-- The cages train anew. -/
def State.untrained (s : State) : State :=
  { s with
    twin := { s.twin with cages := s.twin.cages.map fun c => { c with lanes := 0, held := false, consec := 0, crossed := false } }
    phys := { s.phys with twin := s.phys.twin.map fun c => { c with linkUp := false } } }

/-- PAIR (R507). -/
def execPair (h : Hdr) (serial : List Nat) (s : State) : Out :=
  .next (s.rootCmd h (
    if s.twin.st ≠ .unpaired then s.badSeq h
    else if serial.length ≠ 32 then s.badField h
    else
      let s := s.untrained
      let s := { s with
        life := { s.life with dom := s.life.dom.turnOn .tl }
        twin := { s.twin with peerSerial := serial, pairAt := some s.now, adopted := none, epAdopted := 0 } }
      (s.pairTo .training).waitFor { hdr := h, body := .other, wait := .pairing }))

/-- The serial numbers in order. -/
def serialLt : List Nat → List Nat → Bool
  | [], [] => false
  | [], _ => true
  | _, [] => false
  | a :: s, b :: t => decide (a < b) || (decide (a = b) && serialLt s t)

/-- Commands that wait for the pairing complete. -/
def State.pairDone (s : State) (good : Bool) : State :=
  (s.waitingOn (· == .pairing)).foldl (fun s o => if good then s.ok o.hdr else s.badSeq o.hdr) s

/-- The pairing has failed: nothing has changed (R507). -/
def State.pairFails (s : State) : State :=
  let s := { s with twin := { s.twin with peerSerial := [], pairAt := none, adopted := none } }
  (s.pairTo .unpaired).pairDone false

/-- The pair is made: ranks, the agreed key-encryption key, and every group in full for the module without
namespaces (R481, R507). -/
def State.pairMade (s : State) : State :=
  let e := s.twin.adopted.getD noEpoch
  let s := { s with
    free := s.free + 1
    twin := { s.twin with
      rank := if serialLt s.ident.serial s.twin.peerSerial then 0 else 1, kek := some s.free, pairAt := none, adopted := none
      memSeq := 0, memRecv := 0, unacked := [], epFlight := none, dirty := true } }
  let empty := s.host.nss.isEmpty && e.nss.isEmpty
  let s := if empty then s.pairTo .paired else s.resilver true
  let s := (s.adopt noEpoch e).pairDone true
  if empty then s
  else
    let groups := s.twin.groups.map fun g => if g.role = .dummy then { g with synced := false } else g
    { s with twin := { s.twin with groups } }

/-- PAIR_TIMEOUT (R507): matched says that the partner has received the matching Pair, trained that the link has trained
with it. -/
def execPairTimeout (matched trained : Bool) (s : State) : Out :=
  .next (
    if s.twin.st ≠ .training then s
    else if matched ∧ trained ∧ s.linkIsUp then
      (if s.host.nss ≠ [] ∧ (s.twin.adopted.getD noEpoch).nss ≠ [] then s.pairFails else s.pairMade)
    else match s.twin.pairAt with
      | some t => if t + 60000000000 ≤ s.now then s.pairFails else s
      | none => s.pairFails)

/-- UNPAIR (R507): the groups whose declarer this module is stay; the dummy copies go with their keys. -/
def execUnpair (h : Hdr) (cdw11 : W32) (s : State) : Out :=
  .next (s.rootCmd h (
    if s.twin.st = .paired ∨ ((s.twin.st = .soloSplit ∨ s.twin.st = .soloSurvivor) ∧ cdw11.getLsbD 0) then
      let s := (s.pairTo .unpaired).withoutPartner
      let out := s.host.nss.filter fun n => (s.group n.group).role == .dummy
      let s := out.foldl State.deleteNs s
      let groups := s.twin.groups.map fun g =>
        if g.role = .declarer then { g with homeHere := true, synced := true, changed := [] } else ({} : Group)
      let s := { s with twin := { s.twin with
        groups, peerSerial := [], rank := 0, kek := none, adopted := none, staging := [], waiting := [], applied := [], resLeft := 0, resDone := 0 } }
      s.endPolicyWait.untrained.ok h
    else s.badSeq h))

/-- A group is to be handed to the partner (R510): new I/O to it meets Asymmetric Access Transition. -/
def State.handOver (s : State) (g : Nat) : State :=
  (s.modGroup g fun x => { x with ana := .transition, handing := true, handEp := none }).touchControl

/-- Groups whose declarer is this module. -/
def State.ours (s : State) : List Nat := ((upto 64).map (· + 1)).filter fun g => (s.group g).role == .declarer && !(s.group g).handing

/-- RETURN_DECLARER_ROLES (R507, R510). -/
def execReturnDeclarerRoles (h : Hdr) (s : State) : Out :=
  .next (s.rootCmd h (
    if s.twin.st ≠ .paired then s.badSeq h
    else match s.ours.filter fun g => !(s.group g).homeHere with
      | [] => s.ok h
      | gs => (gs.foldl State.handOver s).waitFor { hdr := h, body := .other, wait := .handover }))

/-- HAND_GROUP (R507, R510): CDW11[5:0] names the group, and 0 there is group 64. -/
def execHandGroup (h : Hdr) (cdw11 : W32) (s : State) : Out :=
  .next (s.rootCmd h (
    let n := bitsOf cdw11.toNat 5 0
    let g := if n = 0 then 64 else n
    if s.twin.st ≠ .paired ∨ !s.ours.contains g ∨ !(s.group g).synced then s.badSeq h
    else (s.handOver g).waitFor { hdr := h, body := .other, wait := .handover }))

/-- CLEAR_PAIR_RECORDS (R516): the first n; records that waited for space move in, which raises the event again. -/
def execClearPairRecords (h : Hdr) (n : Nat) (s : State) : Out :=
  .next (s.rootCmd h (
    let k := min n (min recCap s.twin.records.length)
    let moved := decide (recCap < s.twin.records.length) && decide (0 < k)
    let s := { s with twin := { s.twin with records := s.twin.records.drop k } }
    (if moved then s.aer { typ := 7, info := 1, page := 0xD5 } else s).ok h))

/-! ## Twin verify (R511 to R514) -/

/-- The partner's number of an execution here, and this module's number of one there. -/
def twinId (n : Nat) : Nat := if 2 ^ 63 ≤ n then n - 2 ^ 63 else n + 2 ^ 63

/-- TWIN_COPY (R511, R512): the partner's twin-verified command is admitted here under the same terms, or refused. -/
def execTwinCopy (exec prog ctx : Nat) (params : List Byte) (deadline : W64) (s : State) : Out :=
  .next (
    let refuse (sc : Nat) (a b : W32) : State := s.toPeer (.twinRefuse exec sc a b)
    if !s.paired ∨ 64 ≤ ctx ∨ (s.ex? (twinId exec)).isSome then s
    else if !s.nsReady then refuse 0x81 0 0
    else match s.image? prog with
      | none => refuse 0x81 0 0
      | some i =>
        if !i.verified ∨ !i.active then refuse 0x81 0 0
        else
          let h : Hdr := { path := .ctrl 0, sq := 0, cid := exec }
          let e := s.newExec h (Fin.ofNat 64 ctx) i (twinId exec) params deadline.toNat true true
          match s.takeIn i e params with
          | .error (_, sc, a, b) => refuse sc a b
          | .ok t => t.toPeer (.twinAccept exec))

/-- TWIN_REFUSAL (R512): the receiving module withdraws its own admission. -/
def execTwinRefusal (exec : Nat) (sc : Nat) (dw0 dw1 : W32) (s : State) : Out :=
  .next (match s.ex? exec with
    | some e => if e.twin ∧ !e.copy then (s.dropExec e).refuseJob e.hdr e.ctx sc (dw0 ||| 0x100#32) dw1 else s
    | none => s)

/-- TWIN_DIGEST (R513): exec is the sender's number of the execution. -/
def execTwinDigest (exec : Nat) (step : Nat) (digest : BitVec 256) (s : State) : Out :=
  .next (match s.ex? (twinId exec) with
    | none => s
    | some e =>
      if !e.twin then s
      else
        let e := { e with peerDigest := some (step, digest) }
        let s := s.setEx e
        if (match e.phase with | .closing .. => true | _ => false) && e.st.myDigest.isSome && e.step == step then s.twinCommit e else s)

/-- TWIN_PREEMPT_NOTE (R514): the partner's arbiter has pre-empted its copy at the commit point that ended step - 1. -/
def execTwinPreemptNote (exec : Nat) (step : Nat) (s : State) : Out :=
  .next (match s.ex? (twinId exec) with
    | none => s
    | some e =>
      if !e.twin ∨ step < e.step then s
      else if e.step < step then s.setEx { e with preemptStep := some step }
      else match e.phase with
        | .running | .closing .. | .waitGrant =>
          let s := s.pushOff e
          { s with sched := { s.sched with boundary := satAdd 65535 s.sched.boundary 1 } }
        | _ => s)

end Sys2Proof.Machine
end

