-- ==== Sys2Proof/Machine/FaultEvents.lean ====
section
/-!
DEFINITION. Errors in memories and their remedies (R540 to R545, R552), unit resets (R547 to R550), scrubbing (R553,
R555) and checker tests (R559).
-/
namespace Sys2Proof.Machine

/-! ## Parity errors in SRAM (R540, R541, R552) -/

/-- The source of an SRAM (R525). -/
def sramSrc : SramUnit → Fin 256
  | .tile r _ => Fin.ofNat 256 (r / 5 % 16)
  | .bank n => Fin.ofNat 256 (0x20 + n.val)
  | .ccCode | .ccData => 0xC4
  | .tlb => 0xAB
  | .engine e => Fin.ofNat 256 (0xA0 + e.val)
  | .alwaysOn => 0xE2

/-- The location field of a parity error (R560). -/
def sramWhere (u : SramUnit) (word : Nat) : BitVec 24 :=
  match u with
  | .tile r c => BitVec.ofNat 24 (r % 128 + 256 * (c % 128))
  | _ => BitVec.ofNat 24 word

/-- The event code of a parity error (R525). -/
def sramEvent (u : SramUnit) (dirty : Bool) : Nat :=
  match u with
  | .tile .. => if dirty then 3 else 2
  | .bank _ => if dirty then 2 else 1
  | .ccData => 2
  | .ccCode | .tlb | .engine _ | .alwaysOn => 1

/-- The Note that an SRAM's run-ahead read raises, where its source has one (R552). -/
def sramNote : SramUnit → Option Nat
  | .tile .. => some 2
  | .bank _ | .ccCode | .tlb => some 1
  | .ccData | .engine _ | .alwaysOn => none

/-- A failing address of a tile gets a spare word; with its eight entries taken the tile is fenced (R123, R541). -/
def State.remapTile (s : State) (row col word : Nat) : State :=
  let mine := s.fab.tileRemap.filter fun x => decide (x.1 = row) && decide (x.2.1 = col)
  if mine.any (fun x => decide (x.2.2 = word)) then s
  else if mine.length < 8 then { s with fab := { s.fab with tileRemap := s.fab.tileRemap ++ [(row, col, word)] } }
  else s.fenceTile row col 1 false

/-- The bank's remap table has no entry left for a failing address. -/
def State.bankFull (s : State) (n word : Nat) : Bool :=
  let mine := s.fab.bankRemap.filter fun x => decide (x.1 = n)
  !(mine.any fun x => decide (x.2 = word)) && decide (16 ≤ mine.length)

/-- A failing address of a bank gets a spare word (R541). -/
def State.remapBank (s : State) (n word : Nat) : State :=
  if s.fab.bankRemap.contains (n, word) then s
  else { s with fab := { s.fab with bankRemap := s.fab.bankRemap ++ [(n, word)] } }

/-- Count a parity error in the Health Detail counts (R432). -/
def State.countParity (s : State) : State := { s with health := { s.health with sramPar := satAdd max64 s.health.sramPar 1 } }

/-- The step that read dirty data remembers the address (R540). -/
def State.noteWord (s : State) (exec : Option Nat) (word : Nat) : State :=
  match exec with
  | some n => s.modEx n fun e => { e with parityWord := word }
  | none => s

/-- A parity error outside run-ahead. fails says that the address fails the pattern test. -/
def State.sramError (s : State) (u : SramUnit) (word : Nat) (dirty fails : Bool) (exec : Option Nat) : State :=
  let s := (s.countParity.noteWord (if dirty then exec else none) word)
  let full := match u with
    | .bank n => dirty && fails && s.bankFull n.val word
    | _ => false
  let s := if dirty && fails && !full then (match u with
      | .tile r c => s.remapTile r c word
      | .bank n => s.remapBank n.val word
      | _ => s) else s
  let s := match u with
    | .tlb => { s with tiers := { s.tiers with tlb := s.tiers.tlb.eraseIdx word } }
    | _ => s
  s.report (sramSrc u) (if full then 3 else sramEvent u dirty) (sramWhere u word) (if dirty then exec else none)

/-- The unit's SRAM has power, so that it can be read. -/
def State.sramOn (s : State) (u : SramUnit) : Bool :=
  match u with
  | .alwaysOn => s.life.dom.ao && s.life.phase != .off
  | .ccCode | .ccData => s.life.dom.cc
  | .tile r _ => s.life.dom.on (.b (Fin.ofNat 16 (r / 5)))
  | .bank _ | .tlb | .engine _ => s.life.dom.cs

/-- SRAM_PARITY_ERROR (R540 to R542, R552). -/
def execSramParityError (u : SramUnit) (word : Nat) (dirty runAhead fails : Bool) (exec : Option Nat) (s : State) : Out :=
  .next (
    if !s.sramOn u then s
    else if runAhead then (match sramNote u with
      | some ev => s.report (sramSrc u) ev (sramWhere u word) none
      | none => s)
    else s.sramError u word dirty fails exec)

/-! ## Errors in T1 and T2 words (R543 to R545, R552) -/

/-- The source of a T1 stack or of a group of T2 channels (R525). -/
def dramSrc (t2 : Bool) (unit : Fin 16) : Fin 256 := Fin.ofNat 256 ((if t2 then 0x70 else 0x60) + unit.val)

/-- Poison a 64-byte word of memory (R544). -/
def State.poisonWord (s : State) (w : Nat) : State :=
  { s with tiers := { s.tiers with poison := if s.tiers.poison.contains w then s.tiers.poison else s.tiers.poison ++ [w] } }

/-- A page moves to a new frame of its tier and its old one is to be retired (R543), once for each need. -/
def State.renew (s : State) (a : Alloc) (i : Nat) : State :=
  if (s.tiers.migs ++ s.tiers.queue).any fun m => m.renew && decide (m.alloc = a.id) && m.pages.contains i then s
  else s.migrate { id := 0, alloc := a.id, pages := a.units [i], dst := (a.page i).tier, promo := false, renew := true }

/-- A word of a page needed correction: more than 16 times within an hour moves the page and retires its frame (R543). -/
def State.corrected (s : State) (w : Nat) : State :=
  let pk := w / 1024
  let s := { s with health := { s.health with dramCorr := satAdd max64 s.health.dramCorr 1 } }
  match s.allocAt (pk % 2 ^ 40) with
  | none => s
  | some a =>
    let i := pk % 2 ^ 40 - a.id
    let p := a.page i
    let recent := (p.corrections.filter fun t => decide (s.now < t + 3600000000000)) ++ [s.now]
    if recent.length ≤ 16 then s.modAlloc a.id fun b => b.setPage i { p with corrections := recent }
    else
      (s.modAlloc a.id fun b => b.setPage i { p with corrections := [] }).renew a i

/-- The execution of a reader. -/
def Reader.execOf : Option Reader → Option Nat
  | some (.step n) | some (.runAhead n) => some n
  | some (.host _) | some .patrol | none => none

/-- DRAM_ECC_ERROR (R543, R544, R552). key is the number of the 64-byte word in memory; a dirty one is poisoned, and the
step that reads it runs again once. -/
def execDramEccError (t2 : Bool) (unit : Fin 16) (key : Nat) (use : WordUse) (runAhead : Bool) (rd : Option Reader) (s : State) : Out :=
  .next (
    let src := dramSrc t2 unit
    let whr : BitVec 24 := BitVec.ofNat 24 key
    if !(if t2 then s.life.dom.t2 else s.life.dom.t1) then s
    else if runAhead then s.report src 1 whr none
    else match use with
      | .corrected => (s.corrected key).report src 1 whr none
      | .cleanCopy => s.report src 2 whr none
      | .dirty => (s.poisonWord key).report src 3 whr (Reader.execOf rd)
      | .firmwareReserve => s.report src 4 whr none)

/-- MERGE_BUFFER_WRITEBACK (R545): memory holds what reads of the merge buffer return, so a write-back changes no byte;
an entry whose word is uncorrectable is written back poisoned. -/
def execMergeBufferWriteback (t2 : Bool) (unit : Fin 16) (word : Nat) (badRead : Bool) (s : State) : Out :=
  .next (
    if !(if t2 then s.life.dom.t2 else s.life.dom.t1) ∨ !badRead then s
    else (s.poisonWord word).report (dramSrc t2 unit) 3 (BitVec.ofNat 24 word) none)

/-! ## Unit resets (R547 to R550) -/

/-- The unit has power. -/
def State.unitOn (s : State) (u : ResetUnit) : Bool :=
  match u with
  | .bridge b => if b.val < 8 then s.life.dom.ma else s.life.dom.mb
  | .t1 _ => s.life.dom.t1
  | .t2 _ => s.life.dom.t2
  | .pipe _ | .comp _ => s.life.dom.cs
  | .hostPort _ => s.life.dom.hn
  | .cable _ => s.life.dom.tl

/-- Executions on a compositor that is being reset go back to their commit point and resume elsewhere. -/
def State.resetComp (s : State) (c : Fin 16) : State :=
  let comps := vmod s.sched.comps c fun x => { x with resetting := true }
  let s := { s with sched := { s.sched with comps := comps } }
  let ids := (s.sched.execs.filter fun e => e.comp == some c).map (·.id)
  (ids.foldl (fun s i => (s.abandon1 i).modEx i fun e => { e with phase := .preempted, comp := none }) s).fillComps

/-- UNIT_RESET (R547, R548): the unit's epoch rises, and until the reset ends it answers requests with "target unit
reset". A media bridge is reset as R468 has it, and a cable group retrains. -/
def execUnitReset (u : ResetUnit) (s : State) : Out :=
  .next (
    if !s.unitOn u ∨ s.units.resetting.contains u then s
    else match u with
      | .bridge b => s.startBridgeReset b
      | _ =>
        let s := ({ s with units := { s.units with resetting := s.units.resetting ++ [u] } }).raiseEpoch (unitCode u)
        match u with
        | .comp c => s.resetComp c
        | .cable g => s.groupDown g
        | _ => s)

/-- UNIT_RESET_COMPLETE (R548): requests that carry the new epoch are accepted. -/
def execUnitResetComplete (u : ResetUnit) (s : State) : Out :=
  .next (
    if !s.units.resetting.contains u then s
    else match u with
      | .bridge b => s.bridgeBack b []
      | _ =>
        let s := { s with units := { s.units with resetting := s.units.resetting.filter fun x => x != u } }
        match u with
        | .comp c => ({ s with sched := { s.sched with comps := vmod s.sched.comps c fun x => { x with resetting := false } } }).fillComps
        | _ => s)

/-- TARGET_UNIT_RESET_RESPONSE (R548, R550): a response that a unit sends to a request of its requester which it was reset
under, or which reaches it while it is being reset. The translation layer reissues from its journal
(BRIDGE_RESET_COMPLETE), and a copy of the tier manager is still under way. -/
def execTargetUnitResetResponse (r : Requester) (u : ResetUnit) (s : State) : Out :=
  .next (match r with
    | .compositor c => s.onComp c fun s e =>
      if s.units.resetting.contains u ∨ (e.st.ops.any fun o => s.answersReset u o.uep) then
        s.rerunOr e .unitReset 0x88 (BitVec.ofNat 32 (unitBlock u)) 0
      else s
    | .hostDma h =>
      if s.host.cmds.any fun o => o.hdr == h && o.wait == .data && s.answersReset u o.uep then s.hostRetry h else s
    | .ftl _ | .tierManager _ => s)

/-- STALE_REPLY_DISCARD (R549): a reply with another epoch than the unit's is discarded and counted. -/
def execStaleReplyDiscard (u : ResetUnit) (epoch : Nat) (s : State) : Out :=
  .next (
    if epoch % 65536 = (s.unitEpoch (unitCode u)).toNat then s else s.staleReply)

/-! ## Scrubbing (R553 to R555) -/

/-- The entry of the Scrub Laps page. -/
def scrubNo : ScrubTier → Nat
  | .store => 0 | .t1 => 1 | .t2 => 2 | .ccSram => 3 | .flash => 4

/-- Bytes of a lap (R7, R16, R553). -/
def State.lapBytes (s : State) : ScrubTier → Nat
  | .store => 268435456
  | .t1 => 1649267441664
  | .t2 => 3298534883328
  | .ccSram => 4194304
  | .flash => 524288 * s.programmedStripes

/-- The tier has power. -/
def State.scrubOn (s : State) : ScrubTier → Bool
  | .store => s.life.dom.cs
  | .t1 => s.life.dom.t1
  | .t2 => s.life.dom.t2
  | .ccSram => s.life.dom.cc
  | .flash => s.life.dom.ma && s.life.dom.mb

/-- SCRUB_QUOTA (R543, R553, R555): mended is what was written back corrected or fetched again, poisonKeys the dirty uncorrectable words of T1
and T2, which are poisoned; only the composing store's
scrubber yields cycles to trace capture (R554). -/
def execScrubQuota (t : ScrubTier) (bytes : Nat) (mended : ScrubMended) (poisoned yielded : Nat) (poisonKeys : List Nat) (s : State) : Out :=
  .next (
    if !s.scrubOn t then s
    else
      let dram := t == .t1 || t == .t2
      let s := if dram then poisonKeys.foldl State.poisonWord s else s
      let s := if dram then mended.corrected.foldl State.corrected s else s
      let scrub := vmod s.scrub (scrubNo t) fun x =>
        { x.advance s.now bytes (s.lapBytes t) with
          corrected := satAdd max64 x.corrected (mended.corrected.length + mended.refetched)
          poisoned := satAdd max64 x.poisoned (if dram then poisonKeys.length else poisoned)
          yielded := if t = .store then satAdd max64 x.yielded yielded else 0 }
      { s with scrub })

/-! ## Checker tests (R559) -/

/-- A free value below n. -/
def freeBelow (free n : Nat) : Nat := (Config.freeWord free).toNat % n

/-- A checker has failed its test: its unit is made unavailable. Which tile of a band the test found, and the event code
of the Major fault of another unit, are free values. -/
def State.checkerFails (s : State) (src : Fin 256) : State :=
  let n := src.val
  let s' := { s with free := s.free + 2 }
  if n ≤ 0x0F then s'.fenceTile (5 * n + freeBelow s.free 5) (freeBelow (s.free + 1) 128) 2 false
  else if n ≤ 0x1F then s.leaveComp (Fin.ofNat 16 (n - 0x10))
  else if 0xB0 ≤ n ∧ n ≤ 0xB3 then s.portDown (Fin.ofNat 4 (n - 0xB0))
  else if 0xB4 ≤ n ∧ n ≤ 0xB7 then s.groupDown (Fin.ofNat 4 (n - 0xB4))
  else
    let r : Report := { src, event := freeBelow s.free 256, whr := 0, inj := false, exec := none, spareLeft := true }
    let s := (s'.record1 r .major).recordFirst (r, .major)
    s.meet { rep := r, cls := .major, since := s.now }

/-- CHECKER_TEST (R559): sources 0x00 to 0xB7; a source that is armed is tested later (R562). -/
def execCheckerTest (failed : List (Fin 256)) (s : State) : Out :=
  .next (
    if !s.serving then s
    else (failed.filter fun n => decide (n.val ≤ 0xB7) && !s.armed n).foldl State.checkerFails s)

end Sys2Proof.Machine
end

