-- ==== Sys2Proof/Machine/Thermal.lean ====
section
/-!
DEFINITION. Hardware limits, the hardware cap, the power loop and the thermal loop (R563 to R573, R593, R601, R609, R610,
R614), and trace capture (R588).
-/
namespace Sys2Proof.Machine

/-! ## Limit monitors (R563) -/

/-- The source is a hardware-limit monitor. -/
def isMonitor (src : Fin 256) : Bool := decide (0xC8 ≤ src.val) && decide (src.val ≤ 0xDF)

/-- LIMIT_MONITOR_CROSSING (R563, R525): the soft threshold raises a Note, which for the input current is the hardware cap's
event, and the fused limit a Trump fault. The fused flow limit is in force from t0 of the start-up on, while switched domains have power (R608). -/
def execLimitMonitorCrossing (src : Fin 256) (level : MonLevel) (s : State) : Out :=
  .next (
    if !isMonitor src ∨ !s.miUp then s
    else match level with
      | .back => { s with pwr := { s.pwr with above := s.pwr.above &&& ~~~(BitVec.twoPow 256 src.val) } }
      | .soft =>
        ({ s with pwr := { s.pwr with above := s.pwr.above ||| BitVec.twoPow 256 src.val } }).report src (if src = 0xC9 then 1 else 2) 0 none
      | .fused => if src = 0xDF ∧ !s.isPowered ∧ s.life.phase ≠ .startReady then s else s.report src 3 0 none)

/-! ## The hardware cap (R566) -/

/-- Cycles that the supervisor lets pass of every 16: all bands and CK_CS. -/
def State.setKeep (s : State) (n : Nat) : State :=
  { s with
    pwr := { s.pwr with keep16 := n, stretchAt := s.now }
    fab := { s.fab with stretch := if n < 16 then BitVec.allOnes 16 else 0 } }

/-- A stretch begins: it is counted for the module and for every band, and it is reported, unless the monitor of the input
current has reported the crossing already (R563). -/
def State.beginStretch (s : State) : State :=
  let s := s.setKeep 12
  let s := { s with
    pwr := { s.pwr with stretches := satAdd 65535 s.pwr.stretches 1 }
    fab := { s.fab with stretchCount := s.fab.stretchCount.map fun n => satAdd 65535 n 1 } }
  if s.pwr.above.getLsbD 0xC9 then s else s.report 0xC9 1 0 none

/-- HARDWARE_CAP_STRETCH (R566): avg is the input power in W, averaged over 100 µs. -/
def execHardwareCapStretch (avg : Nat) (s : State) : Out :=
  .next (
    if !s.isPowered ∨ avg ≤ s.hwCap then s
    else if s.pwr.keep16 = 16 then s.beginStretch
    else if 12 < s.pwr.keep16 then s.setKeep 12
    else if 8 < s.pwr.keep16 ∧ s.pwr.stretchAt + 100000 ≤ s.now then s.setKeep 8
    else s)

/-- HARDWARE_CAP_RELEASE (R566): below cap_w the stretch is released by one sixteenth every 100 µs. -/
def execHardwareCapRelease (avg : Nat) (s : State) : Out :=
  .next (
    if s.pwr.keep16 < 16 ∧ avg < s.pwr.capNext ∧ s.pwr.stretchAt + 100000 ≤ s.now then s.setKeep (s.pwr.keep16 + 1) else s)

/-! ## The power loop (R565, R568 to R570) -/

/-- eff_w: the configured cap less the reductions, never below 1,500 W (R565, R571). -/
def State.effCap (s : State) : Nat := max 1500 (min (s.pwr.capW - s.pwr.loopRed) s.pwr.coolMax)

/-- The code of the band frequency at a rung, in units of 50 MHz above 0.6 GHz (R128, R568). -/
def rungFreq (r : Nat) : Nat := 16 - min r 8 - min (r - 16) 8

/-- The flash busy limit at a rung. -/
def rungBmax (r : Nat) : Nat := 8 - min (r - 9) 7

/-- The bands that a rung gates: from band 15 downwards, never band 0. -/
def rungGated (r : Nat) : BitVec 16 := BitVec.ofNat 16 (2 ^ 16 - 2 ^ (16 - min (r - 24) 15))

/-- The levers of a rung (R568, R569): the clock and the gates wait for a step that holds the fabric, and a band that is
ungated joins the array at the next step's start (R570). -/
def State.setRung (s : State) (r : Nat) : State :=
  { s with
    pwr := { s.pwr with rung := r }
    fab := { s.fab with freqNext := rungFreq r, gated := rungGated r }
    eng := { s.eng with half := decide (9 ≤ r) }
    flash := { s.flash with bmax := rungBmax r } }.boundary

/-- One tick of the ladder (R568): a move up needs ten ticks in a row below 0.93 × eff_w since the last move. -/
def State.ladderTick (s : State) (p1 : Nat) : State :=
  let eff := s.pwr.effW
  if 98 * eff < 100 * p1 then
    let s := { s with pwr := { s.pwr with lowTicks := 0 } }
    if s.pwr.rung < 39 then s.setRung (s.pwr.rung + 1) else s
  else if 100 * p1 < 93 * eff then
    if 10 ≤ s.pwr.lowTicks + 1 ∧ 0 < s.pwr.rung then
      ({ s with pwr := { s.pwr with lowTicks := 0 } }).setRung (s.pwr.rung - 1)
    else { s with pwr := { s.pwr with lowTicks := min 10 (s.pwr.lowTicks + 1) } }
  else { s with pwr := { s.pwr with lowTicks := 0 } }

/-- The loops run: firmware is up, and neither a Trump nor a Major fault has stopped them (R593). -/
def State.loopsRun (s : State) : Bool := s.serving

/-- POWER_LOOP_TICK (R565, R568): a new cap_w takes effect; p1 and p100 are mean input powers in W over 1 ms and 100 ms. -/
def execPowerLoopTick (p1 p100 : Nat) (s : State) : Out :=
  .next (
    if !s.loopsRun then s
    else
      let s := { s with pwr := { s.pwr with capW := s.pwr.capNext, p1 := min 8191 p1, p100 := min 8191 p100 } }
      let s := { s with pwr := { s.pwr with effW := s.effCap } }
      s.ladderTick p1)

/-! ## The thermal loop (R571, R601, R609, R610) -/

/-- A thermistor's reading lies within its range (R610). -/
def inSense (t : Int) : Bool := decide (-20 ≤ t) && decide (t ≤ 120)

/-- Note in PHY_STAT that a mistake was found (R615): bit b of PHY_STAT[15:8]. -/
def State.flagPhys (s : State) (b : Nat) : State := { s with phys := { s.phys with flags := s.phys.flags ||| BitVec.twoPow 8 b } }

/-- A report of source 0xEA (R613). -/
def State.mistake (s : State) (b : Nat) : State := (s.flagPhys b).report 0xEA 1 0 none

/-- Whether a thermistor has failed. -/
def State.thermBad (s : State) (outlet second : Bool) : Bool :=
  match outlet, second with
  | false, false => s.pwr.inletFailA
  | false, true => s.pwr.inletFailB
  | true, false => s.pwr.outletFailA
  | true, true => s.pwr.outletFailB

/-- A thermistor is open or shorted: the other of its pair is used alone (R610). -/
def State.loseTherm (s : State) (outlet second : Bool) : State :=
  if s.thermBad outlet second then s
  else
    let p := s.pwr
    let pwr := match outlet, second with
      | false, false => { p with inletFailA := true }
      | false, true => { p with inletFailB := true }
      | true, false => { p with outletFailA := true }
      | true, true => { p with outletFailB := true }
    ({ s with pwr }).mistake 5

/-- A reading out of range loses its thermistor. -/
def State.checkTherm (s : State) (outlet second : Bool) (t : Int) : State := if inSense t then s else s.loseTherm outlet second

/-- The temperature at a point from its two thermistors; none when both have failed. -/
def pairTemp (badA badB : Bool) (a b : Int) : Option Int :=
  match badA, badB with
  | true, true => none
  | true, false => some b
  | false, true => some a
  | false, false => some (if a = b then a else Config.thermPair a b)

/-- The coolant limits of R571 with those of R601 and R609. -/
def State.coolLimit (s : State) (inlet : Int) (flow : Nat) : Nat :=
  let byInlet := if 40 < inlet then 4000 - 150 * (inlet - 40).toNat else 4000
  let byFlow := if flow < 60 then max 1500 (4000 * flow / 60) else 4000
  let byDirection := if s.pwr.reverse then 2500 else 4000
  let byContact := if !s.phys.senseOpen ∧ 40 < s.phys.contact then 2000 else 4000
  min (min byInlet byFlow) (min byDirection byContact)

/-- The reverse-flow limit lifts at the first pass after forward flow has lasted 1 s (R609). -/
def State.liftReverse (s : State) : State :=
  if s.pwr.reverse ∧ s.pwr.fwdAt.isSome then { s with pwr := { s.pwr with reverse := false, fwdAt := none } } else s

/-- Monitors that the loop steps against: the coolant's own are answered by their table (R571). -/
def State.tooHot (s : State) : Bool := s.pwr.above &&& ~~~(BitVec.twoPow 256 0xDE ||| BitVec.twoPow 256 0xDF) != 0

/-- Add the time since the last pass to the bin of a temperature (R432). -/
def State.countTemp (s : State) (c : Int) : State :=
  let bin := if c < -10 then 0 else min 31 ((c + 10).toNat / 5)
  let hist := s.health.tempHist.set bin ((s.health.tempHist.getD bin 0) + (s.now - s.pwr.thermAt))
  { s with health := { s.health with tempHist := hist }, pwr := { s.pwr with thermAt := s.now } }

/-- THERMAL_LOOP_TICK (R571, R601, R609, R610). -/
def execThermalLoopTick (t : ThermIn) (s : State) : Out :=
  .next (
    if !s.loopsRun then s
    else
      let s := (((s.checkTherm false false t.inA).checkTherm false true t.inB).checkTherm true false t.outA).checkTherm true true t.outB
      let s := (s.liftReverse).countTemp t.hotC
      let p := s.pwr
      let inlet := (pairTemp p.inletFailA p.inletFailB t.inA t.inB).getD 45
      let outlet := (pairTemp p.outletFailA p.outletFailB t.outA t.outB).getD p.outletC
      let red := if s.tooHot then min (p.capW - 1500) (p.loopRed + 100) else if 3 ≤ t.margin then p.loopRed - 100 else p.loopRed
      let s := { s with pwr := { p with
        inletC := inlet, outletC := outlet, flow := min 255 t.flow, hotSrc := t.hotSrc, hotC := t.hotC, flashC := t.flashC, loopRed := red
        coolMax := s.coolLimit inlet t.flow } }
      { s with pwr := { s.pwr with effW := s.effCap } })

/-! ## The watchdog and trace capture (R573, R588) -/

/-- WATCHDOG_RESTART (R573). -/
def execWatchdogRestart (s : State) : Out :=
  .next (if s.life.dom.cc then { s with pwr := { s.pwr with watchdogAt := s.now } } else s)

/-- WATCHDOG_EXPIRY (R573): 50 ms without a restart. -/
def execWatchdogExpiry (s : State) : Out :=
  .next (if s.life.dom.cc ∧ s.pwr.watchdogAt + 50000000 ≤ s.now then s.report 0xC5 1 0 none else s)

/-- TRACE_POINT_RECORD (R588): idle says that the record finds an idle cycle within 1 µs; without one it is dropped. -/
def execTracePointRecord (point : Fin 512) (comp : Option (Fin 16)) (idle : Bool) (s : State) : Out :=
  .next (
    let t := s.trace
    if !t.run ∨ !((t.en.toList[point.val / 64]?).getD 0).getLsbD (point.val % 64) then s
    else if !idle then { s with trace := { t with dropped := satAdd (2 ^ 32 - 1) t.dropped 1 } }
    else
      let e? : Option Exec := match comp with
        | some c => s.sched.execs.find? fun e => e.comp == some c
        | none => none
      let x : TraceRec := { time := s.now, point, comp, exec := (e?.map (·.id)).getD 0, step := (e?.map (·.step)).getD 0 }
      let buf := t.buf ++ [x]
      { s with trace := { t with
        buf := buf.drop (buf.length - traceCap), count := t.count + 1, run := !(t.stopFull && decide (traceCap ≤ t.count + 1)) } })

end Sys2Proof.Machine
end

