-- ==== Sys2Proof/Machine/Lifecycle.lean ====
section
/-!
DEFINITION. The life of the module (R531, R564, R573 to R586, R593): the auxiliary input, start-up, clean shutdown, resets
after Major faults, and the trial of new firmware.
-/
namespace Sys2Proof.Machine

/-! ## The auxiliary input (R564, R574, R599) -/

/-- AUX_POWER_ON (R574, R599): 12 V comes into range. PD_AO starts if it was off, reads its slot, and is ready when the
supervisor's checkers pass their tests. -/
def execAuxPowerOn (slotId : Fin 16) (checkersOk : Bool) (s : State) : Out :=
  .next (
    let s := { s with life := { s.life with auxOk := true } }
    if s.life.dom.ao ∧ s.life.aoReady then s
    else
      let s := if s.life.dom.ao then s
        else
          let s := s.aoStart
          { s with phys := { s.phys with slotId } }
      ({ s with life := { s.life with aoReady := checkersOk } }).tryStart)

/-- AUX_POWER_LOSS (R564): alone it is a Note; without 48 V too, PD_AO stops. -/
def execAuxPowerLoss (s : State) : Out :=
  .next (
    let s := { s with life := { s.life with auxOk := false } }
    if !s.life.dom.ao then s
    else if s.life.in48Ok then s.report 0xCA 2 0 none
    else s.allOff)

/-! ## Start-up (R575, R581 to R584) -/

/-- The image in a slot can be booted: it is there and its signature verifies. -/
def State.bootable (s : State) (b sigA sigB : Bool) : Bool :=
  (match s.fw.slot b with
    | some i => i.signed
    | none => false) && (if b then sigB else sigA) && decide ((if b then s.fw.failsB else s.fw.failsA) < 3)

/-- The slot that is booted (R581): the other one where the chosen one cannot be. -/
def State.bootChoice (s : State) (sigA sigB : Bool) : Option Bool :=
  let b := s.bootSlot
  if s.bootable b sigA sigB then some b else if s.bootable (!b) sigA sigB then some (!b) else none

/-- Neither slot boots: the module stays out of service with FAULT_N asserted (R581). -/
def State.noBoot (s : State) : State :=
  { s with
    life := { s.life with phase := .outOfService }
    flt := { s.flt with faultN := true } }

/-- A trial that its slot does not boot has ended: the old image runs with its own settings (R582, R586). -/
def State.endTrial (s : State) : State :=
  let s := match s.fw.oldRecord with
    | some r => s.loadSettings r
    | none => s
  let s := s.log .fellBack 0 0
  { s with fw := { s.fw with trial := none, inTrial := false, trialLeft := 0, incompat := false, fellBack := true, oldRecord := none } }

/-- The first boot of a trial: the committed record is kept, and the trial runs on its translation or, where there is
none, on defaults (R583, R584). -/
def State.beginTrial (s : State) (old new : Option FwImage) : State :=
  match s.fw.oldRecord, old, new with
  | none, some o, some n =>
    let r := s.settings
    if Config.translates o n then { s with fw := { s.fw with oldRecord := some r } }
    else
      let s := s.loadSettings {}
      { s with fw := { s.fw with oldRecord := some r, incompat := true } }
  | _, _, _ => s

/-- A settings store that has been reset is loaded with its defaults (R583, R591). -/
def State.loadStore (s : State) : State :=
  if s.fw.storeReset then
    let s := s.loadSettings {}
    { s with fw := { s.fw with storeReset := false } }
  else s

/-- The firmware of a slot runs: settings are loaded, and a trial begins, goes on or ends. -/
def State.boot (s : State) (b : Bool) : State :=
  let s := s.loadStore
  let s := { s with fw := { s.fw with running := b, majorSinceBoot := false } }
  if s.fw.inTrial then
    (if s.fw.trial = some b then s.beginTrial (s.fw.slot (!b)) (s.fw.slot b) else s.endTrial)
  else s

/-- Steps 1 to 7 of R575 up to the checker tests: domains, self-test of the tiles, the fence list. The table epoch counts from 0
(R274). -/
def State.bringUp (s : State) (selfTestFails : List (Nat × Nat)) : State :=
  let bridges : Vector Bridge 16 := s.flash.bridges.map fun b => { b with up := true }
  let carried := s.fab.fences.map fun f => { f with sec := 0 }
  let s := { s with
    life := { s.life with dom := s.life.dom.raise }
    fab := { s.fab with fences := carried }
    part := { s.part with epoch := 0, next := none, revoking := [] }
    flt := { s.flt with map := [], escalated := 0, minors := [], active := none, latched := [] }
    flash := { s.flash with bridges }
    pwr := { s.pwr with capW := s.pwr.capNext, effW := s.pwr.capNext, watchdogAt := s.now } }
  let s := selfTestFails.foldl (fun s t => s.fenceTile t.1 t.2 2 false) s
  { s with fab := { s.fab with fencesNow := s.fab.fences } }

/-- Firmware is up (R575): the running slot's count of failed boots starts afresh. -/
def State.firmwareUp (s : State) : State :=
  let fw := if s.fw.running then { s.fw with failsB := 0 } else { s.fw with failsA := 0 }
  ({ s with
    fw := { fw with checkersOk := true }
    pwr := { s.pwr with thermAt := s.now }
    life := { s.life with phase := .firmwareUp, fwUpAt := s.now } }).log .restart 0 0

/-- The checker tests of a start-up (R559, R575 step 6), before firmware up: a unit other than a tile, compositor, port or cable
group that fails keeps the module out of service, and in a trial the old image is started (R582). -/
def State.startTests (s : State) (bad : List (Fin 256)) : State :=
  let s := bad.foldl State.checkerFails s
  if s.life.phase = .majorOut then
    let s := s.powerDown
    { s with life := { s.life with phase := .outOfService }, flt := { s.flt with faultN := true } }
  else if s.fw.majorSinceBoot then s
  else
    let s := s.firmwareUp
    { s with fw := { s.fw with checkersOk := bad.isEmpty } }

/-- START_UP (R559, R575, R581): the start-up sequence as a whole. -/
def execStartUp (selfTestFails : List (Nat × Nat)) (checkerFails : List (Fin 256)) (sigA sigB : Bool) (s : State) : Out :=
  .next (
    if s.life.phase ≠ .startReady ∨ !s.mayStart574 then s
    else match s.bootChoice sigA sigB with
      | none => s.noBoot
      | some b =>
        ((s.boot b).bringUp selfTestFails).startTests (checkerFails.filter fun n => decide (n.val ≤ 0xB7)))

/-- BOOT_TIMEOUT (R581, R582): firmware up not reached within 30 s of boot start. Three failed boots of a trial slot end
the trial; three of both slots leave the module out of service. -/
def execBootTimeout (s : State) : Out :=
  .next (
    if s.life.phase ≠ .startReady ∨ s.now < s.life.bootAt + 30000000000 then s
    else
      let s := s.bootFailed
      if 3 ≤ s.fw.failsA ∧ 3 ≤ s.fw.failsB then s.noBoot
      else
        let tries := if s.fw.trial = some true then s.fw.failsB else s.fw.failsA
        let s := if s.fw.inTrial ∧ 3 ≤ tries then s.endTrial else s
        { s with life := { s.life with bootAt := s.now } })

/-! ## Clean shutdown (R577, R578) -/

/-- A clean shutdown starts: the groups go to the partner, and new I/O and jobs are not served. -/
def State.beginShutdown (s : State) (byPin : Bool) : State :=
  let s := { s with life := { s.life with phase := .cleanShutdown, shutAt := s.now, shutByPin := byPin } }
  if s.paired then s.ours.foldl State.handOver s else s

/-- The end of a clean shutdown: flush, checkpoint, and power off; then standby or, by PWR_EN, a new start (R578). One that begins
a fallback ends in a module reset into the old slot (R586). -/
def State.endShutdown (s : State) : State :=
  let byPin := s.life.shutByPin
  let s := s.flushAll
  let s := { s with flash := { s.flash with journal := 0 } }
  if s.life.fallAfter then ({ s with host := { s.host with stopJobs := false }, life := { s.life with cleanEnd := true } }).fallBack
  else
  let s := s.powerDown
  ({ s with
    host := { s.host with stopJobs := false }
    life := { s.life with phase := .standby, cleanEnd := true, held := !byPin } }).tryStart

/-- A shutdown that skips handover and jobs, because the response to a Major fault has run (R593). -/
def State.shutDark (s : State) : State :=
  let s := s.powerDown
  { s with life := { s.life with phase := .standby } }

/-- PWR_EN_DEASSERT (R577, R580, R593): deasserted for at least 10 ms. While a sideband short lasts, PWR_EN reads as high (R613). -/
def execPwrEnDeassert (s : State) : Out :=
  .next (
    if s.phys.i3cReleased then s else
    let s := { s with life := { s.life with pwrEn := false, held := false } }
    match s.life.phase with
    | .firmwareUp | .inService => s.beginShutdown true
    | .startReady => { s with life := { s.life with phase := .standby } }
    | .majorOut => s.shutDark
    | .off | .powerLost | .standby | .cleanShutdown | .flushing | .outOfService | .trump => s)

/-- Jobs that are not inside a step end with status 0x84; the others do at their next commit point (R577). -/
def State.stopJobs (s : State) : State :=
  let s := { s with host := { s.host with stopJobs := true } }
  let ids := (s.sched.execs.filter fun e => match e.phase with
    | .running | .closing .. | .draining => false
    | .queued | .gangWait | .waitGrant | .preempted | .policyWait => true).map (·.id)
  ids.foldl (fun s i => match s.ex? i with
    | some e => s.endExec e .takeover
    | none => s) s

/-- The partner still has to take groups that it is being handed (R510, R577). -/
def State.handsOver (s : State) : Bool := s.paired && s.twin.groups.toList.any (·.handing)

/-- A shutdown runs to its end once no job is left and the groups are handed over (R577). -/
def State.shutdownOver (s : State) : State := if s.sched.execs = [] ∧ !s.handsOver then s.endShutdown else s

/-- RUNNING_JOB_SHUTDOWN_END (R577): after 1 s jobs are stopped. -/
def execRunningJobShutdownEnd (s : State) : Out :=
  .next (
    if s.life.phase ≠ .cleanShutdown then s
    else
      (if s.life.shutAt + 1000000000 ≤ s.now then s.stopJobs else s).shutdownOver)

/-- PWR_EN_ASSERT (R578, R580): a module in standby starts, and so does one that was out of service after Major faults. -/
def State.raiseEn (s : State) : State :=
  let was := s.life.pwrEn
  let s := { s with life := { s.life with pwrEn := true } }
  if was then s
  else if s.life.phase = .outOfService ∧ !(decide (3 ≤ s.fw.failsA) && decide (3 ≤ s.fw.failsB)) ∧ s.mayStart574 then s.atStart
  else s.tryStart

/-- PWR_EN_ASSERT. -/
def execPwrEnAssert (s : State) : Out := .next s.raiseEn

/-! ## After a Major fault (R580) -/

/-- MAJOR_SELF_RESET (R580): 5 s after the response has ended; after three such resets within 1 h the module stays out of
service. -/
def execMajorSelfReset (s : State) : Out :=
  .next (
    if s.life.phase ≠ .majorOut ∨ s.now < s.life.responseEnd + 5000000000 then s
    else
      let recent := s.life.selfResets.filter fun t => decide (s.now < t + 3600000000000)
      if 3 ≤ recent.length then
        let s := s.powerDown
        { s with life := { s.life with phase := .outOfService, selfResets := recent } }
      else
        let s := s.moduleReset
        { s with life := { s.life with selfResets := recent ++ [s.now] } })

/-! ## Trials (R582, R584, R586) -/

/-- The health checks of R584, all at the same moment. -/
def State.healthy (s : State) : Bool :=
  s.nsReady && !s.fw.majorSinceBoot && s.fw.checkersOk && (!s.fw.stagedPaired || s.twin.st == .paired) && !s.fw.incompat

/-- TRIAL_PASS (R582, R583, R584): the trial image is committed, and its settings record with it. -/
def execTrialPass (s : State) : Out :=
  .next (match s.fw.trial with
    | some b =>
      if s.fw.inTrial ∧ s.fw.running = b ∧ 0 < s.trialNs ∧ s.healthy then
        { s with fw := { s.fw with committed := b, trial := none, inTrial := false, trialLeft := 0 } }
      else s
    | none => s)

/-- TRIAL_TIMEOUT (R582, R586): 600 s have passed: a clean shutdown runs, with jobs for up to 1 s, and after it the old
image is started. -/
def execTrialTimeout (s : State) : Out :=
  .next (
    if s.fw.inTrial ∧ (s.life.phase = .firmwareUp ∨ s.life.phase = .inService) ∧ s.trialNs = 0 then
      let s := s.beginShutdown false
      ({ s with life := { s.life with fallAfter := true } }).shutdownOver
    else s)

end Sys2Proof.Machine
end

