-- ==== Sys2Proof/Machine/Management.lean ====
section
/-!
DEFINITION. The NVMe-MI commands of the management controller (R399, R561, R590 to R592). The contents of the standard
NVMe-MI responses are set out by that standard: they are free values, and the status numbers are PRESUMED from it.
-/
namespace Sys2Proof.Machine

/-- The NVMe-MI status Internal Error (R592). -/
def miInternal : Nat := 0x02
/-- The NVMe-MI status Invalid Command Opcode (R591). -/
def miOpcode : Nat := 0x03
/-- The NVMe-MI status Invalid Parameter. -/
def miParam : Nat := 0x04

/-- Answer with one free value. -/
def State.miFree (s : State) (h : Hdr) (known : List Nat) : State :=
  ({ s with free := s.free + 1 }).mi h 0 (known ++ [(Config.freeWord s.free).toNat])

/-- READ_NVME_MI_DATA_STRUCTURE (R591, R592). -/
def execReadNvmeMiDataStructure (h : Hdr) (kind : Nat) (s : State) : Out :=
  .next (s.miCmd h true (if kind = 2 then s.mi h 0 (s.host.ctrls.map (·.id)) else s.miFree h []))

/-- NVM_SUBSYSTEM_HEALTH_STATUS_POLL (R591, R592). -/
def execNvmSubsystemHealthStatusPoll (h : Hdr) (s : State) : Out := .next (s.miCmd h true (s.miFree h []))

/-- CONTROLLER_HEALTH_STATUS_POLL (R591). -/
def execControllerHealthStatusPoll (h : Hdr) (s : State) : Out :=
  .next (s.miCmd h false (s.miFree h (s.host.ctrls.map (·.id))))

/-- CONFIGURATION_GET (R591): what was set, and otherwise a value that no rule states. -/
def execConfigurationGet (h : Hdr) (id : Nat) (s : State) : Out :=
  .next (s.miCmd h false (match assocGet id s.host.miConfig with
    | some v => s.mi h 0 [v.toNat]
    | none => s.miFree h []))

/-- CONFIGURATION_SET (R591). -/
def execConfigurationSet (h : Hdr) (id : Nat) (v : W32) (s : State) : Out :=
  .next (s.miCmd h false (({ s with host := { s.host with miConfig := assocPut id v s.host.miConfig } }).mi h 0 []))

/-- VPD_READ (R591, R599): the slot identity is part of it. -/
def execVpdRead (h : Hdr) (s : State) : Out := .next (s.miCmd h false (s.miFree h [s.phys.slotId.val]))

/-- QUEUE_RESET (R399): the responses of requests of the path that have started are discarded. -/
def execQueueReset (h : Hdr) (s : State) : Out :=
  .next (s.miCmd h false (
    let mine := (s.host.cmds.map (·.hdr)).filter fun x => x.path == h.path && x != h
    let aers := s.host.aerReqs.filter fun x => x.path == h.path
    ({ s with host := { s.host with
        miDrop := (s.host.miDrop ++ mine).dedup
        aerReqs := s.host.aerReqs.filter fun x => !aers.contains x } }).mi h 0 []))

/-- Set a host's secret, and its pre-shared key where one is given. -/
def State.putSecret (s : State) (nqn : List Nat) (secret : BitVec 512) (psk : Option (BitVec 512)) : State :=
  let old := match s.host.secrets.find? fun x => x.nqn == nqn with
    | some x => x.psk
    | none => none
  let rest := s.host.secrets.filter fun x => !(x.nqn == nqn)
  let one : Secret := { nqn, secret, psk := match psk with | some k => some k | none => old }
  { s with host := { s.host with secrets := rest ++ [one] } }

/-- ROOT_BINDING (R393, R414, R591). -/
def execRootBinding (h : Hdr) (nqn : List Nat) (secret : BitVec 512) (s : State) : Out :=
  .next (s.miCmd h false (
    if 256 < nqn.length then s.mi h miParam []
    else (((s.bindNqn nqn 0).putSecret nqn secret none).touchControl).mi h 0 []))

/-- HOST_SECRET (R414, R415, R591). -/
def execHostSecret (h : Hdr) (nqn : List Nat) (secret psk : BitVec 512) (s : State) : Out :=
  .next (s.miCmd h false (
    if 256 < nqn.length then s.mi h miParam [] else (s.putSecret nqn secret (some psk)).mi h 0 []))

/-- MODULE_RESET (R578 to R580, R592): refused in the Trump state; a clean shutdown that runs is not disturbed. -/
def execModuleReset (h : Hdr) (s : State) : Out :=
  .next (s.miCmd h true (
    if s.life.phase = .trump then s.mi h miInternal []
    else if s.life.phase = .cleanShutdown then s.mi h 0 []
    else s.moduleReset.mi h 0 []))

/-- MODULE_CONTROL_SHUTDOWN (R577, R578, R592). -/
def execModuleControlShutdown (h : Hdr) (s : State) : Out :=
  .next (s.miCmd h true (
    match s.life.phase with
    | .trump => s.mi h miInternal []
    | .firmwareUp | .inService => (s.beginShutdown false).mi h 0 []
    | .majorOut =>
      let s := s.shutDark
      ({ s with life := { s.life with held := true } }).mi h 0 []
    | .startReady => ({ s with life := { s.life with phase := .standby, held := true } }).mi h 0 []
    | .off | .powerLost | .standby | .cleanShutdown | .flushing | .outOfService => s.mi h 0 []))

/-- SETTINGS_STORE_RESET (R583, R591, R592): accepted only while Unpaired; the next start-up loads the defaults. -/
def execSettingsStoreReset (h : Hdr) (s : State) : Out :=
  .next (s.miCmd h true (
    if s.life.phase = .trump then s.mi h miInternal []
    else if s.twin.st ≠ .unpaired then s.mi h miParam []
    else ({ s with fw := { s.fw with storeReset := true } }).mi h 0 []))

/-- MANAGEMENT_KEY (R590, R591): accepted only over I3C. -/
def execManagementKey (h : Hdr) (key : BitVec 512) (s : State) : Out :=
  .next (s.miCmd h false (
    if h.path = .i3c then ({ s with host := { s.host with mgmtKey := some key } }).mi h 0 [] else s.mi h miOpcode []))

/-- TRUMP_REPORT (R561, R592): FLT_FIRST and FLT_STICKY0 to FLT_STICKY3. -/
def execTrumpReport (h : Hdr) (s : State) : Out :=
  .next (s.miCmd h true (
    s.mi h 0 ((fltFirst s.flt.first).toNat :: (upto 4).map fun n => (stickyWord s.flt.sticky n).toNat)))

end Sys2Proof.Machine
end

