-- ==== Sys2Proof/Machine/Physical.lean ====
section
/-!
DEFINITION. What happens at the connectors, the cages and the coolant couplings (R600 to R605, R609, R610, R613 to R616),
and the lamps that show the state (R616, R617).
-/
namespace Sys2Proof.Machine

/-! ## Sideband and sense (R600, R601, R613) -/

/-- FAULT_N_SHORT (R600): the pin has read the other level than the module drives for more than 10 ms. -/
def execFaultNShort (s : State) : Out :=
  .next (if !s.miUp then s
    else ({ s with phys := { s.phys with faultForced := some (!s.flt.faultN) } }).mistake 2)

/-- SENSE_OPEN (R601): contact monitoring stops. -/
def execSenseOpen (s : State) : Out :=
  .next (if !s.miUp ∨ !s.life.in48Ok ∨ s.phys.senseOpen then s
    else ({ s with phys := { s.phys with senseOpen := true, contact := 0 } }).mistake 4)

/-- CONTACT_RESISTANCE_LIMIT (R601): the filtered contact resistance in units of 0.1 mΩ; above 4.0 mΩ the next
thermal-loop pass limits eff_w (R614). -/
def execContactResistanceLimit (tenths : Nat) (s : State) : Out :=
  .next (if !s.miUp ∨ s.phys.senseOpen then s else { s with phys := { s.phys with contact := min 255 tenths } })

/-- SIDEBAND_CROSS_CHECK (R613): a short makes PWR_EN read as high and has I3C released; a check that finds none lets I3C be
used again. -/
def execSidebandCrossCheck (shorted : Bool) (s : State) : Out :=
  .next (if !s.miUp then s
    else if shorted then
      (({ s with phys := { s.phys with i3cReleased := true } }).mistake 3).raiseEn
    else { s with phys := { s.phys with i3cReleased := false } })

/-- INPUT_REVERSED (R611, R613): a reversed 48 V input is out of range; with the 12 V auxiliary input reversed PD_AO runs
from 48 V and does not become ready. -/
def execInputReversed (aux : Bool) (s : State) : Out :=
  .next (
    if aux then
      if !s.life.in48Ok then s
      else
        let s := if s.life.dom.ao then s else s.aoStart
        let s := { s with life := { s.life with auxOk := false, aoReady := s.life.aoReady && s.isPowered } }
        let s := if s.life.phase = .startReady then { s with life := { s.life with phase := .standby } } else s
        s.mistake 1
    else
      let s := s.lose48
      if s.life.dom.ao then s.mistake 0 else s)

/-! ## The cages (R602 to R605, R616) -/

/-- Update a cage of a side. -/
def State.modCageSt (s : State) (twin : Bool) (cage : Fin 4) (f : CageSt → CageSt) : State :=
  if twin then { s with phys := { s.phys with twin := vmod s.phys.twin cage f } }
  else { s with phys := { s.phys with host := vmod s.phys.host cage f } }

/-- A cage. -/
def State.cageSt (s : State) (twin : Bool) (cage : Fin 4) : CageSt := if twin then s.phys.twin[cage] else s.phys.host[cage]

/-- The port or the cable group of a cage goes down. -/
def State.cageDown (s : State) (twin : Bool) (cage : Fin 4) : State := if twin then s.groupDown cage else s.portDown cage

/-- The source of a cage's port or group (R605). -/
def cageSource (twin : Bool) (cage : Fin 4) : Fin 256 := Fin.ofNat 256 ((if twin then 0xB4 else 0xB0) + cage.val)

/-- CAGE_SUPPLY_OVERCURRENT (R605): the supply stays off until a module is inserted again. -/
def execCageSupplyOvercurrent (twin : Bool) (cage : Fin 4) (s : State) : Out :=
  .next (
    let c := s.cageSt twin cage
    if !s.isPowered ∨ !c.present ∨ c.supplyOff then s
    else
      let s := (s.modCageSt twin cage fun x => { x with supplyOff := true, amber := true }).cageDown twin cage
      (s.flagPhys 7).report (cageSource twin cage) 2 0 none)

/-- The cage takes the plug-in module (R603, R604). -/
def accepts (twin : Bool) (kind : PlugKind) : Bool :=
  match kind with
  | .eth100x8 | .eth200x4 => !twin
  | .twin200x8 => twin
  | .other => false

/-- CAGE_MODULE_INSERT (R602 to R605): a module of another type leaves the port down, with its lamp amber. -/
def execCageModuleInsert (twin : Bool) (cage : Fin 4) (kind : PlugKind) (s : State) : Out :=
  .next (
    if !s.isPowered then s
    else
      let bad := !accepts twin kind
      (s.cageDown twin cage).modCageSt twin cage fun _ => { present := true, refused := bad, downAt := s.now, amber := bad })

/-- LINK_DOWN_LAMP (R613, R616): a link down for more than 10 s with a plug-in module present. -/
def execLinkDownLamp (twin : Bool) (cage : Fin 4) (s : State) : Out :=
  .next (
    let c := s.cageSt twin cage
    if c.present ∧ !c.linkUp ∧ c.downAt + 10000000000 < s.now then s.modCageSt twin cage fun x => { x with amber := true } else s)

/-- HOST_PORT_LINK_CHANGE (R395, R603): the Ethernet link comes up in a cage that may use it, or goes down. -/
def execHostPortLinkChange (port : Fin 4) (up : Bool) (s : State) : Out :=
  .next (
    let c := s.phys.host[port]
    if !up then s.portDown port
    else if !s.life.dom.hn ∨ !c.present ∨ c.refused ∨ c.supplyOff ∨ s.units.resetting.contains (.hostPort port) then s
    else s.modCageSt false port fun x => { x with linkUp := true, amber := false })

/-! ## Coolant (R609, R610) -/

/-- REVERSE_FLOW (R609, R613): the flow has run from OUT to IN for 1 s; the next thermal-loop pass limits eff_w. -/
def execReverseFlow (s : State) : Out :=
  .next (if !s.miUp then s
    else
      let s := { s with pwr := { s.pwr with reverse := true, fwdAt := none } }
      (s.flagPhys 6).report 0xDF 2 0 none)

/-- FORWARD_FLOW_RESTORE (R609): forward flow has lasted 1 s; the next thermal-loop pass lifts the limit. -/
def execForwardFlowRestore (s : State) : Out :=
  .next (if s.pwr.reverse then { s with pwr := { s.pwr with fwdAt := some s.now } } else s)

/-- THERMISTOR_FAILURE (R610). -/
def execThermistorFailure (outlet second : Bool) (s : State) : Out :=
  .next (if !s.miUp then s else s.loseTherm outlet second)

/-! ## The lamps (R616, R617) -/

/-- What a lamp shows. -/
inductive Lamp where
  | off
  | green
  | amber
  | blue
  | blinkGreen
  | blinkAmber
  | fastAmber
  deriving DecidableEq, Repr

/-- PWR: PD_AO alone blinks, switched domains light it. -/
def State.lampPwr (s : State) : Lamp := if s.life.dom.cc then .green else if s.life.dom.ao then .blinkGreen else .off

/-- STAT: its amber states hold over its green ones. -/
def State.lampStat (s : State) : Lamp :=
  if !s.life.dom.ao ∨ !s.life.aoReady then .off
  else match s.life.phase with
    | .trump => .fastAmber
    | .outOfService | .majorOut => .amber
    | .startReady | .firmwareUp => .blinkGreen
    | .inService | .cleanShutdown | .flushing => .green
    | .off | .powerLost | .standby => .off

/-- FLT. -/
def State.lampFlt (s : State) : Lamp := if s.flt.faultN then .amber else if s.phys.flags ≠ 0 then .blinkAmber else .off

/-- PAIR. -/
def State.lampPair (s : State) : Lamp :=
  match s.twin.st with
  | .unpaired => .off
  | .training | .resilvering => .blinkGreen
  | .paired => .green
  | .soloSplit | .soloSurvivor | .conflict => .amber

/-- COOL: steady holds over blinking. -/
def State.lampCool (s : State) : Lamp :=
  if s.pwr.flow < 60 ∨ s.pwr.inletC < 15 ∨ 40 < s.pwr.inletC then .amber else if s.pwr.reverse then .blinkAmber else .off

/-- LOC. -/
def State.lampLoc (s : State) : Lamp := if s.phys.locate then .blue else .off

/-- H0 to H3 and D0 to D3: off in the Trump state (R617). -/
def State.lampCage (s : State) (twin : Bool) (cage : Fin 4) : Lamp :=
  let c := s.cageSt twin cage
  let held := twin && (s.twin.cages[cage]).held
  if s.life.phase = .trump then .off
  else if c.supplyOff ∨ c.refused ∨ held ∨ c.amber then .amber
  else if c.linkUp then .green
  else if twin ∧ c.present ∧ s.life.dom.tl then .blinkGreen
  else .off

end Sys2Proof.Machine
end

