-- ==== Sys2Proof/Machine/Tick.lean ====
section
/-!
DEFINITION. What an idle step does: time passes by one cycle of CK_AO, 40 ns (R31; log entry 2).
-/
namespace Sys2Proof.Machine

/-- One idle step: the timebase advances by one CK_AO cycle. -/
def idle (s : State) : State := { s with now := s.now + Config.tickNs }

end Sys2Proof.Machine
end

