-- ==== Sys2Proof/Machine/Dispatch.lean ====
section
/-!
DEFINITION. The dispatch of every command to its meaning: one arm per constructor of Instr.
-/
namespace Sys2Proof.Machine

def exec (i : Instr) (s : State) : Host.Outcome State Fault Refusal :=
  match i with
  | .nop c p => Sys2Proof.Machine.execNop c p s
  | .br c p target => Sys2Proof.Machine.execBr c p target s
  | .call c p target => Sys2Proof.Machine.execCall c p target s
  | .ret c p => Sys2Proof.Machine.execRet c p s
  | .lcset c p lc ra imm32 => Sys2Proof.Machine.execLcset c p lc ra imm32 s
  | .lcseti c p lc imm32 => Sys2Proof.Machine.execLcseti c p lc imm32 s
  | .blc c p lc target => Sys2Proof.Machine.execBlc c p lc target s
  | .jend c => Sys2Proof.Machine.execJend c s
  | .add c p rd ra b => Sys2Proof.Machine.execAdd c p rd ra b s
  | .sub c p rd ra b => Sys2Proof.Machine.execSub c p rd ra b s
  | .mul c p rd ra b => Sys2Proof.Machine.execMul c p rd ra b s
  | .mulhu c p rd ra b => Sys2Proof.Machine.execMulhu c p rd ra b s
  | .divu c p rd ra b => Sys2Proof.Machine.execDivu c p rd ra b s
  | .remu c p rd ra b => Sys2Proof.Machine.execRemu c p rd ra b s
  | .and c p rd ra b => Sys2Proof.Machine.execAnd c p rd ra b s
  | .or c p rd ra b => Sys2Proof.Machine.execOr c p rd ra b s
  | .xor c p rd ra b => Sys2Proof.Machine.execXor c p rd ra b s
  | .shl c p rd ra b => Sys2Proof.Machine.execShl c p rd ra b s
  | .shr c p rd ra b => Sys2Proof.Machine.execShr c p rd ra b s
  | .sra c p rd ra b => Sys2Proof.Machine.execSra c p rd ra b s
  | .minu c p rd ra b => Sys2Proof.Machine.execMinu c p rd ra b s
  | .maxu c p rd ra b => Sys2Proof.Machine.execMaxu c p rd ra b s
  | .mins c p rd ra b => Sys2Proof.Machine.execMins c p rd ra b s
  | .maxs c p rd ra b => Sys2Proof.Machine.execMaxs c p rd ra b s
  | .cmpeq c p rd ra b evd => Sys2Proof.Machine.execCmpeq c p rd ra b evd s
  | .cmpne c p rd ra b evd => Sys2Proof.Machine.execCmpne c p rd ra b evd s
  | .cmpltu c p rd ra b evd => Sys2Proof.Machine.execCmpltu c p rd ra b evd s
  | .cmplts c p rd ra b evd => Sys2Proof.Machine.execCmplts c p rd ra b evd s
  | .cmpgeu c p rd ra b evd => Sys2Proof.Machine.execCmpgeu c p rd ra b evd s
  | .cmpges c p rd ra b evd => Sys2Proof.Machine.execCmpges c p rd ra b evd s
  | .ldc c p rd ra imm => Sys2Proof.Machine.execLdc c p rd ra imm s
  | .lds c p rd ra imm => Sys2Proof.Machine.execLds c p rd ra imm s
  | .sts c p rb ra imm => Sys2Proof.Machine.execSts c p rb ra imm s
  | .rdstep c p rd => Sys2Proof.Machine.execRdstep c p rd s
  | .rdlc c p rd rb => Sys2Proof.Machine.execRdlc c p rd rb s
  | .slotw c p ra slot => Sys2Proof.Machine.execSlotw c p ra slot s
  | .slotr c p rd slot => Sys2Proof.Machine.execSlotr c p rd slot s
  | .dld c p td imm => Sys2Proof.Machine.execDld c p td imm s
  | .dcpy c p td ts => Sys2Proof.Machine.execDcpy c p td ts s
  | .dset c p td ra imm f dim => Sys2Proof.Machine.execDset c p td ra imm f dim s
  | .dadv c p td ra imm dim => Sys2Proof.Machine.execDadv c p td ra imm dim s
  | .dget c p ra ts f dim => Sys2Proof.Machine.execDget c p ra ts f dim s
  | .dnull c p td => Sys2Proof.Machine.execDnull c p td s
  | .move c p td ts ev => Sys2Proof.Machine.execMove c p td ts ev s
  | .pref c p ts tier ev => Sys2Proof.Machine.execPref c p ts tier ev s
  | .hint c p ts code ev => Sys2Proof.Machine.execHint c p ts code ev s
  | .evict c p ts tier ra ev => Sys2Proof.Machine.execEvict c p ts tier ra ev s
  | .cvt c p td ts ra ev => Sys2Proof.Machine.execCvt c p td ts ra ev s
  | .imp c p a => Sys2Proof.Machine.execImp c p a s
  | .platenDec c p a => Sys2Proof.Machine.execPlatenDec c p a s
  | .sieveArm c p a => Sys2Proof.Machine.execSieveArm c p a s
  | .sieveEval c p a => Sys2Proof.Machine.execSieveEval c p a s
  | .sieveF c p a => Sys2Proof.Machine.execSieveF c p a s
  | .galleyScan c p a => Sys2Proof.Machine.execGalleyScan c p a s
  | .tallyTopk c p a => Sys2Proof.Machine.execTallyTopk c p a s
  | .tallyTopkF c p a => Sys2Proof.Machine.execTallyTopkF c p a s
  | .tallyTopkM c p a => Sys2Proof.Machine.execTallyTopkM c p a s
  | .tallyTopkFm c p a => Sys2Proof.Machine.execTallyTopkFm c p a s
  | .tallyArgmax c p a => Sys2Proof.Machine.execTallyArgmax c p a s
  | .tallyArgmaxF c p a => Sys2Proof.Machine.execTallyArgmaxF c p a s
  | .tallyHist c p a => Sys2Proof.Machine.execTallyHist c p a s
  | .tallySample c p a => Sys2Proof.Machine.execTallySample c p a s
  | .tallySampleF c p a => Sys2Proof.Machine.execTallySampleF c p a s
  | .cipherEnc c p a => Sys2Proof.Machine.execCipherEnc c p a s
  | .cipherDec c p a => Sys2Proof.Machine.execCipherDec c p a s
  | .cipherHash c p a => Sys2Proof.Machine.execCipherHash c p a s
  | .fence c p => Sys2Proof.Machine.execFence c p s
  | .fenceMv c p => Sys2Proof.Machine.execFenceMv c p s
  | .fenceFx c p => Sys2Proof.Machine.execFenceFx c p s
  | .waitAll c p mask => Sys2Proof.Machine.execWaitAll c p mask s
  | .waitAny c p mask => Sys2Proof.Machine.execWaitAny c p mask s
  | .signalSet c p mask => Sys2Proof.Machine.execSignalSet c p mask s
  | .signalClr c p mask => Sys2Proof.Machine.execSignalClr c p mask s
  | .stepI c claim => Sys2Proof.Machine.execStepI c claim s
  | .asyncOperationComplete c op => Sys2Proof.Machine.execAsyncOperationComplete c op s
  | .postedWriteResponse c op => Sys2Proof.Machine.execPostedWriteResponse c op s
  | .poisonedResponse i0 => Sys2Proof.Machine.execPoisonedResponse i0 s
  | .commitPoint c => Sys2Proof.Machine.execCommitPoint c s
  | .outputBankDrain exec => Sys2Proof.Machine.execOutputBankDrain exec s
  | .stepGrant bad => Sys2Proof.Machine.execStepGrant bad s
  | .stepAbandonForDeadline => Sys2Proof.Machine.execStepAbandonForDeadline s
  | .executionResume exec c => Sys2Proof.Machine.execExecutionResume exec c s
  | .waitBackstopExpiry exec => Sys2Proof.Machine.execWaitBackstopExpiry exec s
  | .jobWithdraw exec => Sys2Proof.Machine.execJobWithdraw exec s
  | .gangLaunch gang => Sys2Proof.Machine.execGangLaunch gang s
  | .executionComplete exec => Sys2Proof.Machine.execExecutionComplete exec s
  | .tlbWalkComplete walk => Sys2Proof.Machine.execTlbWalkComplete walk s
  | .faultRecordAnswer rec => Sys2Proof.Machine.execFaultRecordAnswer rec s
  | .translationFaultTimeout rec => Sys2Proof.Machine.execTranslationFaultTimeout rec s
  | .migrationSwitch mig => Sys2Proof.Machine.execMigrationSwitch mig s
  | .oldFrameFree mig => Sys2Proof.Machine.execOldFrameFree mig s
  | .deferredEvictionProceed d => Sys2Proof.Machine.execDeferredEvictionProceed d s
  | .tierAutoPromote alloc page why => Sys2Proof.Machine.execTierAutoPromote alloc page why s
  | .tierAutoDemote alloc page => Sys2Proof.Machine.execTierAutoDemote alloc page s
  | .tableEpochSwitch => Sys2Proof.Machine.execTableEpochSwitch s
  | .revocationComplete => Sys2Proof.Machine.execRevocationComplete s
  | .generationPagesDeallocate nsid gen => Sys2Proof.Machine.execGenerationPagesDeallocate nsid gen s
  | .stockAppendResume nsid => Sys2Proof.Machine.execStockAppendResume nsid s
  | .stockAppendTimeout nsid => Sys2Proof.Machine.execStockAppendTimeout nsid s
  | .icreq conn port pfv hpda maxr2t hdgst ddgst tls => Sys2Proof.Machine.execIcreq conn port pfv hpda maxr2t hdgst ddgst tls s
  | .h2cData conn h off len digestOk => Sys2Proof.Machine.execH2cData conn h off len digestOk s
  | .badPdu conn => Sys2Proof.Machine.execBadPdu conn s
  | .readyToTransferIssue h => Sys2Proof.Machine.execReadyToTransferIssue h s
  | .associationEnd cntlid => Sys2Proof.Machine.execAssociationEnd cntlid s
  | .connect conn cid nqn cntlid qid sqsize kato => Sys2Proof.Machine.execConnect conn cid nqn cntlid qid sqsize kato s
  | .propertyGet h off => Sys2Proof.Machine.execPropertyGet h off s
  | .propertySet h off v => Sys2Proof.Machine.execPropertySet h off v s
  | .disconnect h => Sys2Proof.Machine.execDisconnect h s
  | .authenticationSend h last valid => Sys2Proof.Machine.execAuthenticationSend h last valid s
  | .authenticationReceive h => Sys2Proof.Machine.execAuthenticationReceive h s
  | .keepAlive h => Sys2Proof.Machine.execKeepAlive h s
  | .identify h cns nsid => Sys2Proof.Machine.execIdentify h cns nsid s
  | .getLogPage h page lsp off len => Sys2Proof.Machine.execGetLogPage h page lsp off len s
  | .asynchronousEventRequest h => Sys2Proof.Machine.execAsynchronousEventRequest h s
  | .abort h sq cid => Sys2Proof.Machine.execAbort h sq cid s
  | .unsupportedCommand h opc => Sys2Proof.Machine.execUnsupportedCommand h opc s
  | .read h nsid slba nlb => Sys2Proof.Machine.execRead h nsid slba nlb s
  | .write h nsid slba blocks => Sys2Proof.Machine.execWrite h nsid slba blocks s
  | .writeZeroes h nsid slba nlb => Sys2Proof.Machine.execWriteZeroes h nsid slba nlb s
  | .flush h => Sys2Proof.Machine.execFlush h s
  | .verify h nsid slba nlb => Sys2Proof.Machine.execVerify h nsid slba nlb s
  | .datasetManagement h nsid ranges deallocate other => Sys2Proof.Machine.execDatasetManagement h nsid ranges deallocate other s
  | .zoneAppend h nsid zslba blocks => Sys2Proof.Machine.execZoneAppend h nsid zslba blocks s
  | .zoneManagementSend h nsid slba act all => Sys2Proof.Machine.execZoneManagementSend h nsid slba act all s
  | .zoneManagementReceive h nsid slba => Sys2Proof.Machine.execZoneManagementReceive h nsid slba s
  | .namespaceManagement h create nsid group blocks zoned pit => Sys2Proof.Machine.execNamespaceManagement h create nsid group blocks zoned pit s
  | .namespaceAttachment h nsid cntlid attach => Sys2Proof.Machine.execNamespaceAttachment h nsid cntlid attach s
  | .formatNvm h nsid ses => Sys2Proof.Machine.execFormatNvm h nsid ses s
  | .sanitize h action => Sys2Proof.Machine.execSanitize h action s
  | .loadProgram h prog off total data => Sys2Proof.Machine.execLoadProgram h prog off total data s
  | .programActivationManagement h prog sel => Sys2Proof.Machine.execProgramActivationManagement h prog sel s
  | .executeProgram h prog params deadline cdw13 mrs => Sys2Proof.Machine.execExecuteProgram h prog params deadline cdw13 mrs s
  | .memoryRangeSetManagement h create => Sys2Proof.Machine.execMemoryRangeSetManagement h create s
  | .memoryRead h addr len => Sys2Proof.Machine.execMemoryRead h addr len s
  | .memoryWrite h addr data => Sys2Proof.Machine.execMemoryWrite h addr data s
  | .ingestObject h nsid obj lba cdw12 cdw13 deadline data => Sys2Proof.Machine.execIngestObject h nsid obj lba cdw12 cdw13 deadline data s
  | .ingestObjectComplete exec obj => Sys2Proof.Machine.execIngestObjectComplete exec obj s
  | .firmwareImageDownload h off len img => Sys2Proof.Machine.execFirmwareImageDownload h off len img s
  | .firmwareCommit h action slot => Sys2Proof.Machine.execFirmwareCommit h action slot s
  | .registerRead h r => Sys2Proof.Machine.execRegisterRead h r s
  | .registerWrite h r v => Sys2Proof.Machine.execRegisterWrite h r v s
  | .stepBudgetWrite h v => Sys2Proof.Machine.execStepBudgetWrite h v s
  | .powerCapWrite h v => Sys2Proof.Machine.execPowerCapWrite h v s
  | .scaleSlotWrite h slot qual v => Sys2Proof.Machine.execScaleSlotWrite h slot qual v s
  | .faultFirstClear h v => Sys2Proof.Machine.execFaultFirstClear h v s
  | .faultStickyClear h n v => Sys2Proof.Machine.execFaultStickyClear h n v s
  | .faultInjectionWrite h src v => Sys2Proof.Machine.execFaultInjectionWrite h src v s
  | .traceControlWrite h v => Sys2Proof.Machine.execTraceControlWrite h v s
  | .traceEnableWrite h n v => Sys2Proof.Machine.execTraceEnableWrite h n v s
  | .lampWrite h v => Sys2Proof.Machine.execLampWrite h v s
  | .phyStatClear h v => Sys2Proof.Machine.execPhyStatClear h v s
  | .pair h serial => Sys2Proof.Machine.execPair h serial s
  | .pairTimeout matched trained => Sys2Proof.Machine.execPairTimeout matched trained s
  | .unpair h cdw11 => Sys2Proof.Machine.execUnpair h cdw11 s
  | .startResilvering h cdw11 => Sys2Proof.Machine.execStartResilvering h cdw11 s
  | .returnDeclarerRoles h => Sys2Proof.Machine.execReturnDeclarerRoles h s
  | .handGroup h cdw11 => Sys2Proof.Machine.execHandGroup h cdw11 s
  | .clearPairRecords h n => Sys2Proof.Machine.execClearPairRecords h n s
  | .faultInject h src mask count => Sys2Proof.Machine.execFaultInject h src mask count s
  | .partitionTableUpdate h ctx entry => Sys2Proof.Machine.execPartitionTableUpdate h ctx entry s
  | .hostBindingSet h nqn ctx => Sys2Proof.Machine.execHostBindingSet h nqn ctx s
  | .hostBindingGet h ctx => Sys2Proof.Machine.execHostBindingGet h ctx s
  | .allocate h size flags => Sys2Proof.Machine.execAllocate h size flags s
  | .free h alloc => Sys2Proof.Machine.execFree h alloc s
  | .tierHint h alloc first pages code => Sys2Proof.Machine.execTierHint h alloc first pages code s
  | .tierEvict h alloc first pages code => Sys2Proof.Machine.execTierEvict h alloc first pages code s
  | .spillAreaSet h gib => Sys2Proof.Machine.execSpillAreaSet h gib s
  | .spillAreaGet h => Sys2Proof.Machine.execSpillAreaGet h s
  | .keyInstall h slot key => Sys2Proof.Machine.execKeyInstall h slot key s
  | .keyClear h slot => Sys2Proof.Machine.execKeyClear h slot s
  | .timeSet h domain transport => Sys2Proof.Machine.execTimeSet h domain transport s
  | .timeGet h => Sys2Proof.Machine.execTimeGet h s
  | .soloWritePolicySet h refuse => Sys2Proof.Machine.execSoloWritePolicySet h refuse s
  | .soloWritePolicyGet h => Sys2Proof.Machine.execSoloWritePolicyGet h s
  | .witnessSet h data => Sys2Proof.Machine.execWitnessSet h data s
  | .witnessGet h => Sys2Proof.Machine.execWitnessGet h s
  | .ptpMessage port domain master offset => Sys2Proof.Machine.execPtpMessage port domain master offset s
  | .ptpMasterLoss => Sys2Proof.Machine.execPtpMasterLoss s
  | .flashReadComplete rd nsid lba die f => Sys2Proof.Machine.execFlashReadComplete rd nsid lba die f s
  | .partnerBlockFetch nsid lba => Sys2Proof.Machine.execPartnerBlockFetch nsid lba s
  | .flashProgramComplete op verified => Sys2Proof.Machine.execFlashProgramComplete op verified s
  | .flashEraseComplete op => Sys2Proof.Machine.execFlashEraseComplete op s
  | .blockOpenEraseVerify sb chan over96 => Sys2Proof.Machine.execBlockOpenEraseVerify sb chan over96 s
  | .pslcFold group => Sys2Proof.Machine.execPslcFold group s
  | .garbageCollection => Sys2Proof.Machine.execGarbageCollection s
  | .mapCheckpoint => Sys2Proof.Machine.execMapCheckpoint s
  | .dieFailure die => Sys2Proof.Machine.execDieFailure die s
  | .dieGroupRetire group => Sys2Proof.Machine.execDieGroupRetire group s
  | .holdupMeasurement pct flushMib => Sys2Proof.Machine.execHoldupMeasurement pct flushMib s
  | .powerLoss => Sys2Proof.Machine.execPowerLoss s
  | .powerLossRestart => Sys2Proof.Machine.execPowerLossRestart s
  | .bridgeBrownoutTrip b => Sys2Proof.Machine.execBridgeBrownoutTrip b s
  | .namespacesReady => Sys2Proof.Machine.execNamespacesReady s
  | .bridgeReset b cause => Sys2Proof.Machine.execBridgeReset b cause s
  | .bridgeResetComplete b done => Sys2Proof.Machine.execBridgeResetComplete b done s
  | .patrolRead sb stripe retries iterPct => Sys2Proof.Machine.execPatrolRead sb stripe retries iterPct s
  | .readDisturbRefresh sb chan => Sys2Proof.Machine.execReadDisturbRefresh sb chan s
  | .laneTraining cage lane pat => Sys2Proof.Machine.execLaneTraining cage lane pat s
  | .laneErrorRetrain cage lane => Sys2Proof.Machine.execLaneErrorRetrain cage lane s
  | .heartbeatSend => Sys2Proof.Machine.execHeartbeatSend s
  | .heartbeatMiss cage => Sys2Proof.Machine.execHeartbeatMiss cage s
  | .witnessProbe addr => Sys2Proof.Machine.execWitnessProbe addr s
  | .witnessTimeout => Sys2Proof.Machine.execWitnessTimeout s
  | .witnessAnswer => Sys2Proof.Machine.execWitnessAnswer s
  | .failureAnnouncement => Sys2Proof.Machine.execFailureAnnouncement s
  | .linkReturn partnerDeclares => Sys2Proof.Machine.execLinkReturn partnerDeclares s
  | .mirroredWriteReceive w => Sys2Proof.Machine.execMirroredWriteReceive w s
  | .mirrorAcknowledgement group seq => Sys2Proof.Machine.execMirrorAcknowledgement group seq s
  | .allocationPageReceive exec ctx key data => Sys2Proof.Machine.execAllocationPageReceive exec ctx key data s
  | .finishNote exec pages cqe cntlid deadline => Sys2Proof.Machine.execFinishNote exec pages cqe cntlid deadline s
  | .finishNoteAck exec => Sys2Proof.Machine.execFinishNoteAck exec s
  | .cancelNote exec => Sys2Proof.Machine.execCancelNote exec s
  | .stateEpochSend => Sys2Proof.Machine.execStateEpochSend s
  | .stateEpochAdopt e => Sys2Proof.Machine.execStateEpochAdopt e s
  | .resilverCopy w => Sys2Proof.Machine.execResilverCopy w s
  | .twinCopy exec prog ctx params deadline => Sys2Proof.Machine.execTwinCopy exec prog ctx params deadline s
  | .twinRefusal exec sc dw0 dw1 => Sys2Proof.Machine.execTwinRefusal exec sc dw0 dw1 s
  | .twinDigest exec step digest => Sys2Proof.Machine.execTwinDigest exec step digest s
  | .twinPreemptNote exec step => Sys2Proof.Machine.execTwinPreemptNote exec step s
  | .faultReport rs => Sys2Proof.Machine.execFaultReport rs s
  | .latchedFaultHandle => Sys2Proof.Machine.execLatchedFaultHandle s
  | .sramParityError u word dirty runAhead fails exec => Sys2Proof.Machine.execSramParityError u word dirty runAhead fails exec s
  | .dramEccError t2 unit key use runAhead rd => Sys2Proof.Machine.execDramEccError t2 unit key use runAhead rd s
  | .mergeBufferWriteback t2 unit word badRead => Sys2Proof.Machine.execMergeBufferWriteback t2 unit word badRead s
  | .unitReset u => Sys2Proof.Machine.execUnitReset u s
  | .unitResetComplete u => Sys2Proof.Machine.execUnitResetComplete u s
  | .targetUnitResetResponse r u => Sys2Proof.Machine.execTargetUnitResetResponse r u s
  | .staleReplyDiscard u epoch => Sys2Proof.Machine.execStaleReplyDiscard u epoch s
  | .scrubQuota t bytes mended poisoned yielded poisonKeys => Sys2Proof.Machine.execScrubQuota t bytes mended poisoned yielded poisonKeys s
  | .checkerTest failed => Sys2Proof.Machine.execCheckerTest failed s
  | .limitMonitorCrossing src level => Sys2Proof.Machine.execLimitMonitorCrossing src level s
  | .hardwareCapStretch avg => Sys2Proof.Machine.execHardwareCapStretch avg s
  | .hardwareCapRelease avg => Sys2Proof.Machine.execHardwareCapRelease avg s
  | .powerLoopTick p1 p100 => Sys2Proof.Machine.execPowerLoopTick p1 p100 s
  | .thermalLoopTick t => Sys2Proof.Machine.execThermalLoopTick t s
  | .watchdogRestart => Sys2Proof.Machine.execWatchdogRestart s
  | .watchdogExpiry => Sys2Proof.Machine.execWatchdogExpiry s
  | .auxPowerOn slotId checkersOk => Sys2Proof.Machine.execAuxPowerOn slotId checkersOk s
  | .auxPowerLoss => Sys2Proof.Machine.execAuxPowerLoss s
  | .startUp selfTestFails checkerFails sigA sigB => Sys2Proof.Machine.execStartUp selfTestFails checkerFails sigA sigB s
  | .bootTimeout => Sys2Proof.Machine.execBootTimeout s
  | .pwrEnDeassert => Sys2Proof.Machine.execPwrEnDeassert s
  | .runningJobShutdownEnd => Sys2Proof.Machine.execRunningJobShutdownEnd s
  | .pwrEnAssert => Sys2Proof.Machine.execPwrEnAssert s
  | .majorSelfReset => Sys2Proof.Machine.execMajorSelfReset s
  | .trialPass => Sys2Proof.Machine.execTrialPass s
  | .trialTimeout => Sys2Proof.Machine.execTrialTimeout s
  | .tracePointRecord point comp idle => Sys2Proof.Machine.execTracePointRecord point comp idle s
  | .readNvmeMiDataStructure h kind => Sys2Proof.Machine.execReadNvmeMiDataStructure h kind s
  | .nvmSubsystemHealthStatusPoll h => Sys2Proof.Machine.execNvmSubsystemHealthStatusPoll h s
  | .controllerHealthStatusPoll h => Sys2Proof.Machine.execControllerHealthStatusPoll h s
  | .configurationGet h id => Sys2Proof.Machine.execConfigurationGet h id s
  | .configurationSet h id v => Sys2Proof.Machine.execConfigurationSet h id v s
  | .vpdRead h => Sys2Proof.Machine.execVpdRead h s
  | .queueReset h => Sys2Proof.Machine.execQueueReset h s
  | .rootBinding h nqn secret => Sys2Proof.Machine.execRootBinding h nqn secret s
  | .hostSecret h nqn secret psk => Sys2Proof.Machine.execHostSecret h nqn secret psk s
  | .moduleReset h => Sys2Proof.Machine.execModuleReset h s
  | .moduleControlShutdown h => Sys2Proof.Machine.execModuleControlShutdown h s
  | .settingsStoreReset h => Sys2Proof.Machine.execSettingsStoreReset h s
  | .managementKey h key => Sys2Proof.Machine.execManagementKey h key s
  | .trumpReport h => Sys2Proof.Machine.execTrumpReport h s
  | .faultNShort => Sys2Proof.Machine.execFaultNShort s
  | .senseOpen => Sys2Proof.Machine.execSenseOpen s
  | .contactResistanceLimit tenths => Sys2Proof.Machine.execContactResistanceLimit tenths s
  | .cageSupplyOvercurrent twin cage => Sys2Proof.Machine.execCageSupplyOvercurrent twin cage s
  | .cageModuleInsert twin cage kind => Sys2Proof.Machine.execCageModuleInsert twin cage kind s
  | .reverseFlow => Sys2Proof.Machine.execReverseFlow s
  | .forwardFlowRestore => Sys2Proof.Machine.execForwardFlowRestore s
  | .thermistorFailure outlet second => Sys2Proof.Machine.execThermistorFailure outlet second s
  | .inputReversed aux => Sys2Proof.Machine.execInputReversed aux s
  | .sidebandCrossCheck shorted => Sys2Proof.Machine.execSidebandCrossCheck shorted s
  | .linkDownLamp twin cage => Sys2Proof.Machine.execLinkDownLamp twin cage s
  | .minorRemedyTimeout => Sys2Proof.Machine.execMinorRemedyTimeout s
  | .hostPortLinkChange port up => Sys2Proof.Machine.execHostPortLinkChange port up s
  | .epochAdoptionNotice num => Sys2Proof.Machine.execEpochAdoptionNotice num s

end Sys2Proof.Machine
end

