-- ==== Sys2Proof/Safety.lean ====
section
/-!
DEFINITION. What counts as a safe state, and the words in which the statements about commands are made.
-/
namespace Sys2Proof

open Sys2Proof.Machine

/-- The step of s has a next state. -/
def Safe (s : State) : Prop := ∃ t, step s = .next t

/-- Command i takes state s to a next state of which P holds. -/
def Gives (i : Instr) (s : State) (P : State → Prop) : Prop := ∃ t, exec i s = .next t ∧ P t

/-- The compositor and the predicate of a predicated instruction of a program (R175 to R177). -/
def issuedBy : Instr → Option (Fin 16 × Pred)
  | .nop c p | .ret c p | .fence c p | .fenceMv c p | .fenceFx c p => some (c, p)
  | .br c p _ | .call c p _ | .rdstep c p _ | .dnull c p _ | .imp c p _ | .platenDec c p _ => some (c, p)
  | .sieveArm c p _ | .sieveEval c p _ | .sieveF c p _ | .galleyScan c p _ | .tallyTopk c p _ | .tallyTopkF c p _ => some (c, p)
  | .tallyTopkM c p _ | .tallyTopkFm c p _ | .tallyArgmax c p _ | .tallyArgmaxF c p _ | .tallyHist c p _ | .tallySample c p _ => some (c, p)
  | .tallySampleF c p _ | .cipherEnc c p _ | .cipherDec c p _ | .cipherHash c p _ | .waitAll c p _ | .waitAny c p _ => some (c, p)
  | .signalSet c p _ | .signalClr c p _ => some (c, p)
  | .lcset c p _ _ _ | .add c p _ _ _ | .sub c p _ _ _ | .mul c p _ _ _ | .mulhu c p _ _ _ | .divu c p _ _ _ => some (c, p)
  | .remu c p _ _ _ | .and c p _ _ _ | .or c p _ _ _ | .xor c p _ _ _ | .shl c p _ _ _ | .shr c p _ _ _ => some (c, p)
  | .sra c p _ _ _ | .minu c p _ _ _ | .maxu c p _ _ _ | .mins c p _ _ _ | .maxs c p _ _ _ | .ldc c p _ _ _ => some (c, p)
  | .lds c p _ _ _ | .sts c p _ _ _ | .move c p _ _ _ | .pref c p _ _ _ | .hint c p _ _ _ => some (c, p)
  | .lcseti c p _ _ | .blc c p _ _ | .rdlc c p _ _ | .slotw c p _ _ | .slotr c p _ _ | .dld c p _ _ => some (c, p)
  | .dcpy c p _ _ => some (c, p)
  | .cmpeq c p _ _ _ _ | .cmpne c p _ _ _ _ | .cmpltu c p _ _ _ _ | .cmplts c p _ _ _ _ | .cmpgeu c p _ _ _ _ | .cmpges c p _ _ _ _ => some (c, p)
  | .dadv c p _ _ _ _ | .dget c p _ _ _ _ | .evict c p _ _ _ _ | .cvt c p _ _ _ _ => some (c, p)
  | .dset c p _ _ _ _ _ => some (c, p)
  | _ => none

/-- Execution e alone runs on compositor c, which is not in reset, and no fence or wait holds e back (R23, R182, R221). -/
def Runs (s : State) (c : Fin 16) (e : Exec) : Prop :=
  s.sched.comps[c].resetting = false ∧ s.idsOn c = [e.id] ∧ s.running? e.id = some e ∧ e.fenced = false

/-- As Runs, and the predicate p lets the instruction execute (R176, R185). -/
def Issues (s : State) (c : Fin 16) (p : Pred) (e : Exec) : Prop :=
  Runs s c e ∧ e.predWaits p = false ∧ e.predOk p = true

/-- When the wait of an execution that waits now has begun (R277, log entry 50). -/
def waitBegan (s : State) (e : Exec) : Nat := if e.stall.isSome then e.waitSince else s.now

/-- The instruction has changed execution e to e' and nothing else of the module. -/
def Becomes (i : Instr) (s : State) (e e' : Exec) : Prop :=
  Gives i s fun t => t = s.setEx e' ∧ t.ex? e.id = some e'

/-- The instruction has written v to register rd and nothing else: s0 stays 0, every other register, the descriptors,
loop counters, flags, slots and the step are as before, and the next instruction follows (R134, R175, R181). -/
def Writes (i : Instr) (s : State) (e : Exec) (rd : Fin 64) (v : W64) : Prop :=
  ∃ e', Becomes i s e e' ∧ e'.reg rd = (if rd = 0 then 0 else v) ∧ (∀ r, r ≠ rd → e'.reg r = e.reg r)
    ∧ e' = { e with regs := e'.regs, pc := e.pc + 16, stall := none }

/-- Fewer than 64 operations are outstanding, and none of the registers awaits a result (R137, R183). -/
def Free (e : Exec) (rs : List (Fin 64)) : Prop := e.pend rs = false ∧ e.st.ops.length < 64

/-- The request (e1, r) of execution e has been issued: its operation is outstanding behind the others under e's next
number, its completion flag is clear, and of e1 only the flags, the held pages and the step's tracking have changed
besides (R149, R182, R184). -/
def Queued (i : Instr) (s : State) (e e1 : Exec) (r : Req) : Prop :=
  ∃ e' o, Becomes i s e e' ∧ e'.st.ops = e1.st.ops ++ [o] ∧ o.kind = r.op.kind ∧ o.ev = r.op.ev ∧ o.id = e1.nextOp ∧ o.pc = e1.pc
    ∧ (∀ f, r.op.ev = some f → e'.flag f = false) ∧ (∀ f, r.op.ev ≠ some f → e'.flag f = e1.flag f)
    ∧ e'.st.shadow = e1.st.shadow ∧ e'.st.ns = e1.st.ns ∧ e'.st.fed = e1.st.fed ∧ e'.st.armed = e1.st.armed
    ∧ e' = { e1 with evs := e'.evs, heldT0 := e'.heldT0, nextOp := e1.nextOp + 1, pc := e1.pc + 16, stall := none, st := e'.st }

/-- The request of execution e passes the checks of issue (R149 to R152, R210). -/
def Accepted (s : State) (e1 : Exec) (r : Req) : Prop := ∃ e2, s.issueOp e1 r = .ok e2

/-- The register, the flag and the next instruction of a compare whose result is r: nothing else changes. -/
def Compares (i : Instr) (s : State) (e : Exec) (rd evd : Fin 64) (r : Prop) : Prop :=
  ∃ e', Becomes i s e e' ∧ (rd ≠ 0 → (r → e'.reg rd = 1) ∧ (¬r → e'.reg rd = 0)) ∧ e'.reg 0 = 0
    ∧ (e'.flag evd = true ↔ r) ∧ (∀ q, q ≠ rd → e'.reg q = e.reg q) ∧ (∀ f, f ≠ evd → e'.flag f = e.flag f)
    ∧ e' = { e with regs := e'.regs, evs := e'.evs, pc := e.pc + 16, stall := none }

/-- The descriptor register td takes a new value and nothing else changes. -/
def Describes (i : Instr) (s : State) (e : Exec) (td : Fin 32) (d : Desc) : Prop :=
  Becomes i s e { e with descs := e.descs.set td d, pc := e.pc + 16, stall := none }

/-- No outstanding operation writes a page of the list that the instruction reads at issue, and no bank of an earlier step still
drains into one (R114, R186). -/
def ListReady (s : State) (e : Exec) (list : List Nat) : Prop :=
  (∀ o ∈ e.st.ops, ∀ q ∈ o.wrPages, q ∉ list) ∧ s.draining e list = false

/-- Operation o is outstanding in the open step of execution e, which alone has compositor c (R184). -/
def Opened (s : State) (c : Fin 16) (e : Exec) (o : Op) : Prop :=
  s.openOn c = [e.id] ∧ s.ex? e.id = some e ∧ e.st.ops.find? (fun q => q.id == o.id) = some o

/-- The command h comes from controller k over NVMe/TCP (R391, R397). -/
def OnHost (s : State) (h : Hdr) (k : Ctrl) : Prop := h.path = .ctrl k.id ∧ s.ctrl? k.id = some k

/-- Command h arrives under context c, which is enabled, with an identity that no outstanding command has, while commands are
served: from a controller, or on a management path that is open (R268, R393, R397, R576, R590 to R592). -/
def Arrives (s : State) (h : Hdr) (c : Fin 64) : Prop :=
  s.outstanding h = false ∧ s.serving = true ∧ s.enabled c = true
  ∧ match h.path with
    | .ctrl n => ∃ k, s.ctrl? n = some k ∧ k.ctx = c
    | _ => c = 0 ∧ s.miUp = true ∧ s.pathOpen h = true ∧ s.miLimited = false

/-- The management controller takes command h over I3C, and no Queue Reset discards its response (R399, R590 to R592). -/
def Manages (s : State) (h : Hdr) : Prop :=
  h.path = .i3c ∧ s.miUp = true ∧ s.phys.i3cReleased = false ∧ s.miLimited = false ∧ h ∉ s.host.miDrop

/-- No fault is being handled, and no Minor fault was reported within the last second (R529, R535). -/
def Calm (s : State) : Prop := s.flt.active = none ∧ s.flt.minors = []

/-- The sticky bit of a source is set (R526). -/
def Sticky (t : State) (src : Nat) : Prop := t.flt.sticky.getLsbD src = true

end Sys2Proof
end

