-- ==== Sys2Proof/Certificates/Slice0/Obligations.lean ====
section
/-!
DEFINITION. The statements about the module, for the provers: one proposition each, after the rules of spec/.
-/
open Sys2Proof Sys2Proof.Machine

/-! ## The block's step -/

/-- Step of a state with command c at the front of its queue is exec of c with the queue's rest. On an empty queue one cycle of CK_AO, 40 ns, passes and nothing else changes (the model's choice, log entry 2). -/
def Obligations.StepRunsFront : Prop :=
  (∀ (c : Instr) (rest : List Instr) (s : State), step { s with pending := c :: rest } = exec c { s with pending := rest })
  ∧ (∀ s : State, s.pending = [] → step s = .next { s with now := s.now + 40 })

/-! ## Jenun instructions: CTL, SCL, DSC (ch. 04, 05) -/

/-- Whatever the predicated instruction, one whose predicate fails only lets the next one follow (R176), and one whose
predicate names a flag of an outstanding operation waits (R185); the time from which its wait counts is kept (R277; from when, log entry 50). -/
def Obligations.Predicates : Prop :=
  (∀ (i : Instr) (s : State) (c : Fin 16) (p : Pred) (e : Exec), issuedBy i = some (c, p) → Runs s c e →
      e.predWaits p = false → e.predOk p = false → Becomes i s e { e with pc := e.pc + 16, stall := none })
  ∧ (∀ (i : Instr) (s : State) (c : Fin 16) (p : Pred) (e : Exec), issuedBy i = some (c, p) → Runs s c e →
      e.predWaits p = true → Becomes i s e { e with stall := some .flagNamed, waitSince := waitBegan s e })

/-- NOP, BR, CALL, RET, LCSET, LCSETI and BLC (R189, R192): where the program counter goes, what the return stack and
the loop counters hold, and that nothing else changes. An LCSET above its bound raises the bound fault, which ends the
execution as a descriptor fault does (R158, R192). -/
def Obligations.ControlFlow : Prop :=
  ∀ (s : State) (c : Fin 16) (p : Pred) (e : Exec), Issues s c p e →
    Becomes (.nop c p) s e { e with pc := e.pc + 16, stall := none }
    ∧ (∀ tg, Becomes (.br c p tg) s e { e with pc := e.pc + tg, stall := none })
    ∧ (∀ tg, Becomes (.call c p tg) s e { e with pc := e.pc + tg, rstack := ((e.pc + 16) :: e.rstack).take 8, stall := none })
    ∧ (∀ x r, e.rstack = x :: r → Becomes (.ret c p) s e { e with pc := x, rstack := r, stall := none })
    ∧ (∀ lc ra v, e.pend [ra] = false → (e.reg ra).toNat ≤ (if v = (0 : W32) then 4294967295 else v.toNat) →
        Becomes (.lcset c p lc ra v) s e { e with lcs := e.lcs.set lc ((e.reg ra).setWidth 32), pc := e.pc + 16, stall := none })
    ∧ (∀ lc ra v, e.pend [ra] = false → (if v = (0 : W32) then 4294967295 else v.toNat) < (e.reg ra).toNat →
        exec (.lcset c p lc ra v) s = .next (s.jobFail e 0x87 0 e.pc))
    ∧ (∀ lc v, Becomes (.lcseti c p lc v) s e { e with lcs := e.lcs.set lc v, pc := e.pc + 16, stall := none })
    ∧ (∀ lc tg, 1 < (e.lcs[lc]).toNat →
        Becomes (.blc c p lc tg) s e { e with lcs := e.lcs.set lc (e.lcs[lc] - 1), pc := e.pc + tg, stall := none })
    ∧ (∀ lc tg, (e.lcs[lc]).toNat ≤ 1 →
        Becomes (.blc c p lc tg) s e { e with lcs := e.lcs.set lc 0, pc := e.pc + 16, stall := none })

/-- END and STEP close the step with no armed engine left; the step then waits for its completions and commits:
a closing execution with an operation outstanding stays as it is, one that waits for nothing commits its step (R145, R194,
R221, R226). -/
def Obligations.StepCloses : Prop :=
  (∀ (s : State) (c : Fin 16) (e : Exec), Runs s c e → e.st.armed = [] →
      Becomes (.jend c) s e { e with phase := .closing 0 true, stall := none, waitSince := s.now }
      ∧ ∀ claim, Becomes (.stepI c claim) s e { e with phase := .closing claim false, stall := none, waitSince := s.now })
  ∧ (∀ (s : State) (c : Fin 16) (e : Exec), s.closingOn c = [e] → e.st.ops ≠ [] → exec (.commitPoint c) s = .next s)
  ∧ (∀ (s : State) (c : Fin 16) (e : Exec), s.closingOn c = [e] → s.commitWaits [e] = false → e.st.poisonMv = false →
      e.st.poisonFx = false → s.overfull e = false → s.refused [e] = false → e.twin = false →
      exec (.commitPoint c) s = .next (s.commitAll [e]))

/-- The results of the sixteen arithmetic instructions, as numbers (R195, R196). -/
def Obligations.ScalarArithmetic : Prop :=
  ∀ (s : State) (c : Fin 16) (p : Pred) (e : Exec) (rd ra : Fin 64) (b : Src2), Issues s c p e →
    e.pend (rd :: ra :: srcRegs b) = false →
    let x := e.reg ra
    let y := e.src2 b
    Writes (.add c p rd ra b) s e rd (BitVec.ofNat 64 ((x.toNat + y.toNat) % 2 ^ 64))
    ∧ Writes (.sub c p rd ra b) s e rd (BitVec.ofInt 64 (x.toNat - y.toNat))
    ∧ Writes (.mul c p rd ra b) s e rd (BitVec.ofNat 64 (x.toNat * y.toNat % 2 ^ 64))
    ∧ Writes (.mulhu c p rd ra b) s e rd (BitVec.ofNat 64 (x.toNat * y.toNat / 2 ^ 64))
    ∧ Writes (.divu c p rd ra b) s e rd (BitVec.ofNat 64 (if y = 0 then 2 ^ 64 - 1 else x.toNat / y.toNat))
    ∧ Writes (.remu c p rd ra b) s e rd (BitVec.ofNat 64 (if y = 0 then x.toNat else x.toNat % y.toNat))
    ∧ Writes (.and c p rd ra b) s e rd (x &&& y)
    ∧ Writes (.or c p rd ra b) s e rd (x ||| y)
    ∧ Writes (.xor c p rd ra b) s e rd (x ^^^ y)
    ∧ Writes (.shl c p rd ra b) s e rd (BitVec.ofNat 64 (x.toNat * 2 ^ (y.toNat % 64) % 2 ^ 64))
    ∧ Writes (.shr c p rd ra b) s e rd (BitVec.ofNat 64 (x.toNat / 2 ^ (y.toNat % 64)))
    ∧ Writes (.sra c p rd ra b) s e rd (BitVec.ofInt 64 (x.toInt / 2 ^ (y.toNat % 64)))
    ∧ Writes (.minu c p rd ra b) s e rd (BitVec.ofNat 64 (min x.toNat y.toNat))
    ∧ Writes (.maxu c p rd ra b) s e rd (BitVec.ofNat 64 (max x.toNat y.toNat))
    ∧ Writes (.mins c p rd ra b) s e rd (BitVec.ofInt 64 (min x.toInt y.toInt))
    ∧ Writes (.maxs c p rd ra b) s e rd (BitVec.ofInt 64 (max x.toInt y.toInt))

/-- The six compares write 1 or 0 to rd and to the flag (R195, R196). -/
def Obligations.ScalarCompare : Prop :=
  ∀ (s : State) (c : Fin 16) (p : Pred) (e : Exec) (rd ra : Fin 64) (b : Src2) (evd : Fin 64), Issues s c p e →
    e.pend (rd :: ra :: srcRegs b) = false → e.named evd = false →
    let x := e.reg ra
    let y := e.src2 b
    Compares (.cmpeq c p rd ra b evd) s e rd evd (x = y)
    ∧ Compares (.cmpne c p rd ra b evd) s e rd evd (x ≠ y)
    ∧ Compares (.cmpltu c p rd ra b evd) s e rd evd (x.toNat < y.toNat)
    ∧ Compares (.cmplts c p rd ra b evd) s e rd evd (x.toInt < y.toInt)
    ∧ Compares (.cmpgeu c p rd ra b evd) s e rd evd (y.toNat ≤ x.toNat)
    ∧ Compares (.cmpges c p rd ra b evd) s e rd evd (y.toInt ≤ x.toInt)

/-- LDC, RDSTEP, RDLC, SLOTR and DGET write their value to their register and nothing else (R195, R197, R199, R200). LDS reads eight bytes of memory, little-endian, as the step sees them (R195, R198): its page is added to the step's
reads, and the tier manager notes the use of the page (R239). -/
def Obligations.ScalarReads : Prop :=
  (∀ (s : State) (c : Fin 16) (p : Pred) (e : Exec) (rd : Fin 64), Issues s c p e → e.pend [rd] = false →
      (∀ ra imm i, e.pend [rd, ra] = false → s.image? e.image = some i → (e.reg ra + imm).toNat % 8 = 0 →
          (e.reg ra + imm).toNat + 8 ≤ i.constLen →
          Writes (.ldc c p rd ra imm) s e rd (BitVec.ofNat 64 (i.num (i.constOff + (e.reg ra + imm).toNat) 8)))
      ∧ Writes (.rdstep c p rd) s e rd (BitVec.ofNat 64 e.step)
      ∧ (∀ rb : Fin 64, Writes (.rdlc c p rd rb) s e rd ((e.lcs[rb.val % 8]).setWidth 64))
      ∧ (∀ slot : Fin 64, Writes (.slotr c p rd slot) s e rd (e.slots[slot]).word)
      ∧ (∀ ts f dim, Writes (.dget c p rd ts f dim) s e rd (BitVec.ofNat 64 (dfield e.descs[ts] f dim))))
  ∧ (∀ (s : State) (c : Fin 16) (p : Pred) (e e1 : Exec) (rd ra : Fin 64) (imm : W64),
      let a := (e.reg ra + imm).toNat
      Issues s c p e → e.pend [rd, ra] = false → a % 8 = 0 → s.inNs e (a / 65536) = false →
      (∀ o ∈ e.st.ops, a / 65536 ∉ o.wrPages) → s.draining e [a / 65536] = false → s.track e [a / 65536] [] 0 false = .ok e1 →
      s.tlbHit (.comp c) e (a / 65536) false = true → s.poisonAt e a (a + 8) = false →
      Gives (.lds c p rd ra imm) s fun t => ∃ e', t.ex? e.id = some e' ∧ t.sched = (s.setEx e').sched
        ∧ e'.reg rd = (if rd = 0 then 0 else BitVec.ofNat 64 (leNat ((List.range 8).map fun k => s.rdByte e (a + k))))
        ∧ (∀ r, r ≠ rd → e'.reg r = e.reg r)
        ∧ e' = { e with regs := e'.regs, heldT0 := e1.heldT0, st := e1.st, pc := e.pc + 16, stall := none }
        ∧ { t.tiers with allocs := s.tiers.allocs } = s.tiers
        ∧ (∀ n b, s.alloc? n = some b → ∃ b', t.alloc? n = some b' ∧ ∀ i, { b'.page i with lastUse := (b.page i).lastUse } = b.page i)
        ∧ { t with sched := s.sched, tiers := s.tiers } = s)

/-- SLOTW replaces the low half of a slot's word; a change of mode or history length clears the slot's history
(R82, R199). DLD, DCPY, DNULL, DSET and DADV (R200, R201): DSET changes one field and no other bit, DADV adds to an origin
modulo 2^32. -/
def Obligations.SlotsAndDescriptors : Prop :=
  (∀ (s : State) (c : Fin 16) (p : Pred) (e : Exec) (ra slot : Fin 64), Issues s c p e → e.pend [ra] = false →
      ∃ e', Becomes (.slotw c p ra slot) s e e'
        ∧ (e'.slots[slot]).word.toNat = (e.slots[slot]).word.toNat / 2 ^ 32 * 2 ^ 32 + (e.reg ra).toNat % 2 ^ 32
        ∧ (e'.slots[slot]).hist
            = (if (e.reg ra).toNat / 512 % 64 = (e.slots[slot]).word.toNat / 512 % 64 then (e.slots[slot]).hist else [])
        ∧ (∀ q, q ≠ slot → e'.slots[q] = e.slots[q])
        ∧ e' = { e with slots := e'.slots, pc := e.pc + 16, stall := none })
  ∧ (∀ (s : State) (c : Fin 16) (p : Pred) (e : Exec) (td : Fin 32), Issues s c p e →
      (∀ imm i, s.image? e.image = some i → imm.toNat + 64 ≤ i.constLen →
          Describes (.dld c p td imm) s e td (BitVec.ofNat 512 (i.num (i.constOff + imm.toNat) 64)))
      ∧ (∀ ts, Describes (.dcpy c p td ts) s e td e.descs[ts])
      ∧ Describes (.dnull c p td) s e td 0
      ∧ (∀ ra imm f dim, e.pend [ra] = false →
          (e.reg ra + imm).toNat < 2 ^ ((fieldRange f 0).1 + 1 - (fieldRange f 0).2) →
          ∃ d, Describes (.dset c p td ra imm f dim) s e td d ∧ dfield d f dim = (e.reg ra + imm).toNat
            ∧ ∀ k, ¬((fieldRange f dim).2 ≤ k ∧ k ≤ (fieldRange f dim).1) → d.getLsbD k = (e.descs[td]).getLsbD k)
      ∧ (∀ ra imm dim, e.pend [ra] = false →
          ∃ d, Describes (.dadv c p td ra imm dim) s e td d
            ∧ dfield d .org dim = (dfield e.descs[td] .org dim + (e.reg ra + imm).toNat) % 2 ^ 32
            ∧ ∀ k, ¬((fieldRange .org dim).2 ≤ k ∧ k ≤ (fieldRange .org dim).1) → d.getLsbD k = (e.descs[td]).getLsbD k))

/-! ## Asynchronous instructions: MOV, CVT, IMP, ENG (ch. 04, 05, 08) -/

/-- STS, MOVE, PREF, HINT, EVICT and CVT whose request passes the checks become outstanding (R182 to R184, R198, R202
to R210). -/
def Obligations.MovesIssue : Prop :=
  ∀ (s : State) (c : Fin 16) (p : Pred) (e e1 : Exec) (r : Req) (td ts : Fin 32) (ra rb : Fin 64) (t : Tier) (h : HintCode)
    (imm : W64) (ev : EvSel), Issues s c p e → Free e [rb, ra] → Accepted s e1 r →
    (s.stsReq e rb ra imm = .ok (e1, r) → Queued (.sts c p rb ra imm) s e e1 r ∧ r.op.kind = .sts)
    ∧ (s.moveReq e td ts ev = .ok (e1, r) → Queued (.move c p td ts ev) s e e1 r ∧ r.op.kind = .move)
    ∧ (s.pageReq e ts (.pref t) ev = .ok (e1, r) → Queued (.pref c p ts t ev) s e e1 r ∧ r.op.kind = .pref t)
    ∧ (s.pageReq e ts (.hint h) ev = .ok (e1, r) → Queued (.hint c p ts h ev) s e e1 r ∧ r.op.kind = .hint h)
    ∧ (s.pageReq e ts (.evict t ra) ev = .ok (e1, r) → Queued (.evict c p ts t ra ev) s e e1 r ∧ r.op.kind = .evict t ra)
    ∧ (s.cvtReq e td ts ra ev = .ok (e1, r) → Queued (.cvt c p td ts ra ev) s e e1 r ∧ r.op.kind = .cvt ((e.reg ra).setWidth 8))

/-- IMP and the seventeen ENG instructions whose request passes the checks become outstanding (R182 to R187, R211 to
R220). -/
def Obligations.EnginesIssue : Prop :=
  ∀ (s : State) (c : Fin 16) (p : Pred) (e e1 : Exec) (r : Req) (a : EArgs), Issues s c p e → Free e [a.rp, a.rn] →
    Accepted s e1 r →
    ((a.rn ≠ 0 → ListReady s e (pagesOf (e.reg a.rp).toNat ((e.reg a.rp).toNat + 32 * (e.reg a.rn).toNat))) → s.impReq e a = .ok (e1, r) → Queued (.imp c p a) s e e1 r ∧ r.op.kind = .imp)
    ∧ (s.platenReq e a = .ok (e1, r) → Queued (.platenDec c p a) s e e1 r ∧ r.op.kind = .platen (e.count a))
    ∧ (s.sieveArmReq e a = .ok (e1, r) → Queued (.sieveArm c p a) s e e1 r ∧ r.op.kind = .sieveArm)
    ∧ (s.sieveEvalReq e a = .ok (e1, r) → Queued (.sieveEval c p a) s e e1 r ∧ r.op.kind = .sieveEval)
    ∧ (s.sieveFReq e a = .ok (e1, r) → Queued (.sieveF c p a) s e e1 r ∧ r.op.kind = .sieveF)
    ∧ (ListReady s e (pagesOf (e.reg a.rp).toNat ((e.reg a.rp).toNat + 64 * e.count a)) → s.galleyReq e a = .ok (e1, r) → Queued (.galleyScan c p a) s e e1 r ∧ r.op.kind = .galley (e.count a) (e.reg a.rp))
    ∧ (s.topkReq e a false false = .ok (e1, r) → Queued (.tallyTopk c p a) s e e1 r ∧ r.op.kind = .topk (e.count a) false false)
    ∧ (s.topkReq e a true false = .ok (e1, r) → Queued (.tallyTopkF c p a) s e e1 r ∧ r.op.kind = .topk (e.count a) true false)
    ∧ (s.topkReq e a false true = .ok (e1, r) → Queued (.tallyTopkM c p a) s e e1 r ∧ r.op.kind = .topk (e.count a) false true)
    ∧ (s.topkReq e a true true = .ok (e1, r) → Queued (.tallyTopkFm c p a) s e e1 r ∧ r.op.kind = .topk (e.count a) true true)
    ∧ (s.argmaxReq e a false = .ok (e1, r) → Queued (.tallyArgmax c p a) s e e1 r ∧ r.op.kind = .argmax false)
    ∧ (s.argmaxReq e a true = .ok (e1, r) → Queued (.tallyArgmaxF c p a) s e e1 r ∧ r.op.kind = .argmax true)
    ∧ (s.histReq e a = .ok (e1, r) → Queued (.tallyHist c p a) s e e1 r ∧ r.op.kind = .hist (e.count a))
    ∧ (s.sampleReq e a false = .ok (e1, r) → Queued (.tallySample c p a) s e e1 r ∧ r.op.kind = .sample false)
    ∧ (s.sampleReq e a true = .ok (e1, r) → Queued (.tallySampleF c p a) s e e1 r ∧ r.op.kind = .sample true)
    ∧ (s.cipherReq e a true = .ok (e1, r) → Queued (.cipherEnc c p a) s e e1 r ∧ r.op.kind = .cipherEnc (e.count a))
    ∧ (s.cipherReq e a false = .ok (e1, r) → Queued (.cipherDec c p a) s e e1 r ∧ r.op.kind = .cipherDec (e.count a))
    ∧ (s.hashReq e a = .ok (e1, r) → Queued (.cipherHash c p a) s e e1 r ∧ r.op.kind = .cipherHash)

/-- An engine that is armed already turns a second arm away with the descriptor fault, and so does a SIEVE.F, TOPK.F,
ARGMAX.F, SAMPLE.F or GALLEY.SCAN of that engine (R218): their request never succeeds. A fault of an instruction ends its execution: the step leaves no trace in the registers, and the job completes
with status 0x87 and the program counter in DW1 (R88, R229, R435); here an LDC that is
misaligned or not wholly in the constant area (R197). -/
def Obligations.InstructionFaults : Prop :=
  (∀ (s : State) (e : Exec) (a : EArgs) (op : Nat) (x : Exec × Req),
      ((Engine.sieve, op) ∈ e.st.armed → s.sieveArmReq e a ≠ .ok x ∧ s.sieveFReq e a ≠ .ok x)
      ∧ ((Engine.galley, op) ∈ e.st.armed → s.galleyReq e a ≠ .ok x)
      ∧ ((Engine.tally, op) ∈ e.st.armed → (∀ m, s.topkReq e a true m ≠ .ok x) ∧ s.argmaxReq e a true ≠ .ok x ∧ s.sampleReq e a true ≠ .ok x))
  ∧ (∀ (s : State) (c : Fin 16) (p : Pred) (e : Exec) (rd ra : Fin 64) (imm : W64) (i : Image), Issues s c p e → e.pend [rd, ra] = false →
      s.image? e.image = some i → ((e.reg ra + imm).toNat % 8 ≠ 0 ∨ i.constLen < (e.reg ra + imm).toNat + 8) →
      exec (.ldc c p rd ra imm) s = .next (s.jobFail e 0x87 0 e.pc))

/-! ## Fences, waits and signals (R221 to R225) -/

/-- FENCE, FENCE.MV and FENCE.FX pass when no operation that they cover is outstanding and no poison is to be collected;
WAIT.ALL and WAIT.ANY pass when no flag of theirs is named and the test holds; SIGNAL.SET and SIGNAL.CLR change the flags of
their mask (R185, R221 to R225). A fence that an outstanding operation holds back, and a wait whose flag an outstanding operation names, stay where
they are (R182, R221, R224). -/
def Obligations.Synchronises : Prop :=
  (∀ (s : State) (c : Fin 16) (p : Pred) (e : Exec) (m : W64), Issues s c p e →
      (e.st.ops = [] → e.st.poisonMv = false → e.st.poisonFx = false →
          Becomes (.fence c p) s e { e with st := { e.st with wrWins := [] }, pc := e.pc + 16, stall := none, waitSince := waitBegan s e })
      ∧ ((∀ o ∈ e.st.ops, o.kind.isFx = true) → e.st.poisonMv = false →
          Becomes (.fenceMv c p) s e { e with st := { e.st with wrWins := e.st.wrWins.filter (·.fx) }, pc := e.pc + 16, stall := none, waitSince := waitBegan s e })
      ∧ ((∀ o ∈ e.st.ops, o.kind.isFx = false) → e.st.poisonFx = false →
          Becomes (.fenceFx c p) s e { e with st := { e.st with wrWins := e.st.wrWins.filter (!·.fx) }, pc := e.pc + 16, stall := none, waitSince := waitBegan s e })
      ∧ (e.namedIn m = false → (∀ f : Fin 64, m.getLsbD f = true → e.flag f = true) →
          Becomes (.waitAll c p m) s e { e with pc := e.pc + 16, stall := none, waitSince := waitBegan s e })
      ∧ (e.namedIn m = false → (∃ f : Fin 64, m.getLsbD f = true ∧ e.flag f = true) →
          Becomes (.waitAny c p m) s e { e with pc := e.pc + 16, stall := none, waitSince := waitBegan s e })
      ∧ (e.namedIn m = false → ∃ e', Becomes (.signalSet c p m) s e e' ∧ (∀ f, e'.flag f = (e.flag f || m.getLsbD f))
          ∧ e' = { e with evs := e'.evs, pc := e.pc + 16, stall := none })
      ∧ (e.namedIn m = false → ∃ e', Becomes (.signalClr c p m) s e e' ∧ (∀ f, e'.flag f = (e.flag f && !m.getLsbD f))
          ∧ e' = { e with evs := e'.evs, pc := e.pc + 16, stall := none }))
  ∧ (∀ (s : State) (c : Fin 16) (p : Pred) (e : Exec) (m : W64) (o : Op), Issues s c p e → o ∈ e.st.ops →
      Becomes (.fence c p) s e { e with stall := some (.fence true true), waitSince := waitBegan s e }
      ∧ (∀ f : Fin 64, o.ev = some f → m.getLsbD f = true → Becomes (.waitAll c p m) s e { e with stall := some (.waitFlags m true), waitSince := waitBegan s e })
      ∧ (∀ f : Fin 64, o.ev = some f → m.getLsbD f = true → Becomes (.waitAny c p m) s e { e with stall := some (.waitFlags m false), waitSince := waitBegan s e }))

/-! ## Completions of operations (R184, R222, R223, R546) -/

/-- An operation that nothing holds back, and whose accesses have all been translated, completes (R184, R186, R187, R218, R251):
its effect is what perform gives, it is no longer outstanding, and its completion flag is set when no other operation names it. An
impression whose residue checks pass leaves the tiles' parts too (R93 to R97, R102). The response of a posted STS writes its eight
bytes, little-endian, to the step's own copy and frees its place (R147, R198, R222). -/
def Obligations.OperationsComplete : Prop :=
  (∀ (s : State) (c : Fin 16) (e e' : Exec) (o : Op), Opened s c e o →
      o.kind ≠ .sts → (∀ h, o.kind ≠ .hint h) → (∀ t, o.kind ≠ .pref t) → (∀ t r, o.kind ≠ .evict t r) → o.kind ≠ .imp →
      e.blocked o = false → e.awaitsImp o = false → s.draining e o.rdPages = false → pagesMeet o.wrPages e.st.bankPages = false →
      o.left = [] → s.readsPoison e o = false → s.readsBadPi e o = false → s.perform e o = .ok e' → e'.id = e.id → e'.stall = none →
      Gives (.asyncOperationComplete c o.id) s fun t =>
        t.ex? e.id = some (e'.finishOp o) ∧ (∀ q ∈ (e'.finishOp o).st.ops, q ∈ e'.st.ops ∧ q.id ≠ o.id)
        ∧ (∀ f, o.ev = some f → (∀ q ∈ e'.st.ops, q.id ≠ o.id → q.ev ≠ some f) → (e'.finishOp o).flag f = true)
        ∧ t.tiers.mem = s.tiers.mem ∧ t.host = s.host ∧ t.twin = s.twin ∧ t.flash = s.flash ∧ t.fab = s.fab)
  ∧ (∀ (s : State) (c : Fin 16) (e : Exec) (o : Op) (d : ImpDone), Opened s c e o → o.kind = .imp → e.blocked o = false →
      s.draining e o.rdPages = false → o.left = [] → s.readsPoison e o = false → s.readsBadPi e o = false → s.doImp e o = .ok d →
      d.checks.hits = [] → d.ex.id = e.id → d.ex.stall = none →
      Gives (.asyncOperationComplete c o.id) s fun t => t.ex? e.id = some (d.ex.finishOp o) ∧ (∀ q ∈ (d.ex.finishOp o).st.ops, q.id ≠ o.id)
        ∧ t.fab = { s.fab with tiles := d.tiles } ∧ t.tiers.mem = s.tiers.mem ∧ t.host = s.host ∧ t.twin = s.twin ∧ t.flash = s.flash)
  ∧ (∀ (s : State) (c : Fin 16) (e : Exec) (o : Op), Opened s c e o → o.kind = .sts → e.blocked o = false → o.left = [] →
      pagesMeet o.wrPages e.st.bankPages = false → e.stall = none →
      Gives (.postedWriteResponse c o.id) s fun t => ∃ e', t.ex? e.id = some e'
        ∧ (∀ k, k < 8 → assocGet (o.list.toNat + k) e'.st.shadow = some (BitVec.ofNat 8 (o.record.toNat / 256 ^ k)))
        ∧ (∀ a, (a < o.list.toNat ∨ o.list.toNat + 8 ≤ a) → assocGet a e'.st.shadow = assocGet a e.st.shadow)
        ∧ (∀ q ∈ e'.st.ops, q.id ≠ o.id) ∧ e'.regs = e.regs ∧ e'.descs = e.descs ∧ e'.pc = e.pc ∧ t.tiers.mem = s.tiers.mem)

/-- A poisoned response marks the step that the write belongs to (R223), retries a host transfer once (R546, R550), puts
one page of the migration's tier out of use, and reports a bridge under its own source. -/
def Obligations.PoisonedResponses : Prop :=
  (∀ (s : State) (c : Fin 16) (e : Exec) (o : Op), Opened s c e o → (o.kind = .move ∨ o.kind = .sts) → e.stall = none →
      Gives (.poisonedResponse (.compositor c o.id)) s fun t => ∃ e', t.ex? e.id = some e' ∧ e'.st.poisonMv = true
        ∧ (∀ q ∈ e'.st.ops, q.id ≠ o.id) ∧ e'.st.shadow = e.st.shadow ∧ e'.regs = e.regs)
  ∧ (∀ (s : State) (h : Hdr) (o : OutCmd), s.host.cmds.find? (fun x => x.hdr == h && x.wait == .data) = some o → o.retried = false →
      Gives (.poisonedResponse (.hostDma h)) s fun t => t.host.cq = s.host.cq ∧ t.host.cmds.length = s.host.cmds.length
        ∧ ∀ x ∈ t.host.cmds, x.hdr = h → x.retried = true)
  ∧ (∀ (s : State) (m : Mig), s.tiers.migs.find? (fun x => x.id == m.id) = some m →
      exec (.poisonedResponse (.tierManager m.id)) s
        = .next { s with tiers := { s.tiers with retired := s.tiers.retired ++ [(m.dst, s.tiers.retired.length)] } })
  ∧ (∀ (s : State) (b : Fin 16), exec (.poisonedResponse (.bridge b true)) s
      = .next (s.report (Fin.ofNat 256 (0x80 + b.val)) 0x02 0 none))

/-! ## Commit (R135, R144 to R147, R194, R226) -/

/-- The commit of one execution makes its registers the register page and its slots the committed ones, clears its flags,
goes on after the STEP with the next step index, and releases what the step held (R23, R81, R135, R136, R144, R226). -/
def Obligations.StepCommits : Prop :=
  (∀ (s : State) (e : Exec) (claim : BitVec 16) (final : Bool), s.ex? e.id = some e → (s.withBanks e).st.ns = [] → e.ingest = false →
      s.paired = false →
      ∃ e', (s.commit1 e claim final).ex? e.id = some e' ∧ e'.page.regs = e.regs ∧ e'.page.descs = e.descs ∧ e'.page.lcs = e.lcs
        ∧ e'.slotsC = e'.slots ∧ e'.evs = 0 ∧ e'.pc = e.pc + 16 ∧ e'.pcStep = e.pc + 16 ∧ e'.step = e.step + 1 ∧ e'.claim = claim
        ∧ e'.st.ops = [] ∧ e'.st.shadow = [] ∧ e'.phase = (if final then .draining else .waitGrant)
        ∧ e'.regs = e.regs ∧ e'.descs = e.descs ∧ (∀ h ∈ (s.commit1 e claim final).sched.holder, h.2 ≠ e.id)
        ∧ (∀ g ∈ (s.commit1 e claim final).sched.grants, g.1 ≠ e.id))

/-- What a step wrote to a page of an allocation, itself or into its output banks, is in memory after its commit, and every other
byte of memory is as before (R114, R144, R147); here for one written byte. -/
def Obligations.CommitPublishes : Prop :=
  ∀ (s : State) (e : Exec) (claim : BitVec 16) (final : Bool) (va : Nat) (b : Byte) (a : Alloc) (i : Nat) (rd wr : Bool),
    (s.withBanks e).st.shadow = [(va, b)] → (s.withBanks e).st.ns = [] → e.ingest = false → s.paired = false →
    s.execPlace e (va / 65536) = .mem a i rd wr → Memory.wf s.tiers.mem = true →
    memGet (s.commit1 e claim final).tiers.mem (byteKey a i (va % 65536)) = b
    ∧ ∀ k, k ≠ byteKey a i (va % 65536) →
        memGet (s.commit1 e claim final).tiers.mem k = memGet s.tiers.mem k

/-- A bank drain ends with no committed byte of the execution left, and what is left of the others' drains as it was (R114); the
last completion of an execution (R194): without a partner the job ends with success; with one, the finish note is sent and the job waits (R489). A job that is not running when its deadline passes is withdrawn with its step index in DW1 (R266, R381), and a gang that
has reached its fill batch, or whose earliest deadline allows no later start, launches with the batches that it takes, earliest deadline first;
the others wait for the next launch (R109, R364). -/
def Obligations.ExecutionEnds : Prop :=
  ((∀ (s : State) (n : Nat),
        Gives (.outputBankDrain n) s fun t => (∀ d, d ∈ t.fab.draining ↔ d ∈ s.fab.draining ∧ d.1 ≠ n)
          ∧ (∀ k x, (k, x) ∈ t.fab.tiles → (∀ b ∈ x.committed, b.exec ≠ n) ∧ ∃ y, (k, y) ∈ s.fab.tiles ∧ x.working = y.working
              ∧ ∀ b, b.exec ≠ n → (b ∈ x.committed ↔ b ∈ y.committed))
          ∧ { t with fab := s.fab } = s)
    ∧ (∀ (s : State) (e : Exec), s.ex? e.id = some e → e.phase = .draining → (∀ d ∈ s.fab.draining, d.1 ≠ e.id) → e.awaitNs = [] →
        (∀ o ∈ e.objs, o.waits = []) → s.paired = false →
        exec (.executionComplete e.id) s = .next (s.endExec e .success))
    ∧ (∀ (s : State) (e : Exec), s.ex? e.id = some e → e.phase = .draining → (∀ d ∈ s.fab.draining, d.1 ≠ e.id) → e.awaitNs = [] →
        (∀ o ∈ e.objs, o.waits = []) → s.paired = true → e.twin = false → e.finishSent = false →
        Gives (.executionComplete e.id) s fun t => t.ex? e.id = some { e with finishSent := true, finishAt := s.now } ∧ t.host = s.host
          ∧ ∃ m, t.twin.out = s.twin.out ++ [m] ∧ ∃ cqe, m = .finish e.id e.sentPages.length cqe e.deadline))
  ∧ ((∀ (s : State) (e : Exec), s.ex? e.id = some e → e.idleJob = true → isLate s.now e.deadline = true → e.objs = [] →
        exec (.jobWithdraw e.id) s = .next (s.endExec e (.withdrawn (BitVec.ofNat 32 e.step))))
    ∧ (∀ (s : State) (g : Gang), s.sched.gangs.find? (fun x => x.id == g.id) = some g → g.launched = false → s.sched.nextGang ≠ g.id → s.gangReady g = true →
        Gives (.gangLaunch g.id) s fun t => (∀ x ∈ t.sched.gangs, x.id = g.id → x.launched = true)
          ∧ (∀ e ∈ s.launchOf g, s.ex? e.id = some e → ∃ e', t.ex? e.id = some e' ∧ (e'.phase = .queued ∨ e'.phase = .waitGrant))
          ∧ (∀ e, s.ex? e.id = some e → e.gang = some g.id → (∀ m ∈ s.launchOf g, m.id ≠ e.id) →
              ∃ e' x, t.ex? e.id = some e' ∧ x ∈ t.sched.gangs ∧ e'.gang = some x.id ∧ x.id = s.sched.nextGang ∧ x.launched = false)
          ∧ t.tiers = s.tiers ∧ t.host = s.host))

/-- The status type, status code, DW0 and DW1 with which a job ends (R382, R383, R435). -/
def Obligations.JobStatus : Prop :=
  ∀ (s : State) (e : Exec) (t : Nat) (o : JobEnd), e.objs = [] → e.copy = false → s.live e.hdr = true → e.hdr ∉ s.host.miDrop →
    let r := s.endExecAt t e o
    let late := e.deadline ≠ 0 ∧ e.deadline < t
    (o = .success → ¬late → r.host.cq = s.host.cq ++ [{ hdr := e.hdr, sct := 0, sc := 0, dw0 := 0, dw1 := 0 }])
    ∧ (o = .success → late →
        r.host.cq = s.host.cq ++ [{ hdr := e.hdr, sct := 0, sc := 0, dw0 := 1, dw1 := BitVec.ofNat 32 (min (2 ^ 32 - 1) ((t - e.deadline) / 1000)) }])
    ∧ (∀ sc a b, o = .failed sc a b → r.host.cq = s.host.cq ++ [{ hdr := e.hdr, sct := 7, sc, dw0 := a, dw1 := b }])
    ∧ (∀ b, o = .withdrawn b → r.host.cq = s.host.cq ++ [{ hdr := e.hdr, sct := 7, sc := 0x82, dw0 := 0, dw1 := b }])
    ∧ (o = .takeover → r.host.cq = s.host.cq ++ [{ hdr := e.hdr, sct := 7, sc := 0x84, dw0 := 0, dw1 := 0 }])
    ∧ (o = .aborted → r.host.cq = s.host.cq ++ [{ hdr := e.hdr, sct := 0, sc := 7, dw0 := 0, dw1 := 0 }])
    ∧ r.ex? e.id = none ∧ (∀ x ∈ r.host.cmds, x.hdr ≠ e.hdr) ∧ r.tiers.mem = s.tiers.mem

/-! ## Grants, abandonment, resumption, withdrawal, gangs (ch. 01, 06, 09) -/

/-- An execution alone in waiting starts its step when its context may use the engines of its claim and everything it
claims is free (R23, R233): it runs with clear flags and a fresh step, its engines and pages are held, and where no step holds the fabric
the tiles are cleared and the fences come into force (R117, R122). A step whose valid-bit check fails does not start: the failures are reported instead (R523). -/
def Obligations.StepGranted : Prop :=
  (∀ (s : State) (e : Exec), s.waitingCrews = [[e]] → s.ex? e.id = some e → (∀ g ∈ (s.need e).engines, s.mayEngine e.ctx g = true) →
      s.covers (s.needAll [e]) = true →
      Gives (.stepGrant []) s fun t => (∃ e', t.ex? e.id = some e' ∧ e'.phase = .running ∧ e'.evs = 0 ∧ e'.stall = none
          ∧ e'.st = { startedAt := s.now } ∧ e'.regs = e.regs ∧ e'.pc = e.pc ∧ e'.comp = e.comp)
        ∧ t.sched.holder = s.sched.holder ++ (s.need e).engines.map (fun g => (g, e.id))
        ∧ t.sched.grants = s.sched.grants ++ [(e.id, [claimT0 (s.claimOf e) - e.heldT0.length, (s.need e).t1, (s.need e).t2])]
        ∧ (s.fabricHeld = false → t.fab.fencesNow = s.fab.fences
            ∧ ∀ k x, (k, x) ∈ t.fab.tiles → x.store = [] ∧ x.working = [] ∧ x.scratch = [])
        ∧ (s.fabricHeld = true → t.fab = s.fab)
        ∧ t.tiers.mem = s.tiers.mem ∧ (e.heldT0 = [] → t.tiers = s.tiers) ∧ t.host = s.host)
  ∧ (∀ (s : State) (e : Exec) (b : ClearFail) (bs : List ClearFail), s.waitingCrews = [[e]] →
      (∀ g ∈ (s.need e).engines, s.mayEngine e.ctx g = true) → s.covers (s.needAll [e]) = true →
      exec (.stepGrant (b :: bs)) s = .next (s.sample ((b :: bs).map clearReport)))

/-- A pre-empted execution resumes on a free compositor with its registers reloaded from the register page (R265). The step that stands in the way of the most urgent execution is abandoned and counted, a step that waited longer than
2 ms is withdrawn and counted (R261, R262, R264, R267, R277). -/
def Obligations.PreemptionAndResumption : Prop :=
  (∀ (s : State) (e : Exec) (c : Fin 16), s.ex? e.id = some e → e.gang = none → e.phase = .preempted → isLate s.now e.deadline = false →
      s.busyComp c = false → s.sched.comps[c].oos = false → s.sched.comps[c].resetting = false →
      Gives (.executionResume e.id c) s fun t =>
        t.ex? e.id = some { e with phase := .waitGrant, comp := some c, waitSince := s.now, resuming := true, regs := e.page.regs
                                   descs := e.page.descs, lcs := e.page.lcs, evs := 0, pc := e.pcStep }
        ∧ t.tiers = s.tiers ∧ t.host = s.host)
  ∧ ((∀ (s : State) (w e : Exec) (d : Nat) (r : List Exec), s.urgent = some w → s.dl w = some d → s.inTheWay w d = e :: r → e.gang = none →
        s.ex? e.id = some e → (∀ x ∈ s.sched.execs, x.id = e.id → x = e) →
        Gives .stepAbandonForDeadline s fun t => t.sched.abandoned = min 65535 (s.sched.abandoned + 1) ∧ t.sched.withdrawn = s.sched.withdrawn
          ∧ ∃ e', t.ex? e.id = some e' ∧ e'.phase = .preempted ∧ e'.comp = none ∧ e'.regs = e.page.regs ∧ e'.slots = e.slotsC
            ∧ e'.pc = e.pcStep ∧ e'.evs = 0 ∧ e'.st.shadow = [])
    ∧ (∀ (s : State) (e : Exec), s.ex? e.id = some e → (∀ x ∈ s.sched.execs, x.id = e.id → x = e) → s.waitedLong e = true →
        s.backstopVictim e = e → e.gang = none →
        Gives (.waitBackstopExpiry e.id) s fun t => t.sched.withdrawn = min 65535 (s.sched.withdrawn + 1) ∧ t.sched.abandoned = s.sched.abandoned
          ∧ ∃ e', t.ex? e.id = some e' ∧ e'.phase = .preempted ∧ e'.comp = none ∧ e'.regs = e.page.regs ∧ e'.pc = e.pcStep ∧ e'.evs = 0))

/-! ## Translation, tiers and the partition table (ch. 06) -/

/-- A walk that finds the page mapped fills its TLB; one that does not leaves a fault record on a channel of its mover, and waits
while all of them hold one; a record is answered by mapping, by a zero frame, or by the end of the execution or command; after
20 µs without an answer it ends; a mapping that firmware had begun for an abandoned step is completed and kept (R250, R251, R253
to R258, R263). -/
def Obligations.Translation : Prop :=
  (∀ (s : State) (w : Walk) (e : Exec), s.tiers.walks.find? (fun x => x.id == w.id) = some w → s.ex? w.exec = some e →
      s.lookUp e w.page w.op w.wr = .ok →
      exec (.tlbWalkComplete w.id) s = .next { s with tiers := { s.tiers with
        walks := s.tiers.walks.filter fun x => x.id != w.id
        tlb := tlbFill s.tiers.tlb { mover := w.mover, ctx := w.ctx, epoch := s.part.epoch, page := s.ctxPage e w.page, wr := w.wr } } })
  ∧ (∀ (s : State) (w : Walk) (e : Exec), s.tiers.walks.find? (fun x => x.id == w.id) = some w → s.ex? w.exec = some e →
      s.lookUp e w.page w.op w.wr ≠ .ok →
      (s.channels w.mover < chanCap w.mover →
        Gives (.tlbWalkComplete w.id) s fun t => ∃ f : FaultRec, t.tiers.faults = s.tiers.faults ++ [f] ∧ f.va = w.page * 65536
          ∧ f.exec = w.exec ∧ f.host = none ∧ f.ctx = w.ctx ∧ f.wr = w.wr ∧ f.step = e.step ∧ f.at_ = s.now ∧ f.mover = w.mover
          ∧ t.tiers.tlb = s.tiers.tlb ∧ t.sched = s.sched)
      ∧ (chanCap w.mover ≤ s.channels w.mover → exec (.tlbWalkComplete w.id) s = .next s))
  ∧ (∀ (s : State) (f : FaultRec), s.tiers.faults.find? (fun x => x.id == f.id) = some f →
      (s.faultFinds f = some .ok → exec (.faultRecordAnswer f.id) s = .next (s.answered f))
      ∧ (s.faultFinds f = some .switching → exec (.faultRecordAnswer f.id) s = .next s)
      ∧ (∀ a i, s.faultFinds f = some (.zod a i) → (a.unitAt i).2 ≤ s.freePages (a.page i).tier →
          exec (.faultRecordAnswer f.id) s = .next ((s.mapZero a i (a.page i).tier).answered f))
      ∧ (∀ e, f.host = none → s.ex? f.exec = some e → s.faultFinds f = some .fault →
          exec (.faultRecordAnswer f.id) s = .next ((s.dequeue [f]).faultEnd e 0x86 (faultDw f.va 1)))
      ∧ (∀ e, f.host = none → s.ex? f.exec = some e → f.at_ + 20000 ≤ s.now →
          exec (.translationFaultTimeout f.id) s = .next ((s.dequeue [f]).faultEnd e 0x86 (faultDw f.va 0)))
      ∧ (∀ h, f.host = some h → s.outstanding h = true → f.at_ + 20000 ≤ s.now →
          exec (.translationFaultTimeout f.id) s = .next ((s.dequeue [f]).laesk h 0x86 (faultDw f.va 0).2 (faultDw f.va 0).1))
      ∧ (s.now < f.at_ + 20000 → exec (.translationFaultTimeout f.id) s = .next s))
  ∧ (∀ (s : State) (f : FaultRec) (a : Alloc) (i : Nat), s.tiers.faults.find? (fun x => x.id == f.id) = none →
      s.tiers.cancelled.find? (fun x => x.id == f.id) = some f → xlate (s.pageAt f.ctx (f.va / 65536)) f.wr = .zod a i →
      (a.unitAt i).2 ≤ s.freePages (a.page i).tier →
      exec (.faultRecordAnswer f.id) s
        = .next (({ s with tiers := { s.tiers with cancelled := s.tiers.cancelled.filter fun x => x.id != f.id } }).mapZero a i (a.page i).tier))

/-- A migration's switch marks the entries of its pages and takes them out of every TLB, and then gives those pages their new tier
and no other page (R245; its two events, log entry 17); the old frames are freed when no access that was outstanding at the switch is left; a
deferred eviction goes on for the pages that nothing holds (R242); the tier manager promotes a page that is read often, or
prefetches one of a forme, and demotes the least recently used one (R239, R278). -/
def Obligations.Migrations : Prop :=
  (∀ (s : State) (m : Mig) (a : Alloc), s.tiers.migs.find? (fun x => x.id == m.id) = some m → s.alloc? m.alloc = some a →
      m.switching = false → (m.promo = true ∨ (m.op = none ∧ m.host = none)) → s.due a m ≠ [] →
      Gives (.migrationSwitch m.id) s fun t => (∃ b, t.alloc? m.alloc = some b
            ∧ ∀ i, b.page i = if i ∈ s.due a m then { a.page i with sw := true } else a.page i)
        ∧ (∀ i ∈ s.due a m, ∀ x ∈ t.tiers.tlb, x.page ≠ a.id + i)
        ∧ (∃ n ∈ t.tiers.migs, n = { m with pages := s.due a m, switching := true })
        ∧ t.tiers.mem = s.tiers.mem ∧ t.host = s.host ∧ t.sched = s.sched)
  ∧ (∀ (s : State) (m : Mig) (a : Alloc), s.tiers.migs.find? (fun x => x.id == m.id) = some m → s.alloc? m.alloc = some a →
      m.switching = true → (∀ o ∈ s.host.cmds, o.wait ≠ .evict) →
      Gives (.migrationSwitch m.id) s fun t => (∃ b, t.alloc? m.alloc = some b
            ∧ ∀ i, b.page i = if i ∈ m.pages then { a.page i with tier := m.dst, sw := false } else a.page i)
        ∧ (∀ i ∈ m.pages, ∀ x ∈ t.tiers.tlb, x.page ≠ a.id + i)
        ∧ t.tiers.mem = s.tiers.mem ∧ t.host = s.host ∧ t.sched = s.sched)
  ∧ (∀ (s : State) (o : OldFrame), s.tiers.old.find? (fun x => x.mig == o.mig) = some o →
      ((∀ w ∈ o.waits, ∀ e ∈ s.sched.execs, e.id = w.1 → ∀ q ∈ e.st.ops, q.id ≠ w.2) →
        exec (.oldFrameFree o.mig) s = .next ({ s with tiers := { s.tiers with
          old := s.tiers.old.filter fun x => x.mig != o.mig
          retired := if o.retire then s.tiers.retired ++ (upto o.pages).map (fun k => (o.tier, s.tiers.retired.length + k)) else s.tiers.retired
          allocs := s.tiers.allocs.filter fun a => !(a.id == o.alloc && a.freed) } }).movesOver)
      ∧ (∀ w e q, w ∈ o.waits → e ∈ s.sched.execs → e.id = w.1 → q ∈ e.st.ops → q.id = w.2 → exec (.oldFrameFree o.mig) s = .next s))
  ∧ (∀ (s : State) (d : Deferred) (a : Alloc), s.tiers.deferred.find? (fun x => x.id == d.id) = some d → s.alloc? d.alloc = some a →
      s.anyFlight a.id = false → (∀ m ∈ s.tiers.queue, m.alloc ≠ a.id) →
      (∀ i ∈ d.pages, i < a.pages ∧ s.isHeld a i = false ∧ tierAbove (a.page i).tier d.dst = true ∧ (a.page i).zod = false) → d.pages ≠ [] →
      d.pages.length ≤ s.freePages d.dst →
      Gives (.deferredEvictionProceed d.id) s fun t => (∀ x ∈ t.tiers.deferred, x.id ≠ d.id)
        ∧ ∃ m, t.tiers.migs = s.tiers.migs ++ [m] ∧ m.alloc = a.id ∧ m.dst = d.dst ∧ m.pages = d.pages ∧ m.promo = false)
  ∧ (∀ (s : State) (a : Alloc) (page reads : Nat), s.alloc? a.id = some a → page < a.pages → (a.page page).tier = .t2 → (a.page page).zod = false →
      s.anyHint a page = false → 4 ≤ reads → s.roomy .t1 = true →
      exec (.tierAutoPromote a.id page (.read reads)) s = .next (s.promote a [page] .t1 none none))
  ∧ (∀ (s : State) (a : Alloc) (page : Nat) (e : Exec) (t : Tier), s.alloc? a.id = some a → page < a.pages → (a.page page).zod = false →
      a.freed = false → (t = .t0 ∨ t = .t1) → s.ex? e.id = some e → (∃ b i w, s.pageAt e.ctx (a.id + page) = .mem b i true w) →
      exec (.tierAutoPromote a.id page (.forme e.id t)) s = .next (s.promote a [page] t none none))
  ∧ (∀ (s : State) (a : Alloc) (page : Nat) (v : Victim), s.alloc? a.id = some a → page < a.pages → (a.page page).tier = .t1 →
      100 * s.freePages .t1 < 3 * s.capPages .t1 → (s.victims .t1).head? = some v → v.alloc = a.id → v.unit = a.unitAt page →
      s.anyHint a v.unit.1 = false →
      exec (.tierAutoDemote a.id page) s = .next (s.evict a [page] .t2 none none none).1)

/-- A partition table update takes effect as a new epoch and changes one entry (R270); once no access of an earlier epoch
is outstanding the revocations are complete (R272). -/
def Obligations.TableEpochs : Prop :=
  (∀ (s : State) (n : Nat) (ctx : Fin 64) (entry : BitVec 4096), s.part.next = some (n, ctx, entry) →
      Gives .tableEpochSwitch s fun t => t.part.epoch = n ∧ t.part.next = none ∧ t.part.entries[ctx] = entry
        ∧ ∀ c : Fin 64, c ≠ ctx → t.part.entries[c] = s.part.entries[c])
  ∧ (∀ (s : State), s.part.next = none → s.oldAccess = false →
      Gives .revocationComplete s fun t => t.part.revoking = [] ∧ t.part.entries = s.part.entries
        ∧ t.part.epoch = s.part.epoch)
  ∧ (∀ (s : State), s.part.next.isSome = true ∨ s.oldAccess = true → exec .revocationComplete s = .next s)

/-! ## Indexes and the stock (ch. 07, 08) -/

/-- The pages of an old generation are deallocated once no snapshot holds it and no write of its group is unacknowledged
(R321), and those that a meld left behind are given back (R323); an append that waits goes on when the stock has room, and ends with 0x8A when its deadline has passed (R322); an
object completes once its vectors are appended and held (R305). -/
def Obligations.IndexEvents : Prop :=
  (∀ (s : State) (x : Index) (g : Nat) (root : Blk), s.indexes.find? (fun y => y.nsid == x.nsid) = some x →
      x.old.find? (fun o => o.1 == g) = some (g, root) → (∀ e ∈ s.sched.execs, ¬(e.index = some x.nsid ∧ e.snap.map (·.1) = some g)) →
      (∀ u ∈ s.twin.unacked, u.group ≠ s.groupOf x.nsid) →
      exec (.generationPagesDeallocate x.nsid g) s
        = .next ((s.modIndex x.nsid fun y => { y with old := y.old.filter fun q => q.1 != g }).giveBack x.nsid
            (s.replacedRuns x.nsid root (((x.old.find? fun q => q.1 == g + 1).map (·.2)).getD (s.blk x.nsid 0).data))))
  ∧ (∀ (s : State) (x : Index) (g : Nat), s.indexes.find? (fun y => y.nsid == x.nsid) = some x → x.old.find? (fun o => o.1 == g) = none →
      g = rootGen (s.blk x.nsid 0).data + 1 →
      exec (.generationPagesDeallocate x.nsid g) s
        = .next ((s.modIndex x.nsid fun y => { y with orphans := [] }).giveBack x.nsid x.orphans))
  ∧ (∀ (s : State) (x : Index) (w : Nat × W64) (r : List (Nat × W64)) (e : Exec) (o : ObjCmd),
      s.indexes.find? (fun y => y.nsid == x.nsid) = some x → x.waiting = w :: r → s.waitingObj w = some (e, o) →
      s.stockRoom x.nsid o.vectors = true →
      exec (.stockAppendResume x.nsid) s = .next ((s.modIndex x.nsid fun y => { y with waiting := r }).append e o))
  ∧ (∀ (s : State) (x : Index) (w : Nat × W64) (e : Exec) (o : ObjCmd), s.indexes.find? (fun y => y.nsid == x.nsid) = some x →
      x.waiting = [w] → s.waitingObj w = some (e, o) → isLate s.now o.deadline = true → s.live o.hdr = true → o.hdr ∉ s.host.miDrop →
      Gives (.stockAppendTimeout x.nsid) s fun t => (∃ dw, t.host.cq = s.host.cq ++ [{ hdr := o.hdr, sct := 7, sc := 0x8A, dw0 := dw, dw1 := 0 }])
        ∧ (∀ y ∈ t.indexes, y.nsid = x.nsid → w ∉ y.waiting))
  ∧ (∀ (s : State) (e : Exec) (o : ObjCmd), s.ex? e.id = some e → e.objs.find? (fun q => q.obj == o.obj && q.stage == .appended) = some o →
      o.waits = [] → s.live o.hdr = true → o.hdr ∉ s.host.miDrop → isLate s.now o.deadline = false →
      Gives (.ingestObjectComplete e.id o.obj) s fun t => t.host.pdus = s.host.pdus ++ [.c2hData o.hdr o.result]
        ∧ t.host.cq = s.host.cq ++ [{ hdr := o.hdr, sct := 0, sc := 0, dw0 := 0, dw1 := 0 }]
        ∧ ∃ e', t.ex? e.id = some e' ∧ ∀ q ∈ e'.objs, q.hdr ≠ o.hdr)

/-! ## Completions (R434) -/

/-- What posting a completion changes: the completion queue gets one entry unless the association is gone or a Queue
Reset discards it (R395, R399, R434), the command is no longer outstanding, and nothing else of the module changes. -/
def Obligations.CompletionFrame : Prop :=
  ∀ (s : State) (h : Hdr) (sct sc : Nat) (a b : W32),
    (s.live h = true → h ∉ s.host.miDrop →
      (s.post h sct sc a b).host.cq = s.host.cq ++ [{ hdr := h, sct, sc, dw0 := a, dw1 := b }])
    ∧ ((s.live h = false ∨ h ∈ s.host.miDrop) → (s.post h sct sc a b).host.cq = s.host.cq)
    ∧ (s.post h sct sc a b).host.cmds = s.host.cmds.filter (fun o => !(o.hdr == h))
    ∧ { s.post h sct sc a b with host := s.host } = s
    ∧ { (s.post h sct sc a b).host with cq := s.host.cq, cmds := s.host.cmds, miDrop := s.host.miDrop } = s.host

/-! ## Connections and Fabrics (ch. 10) -/

/-- ICReq, a bad PDU, the end of an association, data and R2Ts (R388 to R390, R395, R451). -/
def Obligations.Connections : Prop :=
  (∀ (s : State) (n : Nat) (port : Fin 4) (hpda maxr2t : Nat) (hd dd tls : Bool), s.serving = true → s.portUp port = true →
      s.conn? n = none → hpda ≤ 31 → (s.host.tlsOnly[port] = true → tls = true) →
      exec (.icreq n port 0 hpda maxr2t hd dd tls) s
        = .next ((s.addConn { id := n, port, tls, hdgst := hd, ddgst := dd, maxr2t := min (maxr2t + 1) 16 }).send (.icResp n)))
  ∧ (∀ (s : State) (n : Nat) (port : Fin 4) (pfv hpda maxr2t : Nat) (hd dd tls : Bool), s.serving = true → s.portUp port = true →
      s.conn? n = none → (pfv ≠ 0 ∨ 31 < hpda ∨ (s.host.tlsOnly[port] = true ∧ tls = false)) →
      exec (.icreq n port pfv hpda maxr2t hd dd tls) s = .next (s.send (.c2hTermReq n)))
  ∧ (∀ (s : State) (k : Conn), s.conn? k.id = some k → k.cntlid = none →
      exec (.badPdu k.id) s
        = .next (({ s with host := { s.host with conns := s.host.conns.filter fun x => x.id != k.id } }).send (.c2hTermReq k.id)))
  ∧ (∀ (s : State) (n : Nat), Gives (.associationEnd n) s fun t =>
      (∀ k ∈ t.host.ctrls, k.id ≠ n) ∧ (∀ q ∈ t.host.queues, q.cntlid ≠ n) ∧ (∀ k ∈ t.host.conns, k.cntlid ≠ some n)
      ∧ (∀ x ∈ t.host.nss, n ∉ x.attached) ∧ (∀ h ∈ t.host.aerReqs, h.path ≠ .ctrl n))
  ∧ (∀ (s : State) (k : Conn) (o : OutCmd) (len : Nat), s.conn? k.id = some k → k.carries o.hdr = true →
      s.host.cmds.find? (fun x => x.hdr == o.hdr && x.wait == .data) = some o → 0 < len → len ≤ 131072 → o.r2ts = [(o.got, len)] →
      o.got + len = o.total →
      exec (.h2cData k.id o.hdr o.got len true) s = .next (s.dataArrived { o with r2ts := [], got := o.total }))
  ∧ (∀ (s : State) (o : OutCmd), s.host.cmds.find? (fun x => x.hdr == o.hdr && x.wait == .data) = some o → s.serving = true →
      o.asked < o.total → o.r2ts.length < s.maxR2t o.hdr → (o.body.isBlocks = true → s.bufferRoom (min 1048576 (o.total - o.asked)) = true) →
      exec (.readyToTransferIssue o.hdr) s
        = .next ((s.waitFor { o with asked := o.asked + min 1048576 (o.total - o.asked)
                                     r2ts := o.r2ts ++ [(o.asked, min 1048576 (o.total - o.asked))] }).send
            (.r2t o.hdr o.asked (min 1048576 (o.total - o.asked)))))

/-- Connect makes a controller under the context that the host NQN is bound to, or adds an I/O queue to one (R391 to R393,
R481); a host that is not bound is turned away. -/
def Obligations.Connects : Prop :=
  (∀ (s : State) (k : Conn) (cid sqsize kato n : Nat) (nqn : List Nat) (ctx : Fin 64), s.conn? k.id = some k → s.serving = true →
      k.cntlid = none → s.bound nqn = some ctx → s.enabled ctx = true → 0 < sqsize → sqsize < 4096 → 1000 ≤ kato → kato ≤ 120000 →
      s.ctrlIds.find? (fun i => !(s.host.ctrls.any fun x => x.id == i)) = some n →
      Gives (.connect k.id cid nqn 0xFFFF 0 sqsize kato) s fun t =>
        (∃ x, t.host.ctrls = s.host.ctrls ++ [x] ∧ x.id = n ∧ x.nqn = nqn ∧ x.ctx = ctx ∧ x.kato = kato ∧ x.auth = false)
        ∧ (∃ q, t.host.queues = s.host.queues ++ [q] ∧ q.cntlid = n ∧ q.qid = 0 ∧ q.size = sqsize + 1)
        ∧ t.host.cq = s.host.cq ++ [{ hdr := { path := .ctrl n, sq := 0, cid }, sct := 0, sc := 0, dw0 := BitVec.ofNat 32 n, dw1 := 0 }])
  ∧ (∀ (s : State) (k : Conn) (x : Ctrl) (cid sqsize kato qid : Nat) (ctx : Fin 64), s.conn? k.id = some k → s.serving = true →
      k.cntlid = none → s.bound x.nqn = some ctx → s.enabled ctx = true → 0 < sqsize → sqsize < 4096 → 0 < qid → qid ≤ 128 →
      s.ctrl? x.id = some x → (∀ q ∈ s.host.queues, ¬(q.cntlid = x.id ∧ q.qid = qid)) → s.queueSum + sqsize + 1 ≤ 262144 →
      Gives (.connect k.id cid x.nqn x.id qid sqsize kato) s fun t =>
        (∃ q, t.host.queues = s.host.queues ++ [q] ∧ q.cntlid = x.id ∧ q.qid = qid ∧ q.size = sqsize + 1) ∧ t.host.ctrls = s.host.ctrls)
  ∧ (∀ (s : State) (k : Conn) (cid cntlid qid sqsize kato : Nat) (nqn : List Nat), s.conn? k.id = some k → s.serving = true →
      k.cntlid = none → s.bound nqn = none →
      Gives (.connect k.id cid nqn cntlid qid sqsize kato) s fun t => t.host.ctrls = s.host.ctrls ∧ t.host.queues = s.host.queues
        ∧ ∃ e, t.host.cq = s.host.cq ++ [e] ∧ (e.sct, e.sc) ≠ (0, 0))

/-- The Fabrics commands of a controller and Keep Alive (R387, R395, R414, R416). -/
def Obligations.FabricsCommands : Prop :=
  ∀ (s : State) (h : Hdr) (k : Ctrl), OnHost s h k → s.serving = true → s.outstanding h = false →
    exec (.propertyGet h 0x14) s = .next (s.okDw h k.cc 0)
    ∧ (∀ v : W64, k.cc.getLsbD 0 = false ∨ v.getLsbD 0 = true →
        exec (.propertySet h 0x14 v) s = .next ((s.modCtrl k.id fun c => { c with cc := v.setWidth 32 }).ok h))
    ∧ exec (.disconnect h) s = .next ((s.ok h).endAssoc k.id)
    ∧ (∀ x ∈ s.host.secrets, x.nqn = k.nqn →
        exec (.authenticationSend h true true) s = .next ((s.modCtrl k.id fun c => { c with authStep := c.authStep + 1, auth := true }).ok h))
    ∧ (∀ last, exec (.authenticationSend h last false) s = .next ((s.modCtrl k.id fun c => { c with authStep := 0 }).ok h))
    ∧ exec (.authenticationReceive h) s = .next ((s.modCtrl k.id fun c => { c with authStep := c.authStep + 1 }).ok h)
    ∧ exec (.keepAlive h) s = .next ((s.modCtrl k.id fun c => { c with aliveAt := s.now }).ok h)

/-! ## Admin commands (ch. 10) -/

/-- Identify and Get Log Page send their data and complete, an Asynchronous Event Request waits for an event or takes one,
Abort catches a command before it answers, an unsupported opcode is refused (R5, R387, R397, R423, R431, R434). -/
def Obligations.AdminCommands : Prop :=
  ∀ (s : State) (h : Hdr) (c : Fin 64), Arrives s h c →
    (∀ cns nsid f, s.identData (hdrCtrl h) cns nsid = some f →
        exec (.identify h cns nsid) s
          = .next ((({ s with free := s.free + 1 }).send (.c2hData h ((List.range 4096).map f))).ok h))
    ∧ (∀ page lsp off len p, s.logPageOf c page lsp = .ok p → off % 4 = 0 → off < p.len → 0 < len → len % 4 = 0 → len ≤ 8388608 →
        exec (.getLogPage h page lsp off len) s
          = .next ((({ s with free := s.free + 2 }).send (.c2hData h (p.bytes s.free off len))).ok h))
    ∧ (∀ n, h.path = .ctrl n → s.host.aerQueue = [] →
        exec (.asynchronousEventRequest h) s = .next { s with host := { s.host with aerReqs := s.host.aerReqs ++ [h] } })
    ∧ (∀ n a, h.path = .ctrl n → s.host.aerQueue = [(n, a)] →
        exec (.asynchronousEventRequest h) s
          = .next { s with host := { s.host with aerQueue := [], aers := s.host.aers ++ [(h, a)] } })
    ∧ (∀ n sq cid o, h.path = .ctrl n → s.host.cmds.find? (fun o => o.hdr == { path := h.path, sq, cid }) = some o → s.catchable o = true →
        exec (.abort h sq cid) s = .next ((s.caught o .aborted).okDw h 0 0))
    ∧ (∀ n sq cid, h.path = .ctrl n → s.host.cmds.find? (fun o => o.hdr == { path := h.path, sq, cid }) = none →
        exec (.abort h sq cid) s = .next (s.okDw h 1 0))
    ∧ (∀ opc, exec (.unsupportedCommand h opc) s = .next (s.post h 0 1 0 0))

/-- A command whose identity is that of an outstanding one is answered Command ID Conflict and has no effect: this
holds of every command of a host's I/O and admin queues that the model admits in this way (the status is the NVMe family's,
log entry 24). -/
def Obligations.IdentityConflict : Prop :=
  ∀ (s : State) (h : Hdr) (k : Ctrl) (nsid lba n : Nat) (bs : List PBlk), OnHost s h k → s.serving = true → s.outstanding h = true →
    ∀ i ∈ [Instr.read h nsid lba n, .write h nsid lba bs, .writeZeroes h nsid lba n, .flush h, .verify h nsid lba n, .identify h n nsid,
           .keepAlive h, .zoneAppend h nsid lba bs, .memoryRead h 0 n, .sanitize h n],
      exec i s = .next { s with host := { s.host with cq := s.host.cq ++ [{ hdr := h, sct := 0, sc := 3, dw0 := 0, dw1 := 0 }] } }

/-! ## NVM and zoned commands (R387, R394, R400 to R406, R451, R484 to R487) -/

/-- The commands of the NVM set on a namespace that the context may use: a Read of blocks at hand sends them, a Write of at
most 8 KiB with room in the write buffer is given out, Write Zeroes writes zeros, Flush completes at once, Verify checks
without data, Dataset Management deallocates (R389, R394, R402 to R405, R451, R460). -/
def Obligations.NvmCommands : Prop :=
  ∀ (s : State) (h : Hdr) (k : Ctrl) (n : Ns), OnHost s h k → Arrives s h k.ctx → s.nsReady = true → s.ns? n.nsid = some n →
    (s.group n.group).ana = .optimized →
    (∀ lba nlb, s.nsRd k.ctx n.nsid = true → lba + nlb ≤ n.blocks → 0 < nlb → n.bytes nlb ≤ 8388608 → s.fromFlash n.nsid lba nlb = [] →
        n.check lba ((List.range nlb).map fun j => s.blk n.nsid (lba + j)) = none →
        exec (.read h n.nsid lba nlb) s
          = .next ((({ s with free := s.free + 1 }).send (.c2hBlocks h ((List.range nlb).map fun j => s.blk n.nsid (lba + j)))).ok h))
    ∧ (∀ lba nlb, s.nsRd k.ctx n.nsid = true → lba + nlb ≤ n.blocks → s.fromFlash n.nsid lba nlb = [] →
        n.check lba ((List.range nlb).map fun j => s.blk n.nsid (lba + j)) = none →
        exec (.verify h n.nsid lba nlb) s = .next (({ s with free := s.free + 1 }).ok h))
    ∧ (∀ lba bs, s.nsWr k.ctx n.nsid = true → s.noWrites n = false → lba + bs.length ≤ n.blocks → bs ≠ [] → n.bytes bs.length ≤ 8192 →
        s.bufferRoom (n.bytes bs.length) = true → n.zoneFault lba bs.length = none → n.check lba bs = none →
        exec (.write h n.nsid lba bs) s = .next (s.giveOut h { group := 0, seq := 0, nsid := n.nsid, lba, blocks := bs } 0 0))
    ∧ (∀ lba nlb, s.nsWr k.ctx n.nsid = true → s.noWrites n = false → lba + nlb ≤ n.blocks → n.pit = none → n.zoned = false →
        exec (.writeZeroes h n.nsid lba nlb) s
          = .next (s.giveOut h { group := 0, seq := 0, nsid := n.nsid, lba, blocks := (List.range nlb).map fun _ => { data := 0, pi := none } } 0 0))
    ∧ exec (.flush h) s = .next (s.ok h)
    ∧ (∀ lba m, s.nsWr k.ctx n.nsid = true → s.noWrites n = false → lba + m ≤ n.blocks →
        exec (.datasetManagement h n.nsid [(lba, m)] true false) s
          = .next (s.giveOut h { group := 0, seq := 0, nsid := n.nsid, lba, blocks := [], op := .deallocate m } 0 0))

/-- A write of a module without a partner completes with success once its blocks are in the write buffer: a later read of
each block gives what was written, and every other block reads as before (R400, R451). -/
def Obligations.WriteThenRead : Prop :=
  ∀ (s : State) (h : Hdr) (n : Ns) (lba : Nat) (bs : List PBlk) (dw0 dw1 : W32), s.paired = false → s.ns? n.nsid = some n → n.pit = none →
    (∀ b ∈ bs, b.pi = none) → lba + bs.length ≤ n.blocks → n.blocks ≤ 2 ^ 62 → s.flash.wthru = false → s.live h = true → h ∉ s.host.miDrop →
    let t := s.giveOut h { group := 0, seq := 0, nsid := n.nsid, lba, blocks := bs } dw0 dw1
    (∀ j (hj : j < bs.length), t.blk n.nsid (lba + j) = bs[j])
    ∧ (∀ m l, l < 2 ^ 62 → (m ≠ n.nsid ∨ l < lba ∨ lba + bs.length ≤ l) → t.blk m l = s.blk m l)
    ∧ t.host.cq = s.host.cq ++ [{ hdr := h, sct := 0, sc := 0, dw0, dw1 }] ∧ t.tiers = s.tiers ∧ t.part = s.part

/-- The zoned commands: an append goes to the write pointer and answers its LBA, a zone action that applies is given out,
the report is sent (R401, R487); a write behind or ahead of the write pointer fails (R402). -/
def Obligations.ZonedCommands : Prop :=
  ∀ (s : State) (h : Hdr) (k : Ctrl) (n : Ns), OnHost s h k → Arrives s h k.ctx → s.nsReady = true → s.ns? n.nsid = some n →
    (s.group n.group).ana = .optimized → n.zoned = true →
    (∀ z bs, s.nsWr k.ctx n.nsid = true → s.noWrites n = false → 0 < bs.length → bs.length ≤ 2 → n.pit = none → z * 524288 + bs.length ≤ n.blocks →
        s.bufferRoom (4096 * bs.length) = true → n.zoneFault (z * 524288 + (n.zone z).wp) bs.length = none → (n.zone z).wp < 524288 →
        exec (.zoneAppend h n.nsid (z * 524288) bs) s
          = .next (s.giveOut h { group := 0, seq := 0, nsid := n.nsid, lba := z * 524288 + (n.zone z).wp, blocks := bs }
              (BitVec.ofNat 32 (z * 524288 + (n.zone z).wp)) (BitVec.ofNat 32 ((z * 524288 + (n.zone z).wp) / 2 ^ 32))))
    ∧ (∀ z act, s.nsWr k.ctx n.nsid = true → s.noWrites n = false → z * 524288 < n.blocks → zoneStep act (n.zone z) = .apply →
        act ≠ .open → exec (.zoneManagementSend h n.nsid (z * 524288) act false) s = .next (s.giveOut h (zoneWrite n.nsid z act) 0 0))
    ∧ (s.nsRd k.ctx n.nsid = true → 0 < n.blocks →
        exec (.zoneManagementReceive h n.nsid 0) s
          = .next ((s.send (.c2hData h (leBytes 8 (n.blocks / 524288) ++ List.replicate 56 0
              ++ (List.range (n.blocks / 524288)).flatMap (zoneDesc n)))).ok h))
    ∧ (∀ lba bs, s.nsWr k.ctx n.nsid = true → s.noWrites n = false → lba + bs.length ≤ n.blocks → bs ≠ [] → n.bytes bs.length ≤ 8192 →
        s.bufferRoom (n.bytes bs.length) = true → (n.zone (lba / 524288)).state ≠ .full → lba % 524288 ≠ (n.zone (lba / 524288)).wp →
        exec (.write h n.nsid lba bs) s = .next (s.post h 1 0xBC 0 0))

/-- Namespaces are created, deleted, attached, formatted and sanitized by contexts with the right (R391, R406, R417, R418,
R482, R493): a module without a partner completes at once. -/
def Obligations.NamespaceCommands : Prop :=
  ∀ (s : State) (h : Hdr) (k : Ctrl), OnHost s h k → Arrives s h k.ctx → s.paired = false →
    (∀ group blocks id, k.ctx = 0 → 0 < group → group ≤ 64 → 0 < blocks → s.freeNsid = some id →
        s.nsBlocks + 262144 * s.tiers.spillGib + blocks ≤ 917 * 2 ^ 28 →
        exec (.namespaceManagement h true 0 group blocks false none) s
          = .next ((s.createNs id group blocks false none).touchControl.okDw h (BitVec.ofNat 32 id) 0)
        ∧ (s.createNs id group blocks false none).host.nss
            = s.host.nss ++ [{ nsid := id, group, blocks, zoned := false, pit := none, mediaKey := s.host.nextKey }])
    ∧ (∀ n, k.ctx = 0 → n.nsid ≠ 0xFFFFFFFF → s.host.nss.filter (fun x => x.nsid == n.nsid) = [n] →
        Gives (.namespaceManagement h false n.nsid 0 0 false none) s fun t => ∀ x ∈ t.host.nss, x.nsid ≠ n.nsid)
    ∧ (∀ n cntlid, k.ctx = 0 → s.ns? n.nsid = some n → (s.ctrl? cntlid).isSome = true → cntlid ∉ n.attached →
        Gives (.namespaceAttachment h n.nsid cntlid true) s fun t => ∃ m, t.ns? n.nsid = some m ∧ m.attached = n.attached ++ [cntlid])
    ∧ (∀ n ses, s.nsNamed n.nsid = [n] → s.ns? n.nsid = some n → ses ≤ 2 → s.nsWr k.ctx n.nsid = true → s.noWrites n = false →
        Gives (.formatNvm h n.nsid ses) s fun t => ∃ m, t.ns? n.nsid = some m ∧ m.zones = [] ∧ m.blocks = n.blocks
          ∧ (m.mediaKey = if ses = 2 then s.host.nextKey else n.mediaKey)
          ∧ ∀ l, l < n.blocks → assocGet (blkKey n.nsid l) t.flash.map = none)
    ∧ ((∀ n ∈ s.host.nss, s.nsWr k.ctx n.nsid = true) →
        exec (.sanitize h 4) s = .next ((s.host.nss.foldl State.rekey s).touchControl.okDw h 0 0))

/-! ## Programs and memory (ch. 10) -/

/-- A piece of a program image that is not the last is kept, and the last one has the image verified or refused with 0x87
(R130, R153, R154, R407); a module without a partner. An image is activated, deactivated and, when no execution uses it, unloaded by its owner or context 0 (R408). -/
def Obligations.ProgramImages : Prop :=
  (∀ (s : State) (h : Hdr) (k : Ctrl) (prog off total : Nat) (data : List Byte), OnHost s h k → Arrives s h k.ctx → s.nsReady = true →
      s.paired = false → s.live h = true → h ∉ s.host.miDrop → s.image? prog = none → data ≠ [] → data.length ≤ 8192 → off + data.length ≤ total →
      total ≤ 16777216 → s.sched.images.length < 1024 → s.imageBytes + data.length ≤ 4294967296 →
      (off + data.length < total → Gives (.loadProgram h prog off total data) s fun t =>
          (∃ i, t.image? prog = some i ∧ i.owner = k.ctx ∧ i.total = total ∧ i.received = data.length ∧ i.verified = false
            ∧ ∀ j (hj : j < data.length), assocGet (off + j) i.bytes = some data[j])
          ∧ t.host.cq = s.host.cq ++ [{ hdr := h, sct := 0, sc := 0, dw0 := 0, dw1 := 0 }] ∧ t.tiers = s.tiers)
      ∧ (off + data.length = total → Gives (.loadProgram h prog off total data) s fun t =>
          (∃ i, t.image? prog = some i ∧ i.verified = true ∧ i.owner = k.ctx
            ∧ t.host.cq = s.host.cq ++ [{ hdr := h, sct := 0, sc := 0, dw0 := 0, dw1 := 0 }])
          ∨ (t.image? prog = none ∧ ∃ a b, t.host.cq = s.host.cq ++ [{ hdr := h, sct := 7, sc := 0x87, dw0 := a, dw1 := b }])))
  ∧ (∀ (s : State) (h : Hdr) (k : Ctrl) (i : Image), OnHost s h k → Arrives s h k.ctx → s.nsReady = true → s.paired = false →
      s.image? i.prog = some i → (k.ctx = 0 ∨ i.owner = k.ctx) →
      (∀ sel, sel < 2 → Gives (.programActivationManagement h i.prog sel) s fun t =>
          t.image? i.prog = some { i with active := decide (sel = 1) } ∧ t.sched.execs = s.sched.execs)
      ∧ ((∀ e ∈ s.sched.execs, e.image ≠ i.prog) →
          exec (.programActivationManagement h i.prog 2) s = .next ((s.dropImage i.prog).touchControl.okDw h 0 0))
      ∧ ((∃ e ∈ s.sched.execs, e.image = i.prog) → exec (.programActivationManagement h i.prog 2) s = .next (s.post h 0 0x0C 0 0)))

/-- An Execute Program that the module admits becomes an execution (R132, R376 to R378, R408, R409) and waits as a job. -/
def Obligations.ExecuteProgram : Prop :=
  ∀ (s s' : State) (h : Hdr) (k : Ctrl) (i : Image) (params : List Byte) (deadline : W64) (cdw13 : W32), OnHost s h k → Arrives s h k.ctx →
    s.nsReady = true → 192 ≤ params.length → params.length ≤ 8192 → s.image? i.prog = some i → i.verified = true →
    (i.owner = 0 ∨ i.owner = k.ctx) → i.active = true → cdw13.getLsbD 0 = false →
    s.takeIn i (s.newExec h k.ctx i s.sched.nextExec params deadline.toNat false false) params = .ok s' →
    exec (.executeProgram h i.prog params deadline cdw13 0) s
      = .next (s'.touchControl.waitFor { hdr := h, body := .exec s.sched.nextExec, wait := .job })

/-- The registers of a new execution: its context, its number and its deadline in s61 to s63, its arguments in s1 to s16, 0 in
the others, and the program counter at the entry (R133, R134). -/
def Obligations.StartRegisters : Prop :=
  ∀ (s : State) (h : Hdr) (c : Fin 64) (i : Image) (id dl : Nat) (params : List Byte) (twin copy : Bool),
    let e := s.newExec h c i id params dl twin copy
    e.reg 61 = BitVec.ofNat 64 c.val ∧ e.reg 62 = BitVec.ofNat 64 id ∧ e.reg 63 = BitVec.ofNat 64 dl ∧ e.reg 0 = 0
    ∧ (∀ r : Fin 64, 1 ≤ r.val → r.val ≤ 16 → e.reg r = if r.val ≤ (params.getD 8 0).toNat then param64 params (16 + 8 * (r.val - 1)) else 0)
    ∧ (∀ r : Fin 64, 17 ≤ r.val → r.val ≤ 60 → e.reg r = 0)
    ∧ e.pc = BitVec.ofNat 32 i.entry ∧ e.step = 0 ∧ e.evs = 0 ∧ e.page.regs = e.regs ∧ e.phase = .queued

/-- Memory Read gives the bytes of the context's memory, Memory Write writes them and nothing else, Memory Range Set Management
has no range set to act on (R387, R409, R410); a module without a partner. A write that meets a page without a frame leaves a fault
record and waits (R253, R254; for the host DMA, log entry 150). A write of a context's memory is what a later read of the byte gives, and every byte outside it is as before (R13,
R248, R410); here for one byte. -/
def Obligations.LocalMemory : Prop :=
  (∀ (s : State) (h : Hdr) (k : Ctrl), OnHost s h k → Arrives s h k.ctx → s.nsReady = true → s.paired = false →
      (∀ (addr : W64) len bs, 0 < len → len ≤ 8388608 → s.ctxRead k.ctx addr.toNat len = .ok bs →
          s.ctxFault k.ctx addr.toNat len false = none → s.ctxPoison k.ctx addr.toNat len = false →
          exec (.memoryRead h addr len) s
            = .next ((((s.ctxTouch k.ctx addr.toNat len).ctxStreamed k.ctx addr.toNat len).send (.c2hData h bs)).ok h)
          ∧ bs = (List.range len).map fun j => s.ctxByte k.ctx (addr.toNat + j))
      ∧ (∀ (addr : W64) data, data ≠ [] → data.length ≤ 8192 → (∀ p ∈ pagesIn addr.toNat data.length, ∃ r, s.slmPage k.ctx p = some (r, true)) →
          s.ctxFault k.ctx addr.toNat data.length true = none →
          exec (.memoryWrite h addr data) s = .next ((s.ctxWrite k.ctx addr.toNat data).ok h))
      ∧ (∀ (addr : W64) data p, data ≠ [] → data.length ≤ 8192 → (∀ q ∈ pagesIn addr.toNat data.length, ∃ r, s.slmPage k.ctx q = some (r, true)) →
          s.ctxFault k.ctx addr.toNat data.length true = some p →
          Gives (.memoryWrite h addr data) s fun t => (∃ f, t.tiers.faults = s.tiers.faults ++ [f] ∧ f.host = some h ∧ f.va = p * 65536
              ∧ f.ctx = k.ctx ∧ f.wr = true ∧ f.at_ = s.now)
            ∧ (∃ o ∈ t.host.cmds, o.hdr = h ∧ o.wait = .xlate) ∧ t.host.cq = s.host.cq ∧ t.tiers.mem = s.tiers.mem)
      ∧ (∀ create, exec (.memoryRangeSetManagement h create) s = .next (s.post h 0 2 0 0)))
  ∧ (∀ (s : State) (c : Fin 64) (va : Nat) (b : Byte) (a : Alloc) (rd wr : Bool), Memory.wf s.tiers.mem = true →
      s.pageAt c (va / 65536) = .mem a (va / 65536 - a.id) rd wr → a.id ≤ va / 65536 →
      (s.ctxWrite c va [b]).ctxByte c va = b
      ∧ (∀ key, key ≠ byteKey a (va / 65536 - a.id) (va % 65536) → memGet (s.ctxWrite c va [b]).tiers.mem key = memGet s.tiers.mem key)
      ∧ Memory.wf (s.ctxWrite c va [b]).tiers.mem = true)

/-- An Ingest Object that the module admits joins its execution's queue and, with its data in the capsule, is run (R304,
R389, R411 to R413). -/
def Obligations.IngestObject : Prop :=
  ∀ (s : State) (h : Hdr) (k : Ctrl) (n : Ns) (e : Exec) (obj lba deadline : W64) (cdw12 cdw13 : W32) (data : List Byte), OnHost s h k →
    Arrives s h k.ctx → s.nsReady = true → s.ns? n.nsid = some n → s.nsWr k.ctx n.nsid = true → (s.group n.group).ana = .optimized →
    s.noWrites n = false → obj ≠ BitVec.allOnes 64 → bitsOf cdw12.toNat 25 24 ≠ 3 → cdw12.getLsbD 27 = false →
    bitsOf cdw12.toNat 23 0 = data.length → data ≠ [] → data.length ≤ 8192 → lba.toNat + 2 ≤ n.blocks →
    s.sched.execs.find? (fun x => x.ingest && x.hdr == cdw13Hdr h cdw13 && !x.copy) = some e →
    let o : ObjCmd := { hdr := h, obj, nsid := n.nsid, lba := lba.toNat, deadline := deadline.toNat, defer := cdw12.getLsbD 26
                        kind := bitsOf cdw12.toNat 25 24, blocks := [], stage := .arriving, bytes := data }
    s.refusesObj e o data.length = none →
      exec (.ingestObject h n.nsid obj lba cdw12 cdw13 deadline data) s
        = .next ((s.modEx e.id fun x => { x with objs := x.objs ++ [{ o with bytes := [] }], queued := x.queued + 1 }).runIngest e.id o false)

/-! ## Allocations and Settings (R237 to R243, R419, R428 to R430, R496, R503) -/

/-- Allocations, frees and tier requests of a module without a partner (R204, R237, R241, R242, R429, R430). -/
def Obligations.Allocations : Prop :=
  ∀ (s : State) (h : Hdr) (c : Fin 64), Arrives s h c → s.paired = false →
    (∀ pages zod, 0 < pages → s.noSpace c .t2 pages zod = none →
        Gives (.allocate h (pages * 65536) (if zod then 9 else 1)) s fun t =>
          (∃ a, t.tiers.allocs = s.tiers.allocs ++ [a] ∧ a.ctx = c ∧ a.pages = pages ∧ a.home = .t2 ∧ a.zod = zod ∧ a.pin = false
            ∧ a.id = s.tiers.nextAlloc ∧ t.tiers.nextAlloc = a.id + pages)
          ∧ t.tiers.mem = s.tiers.mem ∧ t.sched = s.sched)
    ∧ (∀ size flags, size % 65536 ≠ 0 → exec (.allocate h size flags) s = .next (s.post h 0 2 0 0))
    ∧ (∀ a, s.alloc? a.id = some a → a.ctx = c → a.freed = false →
        Gives (.free h a.id) s fun t => t.alloc? a.id = some { a with freed := true } ∧ t.tiers.mem = s.tiers.mem
          ∧ (∀ m ∈ t.tiers.migs ++ t.tiers.queue, m.alloc ≠ a.id) ∧ (∀ d ∈ t.tiers.deferred, d.alloc ≠ a.id))
    ∧ (∀ a first pages code x, s.alloc? a.id = some a → (a.ctx = c ∨ s.grantOf c a ≠ (false, false)) → a.freed = false → first < a.pages →
        first + pages ≤ a.pages → hintOf code = some x →
        exec (.tierHint h a.id first pages code) s
          = .next ((s.setHint a (a.range first pages) x (.host c)).touchControl.okDw h 0 0))
    ∧ (∀ a first pages code x, s.alloc? a.id = some a → (a.ctx = c ∨ s.grantOf c a ≠ (false, false)) → a.freed = false → first < a.pages →
        first + pages ≤ a.pages → wordTier code = some x → x ≠ .t0 →
        let r := s.evict a (a.range first pages) x none (some h) none
        (r.2 = 0 → (∀ m ∈ r.1.tiers.migs ++ r.1.tiers.queue, m.host ≠ some h) → exec (.tierEvict h a.id first pages code) s = .next (r.1.ok h))
        ∧ (r.2 = 0 → (∃ m ∈ r.1.tiers.migs ++ r.1.tiers.queue, m.host = some h) →
            exec (.tierEvict h a.id first pages code) s = .next (r.1.waitFor { hdr := h, body := .evictWait s.tiers.nextMig, wait := .evict }))
        ∧ (0 < r.2 → exec (.tierEvict h a.id first pages code) s = .next (r.1.laesk h 0x8B (BitVec.ofNat 32 r.2) 0)))

/-- The Settings command under root on a module without a partner (R393, R416, R419, R428, R430, R496, R503). -/
def Obligations.SettingsCommands : Prop :=
  ∀ (s : State) (h : Hdr) (c : Fin 64), Arrives s h c → s.isRoot h = true → s.paired = false →
    (∀ nqn ctx, nqn.length ≤ 256 → (ctx ≠ 0 ∨ hostPath h = false) →
        exec (.hostBindingSet h nqn ctx) s = .next ((s.bindNqn nqn ctx).touchControl.okDw h 0 0) ∧ (s.bindNqn nqn ctx).bound nqn = some ctx)
    ∧ (∀ ctx, exec (.hostBindingGet h ctx) s
        = .next ((s.send (.c2hData h ((s.host.bind.filter fun b => b.2 == ctx).flatMap fun b => nqnBytes b.1))).ok h))
    ∧ (∀ gib, gib ≤ 16384 → s.usedPages .t3 ≤ gib * 16384 → s.nsBlocks + 262144 * gib ≤ 917 * 2 ^ 28 →
        exec (.spillAreaSet h gib) s = .next (({ s with tiers := { s.tiers with spillGib := gib } }).touchControl.okDw h 0 0))
    ∧ exec (.spillAreaGet h) s = .next (s.okDw h (BitVec.ofNat 32 s.tiers.spillGib) 0)
    ∧ (∀ slot key, s.overTls h = true → key.extractLsb' 0 256 ≠ key.extractLsb' 256 256 →
        exec (.keyInstall h slot key) s
          = .next (({ s with host := { s.host with keys := assocPut slot.val key s.host.keys } }).touchControl.okDw h 0 0))
    ∧ (∀ slot, exec (.keyClear h slot) s
        = .next (({ s with host := { s.host with keys := assocErase slot.val s.host.keys } }).touchControl.okDw h 0 0))
    ∧ (∀ domain transport, domain ≤ 127 → transport ≤ 2 →
        exec (.timeSet h domain transport) s = .next (({ s with ptp := { s.ptp with domain, transport } }).touchControl.okDw h 0 0))
    ∧ exec (.timeGet h) s = .next (s.okDw h (BitVec.ofNat 32 (s.ptp.domain + 256 * s.ptp.transport)) 0)
    ∧ exec (.soloWritePolicySet h true) s = .next (({ s with twin := { s.twin with refuse := true } }).touchControl.okDw h 0 0)
    ∧ (Gives (.soloWritePolicySet h false) s fun t => t.twin.refuse = false ∧ ∀ e ∈ t.sched.execs, e.phase ≠ .policyWait)
    ∧ exec (.soloWritePolicyGet h) s = .next (s.okDw h (if s.twin.refuse then 1 else 0) 0)
    ∧ (∀ data, data.length = 256 →
        exec (.witnessSet h data) s = .next (({ s with twin := { s.twin with witness := data } }).touchControl.okDw h 0 0))
    ∧ exec (.witnessGet h) s = .next ((s.send (.c2hData h ((s.twin.witness ++ zeros 256).take 256))).ok h)

/-- A command marked root that does not come from context 0 over an authenticated connection completes with Access
Denied and changes nothing else but the log ring, where a refused write of root-settable fields leaves an entry (R15); key installation without TLS is denied to everyone on a host's connection (R416, R423). -/
def Obligations.RootOnly : Prop :=
  (∀ (s : State) (h : Hdr) (k : Ctrl) (n g : Nat) (c : Fin 64) (slot : Fin 256) (key : BitVec 512) (data : List Byte)
      (w : W32) (img : FwImage), OnHost s h k → Arrives s h k.ctx → (k.ctx ≠ 0 ∨ k.auth = false) →
      ∀ i ∈ [Instr.pair h [n], .unpair h w, .startResilvering h w, .returnDeclarerRoles h, .handGroup h w, .clearPairRecords h n,
             .hostBindingSet h [n] c, .hostBindingGet h c, .spillAreaSet h n,
             .spillAreaGet h, .keyInstall h slot key, .keyClear h slot, .timeSet h n g, .timeGet h, .soloWritePolicySet h true,
             .soloWritePolicyGet h, .witnessSet h data, .witnessGet h, .firmwareImageDownload h n g img, .firmwareCommit h n g],
        exec i s = .next (s.post h 2 0x86 0 0))
  ∧ (∀ (s : State) (h : Hdr) (k : Ctrl) (r : RegSel) (v : W64) (q : W32) (slot : Fin 64) (n : Fin 4) (m : Fin 8) (src : Fin 256) (c : Fin 64)
      (entry : BitVec 4096) (x y : Nat), OnHost s h k → Arrives s h k.ctx → (k.ctx ≠ 0 ∨ k.auth = false) →
      ∀ i ∈ [Instr.faultInject h src x y, .partitionTableUpdate h c entry, .registerWrite h r v, .stepBudgetWrite h v, .powerCapWrite h v, .scaleSlotWrite h slot q v, .faultFirstClear h v,
             .faultStickyClear h n v, .faultInjectionWrite h src v, .traceControlWrite h v, .traceEnableWrite h m v, .lampWrite h v,
             .phyStatClear h v],
        Gives i s fun t => t.host.cq = (s.post h 2 0x86 0 0).host.cq ∧ { t with host := s.host } = s)
  ∧ (∀ (s : State) (h : Hdr) (k : Ctrl) (slot : Fin 256) (key : BitVec 512), OnHost s h k → Arrives s h k.ctx → k.tls = false →
      exec (.keyInstall h slot key) s = .next (s.post h 2 0x86 0 0))

/-- A partition table update of another context than 0 with no reserved bit set waits for the revocation of the epoch that it
starts (R270 to R272, R427); a Fault Inject command sets its source's mask and count (R426). -/
def Obligations.PartitionAndInjection : Prop :=
  ∀ (s : State) (h : Hdr) (k : Ctrl), OnHost s h k → Arrives s h k.ctx → s.isRoot h = true →
    (∀ (ctx : Fin 64) entry, ctx ≠ 0 → reservedSet entry.toNat = false → s.part.next = none →
        Gives (.partitionTableUpdate h ctx entry) s fun t => t.part.next = some (s.part.epoch + 1, ctx, entry)
          ∧ t.part.entries = s.part.entries ∧ (∃ o ∈ t.host.cmds, o.hdr = h ∧ o.wait = .revoke) ∧ t.host.cq = s.host.cq)
    ∧ (∀ (ctx : Fin 64) entry, (ctx = 0 ∨ reservedSet entry.toNat = true) →
        exec (.partitionTableUpdate h ctx entry) s = .next (s.post h 0 2 0 0))
    ∧ (∀ (src : Fin 256) mask count, 0 < count → count ≤ 255 → sourceUnit src.val = none →
        exec (.faultInject h src mask count) s
          = .next (({ s with flt := { s.flt with inj := assocPut src.val (BitVec.ofNat 8 mask, count) s.flt.inj } }).ok h))

/-! ## Firmware images (R581, R582, R585, R586) -/

/-- A piece of a firmware image is kept, and a commit under root puts it into the slot that is not running, for a trial with
action 1 (R582, R585). -/
def Obligations.FirmwareCommands : Prop :=
  ∀ (s : State) (h : Hdr) (c : Fin 64), Arrives s h c → s.isRoot h = true →
    (∀ off len img, 0 < len → len % 4 = 0 → off % 4 = 0 → len ≤ 8388608 →
        exec (.firmwareImageDownload h off len img) s
          = .next (({ s with fw := { s.fw with download := some img, downloadLen := max s.fw.downloadLen (off + len) } }).ok h))
    ∧ (∀ img, s.fw.inTrial = false → s.fw.running = false → s.fw.download = some img → img.signed = true → s.otherMajor img = false →
        Gives (.firmwareCommit h 1 2) s fun t => t.fw.imgB = some img ∧ t.fw.imgA = s.fw.imgA ∧ t.fw.trial = some true
          ∧ t.fw.running = false ∧ t.fw.committed = s.fw.committed ∧ t.host.cq = (s.ok h).host.cq)
    ∧ (∀ action slot, s.fw.inTrial = true → exec (.firmwareCommit h action slot) s = .next (s.post h 0 0x0C 0 0))

/-! ## Registers (R15, R81, R156, R423, R424, R526, R527, R556, R565, R572, R587, R615) -/

/-- A Register Read answers the register's value in DW0 and DW1 (R423, R424). A register write that does not come from root changes no register: the
scheduler, the tiers, the partition table, the collector, the caps, the fabric, the trace and the lamps stay as they are (R15, R416). -/
def Obligations.RegisterReads : Prop :=
  (∀ (s : State) (h : Hdr) (c : Fin 64) (r : RegSel) (v : W64), Arrives s h c → s.readReg h c r = .ok v →
      exec (.registerRead h r) s = .next (({ s with free := s.free + 2 }).okDw h (v.setWidth 32) ((v >>> 32).setWidth 32)))
  ∧ (∀ (s : State) (h : Hdr) (k : Ctrl) (r : RegSel) (v : W64), OnHost s h k → Arrives s h k.ctx → s.isRoot h = false →
      Gives (.registerWrite h r v) s fun t => t.sched = s.sched ∧ t.pwr = s.pwr ∧ t.flt = s.flt ∧ t.trace = s.trace ∧ t.phys = s.phys
        ∧ t.fab = s.fab ∧ t.tiers = s.tiers ∧ t.part = s.part)

/-- What root's Register Write, and the commands that write one register, change (R15, R81, R156, R424, R526, R527, R556, R565,
R572, R587, R615). -/
def Obligations.RegisterWrites : Prop :=
  ∀ (s : State) (h : Hdr) (v : W64), Arrives s h 0 → s.isRoot h = true →
    (∀ r x, s.readReg h 0 r = .ok x → exec (.registerWrite h r v) s = .next ((s.putReg h r v).ok h))
    ∧ (50 ≤ v.toNat % 1024 → v.toNat % 1024 ≤ 1000 →
        exec (.stepBudgetWrite h v) s = .next (({ s with sched := { s.sched with budget := v.toNat % 1024 } }).touchControl.ok h))
    ∧ ((v.toNat % 1024 < 50 ∨ 1000 < v.toNat % 1024) →
        exec (.stepBudgetWrite h v) s = .next ((s.log .budgetIgnored (v.toNat % 1024) 0).ok h))
    ∧ (1500 ≤ v.toNat % 8192 → v.toNat % 8192 ≤ 4000 →
        exec (.powerCapWrite h v) s = .next (({ s with pwr := { s.pwr with capNext := v.toNat % 8192 } }).touchControl.ok h))
    ∧ ((v.toNat % 8192 < 1500 ∨ 4000 < v.toNat % 8192) →
        exec (.powerCapWrite h v) s = .next ((s.log .capIgnored (v.toNat % 8192) 0).ok h))
    ∧ (∀ slot qual e, s.qualExec h qual = some e → exec (.scaleSlotWrite h slot qual v) s = .next ((s.putSlot e.id slot.val v).ok h))
    ∧ (v.getLsbD 10 = true → exec (.faultFirstClear h v) s = .next (({ s with flt := { s.flt with first := none } }).ok h))
    ∧ (v.getLsbD 10 = false → exec (.faultFirstClear h v) s = .next (s.ok h))
    ∧ (∀ n, Gives (.faultStickyClear h n v) s fun t => (∀ j, j < 256 → t.flt.sticky.getLsbD j
        = (s.flt.sticky.getLsbD j && !(decide (64 * n.val ≤ j) && decide (j < 64 * n.val + 64) && v.getLsbD (j - 64 * n.val))))
        ∧ t.flt.first = s.flt.first ∧ t.flt.map = s.flt.map)
    ∧ (∀ src, exec (.faultInjectionWrite h src v) s
        = .next (({ s with flt := { s.flt with inj := assocPut src.val (BitVec.ofNat 8 (v.toNat % 256), v.toNat / 256 % 256) s.flt.inj } }).ok h))
    ∧ exec (.traceControlWrite h v) s = .next (({ s with trace := { s.trace with run := v.getLsbD 0, stopFull := v.getLsbD 1 } }).ok h)
    ∧ (∀ n : Fin 8, Gives (.traceEnableWrite h n v) s fun t => t.trace.en[n] = v ∧ ∀ m : Fin 8, m ≠ n → t.trace.en[m] = s.trace.en[m])
    ∧ exec (.lampWrite h v) s = .next (({ s with phys := { s.phys with locate := v.getLsbD 0, dim := v.getLsbD 1 } }).ok h)
    ∧ (Gives (.phyStatClear h v) s fun t => ∀ j, j < 8 → t.phys.flags.getLsbD j = (s.phys.flags.getLsbD j && !v.getLsbD (8 + j)))

/-- A clock message of a port that is up brings a master in the configured domain or takes it away; the loss of every master
ends the lock (R420 to R422). -/
def Obligations.PortClock : Prop :=
  (∀ (s : State) (port : Fin 4) (x : W32), s.serving = true → s.portUp port = true → s.ptp.locked = false →
      Gives (.ptpMessage port s.ptp.domain true x) s fun t => t.ptp.locked = true ∧ t.ptp.ever = true ∧ t.ptp.port = port ∧ t.ptp.offset = x
        ∧ t.ptp.ports[port] = true ∧ t.now = s.now ∧ t.host = s.host)
  ∧ (∀ (s : State) (port : Fin 4) (d : Nat) (m : Bool) (x : W32), d ≠ s.ptp.domain → exec (.ptpMessage port d m x) s = .next s)
  ∧ (∀ s : State, Gives .ptpMasterLoss s fun t => t.ptp.locked = false ∧ t.ptp.ever = s.ptp.ever ∧ (∀ p : Fin 4, t.ptp.ports[p] = false)
        ∧ t.host = s.host)

/-! ## Flash (ch. 11) -/

/-- Programs, erases, the fold, garbage collection, checkpoints, patrol reads and refreshes (R455, R457 to R459, R464, R465,
R469, R470): verified data gets its place in the map, and no other event of these moves, adds or drops a block. A reply to an
operation that its bridge's reset has answered is discarded (R549). -/
def Obligations.FlashWork : Prop :=
  ∀ s : State,
    (∀ id sb st key q d, s.flash.ops.find? (fun o => o.id = id) = some (.program id sb st [(key, none)] [q] (s.bridgeEpoch sb)) → d ∈ s.flash.dirty →
        d.key = key → d.seq = q → (∀ x ∈ s.flash.dirty, x.seq = q → x = d) →
        Gives (.flashProgramComplete id true) s fun t => assocGet key t.flash.map = some { sb, stripe := st, slot := 0 }
          ∧ assocGet key t.host.blks = some d.blk ∧ t.flash.dirty = s.flash.dirty.filter (fun x => x.seq ≠ q))
    ∧ (∀ id sb st en sq u, s.flash.ops.find? (fun o => o.id = id) = some (.program id sb st en sq u) → u ≠ s.bridgeEpoch sb →
        ∀ ok, exec (.flashProgramComplete id ok) s = .next s.staleReply)
    ∧ (∀ id sb ch j u, s.flash.ops.find? (fun o => o.id = id) = some (.erase id sb ch j u) → u ≠ s.bridgeEpoch sb →
        exec (.flashEraseComplete id) s = .next s.staleReply)
    ∧ (∀ id, Gives (.flashProgramComplete id false) s fun t => t.flash.map = s.flash.map ∧ t.flash.dirty = s.flash.dirty
          ∧ t.host.blks = s.host.blks)
    ∧ (∀ id sb ch j, s.flash.ops.find? (fun o => o.id = id) = some (.erase id sb ch j (s.bridgeEpoch sb)) →
        (s.sb sb).erased ||| BitVec.twoPow 32 ch.val = BitVec.allOnes 32 → (s.sb sb).state = .erasing false →
        Gives (.flashEraseComplete id) s fun t => (t.sb sb).state = .free ∧ (t.sb sb).nextStripe = 0 ∧ (t.sb sb).reads = []
          ∧ (t.sb sb).eraseQ = (s.sb sb).eraseQ + 1 ∧ (t.sb sb).eraseP = (s.sb sb).eraseP ∧ t.flash.map = s.flash.map
          ∧ ∃ i ∈ t.flash.stamps, i.sb = sb ∧ i.chan = ch ∧ i.jseq = j)
    ∧ (∀ sb ch e96, sb < Config.superblocks → (s.sb sb).state = .free → s.erasingIn sb = false → s.halfErased sb ch e96 = true →
        Gives (.blockOpenEraseVerify sb ch e96) s fun t => (t.sb sb).state = .erasing false
          ∧ (∃ j, t.flash.ops = s.flash.ops ++ [.erase s.flash.nextOp sb ch j (s.bridgeEpoch sb)]
              ∧ ∃ i ∈ t.flash.intents, i.sb = sb ∧ i.chan = ch ∧ i.jseq = j)
          ∧ t.flash.map = s.flash.map)
    ∧ (∀ sb ch e96, s.halfErased sb ch e96 = false → exec (.blockOpenEraseVerify sb ch e96) s = .next s)
    ∧ (∀ g n, s.mayStart g.val = true → s.flash.pslcOrder.head? = some n → (s.sb n).state = .pslc → s.validIn n = [] →
        Gives (.pslcFold g) s fun t => (t.sb n).state = .erasing true ∧ t.flash.map = s.flash.map ∧ t.host = s.host)
    ∧ (∀ g : Fin 128, s.mayStart g.val = false → exec (.pslcFold g) s = .next s)
    ∧ (Gives .garbageCollection s fun t => t.flash.map = s.flash.map ∧ t.flash.dirty = s.flash.dirty ∧ t.host = s.host ∧ t.tiers = s.tiers)
    ∧ ((∀ x ∈ s.flash.sbs, x.2.refresh = false ∧ ∀ p, x.2.state ≠ .erasing p) → 2048 ≤ s.freeSbs → exec .garbageCollection s = .next s)
    ∧ (∀ n, (∀ x ∈ s.flash.sbs, x.2.refresh = false ∧ ∀ p, x.2.state ≠ .erasing p) → s.freeSbs < 2048 → s.gcVictim = some n →
        s.validIn n = [] → Gives .garbageCollection s fun t => ∃ p, (t.sb n).state = .erasing p)
    ∧ (Gives .mapCheckpoint s fun t => t.flash.journal = 0 ∧ t.flash.stamps = [] ∧ t.flash.map = s.flash.map ∧ t.flash.dirty = s.flash.dirty
          ∧ ∀ i, i ∈ t.flash.intents ↔ i ∈ s.flash.intents ∧ s.halfErased i.sb i.chan false = true)
    ∧ (∀ sb stripe retries pct, (s.sb sb).state = .closed → stripe < (s.sb sb).nextStripe → s.busyIn (groupOfSb sb) = 0 →
        groupOfSb sb ∉ s.readGroups →
        Gives (.patrolRead sb stripe retries pct) s fun t =>
          ((t.sb sb).refresh = true ↔ (s.sb sb).refresh = true ∨ 3 < retries ∨ 80 < pct)
          ∧ (∀ ch, ch < 32 → assocGet ch (t.sb sb).reads = some ((assocGet ch (s.sb sb).reads).getD 0 + 1))
          ∧ t.flash.map = s.flash.map ∧ t.host = s.host)
    ∧ (∀ (sb : Nat) (ch : Fin 32), (s.sb sb).state = .closed → 100000 ≤ (assocGet ch.val (s.sb sb).reads).getD 0 →
        Gives (.readDisturbRefresh sb ch) s fun t => (t.sb sb).refresh = true ∧ t.flash.map = s.flash.map)

/-- Reads that end well and reads that are lost (R448, R519), the partner's fetch, die failures (R449), the hold-up
measurement (R452), brown-out (R462) and bridge resets (R468). -/
def Obligations.FlashTrouble : Prop :=
  ∀ (s : State) (d : Die),
    (∀ h o nsid lba nlb left send l f, s.host.cmds.find? (fun x => x.hdr == h) = some o → o.body = .read nsid lba nlb left send → left = [l] →
        ∀ loc, assocGet (blkKey nsid l) s.flash.map = some loc → onDie loc d = true →
        s.ladder d f = .clean →
        exec (.flashReadComplete (.host h) nsid l d f) s
          = .next ((s.modSb loc.sb fun x => x.readOnce d.chan.val).finishRead h nsid lba nlb send))
    ∧ (∀ h o nsid lba nlb left send l f, s.host.cmds.find? (fun x => x.hdr == h) = some o → o.body = .read nsid lba nlb left send → l ∈ left →
        ∀ loc, assocGet (blkKey nsid l) s.flash.map = some loc → onDie loc d = true → Calm s →
        f.guardOk = false → s.live h = true → h ∉ s.host.miDrop →
        Gives (.flashReadComplete (.host h) nsid l d f) s fun t =>
          t.host.cq = s.host.cq ++ [{ hdr := h, sct := 2, sc := 0x81, dw0 := 0, dw1 := 0 }]
          ∧ t.health.uncorrAt = some s.now ∧ Sticky t (0x90 + d.bridge.val))
    ∧ (∀ nsid lba, s.paired = true → (assocGet (blkKey nsid lba) s.flash.map).isSome = true →
        Gives (.partnerBlockFetch nsid lba) s fun t => t.twin.out = s.twin.out ++ [.fetched nsid lba (some (s.blk nsid lba))]
          ∧ t.flash = s.flash ∧ t.host = s.host)
    ∧ (let g := 8 * d.bridge.val + d.pos.val
       Calm s → g ∉ s.flash.retired → (∀ x ∈ s.flash.failed, x.1 ≠ g) →
        Gives (.dieFailure d) s fun t => t.flash.failed = s.flash.failed ++ [(g, d)] ∧ t.busyLimit g = 0 ∧ Sticky t (0x90 + d.bridge.val)
          ∧ t.flash.map = s.flash.map)
    ∧ (∀ g : Fin 128, s.relocating g.val = true → (∀ m ∈ s.flash.map, groupOfSb m.2.sb ≠ g.val) →
        Gives (.dieGroupRetire g) s fun t => t.flash.retired = s.flash.retired ++ [g.val] ∧ (∀ o ∈ t.flash.ops, groupOfSb o.sb ≠ g.val))
    ∧ (∀ pct mib, Gives (.holdupMeasurement pct mib) s fun t => (t.flash.wthru = true ↔ pct < 50)
          ∧ t.flash.limitMib = (if pct < 50 then 0 else min 8192 mib))
    ∧ (∀ b : Fin 16, s.life.in48Ok = true → Gives (.bridgeBrownoutTrip b) s fun t => (t.flash.bridges[b]).bod = true ∧ Sticky t (0x80 + b.val))
    ∧ (∀ b : Fin 16, s.life.in48Ok = false → Gives (.bridgeBrownoutTrip b) s fun t => (t.flash.bridges[b]).bod = true ∧ t.flt = s.flt)
    ∧ (∀ b : Fin 16, Calm s → s.life.phase ≠ .flushing → (s.flash.bridges[b]).resetting = false →
        Gives (.bridgeReset b true) s fun t => (t.flash.bridges[b]).resetting = true
          ∧ (t.flash.bridges[b]).resets = min 255 ((s.flash.bridges[b]).resets + 1)
          ∧ t.unitEpoch b.val = s.unitEpoch b.val + 1 ∧ t.flash.map = s.flash.map)
    ∧ (∀ (b : Fin 16) done, (s.flash.bridges[b]).resetting = true →
        Gives (.bridgeResetComplete b done) s fun t => (t.flash.bridges[b]).resetting = false ∧ ResetUnit.bridge b ∉ t.units.resetting)

/-! ## Power, start-up, shutdown and trials (ch. 11, 14) -/

/-- The inputs (R461, R463, R564), recovery (R467), the start-up sequence and its time-out (R575, R581), PWR_EN and clean
shutdown (R577, R578), resets after Major faults (R580), and the end of a trial, whose jobs a clean shutdown first lets end
(R582, R584, R586). -/
def Obligations.LifeCycle : Prop :=
  ∀ s : State,
    (s.life.phase = .inService → s.life.auxOk = true →
        Gives .powerLoss s fun t => t.life.phase = .powerLost ∧ t.life.in48Ok = false ∧ t.life.dom.cc = false ∧ t.flash.dirty = [])
    ∧ (s.life.phase = .standby → s.life.auxOk = true → exec .powerLoss s = .next { s with life := { s.life with in48Ok := false } })
    ∧ (s.life.phase = .powerLost → s.life.dom.ao = true → s.life.aoReady = true → s.life.pwrEn = true → s.life.held = false →
        Gives .powerLossRestart s fun t => t.life.phase = .startReady ∧ t.life.in48Ok = true)
    ∧ (s.life.phase = .firmwareUp → Gives .namespacesReady s fun t => t.life.phase = .inService)
    ∧ (s.life.phase ≠ .firmwareUp → exec .namespacesReady s = .next s)
    ∧ (∀ slot ok, s.life.phase = .off → s.life.dom.ao = false → s.life.in48Ok = false →
        Gives (.auxPowerOn slot ok) s fun t => t.life.phase = .standby ∧ t.life.dom.ao = true ∧ t.life.aoReady = ok ∧ t.phys.slotId = slot)
    ∧ (s.life.dom.ao = true → s.life.in48Ok = true →
        Gives .auxPowerLoss s fun t => t.life.auxOk = false ∧ t.life.dom = s.life.dom ∧ t.life.phase = s.life.phase ∧ Sticky t 0xCA)
    ∧ (s.life.dom.ao = true → s.life.in48Ok = false → Gives .auxPowerLoss s fun t => t.life.dom.ao = false)
    ∧ (∀ b a bb, s.life.phase = .startReady → s.mayStart574 = true → s.bootChoice a bb = some b →
        Gives (.startUp [] [] a bb) s fun t => t.life.phase = .firmwareUp ∧ (∀ d : Dom, t.life.dom.on d = true) ∧ t.life.dom.ao = true
          ∧ t.fw.running = b ∧ t.life.fwUpAt = s.now)
    ∧ (∀ fs cs a bb, s.life.phase = .startReady → s.mayStart574 = true → s.bootChoice a bb = none →
        Gives (.startUp fs cs a bb) s fun t => t.life.phase = .outOfService ∧ t.flt.faultN = true)
    ∧ (s.life.phase = .startReady → s.life.bootAt + 30000000000 ≤ s.now →
        Gives .bootTimeout s fun t => t.fw.failsA = (if s.bootSlot then s.fw.failsA else s.fw.failsA + 1)
          ∧ t.fw.failsB = (if s.bootSlot then s.fw.failsB + 1 else s.fw.failsB))
    ∧ (s.now < s.life.bootAt + 30000000000 → exec .bootTimeout s = .next s)
    ∧ (s.life.phase = .inService → s.phys.i3cReleased = false →
        Gives .pwrEnDeassert s fun t => t.life.phase = .cleanShutdown ∧ t.life.shutAt = s.now ∧ t.life.pwrEn = false)
    ∧ (s.phys.i3cReleased = true → exec .pwrEnDeassert s = .next s)
    ∧ (s.life.phase = .cleanShutdown → s.sched.execs = [] → s.handsOver = false → s.life.fallAfter = true → s.mayStart574 = true →
        Gives .runningJobShutdownEnd s fun t => t.life.phase = .startReady ∧ t.fw.trial = none ∧ t.fw.inTrial = false ∧ t.fw.fellBack = true
          ∧ t.fw.committed = s.fw.committed)
    ∧ (s.life.phase = .cleanShutdown → s.sched.execs = [] → s.handsOver = false → s.life.fallAfter = false → s.life.pwrEn = false →
        Gives .runningJobShutdownEnd s fun t => t.life.phase = .standby ∧ t.life.cleanEnd = true ∧ t.life.dom.cc = false
          ∧ t.flash.journal = 0 ∧ t.flash.dirty = [])
    ∧ (s.life.phase = .cleanShutdown → s.now < s.life.shutAt + 1000000000 → s.sched.execs ≠ [] → exec .runningJobShutdownEnd s = .next s)
    ∧ (s.life.phase = .standby → s.life.pwrEn = false → s.life.dom.ao = true → s.life.aoReady = true → s.life.in48Ok = true →
        s.life.held = false → Gives .pwrEnAssert s fun t => t.life.phase = .startReady ∧ t.life.pwrEn = true ∧ t.life.bootAt = s.now)
    ∧ (s.life.phase = .majorOut → s.life.responseEnd + 5000000000 ≤ s.now → s.life.selfResets.length < 3 → s.mayStart574 = true →
        Gives .majorSelfReset s fun t => t.life.phase = .startReady ∧ s.now ∈ t.life.selfResets ∧ t.flt.active = none ∧ t.flt.faultN = false)
    ∧ (s.life.phase = .majorOut → s.life.responseEnd + 5000000000 ≤ s.now → 3 ≤ s.life.selfResets.length →
        (∀ x ∈ s.life.selfResets, s.now < x + 3600000000000) → Gives .majorSelfReset s fun t => t.life.phase = .outOfService)
    ∧ (∀ b, s.fw.trial = some b → s.fw.inTrial = true → s.fw.running = b → 0 < s.trialNs → s.healthy = true →
        Gives .trialPass s fun t => t.fw.committed = b ∧ t.fw.trial = none ∧ t.fw.inTrial = false ∧ t.life = s.life)
    ∧ (s.fw.inTrial = true → s.life.phase = .inService → s.trialNs = 0 → s.sched.execs ≠ [] →
        Gives .trialTimeout s fun t => t.life.phase = .cleanShutdown ∧ t.life.fallAfter = true ∧ t.life.shutAt = s.now ∧ t.fw = s.fw)
    ∧ (s.fw.inTrial = true → s.life.phase = .inService → s.trialNs = 0 → s.sched.execs = [] → s.paired = false → s.mayStart574 = true →
        Gives .trialTimeout s fun t => t.fw.trial = none ∧ t.fw.inTrial = false ∧ t.fw.fellBack = true ∧ t.fw.committed = s.fw.committed
          ∧ t.life.phase = .startReady)

/-! ## The pair (ch. 12) -/

/-- The Pair Control functions under root (R425, R507, R508, R510, R516) and the end of a pairing. -/
def Obligations.PairControl : Prop :=
  ∀ (s : State) (h : Hdr) (k : Ctrl), OnHost s h k → Arrives s h k.ctx → s.isRoot h = true → h ∉ s.host.miDrop →
    (∀ serial, serial.length = 32 → s.twin.st = .unpaired →
        Gives (.pair h serial) s fun t => t.twin.st = .training ∧ t.twin.peerSerial = serial ∧ t.twin.pairAt = some s.now
          ∧ (∃ o ∈ t.host.cmds, o.hdr = h ∧ o.wait = .pairing) ∧ t.host.cq = s.host.cq)
    ∧ (∀ serial, s.twin.st ≠ .unpaired → exec (.pair h serial) s = .next (s.post h 0 0x0C 0 0))
    ∧ (∀ t0 trained, s.twin.st = .training → s.twin.pairAt = some t0 → t0 + 60000000000 ≤ s.now →
        Gives (.pairTimeout false trained) s fun t => t.twin.st = .unpaired ∧ t.twin.peerSerial = [] ∧ t.host.nss = s.host.nss
          ∧ ∀ o ∈ t.host.cmds, o.wait ≠ .pairing)
    ∧ (s.twin.st = .training → s.linkIsUp = true → s.host.nss = [] → s.twin.adopted = none →
        Gives (.pairTimeout true true) s fun t => t.twin.st = .paired ∧ t.twin.kek = some s.free
          ∧ t.twin.rank = (if serialLt s.ident.serial s.twin.peerSerial then 0 else 1) ∧ ∀ o ∈ t.host.cmds, o.wait ≠ .pairing)
    ∧ (∀ cdw11, s.twin.st = .paired →
        Gives (.unpair h cdw11) s fun t => t.twin.st = .unpaired ∧ t.twin.peerSerial = [] ∧ t.twin.kek = none ∧ t.twin.unacked = []
          ∧ (∀ g, (s.group g).role = .declarer → (t.group g).role = .declarer ∧ (t.group g).homeHere = true)
          ∧ (∀ g, (s.group g).role ≠ .declarer → (t.group g).role = .unused)
          ∧ ∀ n ∈ t.host.nss, (s.group n.group).role ≠ .dummy)
    ∧ (∀ cdw11, (s.twin.st = .soloSplit ∨ s.twin.st = .soloSurvivor) → s.linkIsUp = true →
        Gives (.startResilvering h cdw11) s fun t => t.twin.st = .resilvering ∧ t.twin.memSeq = 0 ∧ t.twin.memRecv = 0
          ∧ t.host.cq = s.host.cq ++ [{ hdr := h, sct := 0, sc := 0, dw0 := 0, dw1 := 0 }]
          ∧ ∀ g, (s.group g).role = .dummy → (t.group g).synced = false ∧ (t.group g).ana = .inaccessible)
    ∧ (s.twin.st = .paired → (∀ g ∈ s.ours, (s.group g).homeHere = true) → exec (.returnDeclarerRoles h) s = .next (s.ok h))
    ∧ (∀ g0, s.twin.st = .paired → g0 ∈ s.ours → (s.group g0).homeHere = false →
        Gives (.returnDeclarerRoles h) s fun t => t.host.cq = s.host.cq ∧ (∃ o ∈ t.host.cmds, o.hdr = h ∧ o.wait = .handover)
          ∧ ∀ g ∈ s.ours, (s.group g).homeHere = false → (t.group g).handing = true ∧ (t.group g).ana = .transition)
    ∧ (∀ cdw11 : W32, s.twin.st = .paired → bitsOf cdw11.toNat 5 0 ∈ s.ours → (s.group (bitsOf cdw11.toNat 5 0)).synced = true →
        Gives (.handGroup h cdw11) s fun t => (t.group (bitsOf cdw11.toNat 5 0)).handing = true
          ∧ (t.group (bitsOf cdw11.toNat 5 0)).ana = .transition ∧ t.host.cq = s.host.cq
          ∧ (∃ o ∈ t.host.cmds, o.hdr = h ∧ o.wait = .handover)
          ∧ ∀ g, g ≠ bitsOf cdw11.toNat 5 0 → t.group g = s.group g)
    ∧ (∀ n, n ≤ 1920 →
        Gives (.clearPairRecords h n) s fun t => t.twin.records = s.twin.records.drop n
          ∧ t.host.cq = s.host.cq ++ [{ hdr := h, sct := 0, sc := 0, dw0 := 0, dw1 := 0 }])

/-- Training, heartbeats, the witness, takeover and the return of the link (R475 to R477, R495 to R499, R502, R505). -/
def Obligations.TwinLink : Prop :=
  ∀ s : State,
    (∀ (cage : Fin 4) (lane : Fin 8) (p : TrainPat), s.life.dom.tl = true → (s.phys.twin[cage]).supplyOff = false → p.serial ≠ s.ident.serial →
        s.twin.peerSerial = p.serial →
        Gives (.laneTraining cage lane (some p)) s fun t => (t.twin.cages[cage]).lanes = (s.twin.cages[cage]).lanes ||| BitVec.twoPow 8 lane.val
          ∧ (t.twin.cages[cage]).peer = p.cage ∧ (t.twin.cages[cage]).held = false ∧ ∀ c, c ≠ cage → t.twin.cages[c] = s.twin.cages[c])
    ∧ (∀ (cage : Fin 4) (lane : Fin 8) (p : TrainPat), s.life.dom.tl = true → (s.phys.twin[cage]).supplyOff = false → p.serial = s.ident.serial →
        Gives (.laneTraining cage lane (some p)) s fun t => (t.twin.cages[cage]).held = true ∧ (t.twin.cages[cage]).lanes = 0)
    ∧ (∀ (cage : Fin 4) (lane : Fin 8), (s.twin.cages[cage]).lanes.getLsbD lane.val = true → (s.twin.cages[cage]).held = false →
        4 ≤ popcount 8 ((s.twin.cages[cage]).lanes &&& ~~~(BitVec.twoPow 8 lane.val)).toNat →
        Gives (.laneErrorRetrain cage lane) s fun t =>
          (t.twin.cages[cage]).lanes = (s.twin.cages[cage]).lanes &&& ~~~(BitVec.twoPow 8 lane.val)
          ∧ (t.twin.cages[cage]).retrains = min 65535 ((s.twin.cages[cage]).retrains + 1) ∧ Sticky t (0xB4 + cage.val) ∧ t.twin.st = s.twin.st)
    ∧ (s.life.dom.tl = true → s.life.dom.cc = true →
        Gives .heartbeatSend s fun t => t.twin.out = s.twin.out ++ ((List.finRange 4).filter fun g => (s.twin.cages[g]).isUp).map .heartbeat)
    ∧ (∀ cage : Fin 4, (s.twin.cages[cage]).isUp = true → (s.twin.cages[cage]).consec < 3 →
        Gives (.heartbeatMiss cage) s fun t => (t.twin.cages[cage]).missed = min 65535 ((s.twin.cages[cage]).missed + 1)
          ∧ (t.twin.cages[cage]).lanes = (s.twin.cages[cage]).lanes)
    ∧ (∀ cage : Fin 4, (s.twin.cages[cage]).isUp = true → (s.twin.cages[cage]).consec = 3 → s.now ≤ (s.twin.cages[cage]).lastMiss + 3000 →
        Gives (.heartbeatMiss cage) s fun t => (t.twin.cages[cage]).lanes = 0 ∧ Sticky t (0xB4 + cage.val))
    ∧ (∀ addr, s.life.dom.cc = true → s.life.dom.hn = true →
        Gives (.witnessProbe addr) s fun t => t.twin.out = s.twin.out ++ [.probeAnswer addr])
    ∧ (∀ t0, s.twin.checkAt = some t0 → t0 + 20000 ≤ s.now → s.linkIsUp = false → s.paired = true →
        Gives .witnessTimeout s fun t => t.twin.st = .soloSurvivor ∧ t.twin.unacked = [] ∧ t.twin.takeovers = min 65535 (s.twin.takeovers + 1)
          ∧ ∀ g, (s.group g).role = .dummy → (s.group g).synced = true → (t.group g).role = .declarer ∧ (t.group g).ana = .optimized)
    ∧ (∀ t0, s.twin.checkAt = some t0 → s.now < t0 + 20000 → s.linkIsUp = false →
        Gives .witnessAnswer s fun t => t.twin.st = .soloSplit ∧ t.twin.unacked = [] ∧ t.twin.checkAt = none ∧ t.twin.takeovers = s.twin.takeovers)
    ∧ (s.paired = true → Gives .failureAnnouncement s fun t => t.twin.st = .soloSurvivor
          ∧ ∀ g, (s.group g).role = .dummy → (s.group g).synced = true → (t.group g).role = .declarer)
    ∧ (∀ gs, s.linkIsUp = true → (s.twin.st = .soloSplit ∨ s.twin.st = .soloSurvivor) → (∀ g ∈ gs, (s.group g).role ≠ .declarer) →
        Gives (.linkReturn gs) s fun t => t.twin.st = .soloSplit ∧ t.twin.groups = s.twin.groups)
    ∧ (∀ gs g0, s.linkIsUp = true → (s.twin.st = .soloSplit ∨ s.twin.st = .soloSurvivor) → g0 ∈ gs → (s.group g0).role = .declarer →
        Gives (.linkReturn gs) s fun t => t.twin.st = .conflict
          ∧ ∀ g ∈ gs, (s.group g).role = .declarer → (t.group g).role = .conflict ∧ ((t.group g).readOnly = true ↔ s.twin.rank = 1))

/-- Mirrored writes and their acknowledgements, allocation pages and notes, state epochs, resilvering copies (R485, R486,
R489 to R493, R508). -/
def Obligations.TwinMirror : Prop :=
  ∀ s : State,
    (∀ w : MirWrite, s.twin.st = .paired → w.op = .write → w.group ≠ 0 → w.seq < 2 ^ 64 → (s.group w.group).role = .dummy →
        (s.group w.group).synced = true → w.seq = (s.group w.group).seq + 1 → s.twin.waiting = [] →
        Gives (.mirroredWriteReceive w) s fun t => (t.group w.group).seq = w.seq ∧ t.twin.out = s.twin.out ++ [.ack w.group w.seq]
          ∧ ∀ j (hj : j < w.blocks.length), t.blk w.nsid (w.lba + j) = w.blocks[j])
    ∧ (∀ w : MirWrite, s.twin.st = .paired → w.group ≠ 0 → w.seq < 2 ^ 64 → (s.group w.group).role = .dummy →
        (s.group w.group).synced = true → w.seq ≤ (s.group w.group).seq →
        Gives (.mirroredWriteReceive w) s fun t => t.twin.out = s.twin.out ++ [.ack w.group w.seq] ∧ t.flash = s.flash ∧ t.host = s.host)
    ∧ (∀ g q u, s.twin.unacked.find? (fun u => u.group == g && u.seq == q) = some u → q < 2 ^ 65 → u.rel = none → s.flash.wthru = false →
        Gives (.mirrorAcknowledgement g q) s fun t => t.twin.unacked = s.twin.unacked.erase u ∧ (∀ o ∈ t.host.cmds, o.wait ≠ .mirror g q)
          ∧ (∀ e ∈ t.sched.execs, (g, q) ∉ e.awaitNs) ∧ t.tiers = s.tiers ∧ t.flash = s.flash)
    ∧ (∀ exec ctx key data, s.paired = true → s.staging? exec = none →
        Gives (.allocationPageReceive exec ctx key data) s fun t =>
          t.staging? exec = some { exec, ctx, pages := [(key, data)] } ∧ t.tiers = s.tiers ∧ t.host = s.host)
    ∧ (∀ (g : Staging) key data cqe cntlid dl, s.paired = true → s.staging? g.exec = some g → g.applied = false → g.pages = [(key, data)] →
        Memory.wf s.tiers.mem = true →
        Gives (.finishNote g.exec 1 cqe cntlid dl) s fun t => t.twin.out = s.twin.out ++ [.finishAck g.exec]
          ∧ (∀ j (hj : j < data.length), memGet t.tiers.mem (key * 65536 + j) = data[j])
          ∧ (∀ a, (a < key * 65536 ∨ key * 65536 + data.length ≤ a) → memGet t.tiers.mem a = memGet s.tiers.mem a)
          ∧ ∃ x, t.staging? g.exec = some x ∧ x.applied = true)
    ∧ (∀ e, s.ex? e.id = some e → e.phase = .draining → e.finishSent = true →
        exec (.finishNoteAck e.id) s = .next ({ s with twin := { s.twin with dirty := true } }.endExecAt e.finishAt e .success))
    ∧ (∀ n, Gives (.cancelNote n) s fun t => (∀ g ∈ t.twin.staging, g.exec = n → g.applied = true) ∧ t.tiers = s.tiers ∧ t.host = s.host)
    ∧ (s.paired = true → s.twin.dirty = true → s.twin.epFlight = none →
        Gives .stateEpochSend s fun t => t.twin.epSent = s.twin.epSent + 1 ∧ t.twin.epFlight = some (s.twin.epSent + 1) ∧ t.twin.epAt = s.now
          ∧ ∃ e, t.twin.out = s.twin.out ++ [.epoch e] ∧ e.num = s.twin.epSent + 1 ∧ e.bind = s.host.bind ∧ e.keys = s.host.keys
            ∧ e.tableEpoch = s.part.epoch ∧ e.whole = true)
    ∧ (∀ n, s.paired = true → n ≤ s.twin.epSent →
        Gives (.epochAdoptionNotice n) s fun t => (∀ o ∈ t.host.cmds, ∀ m, o.wait = .epoch m → n < m) ∧ t.twin.epFlight ≠ some n
          ∧ ∀ g m, (s.group g).handEp = some m → m ≤ n → (t.group g).role = .dummy ∧ (t.group g).ana = .inaccessible)
    ∧ (∀ e : EpochImage, (e.whole = false ∨ e.verified = false) → exec (.stateEpochAdopt e) s = .next s)
    ∧ (∀ e : EpochImage, e.whole = true → e.verified = true → s.paired = true → s.twin.adopted = none →
        Gives (.stateEpochAdopt e) s fun t => t.twin.adopted = some e ∧ t.twin.epAdopted = e.num ∧ t.fw.partnerMajor = e.fwMajor
          ∧ (t.twin.owed = some e.num ∨ .adopted e.num ∈ t.twin.out) ∧ ∀ n ∈ e.nss, ∃ x ∈ t.host.nss, x.nsid = n.nsid)
    ∧ (∀ w : MirWrite, s.twin.st = .resilvering → w.op = .write → w.blocks = [] → (s.group w.group).role = .dummy →
        Gives (.resilverCopy w) s fun t => (t.group w.group).synced = true ∧ t.twin.out = s.twin.out ++ [.ack w.group (markSeq w.seq)])
    ∧ (∀ (w : MirWrite) b, s.twin.st = .resilvering → w.op = .write → w.blocks = [b] → (s.group w.group).role = .dummy →
        s.newer w w.lba = false → Gives (.resilverCopy w) s fun t => t.blk w.nsid w.lba = b ∧ t.twin.out = s.twin.out)

/-- Twin verify: a copy is taken in or refused, a refusal ends the sender's admission, a digest is kept, a pre-emption is
followed at the same commit point (R511 to R514). -/
def Obligations.TwinVerify : Prop :=
  ∀ s : State,
    (∀ x prog ctx params (dl : W64) i t, s.paired = true → ctx < 64 → s.ex? (twinId x) = none → s.nsReady = true → s.image? prog = some i →
        i.verified = true → i.active = true →
        s.takeIn i (s.newExec { path := .ctrl 0, sq := 0, cid := x } (Fin.ofNat 64 ctx) i (twinId x) params dl.toNat true true) params = .ok t →
        exec (.twinCopy x prog ctx params dl) s = .next (t.toPeer (.twinAccept x)))
    ∧ (∀ x prog ctx params dl, s.paired = true → ctx < 64 → s.ex? (twinId x) = none → s.nsReady = true → s.image? prog = none →
        exec (.twinCopy x prog ctx params dl) s = .next (s.toPeer (.twinRefuse x 0x81 0 0)))
    ∧ (∀ e sc dw0 dw1, s.ex? e.id = some e → e.twin = true → e.copy = false →
        exec (.twinRefusal e.id sc dw0 dw1) s = .next ((s.dropExec e).refuseJob e.hdr e.ctx sc (dw0 ||| 0x100#32) dw1))
    ∧ (∀ e x step digest, s.ex? (twinId x) = some e → e.twin = true → e.phase = .running →
        exec (.twinDigest x step digest) s = .next (s.setEx { e with peerDigest := some (step, digest) }))
    ∧ (∀ e x step, s.ex? (twinId x) = some e → e.twin = true → e.step < step →
        exec (.twinPreemptNote x step) s = .next (s.setEx { e with preemptStep := some step }))
    ∧ (∀ e x, s.ex? (twinId x) = some e → (∀ y ∈ s.sched.execs, y.id = e.id → y = e) → e.twin = true → e.phase = .running →
        e.gang = none →
        Gives (.twinPreemptNote x e.step) s fun t => t.sched.boundary = min 65535 (s.sched.boundary + 1)
          ∧ ∃ e', t.ex? e.id = some e' ∧ e'.phase = .preempted ∧ e'.comp = none ∧ e'.regs = e.page.regs ∧ e'.pc = e.pcStep)

/-! ## Faults (ch. 13) -/

/-- The collector (R526 to R528) and the reports that it has latched, which are handled one at a time, the gravest and lowest first
(R531, R537), memory errors (R540, R541, R544, R545), unit resets (R547 to R550), scrubbing (R553) and
checker tests (R559). -/
def Obligations.FaultEvents : Prop :=
  ∀ s : State,
    (∀ r c, s.life.dom.ao = true → s.life.phase ≠ .off → faultClass r.src r.event = some c → r.inj = false →
        Gives (.faultReport [r]) s fun t => Sticky t r.src.val
          ∧ t.flt.first = (match s.flt.first with | some f => some f | none => some { src := r.src, cls := c }))
    ∧ (∀ r, faultClass r.src r.event = none → r.inj = false → exec (.faultReport [r]) s = .next s)
    ∧ (∀ a, s.flt.active = some a → a.cls = .minor → s.flt.latched = [] →
        exec .latchedFaultHandle s = .next { s with flt := { s.flt with active := none } })
    ∧ (s.flt.active = none → s.flt.latched = [] → exec .latchedFaultHandle s = .next s)
    ∧ (∀ a, s.flt.active = some a → (a.cls = .major ∨ a.cls = .trump) → exec .latchedFaultHandle s = .next s)
    ∧ (∀ f, (∀ a, s.flt.active = some a → a.cls = .minor ∨ a.cls = .note) → s.flt.latched = [f] →
        exec .latchedFaultHandle s = .next (({ s with flt := { s.flt with active := none, latched := [] } }).begin f)
        ∧ (f.cls = .minor → f.rep.src.val ≤ 0x0F → f.merged = [] → s.stormy f.rep.src = false →
            exec .latchedFaultHandle s = .next { s with flt := { s.flt with active := some f, latched := [] } }))
    ∧ (∀ f g, (∀ a, s.flt.active = some a → a.cls = .minor ∨ a.cls = .note) → s.flt.latched = [f, g] → f.rep.src ≠ g.rep.src →
        (grav f.cls < grav g.cls ∨ (f.cls = g.cls ∧ g.rep.src.val < f.rep.src.val)) →
        exec .latchedFaultHandle s = .next (({ s with flt := { s.flt with active := none, latched := [f] } }).begin g))
    ∧ (∀ r c word fails, s.life.dom.on (.b (Fin.ofNat 16 (r / 5))) = true →
        Gives (.sramParityError (.tile r c) word false false fails none) s fun t => Sticky t (r / 5 % 16) ∧ t.fab = s.fab ∧ t.sched = s.sched
          ∧ t.health.sramPar = satAdd max64 s.health.sramPar 1)
    ∧ (∀ (n : Fin 64) word, s.life.dom.cs = true → s.bankFull n.val word = false →
        Gives (.sramParityError (.bank n) word true false true none) s fun t => (n.val, word) ∈ t.fab.bankRemap ∧ Sticky t (0x20 + n.val))
    ∧ (∀ (u : Fin 16) key, Calm s → s.life.dom.t1 = true →
        Gives (.dramEccError false u key .dirty false none) s fun t => key ∈ t.tiers.poison ∧ Sticky t (0x60 + u.val) ∧ t.tiers.mem = s.tiers.mem)
    ∧ (∀ (u : Fin 16) word, Calm s → s.life.dom.t2 = true →
        Gives (.mergeBufferWriteback true u word true) s fun t => word ∈ t.tiers.poison ∧ t.tiers.mem = s.tiers.mem)
    ∧ (∀ t2 (u : Fin 16) word, exec (.mergeBufferWriteback t2 u word false) s = .next s)
    ∧ (∀ p, s.life.dom.cs = true → ResetUnit.pipe p ∉ s.units.resetting →
        Gives (.unitReset (.pipe p)) s fun t => t.units.resetting = s.units.resetting ++ [.pipe p]
          ∧ t.unitEpoch (unitCode (.pipe p)) = s.unitEpoch (unitCode (.pipe p)) + 1 ∧ t.sched = s.sched)
    ∧ (∀ p, ResetUnit.pipe p ∈ s.units.resetting →
        Gives (.unitResetComplete (.pipe p)) s fun t => ResetUnit.pipe p ∉ t.units.resetting ∧ t.units.epochs = s.units.epochs)
    ∧ (∀ h o u, s.host.cmds.find? (fun x => x.hdr == h && x.wait == .data) = some o → o.retried = false → s.answersReset u o.uep = true →
        Gives (.targetUnitResetResponse (.hostDma h) u) s fun t => t.host.cq = s.host.cq ∧ ∀ x ∈ t.host.cmds, x.hdr = h → x.retried = true)
    ∧ (∀ u n, n % 65536 ≠ (s.unitEpoch (unitCode u)).toNat →
        Gives (.staleReplyDiscard u n) s fun t => t = ({ s with units := { s.units with stale := s.units.stale + 1 } }).report 0xA9 3 0 none ∧ Sticky t 0xA9 ∧ t.host.cq = s.host.cq ∧ t.tiers = s.tiers)
    ∧ (∀ u n, n % 65536 = (s.unitEpoch (unitCode u)).toNat → exec (.staleReplyDiscard u n) s = .next s)
    ∧ (∀ ti bytes (mended : ScrubMended) poisoned yielded keys, s.scrubOn ti = true →
        Gives (.scrubQuota ti bytes mended poisoned yielded keys) s fun t =>
          ((ti = .t1 ∨ ti = .t2) → ∀ w ∈ keys, w ∈ t.tiers.poison) ∧ t.tiers.mem = s.tiers.mem
          ∧ (t.scrub.toList.getD (scrubNo ti) {}).corrected = satAdd max64 (s.scrub.toList.getD (scrubNo ti) {}).corrected (mended.corrected.length + mended.refetched))
    ∧ (s.serving = true → exec (.checkerTest []) s = .next s)
    ∧ (∀ c : Fin 16, s.serving = true → s.armed (Fin.ofNat 256 (0x10 + c.val)) = false →
        Gives (.checkerTest [Fin.ofNat 256 (0x10 + c.val)]) s fun t => t.sched.comps[c].oos = true)

/-! ## Limits, loops and trace (ch. 14) -/

/-- Limit monitors (R563), the hardware cap (R566), the power and thermal loops (R565, R568, R571), the watchdog (R573) and
trace capture (R588). -/
def Obligations.PowerLoops : Prop :=
  ∀ s : State,
    (∀ src, isMonitor src = true → s.miUp = true →
        Gives (.limitMonitorCrossing src .soft) s fun t => t.pwr.above = s.pwr.above ||| BitVec.twoPow 256 src.val ∧ Sticky t src.val)
    ∧ (∀ src, isMonitor src = true → s.miUp = true → exec (.limitMonitorCrossing src .back) s
        = .next { s with pwr := { s.pwr with above := s.pwr.above &&& ~~~(BitVec.twoPow 256 src.val) } })
    ∧ (∀ src, isMonitor src = true → s.miUp = true → src ≠ 0xDF → s.flt.active = none →
        Gives (.limitMonitorCrossing src .fused) s fun t => t.life.phase = .trump ∧ t.flt.faultN = true ∧ t.life.dom.cs = false ∧ Sticky t src.val)
    ∧ (∀ avg, s.isPowered = true → s.hwCap < avg → s.pwr.keep16 = 16 →
        Gives (.hardwareCapStretch avg) s fun t => t.pwr.keep16 = 12 ∧ t.pwr.stretches = min 65535 (s.pwr.stretches + 1) ∧ t.pwr.stretchAt = s.now
          ∧ (s.pwr.above.getLsbD 0xC9 = false → Sticky t 0xC9))
    ∧ (∀ avg, avg ≤ s.hwCap → exec (.hardwareCapStretch avg) s = .next s)
    ∧ (∀ avg, s.pwr.keep16 < 16 → avg < s.pwr.capNext → s.pwr.stretchAt + 100000 ≤ s.now →
        Gives (.hardwareCapRelease avg) s fun t => t.pwr.keep16 = s.pwr.keep16 + 1 ∧ t.pwr.stretchAt = s.now ∧ t.pwr.stretches = s.pwr.stretches)
    ∧ (∀ p1 p100, s.serving = true →
        Gives (.powerLoopTick p1 p100) s fun t => t.pwr.capW = s.pwr.capNext ∧ t.pwr.p1 = min 8191 p1 ∧ t.pwr.p100 = min 8191 p100
          ∧ t.pwr.effW = max 1500 (min (s.pwr.capNext - s.pwr.loopRed) s.pwr.coolMax)
          ∧ t.pwr.rung ≤ s.pwr.rung + 1 ∧ s.pwr.rung ≤ t.pwr.rung + 1
          ∧ (98 * t.pwr.effW < 100 * p1 → s.pwr.rung < 39 → t.pwr.rung = s.pwr.rung + 1))
    ∧ (∀ x, s.serving = true →
        Gives (.thermalLoopTick x) s fun t => t.pwr.flow = min 255 x.flow ∧ t.pwr.hotC = x.hotC ∧ t.pwr.hotSrc = x.hotSrc
          ∧ t.pwr.capW = s.pwr.capW ∧ t.pwr.effW = max 1500 (min (t.pwr.capW - t.pwr.loopRed) t.pwr.coolMax)
          ∧ (s.pwr.reverse = true → s.pwr.fwdAt = none → t.pwr.coolMax ≤ 2500))
    ∧ (s.life.dom.cc = true → exec .watchdogRestart s = .next { s with pwr := { s.pwr with watchdogAt := s.now } })
    ∧ (s.life.dom.cc = true → s.pwr.watchdogAt + 50000000 ≤ s.now → s.flt.active = none → s.life.phase = .inService → s.fw.inTrial = false →
        Gives .watchdogExpiry s fun t => t.life.phase = .majorOut ∧ t.flt.faultN = true ∧ t.life.responseEnd = s.now)
    ∧ (s.now < s.pwr.watchdogAt + 50000000 → exec .watchdogExpiry s = .next s)
    ∧ (∀ (p : Fin 512) c, s.trace.run = true → ((s.trace.en.toList[p.val / 64]?).getD 0).getLsbD (p.val % 64) = true →
        (Gives (.tracePointRecord p c true) s fun t => t.trace.count = s.trace.count + 1 ∧ t.trace.dropped = s.trace.dropped
            ∧ ∃ x, t.trace.buf.getLast? = some x ∧ x.time = s.now ∧ x.point = p ∧ x.comp = c)
        ∧ Gives (.tracePointRecord p c false) s fun t => t.trace.dropped = min (2 ^ 32 - 1) (s.trace.dropped + 1) ∧ t.trace.buf = s.trace.buf)
    ∧ (∀ p c x, s.trace.run = false → exec (.tracePointRecord p c x) s = .next s)

/-! ## Management and the physical module (ch. 14, 15) -/

/-- The commands of the management controller (R393, R399, R414, R561, R577 to R579, R583, R590 to R592). -/
def Obligations.ManagementCommands : Prop :=
  ∀ (s : State) (h : Hdr), Manages s h →
    exec (.readNvmeMiDataStructure h 2) s = .next { s with host := { s.host with mi := s.host.mi ++ [(h, 0, s.host.ctrls.map (·.id))] } }
    ∧ (∀ k, k ≠ 2 → Gives (.readNvmeMiDataStructure h k) s fun t => ∃ x, t.host.mi = s.host.mi ++ [(h, 0, [x])])
    ∧ (Gives (.nvmSubsystemHealthStatusPoll h) s fun t => ∃ x, t.host.mi = s.host.mi ++ [(h, 0, x)])
    ∧ (Gives (.controllerHealthStatusPoll h) s fun t => ∃ x, t.host.mi = s.host.mi ++ [(h, 0, s.host.ctrls.map (·.id) ++ [x])])
    ∧ (∀ id v, assocGet id s.host.miConfig = some v → Gives (.configurationGet h id) s fun t => t.host.mi = s.host.mi ++ [(h, 0, [v.toNat])])
    ∧ (∀ id v, Gives (.configurationSet h id v) s fun t => assocGet id t.host.miConfig = some v ∧ t.host.mi = s.host.mi ++ [(h, 0, [])])
    ∧ (Gives (.vpdRead h) s fun t => ∃ x, t.host.mi = s.host.mi ++ [(h, 0, [s.phys.slotId.val, x])])
    ∧ (Gives (.queueReset h) s fun t => (∀ x ∈ t.host.aerReqs, x.path ≠ h.path) ∧ t.host.mi = s.host.mi ++ [(h, 0, [])]
        ∧ ∀ o ∈ s.host.cmds, o.hdr.path = h.path → o.hdr ≠ h → o.hdr ∈ t.host.miDrop)
    ∧ (∀ nqn secret, nqn.length ≤ 256 → Gives (.rootBinding h nqn secret) s fun t => t.bound nqn = some 0
        ∧ (∃ x ∈ t.host.secrets, x.nqn = nqn ∧ x.secret = secret) ∧ t.host.mi = s.host.mi ++ [(h, 0, [])])
    ∧ (∀ nqn secret psk, nqn.length ≤ 256 → Gives (.hostSecret h nqn secret psk) s fun t =>
        (∃ x ∈ t.host.secrets, x.nqn = nqn ∧ x.secret = secret ∧ x.psk = some psk) ∧ t.host.bind = s.host.bind)
    ∧ (s.life.phase ≠ .cleanShutdown → s.mayStart574 = true → Gives (.moduleReset h) s fun t => t.life.phase = .startReady
        ∧ t.life.dom.cc = false ∧ (∀ u, u < 136 → t.unitEpoch u = s.unitEpoch u + 1) ∧ t.flash.dirty = [] ∧ t.host.mi = s.host.mi ++ [(h, 0, [])])
    ∧ (s.life.phase = .inService → Gives (.moduleControlShutdown h) s fun t => t.life.phase = .cleanShutdown ∧ t.life.shutByPin = false
        ∧ t.life.shutAt = s.now ∧ t.host.mi = s.host.mi ++ [(h, 0, [])])
    ∧ (s.twin.st = .unpaired → Gives (.settingsStoreReset h) s fun t => t.fw.storeReset = true ∧ t.host.mi = s.host.mi ++ [(h, 0, [])])
    ∧ (s.twin.st ≠ .unpaired → Gives (.settingsStoreReset h) s fun t => t.fw = s.fw)
    ∧ (∀ key, Gives (.managementKey h key) s fun t => t.host.mgmtKey = some key ∧ t.host.mi = s.host.mi ++ [(h, 0, [])])
    ∧ (Gives (.trumpReport h) s fun t => { t with host := s.host } = s
        ∧ t.host.mi = s.host.mi ++ [(h, 0, [(fltFirst s.flt.first).toNat, (stickyWord s.flt.sticky 0).toNat, (stickyWord s.flt.sticky 1).toNat,
            (stickyWord s.flt.sticky 2).toNat, (stickyWord s.flt.sticky 3).toNat])])

/-- The sideband pins, the cages, the coolant, the Minor time-out and the lamps' causes (R534, R600, R601, R603 to R605, R609 to R611, R613,
R616). -/
def Obligations.PhysicalEvents : Prop :=
  ∀ s : State, s.miUp = true →
    (Gives .faultNShort s fun t => t.phys.faultForced = some (!s.flt.faultN) ∧ t.phys.flags = s.phys.flags ||| 4 ∧ Sticky t 0xEA)
    ∧ (s.life.in48Ok = true → s.phys.senseOpen = false →
        Gives .senseOpen s fun t => t.phys.senseOpen = true ∧ t.phys.contact = 0 ∧ t.phys.flags = s.phys.flags ||| 16 ∧ Sticky t 0xEA)
    ∧ (∀ n, s.phys.senseOpen = false → exec (.contactResistanceLimit n) s = .next { s with phys := { s.phys with contact := min 255 n } })
    ∧ (∀ (tw : Bool) (cage : Fin 4), s.isPowered = true → (s.cageSt tw cage).present = true → (s.cageSt tw cage).supplyOff = false →
        Gives (.cageSupplyOvercurrent tw cage) s fun t => (t.cageSt tw cage).supplyOff = true ∧ (t.cageSt tw cage).amber = true
          ∧ Sticky t ((if tw then 0xB4 else 0xB0) + cage.val) ∧ t.phys.flags = s.phys.flags ||| 128)
    ∧ (∀ (tw : Bool) (cage : Fin 4) kind, s.isPowered = true →
        Gives (.cageModuleInsert tw cage kind) s fun t => (t.cageSt tw cage).present = true ∧ (t.cageSt tw cage).supplyOff = false
          ∧ (t.cageSt tw cage).linkUp = false ∧ (t.cageSt tw cage).refused = !accepts tw kind ∧ (t.cageSt tw cage).amber = !accepts tw kind)
    ∧ (Gives .reverseFlow s fun t => t.pwr.reverse = true ∧ t.pwr.fwdAt = none ∧ t.phys.flags = s.phys.flags ||| 64 ∧ Sticky t 0xDF)
    ∧ (s.pwr.reverse = true → exec .forwardFlowRestore s = .next { s with pwr := { s.pwr with fwdAt := some s.now } })
    ∧ (∀ o b, s.thermBad o b = false →
        Gives (.thermistorFailure o b) s fun t => t.thermBad o b = true ∧ t.phys.flags = s.phys.flags ||| 32 ∧ Sticky t 0xEA)
    ∧ (∀ o b, s.thermBad o b = true → exec (.thermistorFailure o b) s = .next s)
    ∧ (s.life.in48Ok = true → s.life.dom.ao = true →
        Gives (.inputReversed true) s fun t => t.life.auxOk = false ∧ t.life.in48Ok = true ∧ t.phys.flags = s.phys.flags ||| 2 ∧ Sticky t 0xEA)
    ∧ (s.life.phase = .standby → s.life.auxOk = true → s.life.dom.ao = true →
        Gives (.inputReversed false) s fun t => t.life.in48Ok = false ∧ t.life.phase = .standby ∧ t.phys.flags = s.phys.flags ||| 1)
    ∧ (Gives (.sidebandCrossCheck true) s fun t => t.phys.i3cReleased = true ∧ t.life.pwrEn = true ∧ t.phys.flags = s.phys.flags ||| 8)
    ∧ exec (.sidebandCrossCheck false) s = .next { s with phys := { s.phys with i3cReleased := false } }
    ∧ (∀ (tw : Bool) (cage : Fin 4), (s.cageSt tw cage).present = true → (s.cageSt tw cage).linkUp = false →
        (s.cageSt tw cage).downAt + 10000000000 < s.now →
        Gives (.linkDownLamp tw cage) s fun t => (t.cageSt tw cage).amber = true ∧ t.host = s.host ∧ t.twin = s.twin)
    ∧ (∀ a, s.flt.active = some a → a.cls = .minor → a.since + 50000 ≤ s.now → s.life.phase = .inService → s.fw.inTrial = false →
        Gives .minorRemedyTimeout s fun t => t.life.phase = .majorOut ∧ t.flt.escalated = min 65535 (s.flt.escalated + 1) ∧ t.flt.faultN = true)
    ∧ (∀ a, s.flt.active = some a → s.now < a.since + 50000 → exec .minorRemedyTimeout s = .next s)
    ∧ (∀ port : Fin 4, s.life.dom.hn = true → (s.phys.host[port]).present = true → (s.phys.host[port]).refused = false →
        (s.phys.host[port]).supplyOff = false → ResetUnit.hostPort port ∉ s.units.resetting →
        Gives (.hostPortLinkChange port true) s fun t => (t.phys.host[port]).linkUp = true ∧ (t.phys.host[port]).amber = false ∧ t.host = s.host)
    ∧ (∀ port : Fin 4, Gives (.hostPortLinkChange port false) s fun t => (t.phys.host[port]).linkUp = false
        ∧ ∀ c ∈ t.host.conns, c.port ≠ port)

/-! ## Reset and memory (ch. 00, 01) -/

/-- What the module holds at t0 of the start-up sequence, as the reset columns of the spec have it: no fault, no trace, a step budget of
250 µs, caps of 4,000 W, a spill area of 4,096 GiB, unpaired, no entry in the partition table, no execution, memory that lists nothing
(R15, R156, R268, R503, R506, R526, R527, R565, R575). -/
def Obligations.ResetState : Prop :=
  let s := State.reset
  s.pending = [] ∧ s.life.phase = .startReady ∧ s.flt.sticky = 0 ∧ s.flt.first = none ∧ s.flt.escalated = 0 ∧ s.sched.budget = 250
  ∧ s.sched.overruns = 0 ∧ s.sched.execs = [] ∧ s.pwr.capW = 4000 ∧ s.pwr.effW = 4000 ∧ s.hwCap = 4200 ∧ s.pwr.rung = 0 ∧ s.pwr.keep16 = 16
  ∧ s.tiers.spillGib = 4096 ∧ s.tiers.refused = 0 ∧ s.flash.bmax = 8 ∧ s.flash.ro = false ∧ s.flash.wthru = false ∧ s.twin.st = .unpaired
  ∧ s.twin.rank = 0 ∧ s.twin.takeovers = 0 ∧ s.twin.refuse = false ∧ s.trace.run = false ∧ s.trace.dropped = 0 ∧ s.fw.incompat = false
  ∧ s.part.epoch = 0 ∧ (∀ c : Fin 64, s.part.entries[c] = 0) ∧ s.tiers.mem = [] ∧ Memory.wf s.tiers.mem = true

/-- An invariant of every step: the module always has a next state, and memory keeps its canonical form, with keys strictly rising and no
entry that equals what an unlisted byte reads as. -/
def Obligations.MemoryKept : Prop :=
  ∀ s : State, Memory.wf s.tiers.mem = true → ∃ t, step s = .next t ∧ Memory.wf t.tiers.mem = true
end

