-- ==== Sys2Proof/Laws/Memory.lean ====
section
/-!
SUPPORT. Memory: every operation on it keeps the canonical form, a read answers what the last write there stored, and
a write leaves every other byte alone.
-/
namespace Sys2Proof.Machine

/-! ## Association lists -/

/-- A key below every key of a list. -/
theorem assocSorted_cons {α : Type} (k : Nat) (v : α) (t : List (Nat × α)) :
    assocSorted ((k, v) :: t) = true ↔ (∀ x ∈ t, k < x.1) ∧ assocSorted t = true := by
  induction t generalizing k v with
  | nil => simp [assocSorted]
  | cons y t ih =>
    obtain ⟨k', v'⟩ := y
    have h := ih k' v'
    rw [assocSorted, Bool.and_eq_true, decide_eq_true_eq]
    constructor
    · rintro ⟨h1, h2⟩
      exact ⟨fun x hx => (List.mem_cons.mp hx).elim (fun e => e ▸ h1) fun e => lt_trans h1 ((h.mp h2).1 x e), h2⟩
    · exact fun ⟨h1, h2⟩ => ⟨h1 (k', v') (List.mem_cons_self ..), h2⟩

/-- What stands in a list after a key was set. -/
theorem mem_assocPut {α : Type} {k : Nat} {v : α} {l : List (Nat × α)} {x : Nat × α} (h : x ∈ assocPut k v l) :
    x = (k, v) ∨ x ∈ l := by
  induction l with
  | nil => simpa [assocPut] using h
  | cons y t ih =>
    obtain ⟨k', v'⟩ := y
    simp only [assocPut] at h
    split at h
    · simpa using h
    · split at h
      · exact (List.mem_cons.mp h).elim .inl fun e => .inr (List.mem_cons_of_mem _ e)
      · exact (List.mem_cons.mp h).elim (fun e => .inr (e ▸ List.mem_cons_self ..))
          fun e => (ih e).imp_right (List.mem_cons_of_mem _)

/-- What stands in a list after a key was removed. -/
theorem mem_assocErase {α : Type} {k : Nat} {l : List (Nat × α)} {x : Nat × α} (h : x ∈ assocErase k l) : x ∈ l := by
  induction l with
  | nil => exact h
  | cons y t ih =>
    obtain ⟨k', v'⟩ := y
    simp only [assocErase] at h
    split at h
    · exact List.mem_cons_of_mem _ h
    · exact (List.mem_cons.mp h).elim (fun e => e ▸ List.mem_cons_self ..) fun e => List.mem_cons_of_mem _ (ih e)

/-- Setting a key keeps the keys rising. -/
theorem assocSorted_put {α : Type} (k : Nat) (v : α) (l : List (Nat × α)) (h : assocSorted l = true) :
    assocSorted (assocPut k v l) = true := by
  induction l with
  | nil => rfl
  | cons y t ih =>
    obtain ⟨k', v'⟩ := y
    obtain ⟨h1, h2⟩ := (assocSorted_cons ..).mp h
    simp only [assocPut]
    split
    · exact (assocSorted_cons ..).mpr ⟨fun x hx => (List.mem_cons.mp hx).elim (fun e => e ▸ ‹k < k'›)
        fun e => lt_trans ‹k < k'› (h1 x e), h⟩
    · split
      · subst_vars; exact (assocSorted_cons ..).mpr ⟨h1, h2⟩
      · refine (assocSorted_cons ..).mpr ⟨fun x hx => ?_, ih h2⟩
        obtain rfl | e := mem_assocPut hx
        · show k' < k
          omega
        · exact h1 x e

/-- Removing a key keeps the keys rising. -/
theorem assocSorted_erase {α : Type} (k : Nat) (l : List (Nat × α)) (h : assocSorted l = true) :
    assocSorted (assocErase k l) = true := by
  induction l with
  | nil => rfl
  | cons y t ih =>
    obtain ⟨k', v'⟩ := y
    obtain ⟨h1, h2⟩ := (assocSorted_cons ..).mp h
    simp only [assocErase]
    split
    · exact h2
    · exact (assocSorted_cons ..).mpr ⟨fun x hx => h1 x (mem_assocErase hx), ih h2⟩

/-- Reading a key that was just set, or another one. -/
theorem assocGet_put {α : Type} (k j : Nat) (v : α) (l : List (Nat × α)) :
    assocGet j (assocPut k v l) = if j = k then some v else assocGet j l := by
  induction l with
  | nil => simp [assocPut, assocGet]
  | cons y t ih =>
    obtain ⟨k', v'⟩ := y
    simp only [assocPut]
    split
    · simp [assocGet]
    · split
      · subst_vars; simp only [assocGet]; split <;> rfl
      · simp only [assocGet, ih]
        split
        · have : j ≠ k := by omega
          simp [this]
        · rfl

/-- A key that no entry has reads as none. -/
theorem assocGet_none {α : Type} {j : Nat} {l : List (Nat × α)} (h : ∀ x ∈ l, j < x.1) : assocGet j l = none := by
  induction l with
  | nil => rfl
  | cons y t ih =>
    have h1 := h y (List.mem_cons_self ..)
    rw [assocGet, if_neg (by omega)]
    exact ih fun x hx => h x (List.mem_cons_of_mem _ hx)

/-- Reading a key that was just removed, or another one. -/
theorem assocGet_erase {α : Type} (k j : Nat) (l : List (Nat × α)) (h : assocSorted l = true) :
    assocGet j (assocErase k l) = if j = k then none else assocGet j l := by
  induction l with
  | nil => simp [assocErase, assocGet]
  | cons y t ih =>
    obtain ⟨k', v'⟩ := y
    obtain ⟨h1, h2⟩ := (assocSorted_cons ..).mp h
    simp only [assocErase]
    split
    · subst_vars
      split
      · subst_vars; exact assocGet_none h1
      · simp [assocGet, *]
    · simp only [assocGet, ih h2]
      split
      · have : j ≠ k := by omega
        simp [this]
      · rfl

/-! ## Memory -/

/-- The canonical form in two parts. -/
theorem Memory.wf_iff (m : List Host.Cell) : Memory.wf m = true ↔ assocSorted m = true ∧ ∀ x ∈ m, x.2 ≠ 0 := by
  simp [Memory.wf]

/-- Nothing listed is canonical. -/
theorem Memory.wf_nil : Memory.wf [] = true := rfl

/-- Writing a byte keeps the canonical form. -/
theorem Memory.wf_put (m : List Host.Cell) (k : Nat) (b : Byte) (h : Memory.wf m = true) : Memory.wf (memPut m k b) = true := by
  obtain ⟨h1, h2⟩ := (Memory.wf_iff m).mp h
  unfold memPut
  split
  · exact (Memory.wf_iff _).mpr ⟨assocSorted_erase k m h1, fun x hx => h2 x (mem_assocErase hx)⟩
  · exact (Memory.wf_iff _).mpr ⟨assocSorted_put k b m h1, fun x hx => (mem_assocPut hx).elim (fun e => e ▸ ‹b ≠ 0›) (h2 x)⟩

/-- Writing a list of bytes keeps the canonical form. -/
theorem Memory.wf_putAll (m : List Host.Cell) (k : Nat) (bs : List Byte) (h : Memory.wf m = true) :
    Memory.wf (memPutAll m k bs) = true := by
  induction bs generalizing m k with
  | nil => exact h
  | cons b t ih => exact ih _ _ (Memory.wf_put m k b h)

/-- A fold of operations that keep the canonical form keeps it. -/
theorem Memory.wf_foldl {α : Type} (l : List α) (f : List Host.Cell → α → List Host.Cell) (m : List Host.Cell)
    (hf : ∀ m a, Memory.wf m = true → Memory.wf (f m a) = true) (h : Memory.wf m = true) : Memory.wf (l.foldl f m) = true := by
  induction l generalizing m with
  | nil => exact h
  | cons a t ih => exact ih _ (hf m a h)

/-- Dropping entries keeps the canonical form. -/
theorem Memory.wf_filter (m : List Host.Cell) (p : Host.Cell → Bool) (h : Memory.wf m = true) :
    Memory.wf (m.filter p) = true := by
  obtain ⟨h1, h2⟩ := (Memory.wf_iff m).mp h
  refine (Memory.wf_iff _).mpr ⟨?_, fun x hx => h2 x (List.mem_filter.mp hx).1⟩
  clear h h2
  induction m with
  | nil => rfl
  | cons y t ih =>
    obtain ⟨k, v⟩ := y
    obtain ⟨h3, h4⟩ := (assocSorted_cons ..).mp h1
    rw [List.filter_cons]
    split
    · exact (assocSorted_cons ..).mpr ⟨fun x hx => h3 x (List.mem_filter.mp hx).1, ih h4⟩
    · exact ih h4

/-- Reading one byte after one byte was written. -/
theorem memGet_put (m : List Host.Cell) (k j : Nat) (b : Byte) (h : Memory.wf m = true) :
    memGet (memPut m k b) j = if j = k then b else memGet m j := by
  unfold memGet memPut
  split
  · rw [assocGet_erase k j m ((Memory.wf_iff m).mp h).1]; split <;> simp [*]
  · rw [assocGet_put]; split <;> simp

/-- Reading below the bytes written, or above them. -/
theorem memGet_putAll_other (m : List Host.Cell) (k j : Nat) (bs : List Byte) (h : Memory.wf m = true)
    (hj : j < k ∨ k + bs.length ≤ j) : memGet (memPutAll m k bs) j = memGet m j := by
  induction bs generalizing m k with
  | nil => rfl
  | cons b t ih =>
    rw [List.length_cons] at hj
    rw [memPutAll, ih _ _ (Memory.wf_put m k b h) (by omega), memGet_put m k j b h, if_neg (by omega)]

/-- Reading one of the bytes written. -/
theorem memGet_putAll (m : List Host.Cell) (k i : Nat) (bs : List Byte) (h : Memory.wf m = true) (hi : i < bs.length) :
    memGet (memPutAll m k bs) (k + i) = bs[i] := by
  induction bs generalizing m k i with
  | nil => exact absurd hi (Nat.not_lt_zero i)
  | cons b t ih =>
    cases i with
    | zero => rw [memPutAll, memGet_putAll_other _ _ _ _ (Memory.wf_put m k b h) (by omega), memGet_put m k _ b h]; simp
    | succ i =>
      rw [memPutAll, show k + (i + 1) = k + 1 + i by omega, ih _ _ i (Memory.wf_put m k b h) (by simpa using hi)]; rfl

end Sys2Proof.Machine
end

