-- ==== Sys2Proof/Laws/Frame.lean ====
section
/-!
SUPPORT. Memory through every operation: nearly all leave its bytes as they are, the others keep its canonical form.
-/
namespace Sys2Proof.Machine

set_option linter.unusedTactic false
set_option linter.unreachableTactic false
set_option linter.unnecessarySeqFocus false
set_option linter.unusedSimpArgs false

/-- A fold of operations that leave memory as it is leaves it so. -/
@[simp] theorem foldl_mem {α : Type} (l : List α) (f : State → α → State) (s : State)
    (h : ∀ s a, (f s a).tiers.mem = s.tiers.mem) : (l.foldl f s).tiers.mem = s.tiers.mem := by
  induction l generalizing s with
  | nil => rfl
  | cons a t ih => exact (ih _).trans (h s a)

/-- A fold of operations that keep the canonical form of memory keeps it. -/
theorem foldl_wf {α : Type} (l : List α) (f : State → α → State) (s : State) (h0 : Memory.wf s.tiers.mem = true)
    (h : ∀ s a, Memory.wf s.tiers.mem = true → Memory.wf (f s a).tiers.mem = true) :
    Memory.wf (l.foldl f s).tiers.mem = true := by
  induction l generalizing s with
  | nil => exact h0
  | cons a t ih => exact ih _ (h s a h0)

/-- The same, where the fold carries a value beside the state. -/
@[simp] theorem foldl_fst_mem {α β : Type} (l : List α) (f : State × β → α → State × β) (p : State × β)
    (h : ∀ p a, (f p a).1.tiers.mem = p.1.tiers.mem) : (l.foldl f p).1.tiers.mem = p.1.tiers.mem := by
  induction l generalizing p with
  | nil => rfl
  | cons a t ih => exact (ih _).trans (h p a)

/-- Memory of the state that a condition chooses. -/
@[simp] theorem ite_mem {p : Prop} [Decidable p] (a b : State) :
    (if p then a else b).tiers.mem = if p then a.tiers.mem else b.tiers.mem := by
  split <;> rfl

@[simp] theorem State.log_mem :
    ∀ (s : State) (ev : LogEvent) (a0 a1 : ℕ), (s.log ev a0 a1).tiers.mem = s.tiers.mem := by
  intros; simp [State.log]
@[simp] theorem State.post_mem :
    ∀ (s : State) (h : Hdr) (sct sc : ℕ) (dw0 dw1 : W32), (s.post h sct sc dw0 dw1).tiers.mem = s.tiers.mem := by
  intros; rfl
@[simp] theorem State.ok_mem : ∀ (s : State) (h : Hdr), (s.ok h).tiers.mem = s.tiers.mem := by
  intros; rfl
@[simp] theorem State.okDw_mem :
    ∀ (s : State) (h : Hdr) (dw0 dw1 : W32), (s.okDw h dw0 dw1).tiers.mem = s.tiers.mem := by
  intros; rfl
@[simp] theorem State.badOpcode_mem : ∀ (s : State) (h : Hdr), (s.badOpcode h).tiers.mem = s.tiers.mem := by
  intros; rfl
@[simp] theorem State.badField_mem : ∀ (s : State) (h : Hdr), (s.badField h).tiers.mem = s.tiers.mem := by
  intros; rfl
@[simp] theorem State.badSeq_mem : ∀ (s : State) (h : Hdr), (s.badSeq h).tiers.mem = s.tiers.mem := by
  intros; rfl
@[simp] theorem State.denied_mem : ∀ (s : State) (h : Hdr), (s.denied h).tiers.mem = s.tiers.mem := by
  intros; rfl
@[simp] theorem State.laesk_mem :
    ∀ (s : State) (h : Hdr) (sc : ℕ) (dw0 dw1 : W32), (s.laesk h sc dw0 dw1).tiers.mem = s.tiers.mem := by
  intros; rfl
@[simp] theorem State.await_mem : ∀ (s : State) (o : OutCmd), (s.await o).tiers.mem = s.tiers.mem := by
  intros; rfl
@[simp] theorem State.send_mem : ∀ (s : State) (p : Pdu), (s.send p).tiers.mem = s.tiers.mem := by
  intros; rfl
@[simp] theorem State.toPeer_mem : ∀ (s : State) (m : TwinMsg), (s.toPeer m).tiers.mem = s.tiers.mem := by
  intros; rfl
@[simp] theorem State.aer_mem : ∀ (s : State) (a : Aer), (s.aer a).tiers.mem = s.tiers.mem := by
  intros
  unfold State.aer
  repeat' (first
    | rfl
    | assumption
    | split
    | (refine (foldl_mem _ _ _ ?_).trans ?_)
    | (intro _)
    | simp)
@[simp] theorem State.raiseEpoch_mem : ∀ (s : State) (u : ℕ), (s.raiseEpoch u).tiers.mem = s.tiers.mem := by
  intros; rfl
@[simp] theorem State.raiseAll_mem : ∀ (s : State), s.raiseAll.tiers.mem = s.tiers.mem := by
  intros; rfl
@[simp] theorem State.setEx_mem : ∀ (s : State) (e : Exec), (s.setEx e).tiers.mem = s.tiers.mem := by
  intros; rfl
@[simp] theorem State.modEx_mem : ∀ (s : State) (id : ℕ) (f : Exec → Exec), (s.modEx id f).tiers.mem = s.tiers.mem := by
  intros; rfl
@[simp] theorem State.onComp_wf :
    ∀ (s : State) (c : Fin 16) (f : State → Exec → State), Memory.wf s.tiers.mem = true → (∀ (a : State) (a_1 : Exec),
    Memory.wf a.tiers.mem = true → Memory.wf (f a a_1).tiers.mem = true) → Memory.wf (s.onComp c f).tiers.mem = true := by
  intros
  unfold State.onComp
  repeat' (first
    | assumption
    | solve_by_elim
    | split
    | (refine foldl_wf _ _ _ ?_ ?_)
    | (intro _)
    | simp [*])
@[simp] theorem State.onComp_mem :
    ∀ (s : State) (c : Fin 16) (f : State → Exec → State), (∀ (a : State) (a_1 : Exec), (f a a_1).tiers.mem =
    a.tiers.mem) → (s.onComp c f).tiers.mem = s.tiers.mem := by
  intros
  unfold State.onComp
  repeat' (first
    | rfl
    | assumption
    | solve_by_elim
    | split
    | (refine (foldl_mem _ _ _ ?_).trans ?_)
    | (intro _)
    | simp [*])
@[simp] theorem State.fillComp_mem : ∀ (s : State) (c : Fin 16), (s.fillComp c).tiers.mem = s.tiers.mem := by
  intros; unfold State.fillComp; (repeat' split) <;> simp
@[simp] theorem State.fillComps_mem : ∀ (s : State), s.fillComps.tiers.mem = s.tiers.mem := by
  intros; unfold State.fillComps; (repeat' split) <;> simp
@[simp] theorem State.jobDoneAt_mem :
    ∀ (s : State) (t : ℕ) (h : Hdr) (ctx : Fin 64) (dl : ℕ) (o : JobEnd), (s.jobDoneAt t h ctx dl o).tiers.mem =
    s.tiers.mem := by
  intros; unfold State.jobDoneAt; (repeat' split) <;> simp
@[simp] theorem State.countFailed_mem : ∀ (s : State) (ctx : Fin 64), (s.countFailed ctx).tiers.mem = s.tiers.mem := by
  intros; rfl
@[simp] theorem State.jobStd_mem :
    ∀ (s : State) (h : Hdr) (ctx : Fin 64) (sct sc : ℕ), (s.jobStd h ctx sct sc).tiers.mem = s.tiers.mem := by
  intros; rfl
@[simp] theorem State.jobDone_mem :
    ∀ (s : State) (h : Hdr) (ctx : Fin 64) (dl : ℕ) (o : JobEnd), (s.jobDone h ctx dl o).tiers.mem = s.tiers.mem := by
  intros; unfold State.jobDone; (repeat' split) <;> simp
@[simp] theorem State.objDone_mem : ∀ (s : State) (e : Exec) (o : ObjCmd), (s.objDone e o).tiers.mem = s.tiers.mem := by
  intros; unfold State.objDone; (repeat' split) <;> simp
@[simp] theorem State.endObjs_mem : ∀ (s : State) (e : Exec) (o : JobEnd), (s.endObjs e o).tiers.mem = s.tiers.mem := by
  intros; unfold State.endObjs; (repeat' split) <;> simp
@[simp] theorem State.boundary_mem : ∀ (s : State), s.boundary.tiers.mem = s.tiers.mem := by
  intros; unfold State.boundary; (repeat' split) <;> simp
@[simp] theorem State.reshape_mem : ∀ (s : State), s.reshape.tiers.mem = s.tiers.mem := by
  intros; unfold State.reshape; (repeat' split) <;> simp
@[simp] theorem State.release_mem : ∀ (s : State) (id : ℕ), (s.release id).tiers.mem = s.tiers.mem := by
  intros; rfl
@[simp] theorem State.cancelFaults_mem : ∀ (s : State) (id : ℕ), (s.cancelFaults id).tiers.mem = s.tiers.mem := by
  intros; rfl
@[simp] theorem State.abandon1_mem : ∀ (s : State) (id : ℕ), (s.abandon1 id).tiers.mem = s.tiers.mem := by
  intros; rfl
@[simp] theorem State.abandon_mem : ∀ (s : State) (e : Exec), (s.abandon e).tiers.mem = s.tiers.mem := by
  intros; unfold State.abandon; (repeat' split) <;> simp
@[simp] theorem State.dropExec_mem : ∀ (s : State) (e : Exec), (s.dropExec e).tiers.mem = s.tiers.mem := by
  intros; unfold State.dropExec; (repeat' split) <;> simp
@[simp] theorem State.recordRun_mem : ∀ (s : State) (e : Exec), (s.recordRun e).tiers.mem = s.tiers.mem := by
  intros; rfl
@[simp] theorem State.orphan_mem : ∀ (s : State) (e : Exec), (s.orphan e).tiers.mem = s.tiers.mem := by
  intros; unfold State.orphan; (repeat' split) <;> simp
@[simp] theorem State.endExecAt_mem :
    ∀ (s : State) (t : ℕ) (e : Exec) (o : JobEnd), (s.endExecAt t e o).tiers.mem = s.tiers.mem := by
  intros; unfold State.endExecAt; (repeat' split) <;> simp
@[simp] theorem State.endExec_mem : ∀ (s : State) (e : Exec) (o : JobEnd), (s.endExec e o).tiers.mem = s.tiers.mem := by
  intros; unfold State.endExec; (repeat' split) <;> simp
@[simp] theorem State.jobFail_mem :
    ∀ (s : State) (e : Exec) (sc : ℕ) (dw0 dw1 : W32), (s.jobFail e sc dw0 dw1).tiers.mem = s.tiers.mem := by
  intros; unfold State.jobFail; (repeat' split) <;> simp
@[simp] theorem State.jfault_mem :
    ∀ (s : State) (e : Exec) (j : JFault) (pc : W32), (s.jfault e j pc).tiers.mem = s.tiers.mem := by
  intros; unfold State.jfault; (repeat' split) <;> simp
@[simp] theorem State.rerunOr_mem :
    ∀ (s : State) (e : Exec) (cause : RerunCause) (sc : ℕ) (dw0 dw1 : W32), (s.rerunOr e cause sc dw0 dw1).tiers.mem =
    s.tiers.mem := by
  intros; unfold State.rerunOr; (repeat' split) <;> simp
@[simp] theorem State.modAlloc_mem :
    ∀ (s : State) (id : ℕ) (f : Alloc → Alloc), (s.modAlloc id f).tiers.mem = s.tiers.mem := by
  intros; rfl
@[simp] theorem State.touch_mem : ∀ (s : State) (a i : ℕ), (s.touch a i).tiers.mem = s.tiers.mem := by
  intros; rfl
@[simp] theorem State.walk_mem : ∀ (s : State) (e : Exec) (m : Mover) (p op : ℕ) (wr : Bool), (s.walk e m p op
    wr).tiers.mem = s.tiers.mem := by
  intros; unfold State.walk; (repeat' split) <;> simp
@[simp] theorem State.invalidate_mem :
    ∀ (s : State) (keep : TlbEntry → Bool), (s.invalidate keep).tiers.mem = s.tiers.mem := by
  intros; rfl
@[simp] theorem State.invalPages_mem : ∀ (s : State) (a : Alloc) (ps : List ℕ), (s.invalPages a ps).tiers.mem =
    s.tiers.mem := by
  intros; rfl
@[simp] theorem State.mapZero_mem : ∀ (s : State) (a : Alloc) (i : ℕ) (t : Tier), (s.mapZero a i t).tiers.mem =
    s.tiers.mem := by
  intros; rfl
@[simp] theorem State.defer_mem : ∀ (s : State) (a : Alloc) (ps : List ℕ) (t : Tier) (op : Option (ℕ × ℕ)) (host :
    Option Hdr), (s.defer a ps t op host).tiers.mem = s.tiers.mem := by
  intros; unfold State.defer; (repeat' split) <;> simp
@[simp] theorem State.unqueue_mem : ∀ (s : State) (id : ℕ), (s.unqueue id).tiers.mem = s.tiers.mem := by
  intros; rfl
@[simp] theorem State.launch_mem : ∀ (s : State) (m : Mig) (ps : List ℕ), (s.launch m ps).tiers.mem = s.tiers.mem :=
    by
  intros; rfl
@[simp] theorem State.turn_mem : ∀ (s : State) (m : Mig), (s.turn m).1.tiers.mem = s.tiers.mem := by
  intros
  unfold State.turn
  repeat' (first
    | rfl
    | assumption
    | split
    | (refine (foldl_mem _ _ _ ?_).trans ?_)
    | (intro _)
    | simp)
@[simp] theorem State.turns_mem : ∀ (n : ℕ) (s : State) (a : ℕ), (State.turns n s a).tiers.mem = s.tiers.mem := by
  intro n
  induction n with
  | zero => intros; rfl
  | succ n ih =>
    intro s a
    unfold State.turns
    split
    · rfl
    · split
      · rfl
      · dsimp only
        split
        · exact (ih _ _).trans (State.turn_mem ..)
        · exact State.turn_mem ..
@[simp] theorem State.startQueued_mem : ∀ (s : State) (a : ℕ), (s.startQueued a).tiers.mem = s.tiers.mem := by
  intros; unfold State.startQueued; (repeat' split) <;> simp
@[simp] theorem State.startAll_mem : ∀ (s : State), s.startAll.tiers.mem = s.tiers.mem := by
  intros; unfold State.startAll; (repeat' split) <;> simp
@[simp] theorem State.migrate_mem : ∀ (s : State) (m : Mig), (s.migrate m).tiers.mem = s.tiers.mem := by
  intros; unfold State.migrate; (repeat' split) <;> simp
@[simp] theorem State.promote_mem : ∀ (s : State) (a : Alloc) (ps : List ℕ) (t : Tier) (op : Option (ℕ × ℕ)) (cause
    : Option HintCode), (s.promote a ps t op cause).tiers.mem = s.tiers.mem := by
  intros; unfold State.promote; (repeat' split) <;> simp
@[simp] theorem State.evict_mem : ∀ (s : State) (a : Alloc) (ps : List ℕ) (t : Tier) (op : Option (ℕ × ℕ)) (host :
    Option Hdr) (cause : Option HintCode), (s.evict a ps t op host cause).1.tiers.mem = s.tiers.mem := by
  intros; unfold State.evict; (repeat' split) <;> simp
@[simp] theorem State.retryHot_mem : ∀ (s : State), s.retryHot.tiers.mem = s.tiers.mem := by
  intros
  unfold State.retryHot
  repeat' (first
    | rfl
    | assumption
    | split
    | (refine (foldl_mem _ _ _ ?_).trans ?_)
    | (intro _)
    | simp)
@[simp] theorem State.evictsDone_mem : ∀ (s : State), s.evictsDone.tiers.mem = s.tiers.mem := by
  intros; unfold State.evictsDone; (repeat' split) <;> simp
@[simp] theorem State.movesOver_mem : ∀ (s : State), s.movesOver.tiers.mem = s.tiers.mem := by
  intros; unfold State.movesOver; (repeat' split) <;> simp
@[simp] theorem State.reframe_mem : ∀ (s : State) (id : ℕ) (a : Alloc) (ps : List ℕ) (dst : Tier), (s.reframe id a
    ps dst).tiers.mem = s.tiers.mem := by
  intros; rfl
@[simp] theorem State.markSwitch_mem : ∀ (s : State) (a : Alloc) (ps : List ℕ), (s.markSwitch a ps).tiers.mem =
    s.tiers.mem := by
  intros; rfl
@[simp] theorem State.cutMigs_mem : ∀ (s : State) (ps : List (ℕ × ℕ)), (s.cutMigs ps).tiers.mem = s.tiers.mem := by
  intros; unfold State.cutMigs; (repeat' split) <;> simp
@[simp] theorem State.demoteSome_mem : ∀ (s : State) (t : Tier) (n : ℕ), (s.demoteSome t n).tiers.mem = s.tiers.mem := by
  intro s t n
  unfold State.demoteSome
  refine foldl_fst_mem _ _ _ fun p v => ?_
  repeat' split
  all_goals simp
@[simp] theorem State.restore_mem : ∀ (s : State) (e : Exec), (s.restore e).tiers.mem = s.tiers.mem := by
  intros
  unfold State.restore
  repeat' (first
    | rfl
    | assumption
    | split
    | (refine (foldl_mem _ _ _ ?_).trans ?_)
    | (intro _)
    | simp)
@[simp] theorem State.insn_wf :
    ∀ (s : State) (c : Fin 16) (p : Pred) (f : State → Exec → State), Memory.wf s.tiers.mem = true → (∀ (a : State) (a_1
    : Exec), Memory.wf a.tiers.mem = true → Memory.wf (f a a_1).tiers.mem = true) → Memory.wf (s.insn c p f).tiers.mem =
    true := by
  intros
  unfold State.insn
  repeat' (first
    | assumption
    | solve_by_elim
    | split
    | (refine foldl_wf _ _ _ ?_ ?_)
    | (intro _)
    | simp [*])
@[simp] theorem State.insn_mem :
    ∀ (s : State) (c : Fin 16) (p : Pred) (f : State → Exec → State), (∀ (a : State) (a_1 : Exec), (f a a_1).tiers.mem =
    a.tiers.mem) → (s.insn c p f).tiers.mem = s.tiers.mem := by
  intros
  unfold State.insn
  repeat' (first
    | rfl
    | assumption
    | solve_by_elim
    | split
    | (refine (foldl_mem _ _ _ ?_).trans ?_)
    | (intro _)
    | simp [*])
@[simp] theorem State.sync_mem :
    ∀ (s : State) (c : Fin 16) (p : Pred) (rs : List (Fin 64)) (f : State → Exec → Except JFault Exec), (s.sync c p rs
    f).tiers.mem = s.tiers.mem := by
  intro s c p rs f
  refine State.insn_mem _ _ _ _ fun s e => ?_
  repeat' split
  all_goals simp
@[simp] theorem State.asyncList_mem :
    ∀ (s : State) (c : Fin 16) (p : Pred) (rs : List (Fin 64)) (list : Exec → List ℕ) (f : State → Exec → Except JFault
    (Exec × Req)), (s.asyncList c p rs list f).tiers.mem = s.tiers.mem := by
  intro s c p rs list f
  refine State.insn_mem _ _ _ _ fun s e => ?_
  dsimp only
  repeat' split
  all_goals simp
@[simp] theorem State.async_mem :
    ∀ (s : State) (c : Fin 16) (p : Pred) (rs : List (Fin 64)) (f : State → Exec → Except JFault (Exec × Req)), (s.async
    c p rs f).tiers.mem = s.tiers.mem := by
  intros; unfold State.async; (repeat' split) <;> simp
@[simp] theorem State.settle_mem : ∀ (s : State) (e : Exec), (s.settle e).tiers.mem = s.tiers.mem := by
  intros; unfold State.settle; (repeat' split) <;> simp
@[simp] theorem State.onOp_wf :
    ∀ (s : State) (c : Fin 16) (n : ℕ) (f : State → Exec → Op → State), Memory.wf s.tiers.mem = true → (∀ (a : State)
    (a_1 : Exec) (a_2 : Op), Memory.wf a.tiers.mem = true → Memory.wf (f a a_1 a_2).tiers.mem = true) → Memory.wf
    (s.onOp c n f).tiers.mem = true := by
  intros
  unfold State.onOp
  repeat' (first
    | assumption
    | solve_by_elim
    | split
    | (refine foldl_wf _ _ _ ?_ ?_)
    | (intro _)
    | simp [*])
@[simp] theorem State.onOp_mem :
    ∀ (s : State) (c : Fin 16) (n : ℕ) (f : State → Exec → Op → State), (∀ (a : State) (a_1 : Exec) (a_2 : Op), (f a a_1
    a_2).tiers.mem = a.tiers.mem) → (s.onOp c n f).tiers.mem = s.tiers.mem := by
  intros
  unfold State.onOp
  repeat' (first
    | rfl
    | assumption
    | solve_by_elim
    | split
    | (refine (foldl_mem _ _ _ ?_).trans ?_)
    | (intro _)
    | simp [*])
@[simp] theorem State.faultEnd_mem :
    ∀ (s : State) (e : Exec) (sc : ℕ) (dw : W32 × W32), (s.faultEnd e sc dw).tiers.mem = s.tiers.mem := by
  intros; simp [State.faultEnd]
@[simp] theorem State.miss_mem : ∀ (s : State) (e : Exec) (m : Mover) (p op : ℕ) (wr : Bool), (s.miss e m p op
    wr).tiers.mem = s.tiers.mem := by
  intros; unfold State.miss; (repeat' split) <;> simp
@[simp] theorem State.demoteStreamed_mem : ∀ (s : State) (a : Alloc) (ps : List ℕ), (s.demoteStreamed a
    ps).tiers.mem = s.tiers.mem := by
  intros
  unfold State.demoteStreamed
  repeat' (first
    | rfl
    | assumption
    | split
    | (refine (foldl_mem _ _ _ ?_).trans ?_)
    | (intro _)
    | simp)
@[simp] theorem State.used_mem :
    ∀ (s : State) (e : Exec) (rds wrs : List ℕ), (s.used e rds wrs).tiers.mem = s.tiers.mem := by
  intros
  unfold State.used
  repeat' (first
    | rfl
    | assumption
    | split
    | (refine (foldl_mem _ _ _ ?_).trans ?_)
    | (intro _)
    | simp)
@[simp] theorem State.arith_mem :
    ∀ (s : State) (c : Fin 16) (p : Pred) (rd ra : Fin 64) (b : Src2) (op : W64 → W64 → W64), (s.arith c p rd ra b
    op).tiers.mem = s.tiers.mem := by
  intros; unfold State.arith; (repeat' split) <;> simp
@[simp] theorem State.compare_mem :
    ∀ (s : State) (c : Fin 16) (p : Pred) (rd ra : Fin 64) (b : Src2) (evd : Fin 64) (op : W64 → W64 → Bool), (s.compare
    c p rd ra b evd op).tiers.mem = s.tiers.mem := by
  intros; unfold State.compare; (repeat' split) <;> simp
@[simp] theorem State.fence_mem :
    ∀ (s : State) (c : Fin 16) (p : Pred) (mv fx : Bool), (s.fence c p mv fx).tiers.mem = s.tiers.mem := by
  intros; unfold State.fence; (repeat' split) <;> simp
@[simp] theorem State.waitOn_mem :
    ∀ (s : State) (c : Fin 16) (p : Pred) (mask : W64) (all : Bool), (s.waitOn c p mask all).tiers.mem = s.tiers.mem := by
  intros; unfold State.waitOn; (repeat' split) <;> simp
@[simp] theorem State.signal_mem :
    ∀ (s : State) (c : Fin 16) (p : Pred) (mask : W64) (set : Bool), (s.signal c p mask set).tiers.mem = s.tiers.mem := by
  intros; unfold State.signal; (repeat' split) <;> simp
@[simp] theorem State.tierOp_mem :
    ∀ (s : State) (c : Fin 16) (p : Pred) (rs : List (Fin 64)) (ts : Fin 32) (kind : OpKind) (ev : EvSel), (s.tierOp c p
    rs ts kind ev).tiers.mem = s.tiers.mem := by
  intros; unfold State.tierOp; (repeat' split) <;> simp
@[simp] theorem State.setHint_mem : ∀ (s : State) (a : Alloc) (ps : List ℕ) (code : HintCode) (who : HintBy),
    (s.setHint a ps code who).tiers.mem = s.tiers.mem := by
  intros; unfold State.setHint; (repeat' split) <;> simp
@[simp] theorem State.startPref_mem :
    ∀ (s : State) (e : Exec) (o : Op) (t : Tier) (ps : List ℕ), (s.startPref e o t ps).tiers.mem = s.tiers.mem := by
  intros; unfold State.startPref; (repeat' split) <;> simp
@[simp] theorem State.startEvict_mem :
    ∀ (s : State) (e : Exec) (o : Op) (t : Tier) (ps : List ℕ), (s.startEvict e o t ps).1.tiers.mem = s.tiers.mem := by
  intros; unfold State.startEvict; (repeat' split) <;> simp
@[simp] theorem State.tallyTopk_mem :
    ∀ (s : State) (c : Fin 16) (p : Pred) (a : EArgs) (fed merge : Bool), (s.tallyTopk c p a fed merge).tiers.mem =
    s.tiers.mem := by
  intros; unfold State.tallyTopk; (repeat' split) <;> simp
@[simp] theorem State.tallyArgmax_mem :
    ∀ (s : State) (c : Fin 16) (p : Pred) (a : EArgs) (fed : Bool), (s.tallyArgmax c p a fed).tiers.mem = s.tiers.mem := by
  intros; unfold State.tallyArgmax; (repeat' split) <;> simp
@[simp] theorem State.tallySample_mem :
    ∀ (s : State) (c : Fin 16) (p : Pred) (a : EArgs) (fed : Bool), (s.tallySample c p a fed).tiers.mem = s.tiers.mem := by
  intros; unfold State.tallySample; (repeat' split) <;> simp
@[simp] theorem State.cipher_mem :
    ∀ (s : State) (c : Fin 16) (p : Pred) (a : EArgs) (enc : Bool), (s.cipher c p a enc).tiers.mem = s.tiers.mem := by
  intros; unfold State.cipher; (repeat' split) <;> simp
@[simp] theorem State.modNs_mem : ∀ (s : State) (n : ℕ) (f : Ns → Ns), (s.modNs n f).tiers.mem = s.tiers.mem := by
  intros; rfl
@[simp] theorem State.modGroup_mem :
    ∀ (s : State) (g : ℕ) (f : Group → Group), (s.modGroup g f).tiers.mem = s.tiers.mem := by
  intros; unfold State.modGroup; (repeat' split) <;> simp
@[simp] theorem State.advance_mem : ∀ (s : State) (nsid lba n : ℕ), (s.advance nsid lba n).tiers.mem = s.tiers.mem := by
  intros; rfl
@[simp] theorem State.dealloc_mem : ∀ (s : State) (nsid lba n : ℕ), (s.dealloc nsid lba n).tiers.mem = s.tiers.mem := by
  intros; rfl
@[simp] theorem State.zoneApply_mem :
    ∀ (s : State) (nsid z : ℕ) (act : ZoneAct), (s.zoneApply nsid z act).tiers.mem = s.tiers.mem := by
  intros; unfold State.zoneApply; (repeat' split) <;> simp
@[simp] theorem State.modSb_mem : ∀ (s : State) (n : ℕ) (f : Sb → Sb), (s.modSb n f).tiers.mem = s.tiers.mem := by
  intros; rfl
@[simp] theorem State.program_mem : ∀ (s : State) (pslc gc : Bool) (entries : List (ℕ × Option Loc)) (seqs : List
    ℕ), (s.program pslc gc entries seqs).tiers.mem = s.tiers.mem := by
  intros
  unfold State.program
  repeat' (first
    | rfl
    | assumption
    | split
    | (refine (foldl_mem _ _ _ ?_).trans ?_)
    | (intro _)
    | simp)
@[simp] theorem State.gather_mem : ∀ (s : State), s.gather.tiers.mem = s.tiers.mem := by
  intros; unfold State.gather; (repeat' split) <;> simp
@[simp] theorem State.modIndex_mem :
    ∀ (s : State) (n : ℕ) (f : Index → Index), (s.modIndex n f).tiers.mem = s.tiers.mem := by
  intros; unfold State.modIndex; (repeat' split) <;> simp
@[simp] theorem State.publish_mem :
    ∀ (s : State) (nsid lba : ℕ) (b : PBlk), (s.publish nsid lba b).tiers.mem = s.tiers.mem := by
  intros; unfold State.publish; (repeat' split) <;> simp
@[simp] theorem State.hold1_mem :
    ∀ (s : State) (nsid lba : ℕ) (b : PBlk), (s.hold1 nsid lba b).tiers.mem = s.tiers.mem := by
  intros; unfold State.hold1; (repeat' split) <;> simp
@[simp] theorem State.holdAll_mem :
    ∀ (s : State) (nsid lba : ℕ) (a : List PBlk), (s.holdAll nsid lba a).tiers.mem = s.tiers.mem := by
  intro s n l a
  induction a generalizing s l with
  | nil => rfl
  | cons b t ih => rw [State.holdAll, ih]; simp
@[simp] theorem State.hold_mem :
    ∀ (s : State) (nsid lba : ℕ) (bs : List PBlk), (s.hold nsid lba bs).tiers.mem = s.tiers.mem := by
  intros; unfold State.hold; (repeat' split) <;> simp
@[simp] theorem State.applyWrite_mem : ∀ (s : State) (w : MirWrite), (s.applyWrite w).tiers.mem = s.tiers.mem := by
  intros; unfold State.applyWrite; (repeat' split) <;> simp
@[simp] theorem State.markChanged_mem : ∀ (s : State) (w : MirWrite), (s.markChanged w).tiers.mem = s.tiers.mem := by
  intros; unfold State.markChanged; (repeat' split) <;> simp
@[simp] theorem State.writeOut_mem :
    ∀ (s : State) (w : MirWrite) (hdr : Option Hdr) (exec : Option ℕ), (s.writeOut w hdr exec).1.tiers.mem = s.tiers.mem := by
  intros
  unfold State.writeOut
  repeat' (first
    | rfl
    | assumption
    | split
    | (refine (foldl_mem _ _ _ ?_).trans ?_)
    | (intro _)
    | simp)
@[simp] theorem State.writeHeld_mem : ∀ (s : State) (w : MirWrite) (exec : ℕ), (s.writeHeld w exec).1.tiers.mem =
    s.tiers.mem := by
  intros; unfold State.writeHeld; (repeat' split) <;> simp
@[simp] theorem State.wroteThrough_mem :
    ∀ (s : State) (keys : List ℕ), (s.wroteThrough keys).tiers.mem = s.tiers.mem := by
  intros; unfold State.wroteThrough; (repeat' split) <;> simp
@[simp] theorem State.programDone_mem :
    ∀ (s : State) (op : DieOp) (verified : Bool), (s.programDone op verified).tiers.mem = s.tiers.mem := by
  intros; unfold State.programDone; (repeat' split) <;> simp
@[simp] theorem State.programsDone_mem : ∀ (s : State), s.programsDone.tiers.mem = s.tiers.mem := by
  intros; unfold State.programsDone; (repeat' split) <;> simp
@[simp] theorem flushRounds_mem : ∀ (a : ℕ) (a_1 : State), (flushRounds a a_1).tiers.mem = a_1.tiers.mem := by
  intro n
  induction n with
  | zero => intro s; rfl
  | succ n ih => intro s; rw [flushRounds, ih]; simp
@[simp] theorem State.flushAll_mem : ∀ (s : State), s.flushAll.tiers.mem = s.tiers.mem := by
  intros; unfold State.flushAll; (repeat' split) <;> simp
@[simp] theorem State.loseDirty_mem : ∀ (s : State), s.loseDirty.tiers.mem = s.tiers.mem := by
  intros; rfl
@[simp] theorem State.conflict_mem : ∀ (s : State) (h : Hdr), (s.conflict h).tiers.mem = s.tiers.mem := by
  intros; rfl
@[simp] theorem State.mi_mem :
    ∀ (s : State) (h : Hdr) (status : ℕ) (data : List ℕ), (s.mi h status data).tiers.mem = s.tiers.mem := by
  intros; unfold State.mi; (repeat' split) <;> simp
@[simp] theorem State.arriveAny_wf :
    ∀ (s : State) (h : Hdr) (f : Fin 64 → State), Memory.wf s.tiers.mem = true → (∀ (a : Fin 64), Memory.wf (f
    a).tiers.mem = true) → Memory.wf (s.arriveAny h f).tiers.mem = true := by
  intros; unfold State.arriveAny; (repeat' split) <;> simp [*]
@[simp] theorem State.arriveAny_mem :
    ∀ (s : State) (h : Hdr) (f : Fin 64 → State), (∀ (a : Fin 64), (f a).tiers.mem = s.tiers.mem) → (s.arriveAny h
    f).tiers.mem = s.tiers.mem := by
  intros
  unfold State.arriveAny
  repeat' (first
    | rfl
    | assumption
    | solve_by_elim
    | split
    | (refine (foldl_mem _ _ _ ?_).trans ?_)
    | (intro _)
    | simp [*])
@[simp] theorem State.arrive_wf :
    ∀ (s : State) (h : Hdr) (f : Fin 64 → State), Memory.wf s.tiers.mem = true → (∀ (a : Fin 64), Memory.wf (f
    a).tiers.mem = true) → Memory.wf (s.arrive h f).tiers.mem = true := by
  intros; unfold State.arrive; (repeat' split) <;> simp [*]
@[simp] theorem State.arrive_mem :
    ∀ (s : State) (h : Hdr) (f : Fin 64 → State), (∀ (a : Fin 64), (f a).tiers.mem = s.tiers.mem) → (s.arrive h
    f).tiers.mem = s.tiers.mem := by
  intros
  unfold State.arrive
  repeat' (first
    | rfl
    | assumption
    | solve_by_elim
    | split
    | (refine (foldl_mem _ _ _ ?_).trans ?_)
    | (intro _)
    | simp [*])
@[simp] theorem State.command_wf :
    ∀ (s : State) (h : Hdr) (f : Fin 64 → State), Memory.wf s.tiers.mem = true → (∀ (a : Fin 64), Memory.wf (f
    a).tiers.mem = true) → Memory.wf (s.command h f).tiers.mem = true := by
  intro s h f hs hf
  refine State.arrive_wf _ _ _ hs fun c => ?_
  split
  · exact hf c
  · simpa using hs
@[simp] theorem State.command_mem :
    ∀ (s : State) (h : Hdr) (f : Fin 64 → State), (∀ (a : Fin 64), (f a).tiers.mem = s.tiers.mem) → (s.command h
    f).tiers.mem = s.tiers.mem := by
  intros
  unfold State.command
  repeat' (first
    | rfl
    | assumption
    | solve_by_elim
    | split
    | (refine (foldl_mem _ _ _ ?_).trans ?_)
    | (intro _)
    | simp [*])
@[simp] theorem State.commandAny_wf :
    ∀ (s : State) (h : Hdr) (f : Fin 64 → State), Memory.wf s.tiers.mem = true → (∀ (a : Fin 64), Memory.wf (f
    a).tiers.mem = true) → Memory.wf (s.commandAny h f).tiers.mem = true := by
  intro s h f hs hf
  refine State.arriveAny_wf _ _ _ hs fun c => ?_
  split
  · exact hf c
  · simpa using hs
@[simp] theorem State.commandAny_mem :
    ∀ (s : State) (h : Hdr) (f : Fin 64 → State), (∀ (a : Fin 64), (f a).tiers.mem = s.tiers.mem) → (s.commandAny h
    f).tiers.mem = s.tiers.mem := by
  intros
  unfold State.commandAny
  repeat' (first
    | rfl
    | assumption
    | solve_by_elim
    | split
    | (refine (foldl_mem _ _ _ ?_).trans ?_)
    | (intro _)
    | simp [*])
@[simp] theorem State.rootCmd_wf :
    ∀ (s : State) (h : Hdr) (f : State), Memory.wf s.tiers.mem = true → Memory.wf f.tiers.mem = true → Memory.wf
    (s.rootCmd h f).tiers.mem = true := by
  intros; unfold State.rootCmd; (repeat' split) <;> simp [*]
@[simp] theorem State.rootCmd_mem :
    ∀ (s : State) (h : Hdr) (f : State), f.tiers.mem = s.tiers.mem → (s.rootCmd h f).tiers.mem = s.tiers.mem := by
  intro s h f hf
  refine State.arrive_mem _ _ _ fun c => ?_
  split <;> simp [hf]
@[simp] theorem State.refuseRs_mem : ∀ (s : State) (name : ℕ) (c : Fin 64), (s.refuseRs name c).tiers.mem =
    s.tiers.mem := by
  intros; unfold State.refuseRs; (repeat' split) <;> simp
@[simp] theorem State.rsCmd_mem :
    ∀ (s : State) (h : Hdr) (name : ℕ) (f : State), f.tiers.mem = s.tiers.mem → (s.rsCmd h name f).tiers.mem = s.tiers.mem := by
  intro s h name f hf
  refine State.arrive_mem _ _ _ fun c => ?_
  split <;> simp [hf]
@[simp] theorem State.rootAny_wf :
    ∀ (s : State) (h : Hdr) (f : State), Memory.wf s.tiers.mem = true → Memory.wf f.tiers.mem = true → Memory.wf
    (s.rootAny h f).tiers.mem = true := by
  intros; unfold State.rootAny; (repeat' split) <;> simp [*]
@[simp] theorem State.rootAny_mem :
    ∀ (s : State) (h : Hdr) (f : State), f.tiers.mem = s.tiers.mem → (s.rootAny h f).tiers.mem = s.tiers.mem := by
  intro s h f hf
  refine State.arriveAny_mem _ _ _ fun c => ?_
  split <;> simp [hf]
@[simp] theorem State.miCmd_wf :
    ∀ (s : State) (h : Hdr) (lim : Bool) (f : State), Memory.wf s.tiers.mem = true → Memory.wf f.tiers.mem = true →
    Memory.wf (s.miCmd h lim f).tiers.mem = true := by
  intros; unfold State.miCmd; (repeat' split) <;> simp [*]
@[simp] theorem State.miCmd_mem :
    ∀ (s : State) (h : Hdr) (lim : Bool) (f : State), f.tiers.mem = s.tiers.mem → (s.miCmd h lim f).tiers.mem =
    s.tiers.mem := by
  intro s h l f hf
  unfold State.miCmd
  repeat' split
  all_goals simp [hf]
@[simp] theorem State.touchControl_mem : ∀ (s : State), s.touchControl.tiers.mem = s.tiers.mem := by
  intros; rfl
@[simp] theorem State.okAfterEpoch_mem :
    ∀ (s : State) (h : Hdr) (body : Body) (dw0 dw1 : W32), (s.okAfterEpoch h body dw0 dw1).tiers.mem = s.tiers.mem := by
  intros; unfold State.okAfterEpoch; (repeat' split) <;> simp
@[simp] theorem State.caught_mem :
    ∀ (s : State) (o : OutCmd) (how : JobEnd), (s.caught o how).tiers.mem = s.tiers.mem := by
  intros; unfold State.caught; (repeat' split) <;> simp
@[simp] theorem State.endAssoc_mem : ∀ (s : State) (n : ℕ), (s.endAssoc n).tiers.mem = s.tiers.mem := by
  intros; unfold State.endAssoc; (repeat' split) <;> simp
@[simp] theorem State.endAllAssocs_mem : ∀ (s : State), s.endAllAssocs.tiers.mem = s.tiers.mem := by
  intros; unfold State.endAllAssocs; (repeat' split) <;> simp
@[simp] theorem State.dropVolatile_wf :
    ∀ (s : State), Memory.wf s.tiers.mem = true → Memory.wf s.dropVolatile.tiers.mem = true := by
  intros
  unfold State.dropVolatile
  repeat' (first
    | assumption
    | solve_by_elim
    | split
    | (refine foldl_wf _ _ _ ?_ ?_)
    | (intro _)
    | simp [*])
@[simp] theorem State.loseRoles_mem : ∀ (s : State), s.loseRoles.tiers.mem = s.tiers.mem := by
  intros; unfold State.loseRoles; (repeat' split) <;> simp
@[simp] theorem State.powerDown_wf :
    ∀ (s : State), Memory.wf s.tiers.mem = true → Memory.wf s.powerDown.tiers.mem = true := by
  intros; unfold State.powerDown; (repeat' split) <;> simp [*]
@[simp] theorem State.moduleReset_wf :
    ∀ (s : State), Memory.wf s.tiers.mem = true → Memory.wf s.moduleReset.tiers.mem = true := by
  intros; unfold State.moduleReset; (repeat' split) <;> simp [*]
@[simp] theorem State.loadSettings_mem : ∀ (s : State) (r : Settings), (s.loadSettings r).tiers.mem = s.tiers.mem := by
  intros; rfl
@[simp] theorem State.fallBack_wf :
    ∀ (s : State), Memory.wf s.tiers.mem = true → Memory.wf s.fallBack.tiers.mem = true := by
  intros
  unfold State.fallBack
  repeat' (first
    | assumption
    | solve_by_elim
    | split
    | (refine foldl_wf _ _ _ ?_ ?_)
    | (intro _)
    | simp [*])
@[simp] theorem State.pairTo_mem : ∀ (s : State) (st : PairSt), (s.pairTo st).tiers.mem = s.tiers.mem := by
  intros; unfold State.pairTo; (repeat' split) <;> simp
@[simp] theorem State.heldBoth_mem : ∀ (s : State) (o : OutCmd), (s.heldBoth o).tiers.mem = s.tiers.mem := by
  intros; unfold State.heldBoth; (repeat' split) <;> simp
@[simp] theorem State.unawait_mem : ∀ (s : State) (g q : ℕ), (s.unawait g q).tiers.mem = s.tiers.mem := by
  intros; rfl
@[simp] theorem State.soloWrite_mem : ∀ (s : State) (u : Unacked), (s.soloWrite u).tiers.mem = s.tiers.mem := by
  intros; unfold State.soloWrite; (repeat' split) <;> simp
@[simp] theorem State.soloEpochs_mem : ∀ (s : State), s.soloEpochs.tiers.mem = s.tiers.mem := by
  intros; unfold State.soloEpochs; (repeat' split) <;> simp
@[simp] theorem State.keepHanding_mem : ∀ (s : State), s.keepHanding.tiers.mem = s.tiers.mem := by
  intros; unfold State.keepHanding; (repeat' split) <;> simp
@[simp] theorem State.withoutPartner_mem : ∀ (s : State), s.withoutPartner.tiers.mem = s.tiers.mem := by
  intros; unfold State.withoutPartner; (repeat' split) <;> simp
@[simp] theorem State.enterSplit_mem : ∀ (s : State), s.enterSplit.tiers.mem = s.tiers.mem := by
  intros; unfold State.enterSplit; (repeat' split) <;> simp
@[simp] theorem State.linkLost_mem : ∀ (s : State), s.linkLost.tiers.mem = s.tiers.mem := by
  intros; unfold State.linkLost; (repeat' split) <;> simp
@[simp] theorem State.groupDown_mem : ∀ (s : State) (g : Fin 4), (s.groupDown g).tiers.mem = s.tiers.mem := by
  intros; unfold State.groupDown; (repeat' split) <;> simp
@[simp] theorem State.record1_mem :
    ∀ (s : State) (r : Report) (c : FClass), (s.record1 r c).tiers.mem = s.tiers.mem := by
  intros; rfl
@[simp] theorem State.recordFirst_mem :
    ∀ (s : State) (r : Report × FClass), (s.recordFirst r).tiers.mem = s.tiers.mem := by
  intros; unfold State.recordFirst; (repeat' split) <;> simp
@[simp] theorem State.escalate_mem : ∀ (s : State), s.escalate.tiers.mem = s.tiers.mem := by
  intros; rfl
@[simp] theorem State.fenceTile_mem :
    ∀ (s : State) (prow pcol cause : ℕ) (inj : Bool), (s.fenceTile prow pcol cause inj).tiers.mem = s.tiers.mem := by
  intros; unfold State.fenceTile; (repeat' split) <;> simp
@[simp] theorem State.leaveComp_mem : ∀ (s : State) (c : Fin 16), (s.leaveComp c).tiers.mem = s.tiers.mem := by
  intros; unfold State.leaveComp; (repeat' split) <;> simp
@[simp] theorem State.failDie_mem : ∀ (s : State) (d : Die), (s.failDie d).tiers.mem = s.tiers.mem := by
  intros; rfl
@[simp] theorem State.startBridgeReset_mem :
    ∀ (s : State) (b : Fin 16), (s.startBridgeReset b).tiers.mem = s.tiers.mem := by
  intros; unfold State.startBridgeReset; (repeat' split) <;> simp
@[simp] theorem State.portDown_mem : ∀ (s : State) (p : Fin 4), (s.portDown p).tiers.mem = s.tiers.mem := by
  intros; unfold State.portDown; (repeat' split) <;> simp
@[simp] theorem State.fenceAll_mem : ∀ (s : State) (rs : List Report), (s.fenceAll rs).tiers.mem = s.tiers.mem := by
  intros; unfold State.fenceAll; (repeat' split) <;> simp
@[simp] theorem State.residueReruns_mem : ∀ (s : State) (rs : List Report), (s.residueReruns rs).tiers.mem =
    s.tiers.mem := by
  intros
  unfold State.residueReruns
  repeat' (first
    | rfl
    | assumption
    | split
    | (refine (foldl_mem _ _ _ ?_).trans ?_)
    | (intro _)
    | simp)
@[simp] theorem State.stepHit_mem : ∀ (s : State) (r : Report), (s.stepHit r).tiers.mem = s.tiers.mem := by
  intros; unfold State.stepHit; (repeat' split) <;> simp
@[simp] theorem State.minorHits_mem : ∀ (s : State) (rs : List Report), (s.minorHits rs).tiers.mem = s.tiers.mem :=
    by
  intros; unfold State.minorHits; (repeat' split) <;> simp
@[simp] theorem State.remedy1_mem : ∀ (s : State) (r : Report), (s.remedy1 r).tiers.mem = s.tiers.mem := by
  intro s r
  unfold State.remedy1
  dsimp only
  repeat' split
  all_goals first
    | with_reducible rfl
    | simp only [State.leaveComp_mem, State.startBridgeReset_mem, State.failDie_mem, State.portDown_mem, State.groupDown_mem]
@[simp] theorem State.remedy_mem : ∀ (s : State) (f : ActiveFault), (s.remedy f).tiers.mem = s.tiers.mem := by
  intros; unfold State.remedy; (repeat' split) <;> simp
@[simp] theorem State.announce_mem : ∀ (s : State), s.announce.tiers.mem = s.tiers.mem := by
  intros; unfold State.announce; (repeat' split) <;> simp
@[simp] theorem State.saveMap_mem : ∀ (s : State), s.saveMap.tiers.mem = s.tiers.mem := by
  intros; rfl
@[simp] theorem State.bootFailed_mem : ∀ (s : State), s.bootFailed.tiers.mem = s.tiers.mem := by
  intros; unfold State.bootFailed; (repeat' split) <;> simp
@[simp] theorem State.stopService_mem : ∀ (s : State), s.stopService.tiers.mem = s.tiers.mem := by
  intro s
  unfold State.stopService
  refine (foldl_mem _ _ _ fun s e => ?_).trans (by simp)
  split <;> simp
@[simp] theorem State.majorResponse_wf :
    ∀ (s : State), Memory.wf s.tiers.mem = true → Memory.wf s.majorResponse.tiers.mem = true := by
  intro s h
  unfold State.majorResponse
  dsimp only
  repeat' split
  all_goals simp [h]
@[simp] theorem State.trumpResponse_wf :
    ∀ (s : State) (src : Fin 256), Memory.wf s.tiers.mem = true → Memory.wf (s.trumpResponse src).tiers.mem = true := by
  intros
  unfold State.trumpResponse
  repeat' (first
    | assumption
    | solve_by_elim
    | split
    | (refine foldl_wf _ _ _ ?_ ?_)
    | (intro _)
    | simp [*])
@[simp] theorem State.begin_wf : ∀ (s : State) (f : ActiveFault), Memory.wf s.tiers.mem = true → Memory.wf (s.begin
    f).tiers.mem = true := by
  intros
  unfold State.begin
  dsimp only
  repeat' split
  all_goals simp [*]
@[simp] theorem State.latch_mem : ∀ (s : State) (f : ActiveFault), (s.latch f).tiers.mem = s.tiers.mem := by
  intros; simp [State.latch]
@[simp] theorem State.meet_wf :
    ∀ (s : State) (f : ActiveFault), Memory.wf s.tiers.mem = true → Memory.wf (s.meet f).tiers.mem = true := by
  intro s f h
  unfold State.meet
  split
  · exact State.begin_wf _ _ h
  · repeat' split
    all_goals first
      | exact State.begin_wf _ _ h
      | (rw [State.latch_mem]; exact h)
@[simp] theorem State.useInj_mem : ∀ (s : State) (r : Report), (s.useInj r).tiers.mem = s.tiers.mem := by
  intros
  unfold State.useInj
  repeat' (first
    | rfl
    | assumption
    | split
    | (refine (foldl_mem _ _ _ ?_).trans ?_)
    | (intro _)
    | simp)
@[simp] theorem State.sampled_wf :
    ∀ (s : State) (rs : List Report), Memory.wf s.tiers.mem = true → Memory.wf (s.sampled rs).tiers.mem = true := by
  intro s rs h
  unfold State.sampled
  dsimp only
  split
  · exact h
  · refine foldl_wf _ _ _ ?_ fun s r hs => State.meet_wf _ _ hs
    rw [State.minorHits_mem, State.recordFirst_mem]
    exact foldl_wf _ _ _ h fun s r hs => by rw [State.record1_mem]; exact hs
@[simp] theorem State.sample_wf :
    ∀ (s : State) (rs : List Report), Memory.wf s.tiers.mem = true → Memory.wf (s.sample rs).tiers.mem = true := by
  intro s rs h
  unfold State.sample
  exact State.sampled_wf _ _ (foldl_wf _ _ _ h fun s r hs => by rw [State.useInj_mem]; exact hs)
@[simp] theorem State.report_wf :
    ∀ (s : State) (src : Fin 256) (event : ℕ) (whr : BitVec 24) (exec : Option ℕ), Memory.wf s.tiers.mem = true →
    Memory.wf (s.report src event whr exec).tiers.mem = true := by
  intros; unfold State.report; (repeat' split) <;> simp [*]
@[simp] theorem State.staleReply_wf : ∀ (s : State), Memory.wf s.tiers.mem = true → Memory.wf s.staleReply.tiers.mem
    = true := by
  intros; unfold State.staleReply; (repeat' split) <;> simp [*]
@[simp] theorem State.piJobFail_mem : ∀ (s : State) (e : Exec), (s.piJobFail e).tiers.mem = s.tiers.mem := by
  intros; unfold State.piJobFail; (repeat' split) <;> simp
@[simp] theorem State.finish_mem : ∀ (s : State) (e : Exec) (o : Op), (s.finish e o).tiers.mem = s.tiers.mem := by
  intros; simp [State.finish]
@[simp] theorem State.tierDone_mem : ∀ (s : State) (e : Exec) (o : Op), (s.tierDone e o).tiers.mem = s.tiers.mem := by
  intros; unfold State.tierDone; (repeat' split) <;> simp
@[simp] theorem State.impDone_wf :
    ∀ (s : State) (e : Exec) (o : Op) (d : ImpDone), Memory.wf s.tiers.mem = true → Memory.wf (s.impDone e o d).tiers.mem = true := by
  intro s e o d h
  unfold State.impDone
  dsimp only
  split
  · rw [State.finish_mem]; exact h
  · exact State.sampled_wf _ _ h
@[simp] theorem State.drainEarly_mem : ∀ (s : State) (e : Exec) (o : Op), (s.drainEarly e o).1.tiers.mem =
    s.tiers.mem := by
  intros; unfold State.drainEarly; (repeat' split) <;> simp
@[simp] theorem State.opDone_wf :
    ∀ (s : State) (c : Fin 16) (e : Exec) (o : Op), Memory.wf s.tiers.mem = true → Memory.wf (s.opDone c e o).tiers.mem = true := by
  intro s c e o h
  unfold State.opDone
  dsimp only
  repeat' split
  all_goals first
    | exact h
    | exact State.impDone_wf _ _ _ _ h
    | (simp only [State.tierDone_mem, State.miss_mem, State.setEx_mem, State.rerunOr_mem, State.piJobFail_mem, State.jfault_mem,
        State.finish_mem, State.drainEarly_mem]; exact h)
@[simp] theorem State.poisonOp_mem : ∀ (s : State) (e : Exec) (o : Op), (s.poisonOp e o).tiers.mem = s.tiers.mem := by
  intros
  unfold State.poisonOp
  repeat' (first
    | rfl
    | assumption
    | split
    | (refine (foldl_mem _ _ _ ?_).trans ?_)
    | (intro _)
    | simp)
@[simp] theorem State.failData_mem :
    ∀ (s : State) (o : OutCmd) (sc : ℕ), (s.failData o sc).tiers.mem = s.tiers.mem := by
  intros
  unfold State.failData
  repeat' (first
    | rfl
    | assumption
    | split
    | (refine (foldl_mem _ _ _ ?_).trans ?_)
    | (intro _)
    | simp)
@[simp] theorem State.hostRetry_mem : ∀ (s : State) (h : Hdr), (s.hostRetry h).tiers.mem = s.tiers.mem := by
  intros
  unfold State.hostRetry
  repeat' (first
    | rfl
    | assumption
    | split
    | (refine (foldl_mem _ _ _ ?_).trans ?_)
    | (intro _)
    | simp)
@[simp] theorem State.giveBack_mem : ∀ (s : State) (nsid : ℕ) (runs : List (ℕ × ℕ)), (s.giveBack nsid
    runs).tiers.mem = s.tiers.mem := by
  intros; unfold State.giveBack; (repeat' split) <;> simp
@[simp] theorem State.modObj_mem :
    ∀ (s : State) (e : ℕ) (h : Hdr) (f : ObjCmd → ObjCmd), (s.modObj e h f).tiers.mem = s.tiers.mem := by
  intros; rfl
@[simp] theorem State.insert_mem : ∀ (s : State) (e : Exec) (o : ObjCmd) (nsid : ℕ), (s.insert e o nsid).1.tiers.mem
    = s.tiers.mem := by
  intros; unfold State.insert; (repeat' split) <;> simp
@[simp] theorem State.append_mem : ∀ (s : State) (e : Exec) (o : ObjCmd), (s.append e o).tiers.mem = s.tiers.mem := by
  intros
  unfold State.append
  repeat' (first
    | rfl
    | assumption
    | split
    | (refine (foldl_mem _ _ _ ?_).trans ?_)
    | (intro _)
    | simp)
@[simp] theorem State.storeObj_mem :
    ∀ (s : State) (e : Exec) (o : ObjCmd), (s.storeObj e o).tiers.mem = s.tiers.mem := by
  intros
  unfold State.storeObj
  repeat' (first
    | rfl
    | assumption
    | split
    | (refine (foldl_mem _ _ _ ?_).trans ?_)
    | (intro _)
    | simp)
@[simp] theorem State.advanceObj_mem :
    ∀ (s : State) (e : Exec) (o : ObjCmd), (s.advanceObj e o).tiers.mem = s.tiers.mem := by
  intros
  unfold State.advanceObj
  repeat' (first
    | rfl
    | assumption
    | split
    | (refine (foldl_mem _ _ _ ?_).trans ?_)
    | (intro _)
    | simp)
@[simp] theorem State.advanceObjs_mem : ∀ (s : State) (id : ℕ), (s.advanceObjs id).tiers.mem = s.tiers.mem := by
  intros
  unfold State.advanceObjs
  repeat' (first
    | rfl
    | assumption
    | split
    | (refine (foldl_mem _ _ _ ?_).trans ?_)
    | (intro _)
    | simp)
@[simp] theorem State.reissue_mem : ∀ (s : State) (c : HintCode) (a : Alloc) (i : ℕ), (s.reissue c a i).tiers.mem =
    s.tiers.mem := by
  intros; unfold State.reissue; (repeat' split) <;> simp
@[simp] theorem State.cancelMig_mem : ∀ (s : State) (ps : List (ℕ × ℕ)), (s.cancelMig ps).tiers.mem = s.tiers.mem := by
  intros
  unfold State.cancelMig
  refine (State.movesOver_mem _).trans ((foldl_mem _ _ _ fun s l => ?_).trans (State.cutMigs_mem ..))
  split <;> simp
@[simp] theorem State.landPages_wf :
    ∀ (s : State) (e : Exec), Memory.wf s.tiers.mem = true → Memory.wf (s.landPages e).tiers.mem = true := by
  intro s e h
  unfold State.landPages
  simp
  refine Memory.wf_foldl _ _ _ (fun m b hm => ?_) h
  unfold State.landByte
  split
  · exact Memory.wf_put _ _ _ hm
  · exact hm
@[simp] theorem State.mirrorPages_mem : ∀ (s : State) (e : Exec), (s.mirrorPages e).1.tiers.mem = s.tiers.mem := by
  intros
  unfold State.mirrorPages
  repeat' (first
    | rfl
    | assumption
    | split
    | (refine (foldl_mem _ _ _ ?_).trans ?_)
    | (intro _)
    | simp)
@[simp] theorem State.releaseNs_mem : ∀ (s : State) (e : Exec), (s.releaseNs e).1.tiers.mem = s.tiers.mem := by
  intros; unfold State.releaseNs; (repeat' split) <;> simp
@[simp] theorem State.switchBanks_mem : ∀ (s : State) (e : Exec), (s.switchBanks e).tiers.mem = s.tiers.mem := by
  intros; unfold State.switchBanks; (repeat' split) <;> simp
@[simp] theorem State.commit1_wf :
    ∀ (s : State) (e : Exec) (claim : BitVec 16) (final : Bool), Memory.wf s.tiers.mem = true → Memory.wf (s.commit1 e
    claim final).tiers.mem = true := by
  intros; unfold State.commit1; (repeat' split) <;> simp [*]
@[simp] theorem State.yields_mem : ∀ (s : State) (e : Exec), (s.yields e).tiers.mem = s.tiers.mem := by
  intros; simp [State.yields]
@[simp] theorem State.preempt_mem : ∀ (s : State) (e : Exec), (s.preempt e).tiers.mem = s.tiers.mem := by
  intros; simp [State.preempt]
@[simp] theorem State.preemptCheck_mem : ∀ (s : State) (id : ℕ), (s.preemptCheck id).tiers.mem = s.tiers.mem := by
  intros; unfold State.preemptCheck; (repeat' split) <;> simp
@[simp] theorem State.afterCommit_mem : ∀ (s : State) (e : Exec), (s.afterCommit e).tiers.mem = s.tiers.mem := by
  intros; unfold State.afterCommit; (repeat' split) <;> simp
@[simp] theorem State.commitAll_wf :
    ∀ (s : State) (es : List Exec), Memory.wf s.tiers.mem = true → Memory.wf (s.commitAll es).tiers.mem = true := by
  intro s es h
  have hc : Memory.wf (es.foldl (fun s e => match s.ex? e.id with
    | some x => s.commit1 x x.closing.1 x.closing.2
    | none => s) s).tiers.mem = true := by
    refine foldl_wf _ _ _ h fun s e hs => ?_
    split <;> simp [hs]
  unfold State.commitAll
  extract_lets s1 s2
  have h2 : Memory.wf s2.tiers.mem = true := by
    simp only [s2, State.fillComps_mem, State.boundary_mem]
    exact hc
  clear_value s2
  repeat' split
  all_goals simp [h2]
@[simp] theorem State.twinFail_mem : ∀ (s : State) (e : Exec), (s.twinFail e).tiers.mem = s.tiers.mem := by
  intros; simp [State.twinFail]
@[simp] theorem State.twinCommit_wf : ∀ (s : State) (e : Exec), Memory.wf s.tiers.mem = true → Memory.wf
    (s.twinCommit e).tiers.mem = true := by
  intros
  unfold State.twinCommit
  dsimp only
  repeat' split
  all_goals simp [*]
@[simp] theorem State.meldFull_mem : ∀ (s : State) (e : Exec), (s.meldFull e).tiers.mem = s.tiers.mem := by
  intros; unfold State.meldFull; (repeat' split) <;> simp
@[simp] theorem State.demoteFor_mem : ∀ (s : State) (n : Need), (s.demoteFor n).tiers.mem = s.tiers.mem := by
  intros; unfold State.demoteFor; (repeat' split) <;> simp
@[simp] theorem State.startStep_mem : ∀ (s : State) (es : List Exec), (s.startStep es).tiers.mem = s.tiers.mem := by
  intros; simp [State.startStep]
@[simp] theorem State.grantOne_wf : ∀ (s : State) (crews : List (List Exec)) (bad : List ClearFail), Memory.wf
    s.tiers.mem = true → Memory.wf (s.grantOne crews bad).tiers.mem = true := by
  intros
  unfold State.grantOne
  dsimp only
  repeat' split
  all_goals simp [*]
@[simp] theorem State.pushOff_mem : ∀ (s : State) (e : Exec), (s.pushOff e).tiers.mem = s.tiers.mem := by
  intros; simp [State.pushOff]
@[simp] theorem State.withdrawObjs_mem : ∀ (s : State) (e : Exec), (s.withdrawObjs e).tiers.mem = s.tiers.mem := by
  intros; simp [State.withdrawObjs]
@[simp] theorem State.leaveBehind_mem : ∀ (s : State) (g : Gang) (ms : List Exec), (s.leaveBehind g ms).tiers.mem =
    s.tiers.mem := by
  intros; unfold State.leaveBehind; (repeat' split) <;> simp
@[simp] theorem State.retireOld_mem : ∀ (s : State) (m : Mig), (s.retireOld m).tiers.mem = s.tiers.mem := by
  intros; unfold State.retireOld; (repeat' split) <;> simp
@[simp] theorem State.applyTable_mem : ∀ (s : State) (epoch : ℕ), (s.applyTable epoch).tiers.mem = s.tiers.mem := by
  intros; simp [State.applyTable]
@[simp] theorem State.switchTable_mem : ∀ (s : State), s.switchTable.tiers.mem = s.tiers.mem := by
  intros
  unfold State.switchTable
  repeat' (first
    | rfl
    | assumption
    | split
    | (refine (foldl_mem _ _ _ ?_).trans ?_)
    | (intro _)
    | simp)
@[simp] theorem State.payOwed_mem : ∀ (s : State), s.payOwed.tiers.mem = s.tiers.mem := by
  intros
  unfold State.payOwed
  repeat' (first
    | rfl
    | assumption
    | split
    | (refine (foldl_mem _ _ _ ?_).trans ?_)
    | (intro _)
    | simp)
@[simp] theorem State.dropConn_mem : ∀ (s : State) (n : ℕ), (s.dropConn n).tiers.mem = s.tiers.mem := by
  intros
  unfold State.dropConn
  repeat' (first
    | rfl
    | assumption
    | split
    | (refine (foldl_mem _ _ _ ?_).trans ?_)
    | (intro _)
    | simp)
@[simp] theorem State.addConn_mem : ∀ (s : State) (c : Conn), (s.addConn c).tiers.mem = s.tiers.mem := by
  intros; rfl
@[simp] theorem State.reply_mem :
    ∀ (s : State) (h : Hdr) (sct sc : ℕ) (dw0 : W32), (s.reply h sct sc dw0).tiers.mem = s.tiers.mem := by
  intros; rfl
@[simp] theorem State.addQueue_mem :
    ∀ (s : State) (conn cntlid qid size : ℕ), (s.addQueue conn cntlid qid size).tiers.mem = s.tiers.mem := by
  intros; rfl
@[simp] theorem State.modCtrl_mem :
    ∀ (s : State) (n : ℕ) (f : Ctrl → Ctrl), (s.modCtrl n f).tiers.mem = s.tiers.mem := by
  intros; rfl
@[simp] theorem State.disableCtrl_mem : ∀ (s : State) (n : ℕ), (s.disableCtrl n).tiers.mem = s.tiers.mem := by
  intros; simp [State.disableCtrl]
@[simp] theorem State.piFail_mem : ∀ (s : State) (h : Hdr) (code : ℕ), (s.piFail h code).tiers.mem = s.tiers.mem := by
  intros; rfl
@[simp] theorem State.notReady_mem : ∀ (s : State) (h : Hdr), (s.notReady h).tiers.mem = s.tiers.mem := by
  intros; rfl
@[simp] theorem State.writeProtected_mem : ∀ (s : State) (h : Hdr), (s.writeProtected h).tiers.mem = s.tiers.mem := by
  intros; rfl
@[simp] theorem State.io_wf :
    ∀ (s : State) (h : Hdr) (nsid : ℕ) (wr : Bool) (f : Ns → State), Memory.wf s.tiers.mem = true → (∀ (a : Ns),
    Memory.wf (f a).tiers.mem = true) → Memory.wf (s.io h nsid wr f).tiers.mem = true := by
  intro s h n w f hs hf
  refine State.command_wf _ _ _ hs fun c => ?_
  repeat' split
  all_goals simp [hs, hf]
@[simp] theorem State.io_mem :
    ∀ (s : State) (h : Hdr) (nsid : ℕ) (wr : Bool) (f : Ns → State), (∀ (a : Ns), (f a).tiers.mem = s.tiers.mem) → (s.io
    h nsid wr f).tiers.mem = s.tiers.mem := by
  intros
  unfold State.io
  repeat' (first
    | rfl
    | assumption
    | solve_by_elim
    | split
    | (refine (foldl_mem _ _ _ ?_).trans ?_)
    | (intro _)
    | simp [*])
@[simp] theorem State.ioWrite_wf :
    ∀ (s : State) (h : Hdr) (nsid : ℕ) (f : Ns → State), Memory.wf s.tiers.mem = true → (∀ (a : Ns), Memory.wf (f
    a).tiers.mem = true) → Memory.wf (s.ioWrite h nsid f).tiers.mem = true := by
  intro s h n f hs hf
  refine State.io_wf _ _ _ _ _ hs fun c => ?_
  split <;> simp [hs, hf]
@[simp] theorem State.ioWrite_mem :
    ∀ (s : State) (h : Hdr) (nsid : ℕ) (f : Ns → State), (∀ (a : Ns), (f a).tiers.mem = s.tiers.mem) → (s.ioWrite h nsid
    f).tiers.mem = s.tiers.mem := by
  intros
  unfold State.ioWrite
  repeat' (first
    | rfl
    | assumption
    | solve_by_elim
    | split
    | (refine (foldl_mem _ _ _ ?_).trans ?_)
    | (intro _)
    | simp [*])
@[simp] theorem State.ranged_wf :
    ∀ (s : State) (h : Hdr) (n : Ns) (lba k : ℕ) (moves : Bool) (f : State), Memory.wf s.tiers.mem = true → Memory.wf
    f.tiers.mem = true → Memory.wf (s.ranged h n lba k moves f).tiers.mem = true := by
  intros; unfold State.ranged; (repeat' split) <;> simp [*]
@[simp] theorem State.ranged_mem :
    ∀ (s : State) (h : Hdr) (n : Ns) (lba k : ℕ) (moves : Bool) (f : State), f.tiers.mem = s.tiers.mem → (s.ranged h n
    lba k moves f).tiers.mem = s.tiers.mem := by
  intro s h n l k m f hf
  unfold State.ranged
  repeat' split
  all_goals simp [hf]
@[simp] theorem State.waitFor_mem : ∀ (s : State) (o : OutCmd), (s.waitFor o).tiers.mem = s.tiers.mem := by
  intros; rfl
@[simp] theorem State.giveOut_mem :
    ∀ (s : State) (h : Hdr) (w : MirWrite) (dw0 dw1 : W32), (s.giveOut h w dw0 dw1).tiers.mem = s.tiers.mem := by
  intros
  unfold State.giveOut
  repeat' (first
    | rfl
    | assumption
    | split
    | (refine (foldl_mem _ _ _ ?_).trans ?_)
    | (intro _)
    | simp)
@[simp] theorem State.runWrite_mem :
    ∀ (s : State) (h : Hdr) (nsid lba : ℕ) (bs : List PBlk) (dw0 dw1 : W32), (s.runWrite h nsid lba bs dw0
    dw1).tiers.mem = s.tiers.mem := by
  intros
  unfold State.runWrite
  repeat' (first
    | rfl
    | assumption
    | split
    | (refine (foldl_mem _ _ _ ?_).trans ?_)
    | (intro _)
    | simp)
@[simp] theorem State.runAppend_mem :
    ∀ (s : State) (h : Hdr) (nsid zslba : ℕ) (bs : List PBlk), (s.runAppend h nsid zslba bs).tiers.mem = s.tiers.mem := by
  intros
  unfold State.runAppend
  repeat' (first
    | rfl
    | assumption
    | split
    | (refine (foldl_mem _ _ _ ?_).trans ?_)
    | (intro _)
    | simp)
@[simp] theorem State.takeData_wf :
    ∀ (s : State) (h : Hdr) (bytes : ℕ) (body : Body) (run : State), Memory.wf s.tiers.mem = true → Memory.wf
    run.tiers.mem = true → Memory.wf (s.takeData h bytes body run).tiers.mem = true := by
  intros; unfold State.takeData; (repeat' split) <;> simp [*]
@[simp] theorem State.takeData_mem :
    ∀ (s : State) (h : Hdr) (bytes : ℕ) (body : Body) (run : State), run.tiers.mem = s.tiers.mem → (s.takeData h bytes
    body run).tiers.mem = s.tiers.mem := by
  intro s h n b f hf
  unfold State.takeData
  repeat' split
  all_goals simp [hf]
@[simp] theorem State.finishRead_mem :
    ∀ (s : State) (h : Hdr) (nsid lba nlb : ℕ) (send : Bool), (s.finishRead h nsid lba nlb send).tiers.mem = s.tiers.mem := by
  intros
  unfold State.finishRead
  repeat' (first
    | rfl
    | assumption
    | split
    | (refine (foldl_mem _ _ _ ?_).trans ?_)
    | (intro _)
    | simp)
@[simp] theorem State.startRead_mem :
    ∀ (s : State) (h : Hdr) (nsid slba nlb : ℕ) (send : Bool), (s.startRead h nsid slba nlb send).tiers.mem =
    s.tiers.mem := by
  intro s h n l k m
  refine State.io_mem _ _ _ _ _ fun n => ?_
  refine State.ranged_mem _ _ _ _ _ _ _ ?_
  split <;> simp
@[simp] theorem State.giveOutAll_mem :
    ∀ (s : State) (h : Hdr) (a : List MirWrite), (s.giveOutAll h a).tiers.mem = s.tiers.mem := by
  intro s h a
  induction a generalizing s with
  | nil => exact State.ok_mem s h
  | cons w t ih =>
    cases t with
    | nil => rw [State.giveOutAll]; simp
    | cons v t => rw [State.giveOutAll, ih]
                  · simp
                  · simp
@[simp] theorem State.createNs_mem :
    ∀ (s : State) (id group blocks : ℕ) (zoned : Bool) (pit : Option ProtType), (s.createNs id group blocks zoned
    pit).tiers.mem = s.tiers.mem := by
  intros; simp [State.createNs]
@[simp] theorem State.wipe_mem : ∀ (s : State) (n : Ns), (s.wipe n).tiers.mem = s.tiers.mem := by
  intros; rfl
@[simp] theorem State.deleteNs_mem : ∀ (s : State) (n : Ns), (s.deleteNs n).tiers.mem = s.tiers.mem := by
  intros; rfl
@[simp] theorem State.rootCtx_wf :
    ∀ (s : State) (h : Hdr) (f : State), Memory.wf s.tiers.mem = true → Memory.wf f.tiers.mem = true → Memory.wf
    (s.rootCtx h f).tiers.mem = true := by
  intro s h f hs hf
  refine State.arrive_wf _ _ _ hs fun c => ?_
  split
  · exact hf
  · simpa using hs
@[simp] theorem State.rootCtx_mem :
    ∀ (s : State) (h : Hdr) (f : State), f.tiers.mem = s.tiers.mem → (s.rootCtx h f).tiers.mem = s.tiers.mem := by
  intro s h f hf
  refine State.arrive_mem _ _ _ fun c => ?_
  split <;> simp [hf]
@[simp] theorem State.rekey_mem : ∀ (s : State) (n : Ns), (s.rekey n).tiers.mem = s.tiers.mem := by
  intros; rfl
@[simp] theorem State.ctxTouch_mem :
    ∀ (s : State) (c : Fin 64) (va n : ℕ), (s.ctxTouch c va n).tiers.mem = s.tiers.mem := by
  intros
  unfold State.ctxTouch
  repeat' (first
    | rfl
    | assumption
    | split
    | (refine (foldl_mem _ _ _ ?_).trans ?_)
    | (intro _)
    | simp)
@[simp] theorem State.ctxStreamed_mem : ∀ (s : State) (c : Fin 64) (va n : ℕ), (s.ctxStreamed c va n).tiers.mem =
    s.tiers.mem := by
  intros
  unfold State.ctxStreamed
  repeat' (first
    | rfl
    | assumption
    | split
    | (refine (foldl_mem _ _ _ ?_).trans ?_)
    | (intro _)
    | simp)
@[simp] theorem State.ctxWrite_wf :
    ∀ (s : State) (c : Fin 64) (va : ℕ) (bs : List Byte), Memory.wf s.tiers.mem = true → Memory.wf (s.ctxWrite c va
    bs).tiers.mem = true := by
  intro s c va bs h
  unfold State.ctxWrite
  dsimp only
  rw [State.ctxTouch_mem]
  refine Memory.wf_foldl _ _ _ (fun m b hm => Memory.wf_put _ _ _ hm) ?_
  refine foldl_wf _ _ _ h fun s p hs => ?_
  repeat' split
  all_goals simp [hs]
@[simp] theorem State.hostFault_mem : ∀ (s : State) (h : Hdr) (c : Fin 64) (p : ℕ) (wr : Bool) (body : Body),
    (s.hostFault h c p wr body).tiers.mem = s.tiers.mem := by
  intros; rfl
@[simp] theorem State.runMemRead_mem : ∀ (s : State) (h : Hdr) (c : Fin 64) (va len : ℕ), (s.runMemRead h c va
    len).tiers.mem = s.tiers.mem := by
  intros; unfold State.runMemRead; (repeat' split) <;> simp
@[simp] theorem State.runMemWrite_wf :
    ∀ (s : State) (h : Hdr) (c : Fin 64) (va : ℕ) (bs : List Byte), Memory.wf s.tiers.mem = true → Memory.wf
    (s.runMemWrite h c va bs).tiers.mem = true := by
  intros; unfold State.runMemWrite; (repeat' split) <;> simp [*]
@[simp] theorem State.dmaResume_wf : ∀ (s : State) (h : Hdr), Memory.wf s.tiers.mem = true → Memory.wf (s.dmaResume
    h).tiers.mem = true := by
  intros; unfold State.dmaResume; (repeat' split) <;> simp [*]
@[simp] theorem State.newAlloc_mem :
    ∀ (s : State) (c : Fin 64) (n : ℕ) (home : Tier) (pin zod large huge : Bool), (s.newAlloc c n home pin zod large
    huge).1.tiers.mem = s.tiers.mem := by
  intros; rfl
@[simp] theorem State.freeAlloc_mem : ∀ (s : State) (a : Alloc), (s.freeAlloc a).tiers.mem = s.tiers.mem := by
  intros; rfl
@[simp] theorem State.tierReq_mem :
    ∀ (s : State) (h : Hdr) (alloc first pages : ℕ) (f : Fin 64 → Alloc → State), (∀ (c : Fin 64) (a : Alloc), (f c a).tiers.mem =
    s.tiers.mem) → (s.tierReq h alloc first pages f).tiers.mem = s.tiers.mem := by
  intro s h a b c f hf
  refine State.commandAny_mem _ _ _ fun c => ?_
  repeat' split
  all_goals simp [hf]
@[simp] theorem State.refuseJob_mem :
    ∀ (s : State) (h : Hdr) (c : Fin 64) (sc : ℕ) (dw0 dw1 : W32), (s.refuseJob h c sc dw0 dw1).tiers.mem = s.tiers.mem := by
  intros; simp [State.refuseJob]
@[simp] theorem State.dropImage_mem : ∀ (s : State) (prog : ℕ), (s.dropImage prog).tiers.mem = s.tiers.mem := by
  intros; rfl
@[simp] theorem State.runLoad_mem :
    ∀ (s : State) (h : Hdr) (prog off total : ℕ) (data : List Byte), (s.runLoad h prog off total data).tiers.mem =
    s.tiers.mem := by
  intros
  unfold State.runLoad
  repeat' (first
    | rfl
    | assumption
    | split
    | (refine (foldl_mem _ _ _ ?_).trans ?_)
    | (intro _)
    | simp)
@[simp] theorem State.fillPage_wf :
    ∀ (s : State) (alloc : ℕ) (bs : List Byte), Memory.wf s.tiers.mem = true → Memory.wf (s.fillPage alloc bs).tiers.mem
    = true := by
  intro s a bs h
  unfold State.fillPage
  split
  · exact Memory.wf_putAll _ _ _ h
  · exact h
@[simp] theorem State.placeExec_mem :
    ∀ (s : State) (i : Image) (e : Exec), (s.placeExec i e).tiers.mem = s.tiers.mem := by
  intro s i e
  unfold State.placeExec
  dsimp only
  repeat' split
  all_goals simp
@[simp] theorem State.runIngest_mem :
    ∀ (s : State) (id : ℕ) (o : ObjCmd) (slm : Bool), (s.runIngest id o slm).tiers.mem = s.tiers.mem := by
  intros
  unfold State.runIngest
  repeat' (first
    | rfl
    | assumption
    | split
    | (refine (foldl_mem _ _ _ ?_).trans ?_)
    | (intro _)
    | simp)
@[simp] theorem State.dataArrived_wf :
    ∀ (s : State) (o : OutCmd), Memory.wf s.tiers.mem = true → Memory.wf (s.dataArrived o).tiers.mem = true := by
  intros; unfold State.dataArrived; (repeat' split) <;> simp [*]
@[simp] theorem State.regFail_mem :
    ∀ (s : State) (h : Hdr) (f : RegFault), (s.regFail h f).tiers.mem = s.tiers.mem := by
  intros
  unfold State.regFail
  repeat' (first
    | rfl
    | assumption
    | split
    | (refine (foldl_mem _ _ _ ?_).trans ?_)
    | (intro _)
    | simp)
@[simp] theorem State.putBudget_mem : ∀ (s : State) (v : ℕ), (s.putBudget v).tiers.mem = s.tiers.mem := by
  intros
  unfold State.putBudget
  repeat' (first
    | rfl
    | assumption
    | split
    | (refine (foldl_mem _ _ _ ?_).trans ?_)
    | (intro _)
    | simp)
@[simp] theorem State.putCap_mem : ∀ (s : State) (v : ℕ), (s.putCap v).tiers.mem = s.tiers.mem := by
  intros
  unfold State.putCap
  repeat' (first
    | rfl
    | assumption
    | split
    | (refine (foldl_mem _ _ _ ?_).trans ?_)
    | (intro _)
    | simp)
@[simp] theorem State.putSlot_mem : ∀ (s : State) (id n : ℕ) (v : W64), (s.putSlot id n v).tiers.mem = s.tiers.mem := by
  intros; rfl
@[simp] theorem State.putFirst_mem : ∀ (s : State) (v : W64), (s.putFirst v).tiers.mem = s.tiers.mem := by
  intros
  unfold State.putFirst
  repeat' (first
    | rfl
    | assumption
    | split
    | (refine (foldl_mem _ _ _ ?_).trans ?_)
    | (intro _)
    | simp)
@[simp] theorem State.putSticky_mem : ∀ (s : State) (n : ℕ) (v : W64), (s.putSticky n v).tiers.mem = s.tiers.mem := by
  intros; rfl
@[simp] theorem State.putInj_mem :
    ∀ (s : State) (n mask count : ℕ), (s.putInj n mask count).tiers.mem = s.tiers.mem := by
  intros; rfl
@[simp] theorem State.putTrace_mem : ∀ (s : State) (v : W64), (s.putTrace v).tiers.mem = s.tiers.mem := by
  intros; rfl
@[simp] theorem State.putTraceEn_mem : ∀ (s : State) (n : ℕ) (v : W64), (s.putTraceEn n v).tiers.mem = s.tiers.mem := by
  intros; rfl
@[simp] theorem State.putLamp_mem : ∀ (s : State) (v : W64), (s.putLamp v).tiers.mem = s.tiers.mem := by
  intros; rfl
@[simp] theorem State.putPhy_mem : ∀ (s : State) (v : W64), (s.putPhy v).tiers.mem = s.tiers.mem := by
  intros; rfl
@[simp] theorem State.putReg_mem :
    ∀ (s : State) (h : Hdr) (r : RegSel) (v : W64), (s.putReg h r v).tiers.mem = s.tiers.mem := by
  intros
  unfold State.putReg
  repeat' (first
    | rfl
    | assumption
    | split
    | (refine (foldl_mem _ _ _ ?_).trans ?_)
    | (intro _)
    | simp)
@[simp] theorem State.logRefused_mem :
    ∀ (s : State) (h : Hdr) (r : RegSel), (s.logRefused h r).tiers.mem = s.tiers.mem := by
  intros; unfold State.logRefused; (repeat' split) <;> simp
@[simp] theorem State.writeReg_mem :
    ∀ (s : State) (h : Hdr) (r : RegSel) (v : W64), (s.writeReg h r v).tiers.mem = s.tiers.mem := by
  intro s h r v
  refine State.arriveAny_mem _ _ _ fun c => ?_
  repeat' split
  all_goals simp
@[simp] theorem State.dequeue_mem : ∀ (s : State) (fs : List FaultRec), (s.dequeue fs).tiers.mem = s.tiers.mem := by
  intros; rfl
@[simp] theorem State.answered_wf :
    ∀ (s : State) (f : FaultRec), Memory.wf s.tiers.mem = true → Memory.wf (s.answered f).tiers.mem = true := by
  intro s f h
  unfold State.answered
  refine foldl_wf _ _ _ ?_ fun s r hs => State.dmaResume_wf _ _ hs
  rw [State.dequeue_mem]; exact h
@[simp] theorem State.refuseFault_mem : ∀ (s : State) (f : FaultRec) (sc : ℕ) (dw : W32 × W32), (s.refuseFault f sc
    dw).tiers.mem = s.tiers.mem := by
  intros
  unfold State.refuseFault
  repeat' (first
    | rfl
    | assumption
    | split
    | (refine (foldl_mem _ _ _ ?_).trans ?_)
    | (intro _)
    | simp)
@[simp] theorem State.stage_mem :
    ∀ (s : State) (f : Firmware) (b on : Bool), (s.stage f b on).tiers.mem = s.tiers.mem := by
  intros; rfl
@[simp] theorem State.bindNqn_mem :
    ∀ (s : State) (nqn : List ℕ) (c : Fin 64), (s.bindNqn nqn c).tiers.mem = s.tiers.mem := by
  intros; rfl
@[simp] theorem State.endPolicyWait_mem : ∀ (s : State), s.endPolicyWait.tiers.mem = s.tiers.mem := by
  intros; rfl
@[simp] theorem State.move_mem : ∀ (s : State) (sb : ℕ) (gc : Bool), (s.move sb gc).tiers.mem = s.tiers.mem := by
  intros
  unfold State.move
  repeat' (first
    | rfl
    | assumption
    | split
    | (refine (foldl_mem _ _ _ ?_).trans ?_)
    | (intro _)
    | simp)
@[simp] theorem State.eraseBlock_mem :
    ∀ (s : State) (sb : ℕ) (ch : Fin 32), (s.eraseBlock sb ch).tiers.mem = s.tiers.mem := by
  intros; rfl
@[simp] theorem State.eraseSome_mem : ∀ (s : State) (sb : ℕ), (s.eraseSome sb).tiers.mem = s.tiers.mem := by
  intros
  unfold State.eraseSome
  repeat' (first
    | rfl
    | assumption
    | split
    | (refine (foldl_mem _ _ _ ?_).trans ?_)
    | (intro _)
    | simp)
@[simp] theorem State.eraseSb_mem : ∀ (s : State) (sb : ℕ), (s.eraseSb sb).tiers.mem = s.tiers.mem := by
  intros
  unfold State.eraseSb
  repeat' (first
    | rfl
    | assumption
    | split
    | (refine (foldl_mem _ _ _ ?_).trans ?_)
    | (intro _)
    | simp)
@[simp] theorem State.eraseDone_mem : ∀ (s : State) (op : DieOp), (s.eraseDone op).tiers.mem = s.tiers.mem := by
  intros
  unfold State.eraseDone
  repeat' (first
    | rfl
    | assumption
    | split
    | (refine (foldl_mem _ _ _ ?_).trans ?_)
    | (intro _)
    | simp)
@[simp] theorem State.eraseAgain_mem :
    ∀ (s : State) (sb : ℕ) (ch : Fin 32), (s.eraseAgain sb ch).tiers.mem = s.tiers.mem := by
  intros; rfl
@[simp] theorem State.collect_mem : ∀ (s : State) (sb : ℕ), (s.collect sb).tiers.mem = s.tiers.mem := by
  intros
  unfold State.collect
  repeat' (first
    | rfl
    | assumption
    | split
    | (refine (foldl_mem _ _ _ ?_).trans ?_)
    | (intro _)
    | simp)
@[simp] theorem State.rewrite_mem : ∀ (s : State) (key : ℕ), (s.rewrite key).tiers.mem = s.tiers.mem := by
  intros
  unfold State.rewrite
  repeat' (first
    | rfl
    | assumption
    | split
    | (refine (foldl_mem _ _ _ ?_).trans ?_)
    | (intro _)
    | simp)
@[simp] theorem State.readTo_mem :
    ∀ (s : State) (rd : Reader) (nsid lba : ℕ) (e : ReadEnd), (s.readTo rd nsid lba e).tiers.mem = s.tiers.mem := by
  intros
  unfold State.readTo
  repeat' (first
    | rfl
    | assumption
    | split
    | (refine (foldl_mem _ _ _ ?_).trans ?_)
    | (intro _)
    | simp)
@[simp] theorem State.clearFaults_mem : ∀ (s : State), s.clearFaults.tiers.mem = s.tiers.mem := by
  intros; rfl
@[simp] theorem State.allOff_mem : ∀ (s : State), s.allOff.tiers.mem = s.tiers.mem := by
  intros; rfl
@[simp] theorem State.aoStart_mem : ∀ (s : State), s.aoStart.tiers.mem = s.tiers.mem := by
  intros
  unfold State.aoStart
  repeat' (first
    | rfl
    | assumption
    | split
    | (refine (foldl_mem _ _ _ ?_).trans ?_)
    | (intro _)
    | simp)
@[simp] theorem State.atStart_mem : ∀ (s : State), s.atStart.tiers.mem = s.tiers.mem := by
  intros; rfl
@[simp] theorem State.tryStart_mem : ∀ (s : State), s.tryStart.tiers.mem = s.tiers.mem := by
  intros
  unfold State.tryStart
  repeat' (first
    | rfl
    | assumption
    | split
    | (refine (foldl_mem _ _ _ ?_).trans ?_)
    | (intro _)
    | simp)
@[simp] theorem State.losePower_wf :
    ∀ (s : State), Memory.wf s.tiers.mem = true → Memory.wf s.losePower.tiers.mem = true := by
  intros; unfold State.losePower; (repeat' split) <;> simp [*]
@[simp] theorem State.lose48_wf :
    ∀ (s : State), Memory.wf s.tiers.mem = true → Memory.wf s.lose48.tiers.mem = true := by
  intros
  unfold State.lose48
  repeat' (first
    | assumption
    | solve_by_elim
    | split
    | (refine foldl_wf _ _ _ ?_ ?_)
    | (intro _)
    | simp [*])
@[simp] theorem State.recoverFlash_mem : ∀ (s : State), s.recoverFlash.tiers.mem = s.tiers.mem := by
  intros
  unfold State.recoverFlash
  repeat' (first
    | rfl
    | assumption
    | split
    | (refine (foldl_mem _ _ _ ?_).trans ?_)
    | (intro _)
    | simp)
@[simp] theorem State.afterReset_mem :
    ∀ (s : State) (done : List ℕ) (o : DieOp), (s.afterReset done o).tiers.mem = s.tiers.mem := by
  intros
  unfold State.afterReset
  repeat' (first
    | rfl
    | assumption
    | split
    | (refine (foldl_mem _ _ _ ?_).trans ?_)
    | (intro _)
    | simp)
@[simp] theorem State.bridgeBack_wf :
    ∀ (s : State) (b : Fin 16) (done : List ℕ), Memory.wf s.tiers.mem = true → Memory.wf (s.bridgeBack b done).tiers.mem
    = true := by
  intros
  unfold State.bridgeBack
  dsimp only
  repeat' (first
    | assumption
    | split
    | (refine foldl_wf _ _ _ ?_ ?_)
    | (intro _)
    | simp [*])
@[simp] theorem State.modCage_mem :
    ∀ (s : State) (g : Fin 4) (f : Cable → Cable), (s.modCage g f).tiers.mem = s.tiers.mem := by
  intros; rfl
@[simp] theorem State.lightCage_mem : ∀ (s : State) (g : Fin 4), (s.lightCage g).tiers.mem = s.tiers.mem := by
  intros; rfl
@[simp] theorem State.laneUp_mem :
    ∀ (s : State) (g : Fin 4) (lane : Fin 8) (p : TrainPat), (s.laneUp g lane p).tiers.mem = s.tiers.mem := by
  intros
  unfold State.laneUp
  repeat' (first
    | rfl
    | assumption
    | split
    | (refine (foldl_mem _ _ _ ?_).trans ?_)
    | (intro _)
    | simp)
@[simp] theorem State.groupFails_wf :
    ∀ (s : State) (g : Fin 4), Memory.wf s.tiers.mem = true → Memory.wf (s.groupFails g).tiers.mem = true := by
  intros; unfold State.groupFails; (repeat' split) <;> simp [*]
@[simp] theorem State.putPage_wf :
    ∀ (s : State) (key : ℕ) (data : List Byte), Memory.wf s.tiers.mem = true → Memory.wf (s.putPage key data).tiers.mem
    = true := by
  intro s k d h
  unfold State.putPage
  dsimp only
  refine Memory.wf_putAll _ _ _ ?_
  repeat' split
  all_goals simp [h]
@[simp] theorem State.putStaging_wf :
    ∀ (s : State) (g : Staging), Memory.wf s.tiers.mem = true → Memory.wf (s.putStaging g).tiers.mem = true := by
  intros
  unfold State.putStaging
  repeat' (first
    | assumption
    | solve_by_elim
    | split
    | (refine foldl_wf _ _ _ ?_ ?_)
    | (intro _)
    | simp [*])
@[simp] theorem State.takeJobs_wf :
    ∀ (s : State), Memory.wf s.tiers.mem = true → Memory.wf s.takeJobs.tiers.mem = true := by
  intros
  unfold State.takeJobs
  dsimp only
  repeat' (first
    | assumption
    | split
    | (refine foldl_wf _ _ _ ?_ ?_)
    | (intro _)
    | simp [*])
@[simp] theorem State.takeWrites_mem : ∀ (s : State), s.takeWrites.tiers.mem = s.tiers.mem := by
  intros
  unfold State.takeWrites
  dsimp only
  repeat' (first
    | rfl
    | assumption
    | split
    | (refine (foldl_mem _ _ _ ?_).trans ?_)
    | (intro _)
    | simp)
@[simp] theorem State.takeGroups_mem : ∀ (s : State), s.takeGroups.tiers.mem = s.tiers.mem := by
  intros
  unfold State.takeGroups
  dsimp only
  repeat' (first
    | rfl
    | assumption
    | split
    | (refine (foldl_mem _ _ _ ?_).trans ?_)
    | (intro _)
    | simp)
@[simp] theorem State.takeTwins_mem : ∀ (s : State), s.takeTwins.tiers.mem = s.tiers.mem := by
  intro s
  unfold State.takeTwins
  refine foldl_mem _ _ _ fun s i => ?_
  repeat' split
  all_goals simp
@[simp] theorem State.takeover_wf :
    ∀ (s : State), Memory.wf s.tiers.mem = true → Memory.wf s.takeover.tiers.mem = true := by
  intro s h
  unfold State.takeover
  simp [h]
@[simp] theorem State.sendGroup_mem :
    ∀ (s : State) (g : ℕ) (all : Bool), (s.sendGroup g all).tiers.mem = s.tiers.mem := by
  intros
  unfold State.sendGroup
  dsimp only
  repeat' (first
    | rfl
    | assumption
    | split
    | (refine (foldl_mem _ _ _ ?_).trans ?_)
    | (intro _)
    | simp)
@[simp] theorem State.resilver_mem : ∀ (s : State) (all : Bool), (s.resilver all).tiers.mem = s.tiers.mem := by
  intros; unfold State.resilver; (repeat' split) <;> simp
@[simp] theorem State.resilverEnd_mem : ∀ (s : State), s.resilverEnd.tiers.mem = s.tiers.mem := by
  intros
  unfold State.resilverEnd
  dsimp only
  repeat' (first
    | rfl
    | assumption
    | split
    | (refine (foldl_mem _ _ _ ?_).trans ?_)
    | (intro _)
    | simp)
@[simp] theorem State.keepOurs_mem : ∀ (s : State) (g : ℕ), (s.keepOurs g).tiers.mem = s.tiers.mem := by
  intros
  simp only [State.keepOurs]
  repeat' (first
    | rfl
    | assumption
    | split
    | (refine (foldl_mem _ _ _ ?_).trans ?_)
    | (intro _)
    | simp)
@[simp] theorem State.keepTheirs_mem : ∀ (s : State) (g : ℕ), (s.keepTheirs g).tiers.mem = s.tiers.mem := by
  intros
  simp only [State.keepTheirs]
  repeat' (first
    | rfl
    | assumption
    | split
    | (refine (foldl_mem _ _ _ ?_).trans ?_)
    | (intro _)
    | simp)
@[simp] theorem State.join_mem : ∀ (s : State), s.join.tiers.mem = s.tiers.mem := by
  intros; unfold State.join; (repeat' split) <;> simp
@[simp] theorem State.deallocOld_mem :
    ∀ (s : State) (w : MirWrite) (n : ℕ), (s.deallocOld w n).tiers.mem = s.tiers.mem := by
  intros; rfl
@[simp] theorem State.takeCopy_mem : ∀ (s : State) (w : MirWrite), (s.takeCopy w).tiers.mem = s.tiers.mem := by
  intros
  simp only [State.takeCopy]
  repeat' (first
    | rfl
    | assumption
    | split
    | (refine (foldl_mem _ _ _ ?_).trans ?_)
    | (intro _)
    | simp)
@[simp] theorem State.noteApplied_mem : ∀ (s : State) (w : MirWrite), (s.noteApplied w).tiers.mem = s.tiers.mem := by
  intros
  unfold State.noteApplied
  dsimp only
  repeat' (first
    | rfl
    | assumption
    | split
    | (refine (foldl_mem _ _ _ ?_).trans ?_)
    | (intro _)
    | simp)
@[simp] theorem State.ackWrite_mem : ∀ (s : State) (w : MirWrite), (s.ackWrite w).tiers.mem = s.tiers.mem := by
  intros; rfl
@[simp] theorem State.takeUnsynced_mem : ∀ (s : State) (w : MirWrite), (s.takeUnsynced w).tiers.mem = s.tiers.mem := by
  intros
  unfold State.takeUnsynced
  dsimp only
  repeat' (first
    | rfl
    | assumption
    | split
    | (refine (foldl_mem _ _ _ ?_).trans ?_)
    | (intro _)
    | simp)
@[simp] theorem State.takeNext_mem : ∀ (s : State) (w : MirWrite), (s.takeNext w).tiers.mem = s.tiers.mem := by
  intros
  simp only [State.takeNext]
  repeat' (first
    | rfl
    | assumption
    | split
    | (refine (foldl_mem _ _ _ ?_).trans ?_)
    | (intro _)
    | simp)
@[simp] theorem State.order_mem : ∀ (s : State) (w : MirWrite), (s.order w).tiers.mem = s.tiers.mem := by
  intros
  unfold State.order
  dsimp only
  repeat' (first
    | rfl
    | assumption
    | split
    | (refine (foldl_mem _ _ _ ?_).trans ?_)
    | (intro _)
    | simp)
@[simp] theorem State.takeSent_wf :
    ∀ (s : State) (w : MirWrite), Memory.wf s.tiers.mem = true → Memory.wf (s.takeSent w).tiers.mem = true := by
  intros; unfold State.takeSent; (repeat' split) <;> simp [*]
@[simp] theorem takeRipe_wf :
    ∀ (a : ℕ) (a_1 : State), Memory.wf a_1.tiers.mem = true → Memory.wf (takeRipe a a_1).tiers.mem = true := by
  intro n
  induction n with
  | zero => exact fun _ h => h
  | succ n ih =>
    intro s h
    unfold takeRipe
    split
    · exact h
    · refine ih _ ?_
      split <;> simp [h]
@[simp] theorem State.putArea_mem : ∀ (s : State) (g : Staging), (s.putArea g).tiers.mem = s.tiers.mem := by
  intros; rfl
@[simp] theorem State.settleArea_wf :
    ∀ (s : State) (g : Staging), Memory.wf s.tiers.mem = true → Memory.wf (s.settleArea g).tiers.mem = true := by
  intros; unfold State.settleArea; (repeat' split) <;> simp [*]
@[simp] theorem State.handNow_mem : ∀ (s : State) (num : ℕ), (s.handNow num).tiers.mem = s.tiers.mem := by
  intros; unfold State.handNow; (repeat' split) <;> simp
@[simp] theorem State.adoptGroups_mem :
    ∀ (s : State) (prev e : EpochImage), (s.adoptGroups prev e).tiers.mem = s.tiers.mem := by
  intros
  unfold State.adoptGroups
  dsimp only
  repeat' (first
    | rfl
    | assumption
    | split
    | (refine (foldl_mem _ _ _ ?_).trans ?_)
    | (intro _)
    | simp)
@[simp] theorem State.adoptNss_mem :
    ∀ (s : State) (prev e : EpochImage), (s.adoptNss prev e).tiers.mem = s.tiers.mem := by
  intros
  unfold State.adoptNss
  dsimp only
  repeat' (first
    | rfl
    | assumption
    | split
    | (refine (foldl_mem _ _ _ ?_).trans ?_)
    | (intro _)
    | simp)
@[simp] theorem State.adoptAllocs_mem :
    ∀ (s : State) (prev e : EpochImage), (s.adoptAllocs prev e).tiers.mem = s.tiers.mem := by
  intros
  unfold State.adoptAllocs
  dsimp only
  repeat' (first
    | rfl
    | assumption
    | split
    | (refine (foldl_mem _ _ _ ?_).trans ?_)
    | (intro _)
    | simp)
@[simp] theorem State.adoptSettings_mem :
    ∀ (s : State) (prev e : EpochImage), (s.adoptSettings prev e).tiers.mem = s.tiers.mem := by
  intros; rfl
@[simp] theorem State.adoptTable_mem : ∀ (s : State) (e : EpochImage), (s.adoptTable e).tiers.mem = s.tiers.mem := by
  intros
  unfold State.adoptTable
  dsimp only
  repeat' (first
    | rfl
    | assumption
    | split
    | (refine (foldl_mem _ _ _ ?_).trans ?_)
    | (intro _)
    | simp)
@[simp] theorem State.adoptStaging_mem :
    ∀ (s : State) (prev e : EpochImage), (s.adoptStaging prev e).tiers.mem = s.tiers.mem := by
  intros; rfl
@[simp] theorem State.adopt_mem : ∀ (s : State) (prev e : EpochImage), (s.adopt prev e).tiers.mem = s.tiers.mem := by
  intros
  unfold State.adopt
  dsimp only
  repeat' (first
    | rfl
    | assumption
    | split
    | (refine (foldl_mem _ _ _ ?_).trans ?_)
    | (intro _)
    | simp)
@[simp] theorem State.untrained_mem : ∀ (s : State), s.untrained.tiers.mem = s.tiers.mem := by
  intros; rfl
@[simp] theorem State.pairDone_mem : ∀ (s : State) (good : Bool), (s.pairDone good).tiers.mem = s.tiers.mem := by
  intros
  simp only [State.pairDone]
  repeat' (first
    | rfl
    | assumption
    | split
    | (refine (foldl_mem _ _ _ ?_).trans ?_)
    | (intro _)
    | simp)
@[simp] theorem State.pairFails_mem : ∀ (s : State), s.pairFails.tiers.mem = s.tiers.mem := by
  intros
  unfold State.pairFails
  dsimp only
  repeat' (first
    | rfl
    | assumption
    | split
    | (refine (foldl_mem _ _ _ ?_).trans ?_)
    | (intro _)
    | simp)
@[simp] theorem State.pairMade_mem : ∀ (s : State), s.pairMade.tiers.mem = s.tiers.mem := by
  intros
  unfold State.pairMade
  dsimp only
  repeat' (first
    | rfl
    | assumption
    | split
    | (refine (foldl_mem _ _ _ ?_).trans ?_)
    | (intro _)
    | simp)
@[simp] theorem State.handOver_mem : ∀ (s : State) (g : ℕ), (s.handOver g).tiers.mem = s.tiers.mem := by
  intros
  simp only [State.handOver]
  repeat' (first
    | rfl
    | assumption
    | split
    | (refine (foldl_mem _ _ _ ?_).trans ?_)
    | (intro _)
    | simp)
@[simp] theorem State.remapTile_mem :
    ∀ (s : State) (row col word : ℕ), (s.remapTile row col word).tiers.mem = s.tiers.mem := by
  intros
  unfold State.remapTile
  dsimp only
  repeat' (first
    | rfl
    | assumption
    | split
    | (refine (foldl_mem _ _ _ ?_).trans ?_)
    | (intro _)
    | simp)
@[simp] theorem State.remapBank_mem : ∀ (s : State) (n word : ℕ), (s.remapBank n word).tiers.mem = s.tiers.mem := by
  intros
  unfold State.remapBank
  dsimp only
  repeat' (first
    | rfl
    | assumption
    | split
    | (refine (foldl_mem _ _ _ ?_).trans ?_)
    | (intro _)
    | simp)
@[simp] theorem State.countParity_mem : ∀ (s : State), s.countParity.tiers.mem = s.tiers.mem := by
  intros; rfl
@[simp] theorem State.noteWord_mem :
    ∀ (s : State) (exec : Option ℕ) (word : ℕ), (s.noteWord exec word).tiers.mem = s.tiers.mem := by
  intros
  simp only [State.noteWord]
  repeat' (first
    | rfl
    | assumption
    | split
    | (refine (foldl_mem _ _ _ ?_).trans ?_)
    | (intro _)
    | simp)
@[simp] theorem State.sramError_wf :
    ∀ (s : State) (u : SramUnit) (word : ℕ) (dirty fails : Bool) (exec : Option ℕ), Memory.wf s.tiers.mem = true →
    Memory.wf (s.sramError u word dirty fails exec).tiers.mem = true := by
  intros; unfold State.sramError; (repeat' split) <;> simp [*]
@[simp] theorem State.poisonWord_mem : ∀ (s : State) (w : ℕ), (s.poisonWord w).tiers.mem = s.tiers.mem := by
  intros; rfl
@[simp] theorem State.renew_mem : ∀ (s : State) (a : Alloc) (i : ℕ), (s.renew a i).tiers.mem = s.tiers.mem := by
  intros; unfold State.renew; (repeat' split) <;> simp
@[simp] theorem State.corrected_mem : ∀ (s : State) (w : ℕ), (s.corrected w).tiers.mem = s.tiers.mem := by
  intros
  unfold State.corrected
  dsimp only
  repeat' (first
    | rfl
    | assumption
    | split
    | (refine (foldl_mem _ _ _ ?_).trans ?_)
    | (intro _)
    | simp)
@[simp] theorem State.resetComp_mem : ∀ (s : State) (c : Fin 16), (s.resetComp c).tiers.mem = s.tiers.mem := by
  intros; unfold State.resetComp; (repeat' split) <;> simp
@[simp] theorem State.checkerFails_wf :
    ∀ (s : State) (src : Fin 256), Memory.wf s.tiers.mem = true → Memory.wf (s.checkerFails src).tiers.mem = true := by
  intro s src h
  unfold State.checkerFails
  dsimp only
  repeat' split
  all_goals first
    | (simp only [State.fenceTile_mem, State.leaveComp_mem, State.portDown_mem, State.groupDown_mem]; exact h)
    | (refine State.meet_wf _ _ ?_; rw [State.recordFirst_mem, State.record1_mem]; exact h)
@[simp] theorem State.setKeep_mem : ∀ (s : State) (n : ℕ), (s.setKeep n).tiers.mem = s.tiers.mem := by
  intros; rfl
@[simp] theorem State.beginStretch_wf : ∀ (s : State), Memory.wf s.tiers.mem = true → Memory.wf
    s.beginStretch.tiers.mem = true := by
  intros
  unfold State.beginStretch
  dsimp only
  repeat' split
  all_goals simp [*]
@[simp] theorem State.setRung_mem : ∀ (s : State) (r : ℕ), (s.setRung r).tiers.mem = s.tiers.mem := by
  intros; unfold State.setRung; (repeat' split) <;> simp
@[simp] theorem State.ladderTick_mem : ∀ (s : State) (p1 : ℕ), (s.ladderTick p1).tiers.mem = s.tiers.mem := by
  intros
  unfold State.ladderTick
  dsimp only
  repeat' (first
    | rfl
    | assumption
    | split
    | (refine (foldl_mem _ _ _ ?_).trans ?_)
    | (intro _)
    | simp)
@[simp] theorem State.flagPhys_mem : ∀ (s : State) (b : ℕ), (s.flagPhys b).tiers.mem = s.tiers.mem := by
  intros; rfl
@[simp] theorem State.mistake_wf :
    ∀ (s : State) (b : ℕ), Memory.wf s.tiers.mem = true → Memory.wf (s.mistake b).tiers.mem = true := by
  intros; unfold State.mistake; (repeat' split) <;> simp [*]
@[simp] theorem State.loseTherm_wf :
    ∀ (s : State) (outlet second : Bool), Memory.wf s.tiers.mem = true → Memory.wf (s.loseTherm outlet second).tiers.mem
    = true := by
  intros; unfold State.loseTherm; (repeat' split) <;> simp [*]
@[simp] theorem State.checkTherm_wf :
    ∀ (s : State) (outlet second : Bool) (t : ℤ), Memory.wf s.tiers.mem = true → Memory.wf (s.checkTherm outlet second
    t).tiers.mem = true := by
  intros; unfold State.checkTherm; (repeat' split) <;> simp [*]
@[simp] theorem State.liftReverse_mem : ∀ (s : State), s.liftReverse.tiers.mem = s.tiers.mem := by
  intros
  unfold State.liftReverse
  dsimp only
  repeat' (first
    | rfl
    | assumption
    | split
    | (refine (foldl_mem _ _ _ ?_).trans ?_)
    | (intro _)
    | simp)
@[simp] theorem State.countTemp_mem : ∀ (s : State) (c : ℤ), (s.countTemp c).tiers.mem = s.tiers.mem := by
  intros; rfl
@[simp] theorem State.noBoot_mem : ∀ (s : State), s.noBoot.tiers.mem = s.tiers.mem := by
  intros; rfl
@[simp] theorem State.endTrial_mem : ∀ (s : State), s.endTrial.tiers.mem = s.tiers.mem := by
  intros; unfold State.endTrial; (repeat' split) <;> simp
@[simp] theorem State.beginTrial_mem :
    ∀ (s : State) (old new : Option FwImage), (s.beginTrial old new).tiers.mem = s.tiers.mem := by
  intros
  unfold State.beginTrial
  dsimp only
  repeat' (first
    | rfl
    | assumption
    | split
    | (refine (foldl_mem _ _ _ ?_).trans ?_)
    | (intro _)
    | simp)
@[simp] theorem State.loadStore_mem : ∀ (s : State), s.loadStore.tiers.mem = s.tiers.mem := by
  intros
  unfold State.loadStore
  dsimp only
  repeat' (first
    | rfl
    | assumption
    | split
    | (refine (foldl_mem _ _ _ ?_).trans ?_)
    | (intro _)
    | simp)
@[simp] theorem State.boot_mem : ∀ (s : State) (b : Bool), (s.boot b).tiers.mem = s.tiers.mem := by
  intros
  unfold State.boot
  dsimp only
  repeat' (first
    | rfl
    | assumption
    | split
    | (refine (foldl_mem _ _ _ ?_).trans ?_)
    | (intro _)
    | simp)
@[simp] theorem State.bringUp_mem :
    ∀ (s : State) (selfTestFails : List (ℕ × ℕ)), (s.bringUp selfTestFails).tiers.mem = s.tiers.mem := by
  intros
  simp only [State.bringUp]
  repeat' (first
    | rfl
    | assumption
    | split
    | (refine (foldl_mem _ _ _ ?_).trans ?_)
    | (intro _)
    | simp)
@[simp] theorem State.firmwareUp_mem : ∀ (s : State), s.firmwareUp.tiers.mem = s.tiers.mem := by
  intros; rfl
@[simp] theorem State.startTests_wf :
    ∀ (s : State) (bad : List (Fin 256)), Memory.wf s.tiers.mem = true → Memory.wf (s.startTests bad).tiers.mem = true := by
  intro s bad h
  have hc : Memory.wf (bad.foldl State.checkerFails s).tiers.mem = true := foldl_wf _ _ _ h fun s n hs => State.checkerFails_wf s n hs
  unfold State.startTests
  extract_lets s1 s2 s3
  have h1 : Memory.wf s1.tiers.mem = true := hc
  clear_value s1
  repeat' split
  · exact State.powerDown_wf _ h1
  · exact h1
  · show Memory.wf s1.firmwareUp.tiers.mem = true
    rw [State.firmwareUp_mem]; exact h1
@[simp] theorem State.beginShutdown_mem :
    ∀ (s : State) (byPin : Bool), (s.beginShutdown byPin).tiers.mem = s.tiers.mem := by
  intros
  simp only [State.beginShutdown]
  repeat' (first
    | rfl
    | assumption
    | split
    | (refine (foldl_mem _ _ _ ?_).trans ?_)
    | (intro _)
    | simp)
@[simp] theorem State.endShutdown_wf :
    ∀ (s : State), Memory.wf s.tiers.mem = true → Memory.wf s.endShutdown.tiers.mem = true := by
  intro s h
  unfold State.endShutdown
  dsimp only
  have hf : Memory.wf s.flushAll.tiers.mem = true := by rw [State.flushAll_mem]; exact h
  split
  · exact State.fallBack_wf _ hf
  · rw [State.tryStart_mem]
    exact State.powerDown_wf _ hf
@[simp] theorem State.shutDark_wf :
    ∀ (s : State), Memory.wf s.tiers.mem = true → Memory.wf s.shutDark.tiers.mem = true := by
  intros; unfold State.shutDark; (repeat' split) <;> simp [*]
@[simp] theorem State.stopJobs_mem : ∀ (s : State), s.stopJobs.tiers.mem = s.tiers.mem := by
  intros
  simp only [State.stopJobs]
  repeat' (first
    | rfl
    | assumption
    | split
    | (refine (foldl_mem _ _ _ ?_).trans ?_)
    | (intro _)
    | simp)
@[simp] theorem State.shutdownOver_wf : ∀ (s : State), Memory.wf s.tiers.mem = true → Memory.wf
    s.shutdownOver.tiers.mem = true := by
  intros; unfold State.shutdownOver; (repeat' split) <;> simp [*]
@[simp] theorem State.raiseEn_mem : ∀ (s : State), s.raiseEn.tiers.mem = s.tiers.mem := by
  intros
  simp only [State.raiseEn]
  repeat' (first
    | rfl
    | assumption
    | split
    | (refine (foldl_mem _ _ _ ?_).trans ?_)
    | (intro _)
    | simp)
@[simp] theorem State.miFree_mem :
    ∀ (s : State) (h : Hdr) (known : List ℕ), (s.miFree h known).tiers.mem = s.tiers.mem := by
  intros
  simp only [State.miFree]
  repeat' (first
    | rfl
    | assumption
    | split
    | (refine (foldl_mem _ _ _ ?_).trans ?_)
    | (intro _)
    | simp)
@[simp] theorem State.putSecret_mem :
    ∀ (s : State) (nqn : List ℕ) (secret : BitVec 512) (psk : Option (BitVec 512)), (s.putSecret nqn secret
    psk).tiers.mem = s.tiers.mem := by
  intros; rfl
@[simp] theorem State.modCageSt_mem :
    ∀ (s : State) (twin : Bool) (cage : Fin 4) (f : CageSt → CageSt), (s.modCageSt twin cage f).tiers.mem = s.tiers.mem := by
  intros
  simp only [State.modCageSt]
  repeat' (first
    | rfl
    | assumption
    | split
    | (refine (foldl_mem _ _ _ ?_).trans ?_)
    | (intro _)
    | simp)
@[simp] theorem State.cageDown_mem :
    ∀ (s : State) (twin : Bool) (cage : Fin 4), (s.cageDown twin cage).tiers.mem = s.tiers.mem := by
  intros
  simp only [State.cageDown]
  repeat' (first
    | rfl
    | assumption
    | split
    | (refine (foldl_mem _ _ _ ?_).trans ?_)
    | (intro _)
    | simp)
@[simp] theorem idle_mem : ∀ (s : State), (idle s).tiers.mem = s.tiers.mem := by
  intros; rfl
@[simp] theorem State.withFetchWord_mem :
    ∀ (s : State) (nbits w : ℕ), (s.withFetchWord nbits w).tiers.mem = s.tiers.mem := by
  intros; rfl

/-- A zero frame changes no byte. -/
theorem State.zeroFrame_mem {s t : State} {a : Alloc} {i : Nat} (h : s.zeroFrame a i = .mapped t ∨ s.zeroFrame a i = .later t) :
    t.tiers.mem = s.tiers.mem := by
  unfold State.zeroFrame at h
  dsimp only at h
  repeat' split at h
  all_goals first
    | (obtain h | h := h <;> cases h <;> simp)
    | (obtain h | h := h <;> cases h)

/-- Memory after the windows of a Quire execution took their pages. -/
theorem State.quireWindows_mem {s : State} {c : Fin 64} {e : Exec} {q : Nat × Nat × Nat} {r : State × Exec}
    (h : s.quireWindows c e q = .ok r) : r.1.tiers.mem = s.tiers.mem := by
  unfold State.quireWindows at h
  generalize [(0, Tier.t0, q.1), (0x100000, Tier.t1, q.2.1), (0x200000, Tier.t2, q.2.2)] = l at h
  induction l generalizing s e with
  | nil => cases h; rfl
  | cons w t ih =>
    rw [List.foldlM_cons] at h
    split at h
    · exact ih h
    · split at h
      · cases h
      · exact (ih h).trans (State.newAlloc_mem ..)

/-- The parameter page keeps the canonical form of memory. -/
theorem State.paramPage_wf {s : State} {c : Fin 64} {e : Exec} {bs : List Byte} {r : State × Exec}
    (hs : Memory.wf s.tiers.mem = true) (h : s.paramPage c e bs = .ok r) : Memory.wf r.1.tiers.mem = true := by
  unfold State.paramPage at h
  dsimp only at h
  repeat' split at h
  all_goals first
    | cases h; simp [hs]
    | cases h

/-- Taking in an execution keeps the canonical form of memory. -/
theorem State.takeIn_wf {s t : State} {i : Image} {e : Exec} {bs : List Byte} (hs : Memory.wf s.tiers.mem = true)
    (h : s.takeIn i e bs = .ok t) : Memory.wf t.tiers.mem = true := by
  unfold State.takeIn at h
  split at h
  · cases h
  · split at h
    · cases h
    · split at h
      · cases h
      · rename_i q hq
        cases h
        rw [State.placeExec_mem]
        by_cases hi : i.quire = true
        · rw [if_pos hi] at hq
          cases hw : s.quireWindows e.ctx e i.qw with
          | error x => rw [hw] at hq; cases hq
          | ok w => rw [hw] at hq; exact State.paramPage_wf ((State.quireWindows_mem hw) ▸ hs) hq
        · rw [if_neg hi] at hq
          exact State.paramPage_wf hs hq

end Sys2Proof.Machine
end

