-- ==== Sys2Proof/Laws/Issue.lean ====
section
/-!
SUPPORT. What the prologue of an instruction does on a compositor that runs one execution, and what the updates of
an execution leave as they were.
-/
namespace Sys2Proof.Machine

/-- Finding an execution after its update. -/
theorem State.ex?_setEx {s : State} {e e' : Exec} (h : s.ex? e.id = some e) (hid : e'.id = e.id) :
    (s.setEx e').ex? e.id = some e' := by
  unfold State.ex? at h
  unfold State.setEx State.ex?
  show List.find? _ (s.sched.execs.map fun x => if x.id = e'.id then e' else x) = _
  rw [hid]
  revert h
  induction s.sched.execs with
  | nil => simp
  | cons x t ih =>
    intro h
    rw [List.map_cons, List.find?_cons]
    by_cases hx : x.id = e.id
    · simp [hx, hid]
    · rw [List.find?_cons] at h
      have hb : (x.id == e.id) = false := by simp [hx]
      rw [hb] at h
      rw [if_neg hx, hb]
      exact ih h

/-- A running execution is found under its identifier and stands in its step. -/
theorem State.running?_some {s : State} {id : Nat} {e : Exec} (h : s.running? id = some e) :
    s.ex? id = some e ∧ e.phase = .running := by
  unfold State.running? at h
  split at h
  · split at h
    · cases h; exact ⟨‹_›, ‹_›⟩
    · cases h
  · cases h

/-- On a compositor that runs e alone, an instruction of e goes as the prologue says. -/
theorem State.insn_eq {s : State} {c : Fin 16} {p : Pred} {e : Exec} (h : Runs s c e) (f : State → Exec → State) :
    s.insn c p f = if e.predWaits p then s.setEx (e.wait .flagNamed s.now) else if e.predOk p then f s e else s.setEx e.next := by
  obtain ⟨h1, h2, h3, h4⟩ := h
  simp only [State.insn, State.onComp, h1, h2, h3, h4, Bool.false_eq_true, if_false, List.foldl_cons, List.foldl_nil]

/-- An instruction that issues runs its own effect. -/
theorem State.insn_issues {s : State} {c : Fin 16} {p : Pred} {e : Exec} (h : Issues s c p e) (f : State → Exec → State) :
    s.insn c p f = f s e := by
  obtain ⟨h, hw, hp⟩ := h
  rw [State.insn_eq h]; simp [hw, hp]

/-- A synchronous instruction that issues. -/
theorem State.sync_issues {s : State} {c : Fin 16} {p : Pred} {e : Exec} {rs : List (Fin 64)} (h : Issues s c p e)
    (hr : e.pend rs = false) (f : State → Exec → Except JFault Exec) :
    s.sync c p rs f = match f s e with
      | .ok e' => s.setEx e'
      | .error j => s.jfault e j e.pc := by
  rw [State.sync, State.insn_issues h]
  cases f s e <;> simp [hr]

/-- An asynchronous instruction that issues. -/
theorem State.asyncList_issues {s : State} {c : Fin 16} {p : Pred} {e e1 e2 : Exec} {r : Req} {rs : List (Fin 64)} {l : Exec → List Nat}
    {f : State → Exec → Except JFault (Exec × Req)} (h : Issues s c p e)
    (hr : e.pend rs = false) (hn : e.st.ops.length < 64) (hl : ListReady s e (l e)) (hf : f s e = .ok (e1, r)) (hi : s.issueOp e1 r = .ok e2) :
    s.asyncList c p rs l f = s.setEx e2.next := by
  have : e.st.ops.any (fun o => o.wrPages.any fun q => (l e).contains q && !e.st.bankPages.contains q) = false := by
    simp only [List.any_eq_false, Bool.and_eq_true, not_and, List.contains_iff_mem, Bool.not_eq_true]
    intro o ho q hq
    exact fun hm => absurd hm (hl.1 o ho q hq)
  rw [State.asyncList, State.insn_issues h]
  simp only [hr, Bool.false_eq_true, if_false, Nat.not_le.mpr hn, this, hl.2, Bool.or_false]
  simp [hf, hi, bind, Except.bind]

/-- The instruction becomes an update of e alone. -/
theorem becomes_of_eq {i : Instr} {s : State} {e e' : Exec} {c : Fin 16} (h : Runs s c e) (hid : e'.id = e.id)
    (hx : exec i s = .next (s.setEx e')) : Becomes i s e e' :=
  ⟨_, hx, rfl, State.ex?_setEx (State.running?_some h.2.2.1).1 hid⟩

/-- Reading a register after a write. -/
theorem Exec.reg_setReg (e : Exec) (r q : Fin 64) (v : W64) : (e.setReg r v).reg q = if q = r ∧ r ≠ 0 then v else e.reg q := by
  unfold Exec.setReg Exec.reg
  by_cases hr : r = 0
  · simp [hr]
  · by_cases hq : q = 0
    · subst hq
      simp [hr, Ne.symm hr]
    · simp only [hr, if_false, hq]
      by_cases h : q = r
      · subst h; simp [hq]
      · have : r.val ≠ q.val := fun h' => h (Fin.ext h'.symm)
        simp [h, this]

end Sys2Proof.Machine
end

