-- ==== Sys2Proof/Laws/State.lean ====
section
/-!
SUPPORT. What each elementary update of the state leaves as it was, one lemma per field, and what it writes.
-/
namespace Sys2Proof.Machine

/-! ## What they write -/

/-- A completion queue entry is posted where the path stands and no Queue Reset discards it. -/
theorem State.post_cq (s : State) (h : Hdr) (sct sc : Nat) (dw0 dw1 : W32) :
    (s.post h sct sc dw0 dw1).host.cq
      = if s.live h && !s.host.miDrop.contains h then s.host.cq ++ [{ hdr := h, sct, sc, dw0, dw1 }] else s.host.cq := rfl
/-- The command is no longer outstanding. -/
theorem State.post_cmds (s : State) (h : Hdr) (sct sc : Nat) (dw0 dw1 : W32) :
    (s.post h sct sc dw0 dw1).host.cmds = s.host.cmds.filter fun o => !(o.hdr == h) := rfl
@[simp] theorem State.await_cmds (s : State) (o : OutCmd) : (s.await o).host.cmds = s.host.cmds ++ [{ o with uep := s.units.epochs }] := rfl
@[simp] theorem State.send_pdus (s : State) (p : Pdu) : (s.send p).host.pdus = s.host.pdus ++ [p] := rfl
@[simp] theorem State.toPeer_out (s : State) (m : TwinMsg) : (s.toPeer m).twin.out = s.twin.out ++ [m] := rfl
@[simp] theorem State.log_logSeq (s : State) (ev : LogEvent) (a0 a1 : Nat) : (s.log ev a0 a1).host.logSeq = s.host.logSeq + 1 := by simp only [State.log]
theorem State.setEx_execs (s : State) (e : Exec) :
    (s.setEx e).sched.execs = s.sched.execs.map fun x => if x.id = e.id then e else x := rfl
theorem State.modEx_execs (s : State) (id : Nat) (f : Exec → Exec) :
    (s.modEx id f).sched.execs = s.sched.execs.map fun x => if x.id = id then f x else x := rfl
theorem State.cancelFaults_faults (s : State) (id : Nat) :
    (s.cancelFaults id).tiers.faults = s.tiers.faults.filter fun f => !(f.host.isNone && decide (f.exec = id)) := rfl
theorem State.cancelFaults_cancelled (s : State) (id : Nat) :
    (s.cancelFaults id).tiers.cancelled = s.tiers.cancelled ++ s.tiers.faults.filter fun f => f.host.isNone && decide (f.exec = id) := rfl
theorem State.cancelFaults_walks (s : State) (id : Nat) :
    (s.cancelFaults id).tiers.walks = s.tiers.walks.filter fun w => w.exec != id := rfl
theorem State.release_holder (s : State) (id : Nat) :
    (s.release id).sched.holder = s.sched.holder.filter fun h => h.2 != id := rfl
theorem State.release_grants (s : State) (id : Nat) :
    (s.release id).sched.grants = s.sched.grants.filter fun g => g.1 != id := rfl
theorem State.countFailed_counts (s : State) (ctx : Fin 64) :
    (s.countFailed ctx).sched.counts = vmod s.sched.counts ctx fun j => { j with failed := satAdd max64 j.failed 1 } := rfl

/-- Raising an asynchronous event writes host fields only. -/
theorem State.aer_keeps {β : Type} (p : State → β) (hp : ∀ s h, p { s with host := h } = p s) (s : State) (a : Aer) :
    p (s.aer a) = p s := by
  unfold State.aer
  induction s.host.ctrls generalizing s with
  | nil => rfl
  | cons k t ih =>
    rw [List.foldl_cons, ih]
    split <;> exact hp ..

/-! ## log -/

@[simp] theorem State.log_pending (s : State) (ev : LogEvent) (a0 a1 : Nat) : (s.log ev a0 a1).pending = s.pending := by simp only [State.log]
@[simp] theorem State.log_now (s : State) (ev : LogEvent) (a0 a1 : Nat) : (s.log ev a0 a1).now = s.now := by simp only [State.log]
@[simp] theorem State.log_free (s : State) (ev : LogEvent) (a0 a1 : Nat) : (s.log ev a0 a1).free = s.free := by simp only [State.log]
@[simp] theorem State.log_ident (s : State) (ev : LogEvent) (a0 a1 : Nat) : (s.log ev a0 a1).ident = s.ident := by simp only [State.log]
@[simp] theorem State.log_life (s : State) (ev : LogEvent) (a0 a1 : Nat) : (s.log ev a0 a1).life = s.life := by simp only [State.log]
@[simp] theorem State.log_fw (s : State) (ev : LogEvent) (a0 a1 : Nat) : (s.log ev a0 a1).fw = s.fw := by simp only [State.log]
@[simp] theorem State.log_pwr (s : State) (ev : LogEvent) (a0 a1 : Nat) : (s.log ev a0 a1).pwr = s.pwr := by simp only [State.log]
@[simp] theorem State.log_phys (s : State) (ev : LogEvent) (a0 a1 : Nat) : (s.log ev a0 a1).phys = s.phys := by simp only [State.log]
@[simp] theorem State.log_ptp (s : State) (ev : LogEvent) (a0 a1 : Nat) : (s.log ev a0 a1).ptp = s.ptp := by simp only [State.log]
@[simp] theorem State.log_flt (s : State) (ev : LogEvent) (a0 a1 : Nat) : (s.log ev a0 a1).flt = s.flt := by simp only [State.log]
@[simp] theorem State.log_health (s : State) (ev : LogEvent) (a0 a1 : Nat) : (s.log ev a0 a1).health = s.health := by simp only [State.log]
@[simp] theorem State.log_fab (s : State) (ev : LogEvent) (a0 a1 : Nat) : (s.log ev a0 a1).fab = s.fab := by simp only [State.log]
@[simp] theorem State.log_sched (s : State) (ev : LogEvent) (a0 a1 : Nat) : (s.log ev a0 a1).sched = s.sched := by simp only [State.log]
@[simp] theorem State.log_tiers (s : State) (ev : LogEvent) (a0 a1 : Nat) : (s.log ev a0 a1).tiers = s.tiers := by simp only [State.log]
@[simp] theorem State.log_part (s : State) (ev : LogEvent) (a0 a1 : Nat) : (s.log ev a0 a1).part = s.part := by simp only [State.log]
@[simp] theorem State.log_indexes (s : State) (ev : LogEvent) (a0 a1 : Nat) : (s.log ev a0 a1).indexes = s.indexes := by simp only [State.log]
@[simp] theorem State.log_eng (s : State) (ev : LogEvent) (a0 a1 : Nat) : (s.log ev a0 a1).eng = s.eng := by simp only [State.log]
@[simp] theorem State.log_trace (s : State) (ev : LogEvent) (a0 a1 : Nat) : (s.log ev a0 a1).trace = s.trace := by simp only [State.log]
@[simp] theorem State.log_flash (s : State) (ev : LogEvent) (a0 a1 : Nat) : (s.log ev a0 a1).flash = s.flash := by simp only [State.log]
@[simp] theorem State.log_twin (s : State) (ev : LogEvent) (a0 a1 : Nat) : (s.log ev a0 a1).twin = s.twin := by simp only [State.log]
@[simp] theorem State.log_units (s : State) (ev : LogEvent) (a0 a1 : Nat) : (s.log ev a0 a1).units = s.units := by simp only [State.log]
@[simp] theorem State.log_scrub (s : State) (ev : LogEvent) (a0 a1 : Nat) : (s.log ev a0 a1).scrub = s.scrub := by simp only [State.log]
@[simp] theorem State.log_host_conns (s : State) (ev : LogEvent) (a0 a1 : Nat) : (s.log ev a0 a1).host.conns = s.host.conns := by simp only [State.log]
@[simp] theorem State.log_host_ctrls (s : State) (ev : LogEvent) (a0 a1 : Nat) : (s.log ev a0 a1).host.ctrls = s.host.ctrls := by simp only [State.log]
@[simp] theorem State.log_host_queues (s : State) (ev : LogEvent) (a0 a1 : Nat) : (s.log ev a0 a1).host.queues = s.host.queues := by simp only [State.log]
@[simp] theorem State.log_host_cmds (s : State) (ev : LogEvent) (a0 a1 : Nat) : (s.log ev a0 a1).host.cmds = s.host.cmds := by simp only [State.log]
@[simp] theorem State.log_host_aerReqs (s : State) (ev : LogEvent) (a0 a1 : Nat) : (s.log ev a0 a1).host.aerReqs = s.host.aerReqs := by simp only [State.log]
@[simp] theorem State.log_host_aerQueue (s : State) (ev : LogEvent) (a0 a1 : Nat) : (s.log ev a0 a1).host.aerQueue = s.host.aerQueue := by simp only [State.log]
@[simp] theorem State.log_host_bind (s : State) (ev : LogEvent) (a0 a1 : Nat) : (s.log ev a0 a1).host.bind = s.host.bind := by simp only [State.log]
@[simp] theorem State.log_host_secrets (s : State) (ev : LogEvent) (a0 a1 : Nat) : (s.log ev a0 a1).host.secrets = s.host.secrets := by simp only [State.log]
@[simp] theorem State.log_host_mgmtKey (s : State) (ev : LogEvent) (a0 a1 : Nat) : (s.log ev a0 a1).host.mgmtKey = s.host.mgmtKey := by simp only [State.log]
@[simp] theorem State.log_host_tlsOnly (s : State) (ev : LogEvent) (a0 a1 : Nat) : (s.log ev a0 a1).host.tlsOnly = s.host.tlsOnly := by simp only [State.log]
@[simp] theorem State.log_host_nss (s : State) (ev : LogEvent) (a0 a1 : Nat) : (s.log ev a0 a1).host.nss = s.host.nss := by simp only [State.log]
@[simp] theorem State.log_host_blks (s : State) (ev : LogEvent) (a0 a1 : Nat) : (s.log ev a0 a1).host.blks = s.host.blks := by simp only [State.log]
@[simp] theorem State.log_host_nextKey (s : State) (ev : LogEvent) (a0 a1 : Nat) : (s.log ev a0 a1).host.nextKey = s.host.nextKey := by simp only [State.log]
@[simp] theorem State.log_host_keys (s : State) (ev : LogEvent) (a0 a1 : Nat) : (s.log ev a0 a1).host.keys = s.host.keys := by simp only [State.log]
@[simp] theorem State.log_host_cq (s : State) (ev : LogEvent) (a0 a1 : Nat) : (s.log ev a0 a1).host.cq = s.host.cq := by simp only [State.log]
@[simp] theorem State.log_host_aers (s : State) (ev : LogEvent) (a0 a1 : Nat) : (s.log ev a0 a1).host.aers = s.host.aers := by simp only [State.log]
@[simp] theorem State.log_host_pdus (s : State) (ev : LogEvent) (a0 a1 : Nat) : (s.log ev a0 a1).host.pdus = s.host.pdus := by simp only [State.log]
@[simp] theorem State.log_host_mi (s : State) (ev : LogEvent) (a0 a1 : Nat) : (s.log ev a0 a1).host.mi = s.host.mi := by simp only [State.log]
@[simp] theorem State.log_host_miDrop (s : State) (ev : LogEvent) (a0 a1 : Nat) : (s.log ev a0 a1).host.miDrop = s.host.miDrop := by simp only [State.log]
@[simp] theorem State.log_host_savedLog (s : State) (ev : LogEvent) (a0 a1 : Nat) : (s.log ev a0 a1).host.savedLog = s.host.savedLog := by simp only [State.log]
@[simp] theorem State.log_host_stopJobs (s : State) (ev : LogEvent) (a0 a1 : Nat) : (s.log ev a0 a1).host.stopJobs = s.host.stopJobs := by simp only [State.log]
@[simp] theorem State.log_host_miConfig (s : State) (ev : LogEvent) (a0 a1 : Nat) : (s.log ev a0 a1).host.miConfig = s.host.miConfig := by simp only [State.log]

/-! ## post -/

@[simp] theorem State.post_pending (s : State) (h : Hdr) (sct sc : Nat) (dw0 dw1 : W32) : (s.post h sct sc dw0 dw1).pending = s.pending := rfl
@[simp] theorem State.post_now (s : State) (h : Hdr) (sct sc : Nat) (dw0 dw1 : W32) : (s.post h sct sc dw0 dw1).now = s.now := rfl
@[simp] theorem State.post_free (s : State) (h : Hdr) (sct sc : Nat) (dw0 dw1 : W32) : (s.post h sct sc dw0 dw1).free = s.free := rfl
@[simp] theorem State.post_ident (s : State) (h : Hdr) (sct sc : Nat) (dw0 dw1 : W32) : (s.post h sct sc dw0 dw1).ident = s.ident := rfl
@[simp] theorem State.post_life (s : State) (h : Hdr) (sct sc : Nat) (dw0 dw1 : W32) : (s.post h sct sc dw0 dw1).life = s.life := rfl
@[simp] theorem State.post_fw (s : State) (h : Hdr) (sct sc : Nat) (dw0 dw1 : W32) : (s.post h sct sc dw0 dw1).fw = s.fw := rfl
@[simp] theorem State.post_pwr (s : State) (h : Hdr) (sct sc : Nat) (dw0 dw1 : W32) : (s.post h sct sc dw0 dw1).pwr = s.pwr := rfl
@[simp] theorem State.post_phys (s : State) (h : Hdr) (sct sc : Nat) (dw0 dw1 : W32) : (s.post h sct sc dw0 dw1).phys = s.phys := rfl
@[simp] theorem State.post_ptp (s : State) (h : Hdr) (sct sc : Nat) (dw0 dw1 : W32) : (s.post h sct sc dw0 dw1).ptp = s.ptp := rfl
@[simp] theorem State.post_flt (s : State) (h : Hdr) (sct sc : Nat) (dw0 dw1 : W32) : (s.post h sct sc dw0 dw1).flt = s.flt := rfl
@[simp] theorem State.post_health (s : State) (h : Hdr) (sct sc : Nat) (dw0 dw1 : W32) : (s.post h sct sc dw0 dw1).health = s.health := rfl
@[simp] theorem State.post_fab (s : State) (h : Hdr) (sct sc : Nat) (dw0 dw1 : W32) : (s.post h sct sc dw0 dw1).fab = s.fab := rfl
@[simp] theorem State.post_sched (s : State) (h : Hdr) (sct sc : Nat) (dw0 dw1 : W32) : (s.post h sct sc dw0 dw1).sched = s.sched := rfl
@[simp] theorem State.post_tiers (s : State) (h : Hdr) (sct sc : Nat) (dw0 dw1 : W32) : (s.post h sct sc dw0 dw1).tiers = s.tiers := rfl
@[simp] theorem State.post_part (s : State) (h : Hdr) (sct sc : Nat) (dw0 dw1 : W32) : (s.post h sct sc dw0 dw1).part = s.part := rfl
@[simp] theorem State.post_indexes (s : State) (h : Hdr) (sct sc : Nat) (dw0 dw1 : W32) : (s.post h sct sc dw0 dw1).indexes = s.indexes := rfl
@[simp] theorem State.post_eng (s : State) (h : Hdr) (sct sc : Nat) (dw0 dw1 : W32) : (s.post h sct sc dw0 dw1).eng = s.eng := rfl
@[simp] theorem State.post_trace (s : State) (h : Hdr) (sct sc : Nat) (dw0 dw1 : W32) : (s.post h sct sc dw0 dw1).trace = s.trace := rfl
@[simp] theorem State.post_flash (s : State) (h : Hdr) (sct sc : Nat) (dw0 dw1 : W32) : (s.post h sct sc dw0 dw1).flash = s.flash := rfl
@[simp] theorem State.post_twin (s : State) (h : Hdr) (sct sc : Nat) (dw0 dw1 : W32) : (s.post h sct sc dw0 dw1).twin = s.twin := rfl
@[simp] theorem State.post_units (s : State) (h : Hdr) (sct sc : Nat) (dw0 dw1 : W32) : (s.post h sct sc dw0 dw1).units = s.units := rfl
@[simp] theorem State.post_scrub (s : State) (h : Hdr) (sct sc : Nat) (dw0 dw1 : W32) : (s.post h sct sc dw0 dw1).scrub = s.scrub := rfl
@[simp] theorem State.post_host_conns (s : State) (h : Hdr) (sct sc : Nat) (dw0 dw1 : W32) : (s.post h sct sc dw0 dw1).host.conns = s.host.conns := rfl
@[simp] theorem State.post_host_ctrls (s : State) (h : Hdr) (sct sc : Nat) (dw0 dw1 : W32) : (s.post h sct sc dw0 dw1).host.ctrls = s.host.ctrls := rfl
@[simp] theorem State.post_host_queues (s : State) (h : Hdr) (sct sc : Nat) (dw0 dw1 : W32) : (s.post h sct sc dw0 dw1).host.queues = s.host.queues := rfl
@[simp] theorem State.post_host_aerReqs (s : State) (h : Hdr) (sct sc : Nat) (dw0 dw1 : W32) : (s.post h sct sc dw0 dw1).host.aerReqs = s.host.aerReqs := rfl
@[simp] theorem State.post_host_aerQueue (s : State) (h : Hdr) (sct sc : Nat) (dw0 dw1 : W32) : (s.post h sct sc dw0 dw1).host.aerQueue = s.host.aerQueue := rfl
@[simp] theorem State.post_host_bind (s : State) (h : Hdr) (sct sc : Nat) (dw0 dw1 : W32) : (s.post h sct sc dw0 dw1).host.bind = s.host.bind := rfl
@[simp] theorem State.post_host_secrets (s : State) (h : Hdr) (sct sc : Nat) (dw0 dw1 : W32) : (s.post h sct sc dw0 dw1).host.secrets = s.host.secrets := rfl
@[simp] theorem State.post_host_mgmtKey (s : State) (h : Hdr) (sct sc : Nat) (dw0 dw1 : W32) : (s.post h sct sc dw0 dw1).host.mgmtKey = s.host.mgmtKey := rfl
@[simp] theorem State.post_host_tlsOnly (s : State) (h : Hdr) (sct sc : Nat) (dw0 dw1 : W32) : (s.post h sct sc dw0 dw1).host.tlsOnly = s.host.tlsOnly := rfl
@[simp] theorem State.post_host_nss (s : State) (h : Hdr) (sct sc : Nat) (dw0 dw1 : W32) : (s.post h sct sc dw0 dw1).host.nss = s.host.nss := rfl
@[simp] theorem State.post_host_blks (s : State) (h : Hdr) (sct sc : Nat) (dw0 dw1 : W32) : (s.post h sct sc dw0 dw1).host.blks = s.host.blks := rfl
@[simp] theorem State.post_host_nextKey (s : State) (h : Hdr) (sct sc : Nat) (dw0 dw1 : W32) : (s.post h sct sc dw0 dw1).host.nextKey = s.host.nextKey := rfl
@[simp] theorem State.post_host_keys (s : State) (h : Hdr) (sct sc : Nat) (dw0 dw1 : W32) : (s.post h sct sc dw0 dw1).host.keys = s.host.keys := rfl
@[simp] theorem State.post_host_aers (s : State) (h : Hdr) (sct sc : Nat) (dw0 dw1 : W32) : (s.post h sct sc dw0 dw1).host.aers = s.host.aers := rfl
@[simp] theorem State.post_host_pdus (s : State) (h : Hdr) (sct sc : Nat) (dw0 dw1 : W32) : (s.post h sct sc dw0 dw1).host.pdus = s.host.pdus := rfl
@[simp] theorem State.post_host_mi (s : State) (h : Hdr) (sct sc : Nat) (dw0 dw1 : W32) : (s.post h sct sc dw0 dw1).host.mi = s.host.mi := rfl
@[simp] theorem State.post_host_log (s : State) (h : Hdr) (sct sc : Nat) (dw0 dw1 : W32) : (s.post h sct sc dw0 dw1).host.log = s.host.log := rfl
@[simp] theorem State.post_host_logSeq (s : State) (h : Hdr) (sct sc : Nat) (dw0 dw1 : W32) : (s.post h sct sc dw0 dw1).host.logSeq = s.host.logSeq := rfl
@[simp] theorem State.post_host_savedLog (s : State) (h : Hdr) (sct sc : Nat) (dw0 dw1 : W32) : (s.post h sct sc dw0 dw1).host.savedLog = s.host.savedLog := rfl
@[simp] theorem State.post_host_stopJobs (s : State) (h : Hdr) (sct sc : Nat) (dw0 dw1 : W32) : (s.post h sct sc dw0 dw1).host.stopJobs = s.host.stopJobs := rfl
@[simp] theorem State.post_host_miConfig (s : State) (h : Hdr) (sct sc : Nat) (dw0 dw1 : W32) : (s.post h sct sc dw0 dw1).host.miConfig = s.host.miConfig := rfl

/-! ## ok -/

@[simp] theorem State.ok_pending (s : State) (h : Hdr) : (s.ok h).pending = s.pending := rfl
@[simp] theorem State.ok_now (s : State) (h : Hdr) : (s.ok h).now = s.now := rfl
@[simp] theorem State.ok_free (s : State) (h : Hdr) : (s.ok h).free = s.free := rfl
@[simp] theorem State.ok_ident (s : State) (h : Hdr) : (s.ok h).ident = s.ident := rfl
@[simp] theorem State.ok_life (s : State) (h : Hdr) : (s.ok h).life = s.life := rfl
@[simp] theorem State.ok_fw (s : State) (h : Hdr) : (s.ok h).fw = s.fw := rfl
@[simp] theorem State.ok_pwr (s : State) (h : Hdr) : (s.ok h).pwr = s.pwr := rfl
@[simp] theorem State.ok_phys (s : State) (h : Hdr) : (s.ok h).phys = s.phys := rfl
@[simp] theorem State.ok_ptp (s : State) (h : Hdr) : (s.ok h).ptp = s.ptp := rfl
@[simp] theorem State.ok_flt (s : State) (h : Hdr) : (s.ok h).flt = s.flt := rfl
@[simp] theorem State.ok_health (s : State) (h : Hdr) : (s.ok h).health = s.health := rfl
@[simp] theorem State.ok_fab (s : State) (h : Hdr) : (s.ok h).fab = s.fab := rfl
@[simp] theorem State.ok_sched (s : State) (h : Hdr) : (s.ok h).sched = s.sched := rfl
@[simp] theorem State.ok_tiers (s : State) (h : Hdr) : (s.ok h).tiers = s.tiers := rfl
@[simp] theorem State.ok_part (s : State) (h : Hdr) : (s.ok h).part = s.part := rfl
@[simp] theorem State.ok_indexes (s : State) (h : Hdr) : (s.ok h).indexes = s.indexes := rfl
@[simp] theorem State.ok_eng (s : State) (h : Hdr) : (s.ok h).eng = s.eng := rfl
@[simp] theorem State.ok_trace (s : State) (h : Hdr) : (s.ok h).trace = s.trace := rfl
@[simp] theorem State.ok_flash (s : State) (h : Hdr) : (s.ok h).flash = s.flash := rfl
@[simp] theorem State.ok_twin (s : State) (h : Hdr) : (s.ok h).twin = s.twin := rfl
@[simp] theorem State.ok_units (s : State) (h : Hdr) : (s.ok h).units = s.units := rfl
@[simp] theorem State.ok_scrub (s : State) (h : Hdr) : (s.ok h).scrub = s.scrub := rfl
@[simp] theorem State.ok_host_conns (s : State) (h : Hdr) : (s.ok h).host.conns = s.host.conns := rfl
@[simp] theorem State.ok_host_ctrls (s : State) (h : Hdr) : (s.ok h).host.ctrls = s.host.ctrls := rfl
@[simp] theorem State.ok_host_queues (s : State) (h : Hdr) : (s.ok h).host.queues = s.host.queues := rfl
@[simp] theorem State.ok_host_aerReqs (s : State) (h : Hdr) : (s.ok h).host.aerReqs = s.host.aerReqs := rfl
@[simp] theorem State.ok_host_aerQueue (s : State) (h : Hdr) : (s.ok h).host.aerQueue = s.host.aerQueue := rfl
@[simp] theorem State.ok_host_bind (s : State) (h : Hdr) : (s.ok h).host.bind = s.host.bind := rfl
@[simp] theorem State.ok_host_secrets (s : State) (h : Hdr) : (s.ok h).host.secrets = s.host.secrets := rfl
@[simp] theorem State.ok_host_mgmtKey (s : State) (h : Hdr) : (s.ok h).host.mgmtKey = s.host.mgmtKey := rfl
@[simp] theorem State.ok_host_tlsOnly (s : State) (h : Hdr) : (s.ok h).host.tlsOnly = s.host.tlsOnly := rfl
@[simp] theorem State.ok_host_nss (s : State) (h : Hdr) : (s.ok h).host.nss = s.host.nss := rfl
@[simp] theorem State.ok_host_blks (s : State) (h : Hdr) : (s.ok h).host.blks = s.host.blks := rfl
@[simp] theorem State.ok_host_nextKey (s : State) (h : Hdr) : (s.ok h).host.nextKey = s.host.nextKey := rfl
@[simp] theorem State.ok_host_keys (s : State) (h : Hdr) : (s.ok h).host.keys = s.host.keys := rfl
@[simp] theorem State.ok_host_aers (s : State) (h : Hdr) : (s.ok h).host.aers = s.host.aers := rfl
@[simp] theorem State.ok_host_pdus (s : State) (h : Hdr) : (s.ok h).host.pdus = s.host.pdus := rfl
@[simp] theorem State.ok_host_mi (s : State) (h : Hdr) : (s.ok h).host.mi = s.host.mi := rfl
@[simp] theorem State.ok_host_log (s : State) (h : Hdr) : (s.ok h).host.log = s.host.log := rfl
@[simp] theorem State.ok_host_logSeq (s : State) (h : Hdr) : (s.ok h).host.logSeq = s.host.logSeq := rfl
@[simp] theorem State.ok_host_savedLog (s : State) (h : Hdr) : (s.ok h).host.savedLog = s.host.savedLog := rfl
@[simp] theorem State.ok_host_stopJobs (s : State) (h : Hdr) : (s.ok h).host.stopJobs = s.host.stopJobs := rfl
@[simp] theorem State.ok_host_miConfig (s : State) (h : Hdr) : (s.ok h).host.miConfig = s.host.miConfig := rfl

/-! ## okDw -/

@[simp] theorem State.okDw_pending (s : State) (h : Hdr) (dw0 dw1 : W32) : (s.okDw h dw0 dw1).pending = s.pending := rfl
@[simp] theorem State.okDw_now (s : State) (h : Hdr) (dw0 dw1 : W32) : (s.okDw h dw0 dw1).now = s.now := rfl
@[simp] theorem State.okDw_free (s : State) (h : Hdr) (dw0 dw1 : W32) : (s.okDw h dw0 dw1).free = s.free := rfl
@[simp] theorem State.okDw_ident (s : State) (h : Hdr) (dw0 dw1 : W32) : (s.okDw h dw0 dw1).ident = s.ident := rfl
@[simp] theorem State.okDw_life (s : State) (h : Hdr) (dw0 dw1 : W32) : (s.okDw h dw0 dw1).life = s.life := rfl
@[simp] theorem State.okDw_fw (s : State) (h : Hdr) (dw0 dw1 : W32) : (s.okDw h dw0 dw1).fw = s.fw := rfl
@[simp] theorem State.okDw_pwr (s : State) (h : Hdr) (dw0 dw1 : W32) : (s.okDw h dw0 dw1).pwr = s.pwr := rfl
@[simp] theorem State.okDw_phys (s : State) (h : Hdr) (dw0 dw1 : W32) : (s.okDw h dw0 dw1).phys = s.phys := rfl
@[simp] theorem State.okDw_ptp (s : State) (h : Hdr) (dw0 dw1 : W32) : (s.okDw h dw0 dw1).ptp = s.ptp := rfl
@[simp] theorem State.okDw_flt (s : State) (h : Hdr) (dw0 dw1 : W32) : (s.okDw h dw0 dw1).flt = s.flt := rfl
@[simp] theorem State.okDw_health (s : State) (h : Hdr) (dw0 dw1 : W32) : (s.okDw h dw0 dw1).health = s.health := rfl
@[simp] theorem State.okDw_fab (s : State) (h : Hdr) (dw0 dw1 : W32) : (s.okDw h dw0 dw1).fab = s.fab := rfl
@[simp] theorem State.okDw_sched (s : State) (h : Hdr) (dw0 dw1 : W32) : (s.okDw h dw0 dw1).sched = s.sched := rfl
@[simp] theorem State.okDw_tiers (s : State) (h : Hdr) (dw0 dw1 : W32) : (s.okDw h dw0 dw1).tiers = s.tiers := rfl
@[simp] theorem State.okDw_part (s : State) (h : Hdr) (dw0 dw1 : W32) : (s.okDw h dw0 dw1).part = s.part := rfl
@[simp] theorem State.okDw_indexes (s : State) (h : Hdr) (dw0 dw1 : W32) : (s.okDw h dw0 dw1).indexes = s.indexes := rfl
@[simp] theorem State.okDw_eng (s : State) (h : Hdr) (dw0 dw1 : W32) : (s.okDw h dw0 dw1).eng = s.eng := rfl
@[simp] theorem State.okDw_trace (s : State) (h : Hdr) (dw0 dw1 : W32) : (s.okDw h dw0 dw1).trace = s.trace := rfl
@[simp] theorem State.okDw_flash (s : State) (h : Hdr) (dw0 dw1 : W32) : (s.okDw h dw0 dw1).flash = s.flash := rfl
@[simp] theorem State.okDw_twin (s : State) (h : Hdr) (dw0 dw1 : W32) : (s.okDw h dw0 dw1).twin = s.twin := rfl
@[simp] theorem State.okDw_units (s : State) (h : Hdr) (dw0 dw1 : W32) : (s.okDw h dw0 dw1).units = s.units := rfl
@[simp] theorem State.okDw_scrub (s : State) (h : Hdr) (dw0 dw1 : W32) : (s.okDw h dw0 dw1).scrub = s.scrub := rfl
@[simp] theorem State.okDw_host_conns (s : State) (h : Hdr) (dw0 dw1 : W32) : (s.okDw h dw0 dw1).host.conns = s.host.conns := rfl
@[simp] theorem State.okDw_host_ctrls (s : State) (h : Hdr) (dw0 dw1 : W32) : (s.okDw h dw0 dw1).host.ctrls = s.host.ctrls := rfl
@[simp] theorem State.okDw_host_queues (s : State) (h : Hdr) (dw0 dw1 : W32) : (s.okDw h dw0 dw1).host.queues = s.host.queues := rfl
@[simp] theorem State.okDw_host_aerReqs (s : State) (h : Hdr) (dw0 dw1 : W32) : (s.okDw h dw0 dw1).host.aerReqs = s.host.aerReqs := rfl
@[simp] theorem State.okDw_host_aerQueue (s : State) (h : Hdr) (dw0 dw1 : W32) : (s.okDw h dw0 dw1).host.aerQueue = s.host.aerQueue := rfl
@[simp] theorem State.okDw_host_bind (s : State) (h : Hdr) (dw0 dw1 : W32) : (s.okDw h dw0 dw1).host.bind = s.host.bind := rfl
@[simp] theorem State.okDw_host_secrets (s : State) (h : Hdr) (dw0 dw1 : W32) : (s.okDw h dw0 dw1).host.secrets = s.host.secrets := rfl
@[simp] theorem State.okDw_host_mgmtKey (s : State) (h : Hdr) (dw0 dw1 : W32) : (s.okDw h dw0 dw1).host.mgmtKey = s.host.mgmtKey := rfl
@[simp] theorem State.okDw_host_tlsOnly (s : State) (h : Hdr) (dw0 dw1 : W32) : (s.okDw h dw0 dw1).host.tlsOnly = s.host.tlsOnly := rfl
@[simp] theorem State.okDw_host_nss (s : State) (h : Hdr) (dw0 dw1 : W32) : (s.okDw h dw0 dw1).host.nss = s.host.nss := rfl
@[simp] theorem State.okDw_host_blks (s : State) (h : Hdr) (dw0 dw1 : W32) : (s.okDw h dw0 dw1).host.blks = s.host.blks := rfl
@[simp] theorem State.okDw_host_nextKey (s : State) (h : Hdr) (dw0 dw1 : W32) : (s.okDw h dw0 dw1).host.nextKey = s.host.nextKey := rfl
@[simp] theorem State.okDw_host_keys (s : State) (h : Hdr) (dw0 dw1 : W32) : (s.okDw h dw0 dw1).host.keys = s.host.keys := rfl
@[simp] theorem State.okDw_host_aers (s : State) (h : Hdr) (dw0 dw1 : W32) : (s.okDw h dw0 dw1).host.aers = s.host.aers := rfl
@[simp] theorem State.okDw_host_pdus (s : State) (h : Hdr) (dw0 dw1 : W32) : (s.okDw h dw0 dw1).host.pdus = s.host.pdus := rfl
@[simp] theorem State.okDw_host_mi (s : State) (h : Hdr) (dw0 dw1 : W32) : (s.okDw h dw0 dw1).host.mi = s.host.mi := rfl
@[simp] theorem State.okDw_host_log (s : State) (h : Hdr) (dw0 dw1 : W32) : (s.okDw h dw0 dw1).host.log = s.host.log := rfl
@[simp] theorem State.okDw_host_logSeq (s : State) (h : Hdr) (dw0 dw1 : W32) : (s.okDw h dw0 dw1).host.logSeq = s.host.logSeq := rfl
@[simp] theorem State.okDw_host_savedLog (s : State) (h : Hdr) (dw0 dw1 : W32) : (s.okDw h dw0 dw1).host.savedLog = s.host.savedLog := rfl
@[simp] theorem State.okDw_host_stopJobs (s : State) (h : Hdr) (dw0 dw1 : W32) : (s.okDw h dw0 dw1).host.stopJobs = s.host.stopJobs := rfl
@[simp] theorem State.okDw_host_miConfig (s : State) (h : Hdr) (dw0 dw1 : W32) : (s.okDw h dw0 dw1).host.miConfig = s.host.miConfig := rfl

/-! ## badOpcode -/

@[simp] theorem State.badOpcode_pending (s : State) (h : Hdr) : (s.badOpcode h).pending = s.pending := rfl
@[simp] theorem State.badOpcode_now (s : State) (h : Hdr) : (s.badOpcode h).now = s.now := rfl
@[simp] theorem State.badOpcode_free (s : State) (h : Hdr) : (s.badOpcode h).free = s.free := rfl
@[simp] theorem State.badOpcode_ident (s : State) (h : Hdr) : (s.badOpcode h).ident = s.ident := rfl
@[simp] theorem State.badOpcode_life (s : State) (h : Hdr) : (s.badOpcode h).life = s.life := rfl
@[simp] theorem State.badOpcode_fw (s : State) (h : Hdr) : (s.badOpcode h).fw = s.fw := rfl
@[simp] theorem State.badOpcode_pwr (s : State) (h : Hdr) : (s.badOpcode h).pwr = s.pwr := rfl
@[simp] theorem State.badOpcode_phys (s : State) (h : Hdr) : (s.badOpcode h).phys = s.phys := rfl
@[simp] theorem State.badOpcode_ptp (s : State) (h : Hdr) : (s.badOpcode h).ptp = s.ptp := rfl
@[simp] theorem State.badOpcode_flt (s : State) (h : Hdr) : (s.badOpcode h).flt = s.flt := rfl
@[simp] theorem State.badOpcode_health (s : State) (h : Hdr) : (s.badOpcode h).health = s.health := rfl
@[simp] theorem State.badOpcode_fab (s : State) (h : Hdr) : (s.badOpcode h).fab = s.fab := rfl
@[simp] theorem State.badOpcode_sched (s : State) (h : Hdr) : (s.badOpcode h).sched = s.sched := rfl
@[simp] theorem State.badOpcode_tiers (s : State) (h : Hdr) : (s.badOpcode h).tiers = s.tiers := rfl
@[simp] theorem State.badOpcode_part (s : State) (h : Hdr) : (s.badOpcode h).part = s.part := rfl
@[simp] theorem State.badOpcode_indexes (s : State) (h : Hdr) : (s.badOpcode h).indexes = s.indexes := rfl
@[simp] theorem State.badOpcode_eng (s : State) (h : Hdr) : (s.badOpcode h).eng = s.eng := rfl
@[simp] theorem State.badOpcode_trace (s : State) (h : Hdr) : (s.badOpcode h).trace = s.trace := rfl
@[simp] theorem State.badOpcode_flash (s : State) (h : Hdr) : (s.badOpcode h).flash = s.flash := rfl
@[simp] theorem State.badOpcode_twin (s : State) (h : Hdr) : (s.badOpcode h).twin = s.twin := rfl
@[simp] theorem State.badOpcode_units (s : State) (h : Hdr) : (s.badOpcode h).units = s.units := rfl
@[simp] theorem State.badOpcode_scrub (s : State) (h : Hdr) : (s.badOpcode h).scrub = s.scrub := rfl
@[simp] theorem State.badOpcode_host_conns (s : State) (h : Hdr) : (s.badOpcode h).host.conns = s.host.conns := rfl
@[simp] theorem State.badOpcode_host_ctrls (s : State) (h : Hdr) : (s.badOpcode h).host.ctrls = s.host.ctrls := rfl
@[simp] theorem State.badOpcode_host_queues (s : State) (h : Hdr) : (s.badOpcode h).host.queues = s.host.queues := rfl
@[simp] theorem State.badOpcode_host_aerReqs (s : State) (h : Hdr) : (s.badOpcode h).host.aerReqs = s.host.aerReqs := rfl
@[simp] theorem State.badOpcode_host_aerQueue (s : State) (h : Hdr) : (s.badOpcode h).host.aerQueue = s.host.aerQueue := rfl
@[simp] theorem State.badOpcode_host_bind (s : State) (h : Hdr) : (s.badOpcode h).host.bind = s.host.bind := rfl
@[simp] theorem State.badOpcode_host_secrets (s : State) (h : Hdr) : (s.badOpcode h).host.secrets = s.host.secrets := rfl
@[simp] theorem State.badOpcode_host_mgmtKey (s : State) (h : Hdr) : (s.badOpcode h).host.mgmtKey = s.host.mgmtKey := rfl
@[simp] theorem State.badOpcode_host_tlsOnly (s : State) (h : Hdr) : (s.badOpcode h).host.tlsOnly = s.host.tlsOnly := rfl
@[simp] theorem State.badOpcode_host_nss (s : State) (h : Hdr) : (s.badOpcode h).host.nss = s.host.nss := rfl
@[simp] theorem State.badOpcode_host_blks (s : State) (h : Hdr) : (s.badOpcode h).host.blks = s.host.blks := rfl
@[simp] theorem State.badOpcode_host_nextKey (s : State) (h : Hdr) : (s.badOpcode h).host.nextKey = s.host.nextKey := rfl
@[simp] theorem State.badOpcode_host_keys (s : State) (h : Hdr) : (s.badOpcode h).host.keys = s.host.keys := rfl
@[simp] theorem State.badOpcode_host_aers (s : State) (h : Hdr) : (s.badOpcode h).host.aers = s.host.aers := rfl
@[simp] theorem State.badOpcode_host_pdus (s : State) (h : Hdr) : (s.badOpcode h).host.pdus = s.host.pdus := rfl
@[simp] theorem State.badOpcode_host_mi (s : State) (h : Hdr) : (s.badOpcode h).host.mi = s.host.mi := rfl
@[simp] theorem State.badOpcode_host_log (s : State) (h : Hdr) : (s.badOpcode h).host.log = s.host.log := rfl
@[simp] theorem State.badOpcode_host_logSeq (s : State) (h : Hdr) : (s.badOpcode h).host.logSeq = s.host.logSeq := rfl
@[simp] theorem State.badOpcode_host_savedLog (s : State) (h : Hdr) : (s.badOpcode h).host.savedLog = s.host.savedLog := rfl
@[simp] theorem State.badOpcode_host_stopJobs (s : State) (h : Hdr) : (s.badOpcode h).host.stopJobs = s.host.stopJobs := rfl
@[simp] theorem State.badOpcode_host_miConfig (s : State) (h : Hdr) : (s.badOpcode h).host.miConfig = s.host.miConfig := rfl

/-! ## badField -/

@[simp] theorem State.badField_pending (s : State) (h : Hdr) : (s.badField h).pending = s.pending := rfl
@[simp] theorem State.badField_now (s : State) (h : Hdr) : (s.badField h).now = s.now := rfl
@[simp] theorem State.badField_free (s : State) (h : Hdr) : (s.badField h).free = s.free := rfl
@[simp] theorem State.badField_ident (s : State) (h : Hdr) : (s.badField h).ident = s.ident := rfl
@[simp] theorem State.badField_life (s : State) (h : Hdr) : (s.badField h).life = s.life := rfl
@[simp] theorem State.badField_fw (s : State) (h : Hdr) : (s.badField h).fw = s.fw := rfl
@[simp] theorem State.badField_pwr (s : State) (h : Hdr) : (s.badField h).pwr = s.pwr := rfl
@[simp] theorem State.badField_phys (s : State) (h : Hdr) : (s.badField h).phys = s.phys := rfl
@[simp] theorem State.badField_ptp (s : State) (h : Hdr) : (s.badField h).ptp = s.ptp := rfl
@[simp] theorem State.badField_flt (s : State) (h : Hdr) : (s.badField h).flt = s.flt := rfl
@[simp] theorem State.badField_health (s : State) (h : Hdr) : (s.badField h).health = s.health := rfl
@[simp] theorem State.badField_fab (s : State) (h : Hdr) : (s.badField h).fab = s.fab := rfl
@[simp] theorem State.badField_sched (s : State) (h : Hdr) : (s.badField h).sched = s.sched := rfl
@[simp] theorem State.badField_tiers (s : State) (h : Hdr) : (s.badField h).tiers = s.tiers := rfl
@[simp] theorem State.badField_part (s : State) (h : Hdr) : (s.badField h).part = s.part := rfl
@[simp] theorem State.badField_indexes (s : State) (h : Hdr) : (s.badField h).indexes = s.indexes := rfl
@[simp] theorem State.badField_eng (s : State) (h : Hdr) : (s.badField h).eng = s.eng := rfl
@[simp] theorem State.badField_trace (s : State) (h : Hdr) : (s.badField h).trace = s.trace := rfl
@[simp] theorem State.badField_flash (s : State) (h : Hdr) : (s.badField h).flash = s.flash := rfl
@[simp] theorem State.badField_twin (s : State) (h : Hdr) : (s.badField h).twin = s.twin := rfl
@[simp] theorem State.badField_units (s : State) (h : Hdr) : (s.badField h).units = s.units := rfl
@[simp] theorem State.badField_scrub (s : State) (h : Hdr) : (s.badField h).scrub = s.scrub := rfl
@[simp] theorem State.badField_host_conns (s : State) (h : Hdr) : (s.badField h).host.conns = s.host.conns := rfl
@[simp] theorem State.badField_host_ctrls (s : State) (h : Hdr) : (s.badField h).host.ctrls = s.host.ctrls := rfl
@[simp] theorem State.badField_host_queues (s : State) (h : Hdr) : (s.badField h).host.queues = s.host.queues := rfl
@[simp] theorem State.badField_host_aerReqs (s : State) (h : Hdr) : (s.badField h).host.aerReqs = s.host.aerReqs := rfl
@[simp] theorem State.badField_host_aerQueue (s : State) (h : Hdr) : (s.badField h).host.aerQueue = s.host.aerQueue := rfl
@[simp] theorem State.badField_host_bind (s : State) (h : Hdr) : (s.badField h).host.bind = s.host.bind := rfl
@[simp] theorem State.badField_host_secrets (s : State) (h : Hdr) : (s.badField h).host.secrets = s.host.secrets := rfl
@[simp] theorem State.badField_host_mgmtKey (s : State) (h : Hdr) : (s.badField h).host.mgmtKey = s.host.mgmtKey := rfl
@[simp] theorem State.badField_host_tlsOnly (s : State) (h : Hdr) : (s.badField h).host.tlsOnly = s.host.tlsOnly := rfl
@[simp] theorem State.badField_host_nss (s : State) (h : Hdr) : (s.badField h).host.nss = s.host.nss := rfl
@[simp] theorem State.badField_host_blks (s : State) (h : Hdr) : (s.badField h).host.blks = s.host.blks := rfl
@[simp] theorem State.badField_host_nextKey (s : State) (h : Hdr) : (s.badField h).host.nextKey = s.host.nextKey := rfl
@[simp] theorem State.badField_host_keys (s : State) (h : Hdr) : (s.badField h).host.keys = s.host.keys := rfl
@[simp] theorem State.badField_host_aers (s : State) (h : Hdr) : (s.badField h).host.aers = s.host.aers := rfl
@[simp] theorem State.badField_host_pdus (s : State) (h : Hdr) : (s.badField h).host.pdus = s.host.pdus := rfl
@[simp] theorem State.badField_host_mi (s : State) (h : Hdr) : (s.badField h).host.mi = s.host.mi := rfl
@[simp] theorem State.badField_host_log (s : State) (h : Hdr) : (s.badField h).host.log = s.host.log := rfl
@[simp] theorem State.badField_host_logSeq (s : State) (h : Hdr) : (s.badField h).host.logSeq = s.host.logSeq := rfl
@[simp] theorem State.badField_host_savedLog (s : State) (h : Hdr) : (s.badField h).host.savedLog = s.host.savedLog := rfl
@[simp] theorem State.badField_host_stopJobs (s : State) (h : Hdr) : (s.badField h).host.stopJobs = s.host.stopJobs := rfl
@[simp] theorem State.badField_host_miConfig (s : State) (h : Hdr) : (s.badField h).host.miConfig = s.host.miConfig := rfl

/-! ## badSeq -/

@[simp] theorem State.badSeq_pending (s : State) (h : Hdr) : (s.badSeq h).pending = s.pending := rfl
@[simp] theorem State.badSeq_now (s : State) (h : Hdr) : (s.badSeq h).now = s.now := rfl
@[simp] theorem State.badSeq_free (s : State) (h : Hdr) : (s.badSeq h).free = s.free := rfl
@[simp] theorem State.badSeq_ident (s : State) (h : Hdr) : (s.badSeq h).ident = s.ident := rfl
@[simp] theorem State.badSeq_life (s : State) (h : Hdr) : (s.badSeq h).life = s.life := rfl
@[simp] theorem State.badSeq_fw (s : State) (h : Hdr) : (s.badSeq h).fw = s.fw := rfl
@[simp] theorem State.badSeq_pwr (s : State) (h : Hdr) : (s.badSeq h).pwr = s.pwr := rfl
@[simp] theorem State.badSeq_phys (s : State) (h : Hdr) : (s.badSeq h).phys = s.phys := rfl
@[simp] theorem State.badSeq_ptp (s : State) (h : Hdr) : (s.badSeq h).ptp = s.ptp := rfl
@[simp] theorem State.badSeq_flt (s : State) (h : Hdr) : (s.badSeq h).flt = s.flt := rfl
@[simp] theorem State.badSeq_health (s : State) (h : Hdr) : (s.badSeq h).health = s.health := rfl
@[simp] theorem State.badSeq_fab (s : State) (h : Hdr) : (s.badSeq h).fab = s.fab := rfl
@[simp] theorem State.badSeq_sched (s : State) (h : Hdr) : (s.badSeq h).sched = s.sched := rfl
@[simp] theorem State.badSeq_tiers (s : State) (h : Hdr) : (s.badSeq h).tiers = s.tiers := rfl
@[simp] theorem State.badSeq_part (s : State) (h : Hdr) : (s.badSeq h).part = s.part := rfl
@[simp] theorem State.badSeq_indexes (s : State) (h : Hdr) : (s.badSeq h).indexes = s.indexes := rfl
@[simp] theorem State.badSeq_eng (s : State) (h : Hdr) : (s.badSeq h).eng = s.eng := rfl
@[simp] theorem State.badSeq_trace (s : State) (h : Hdr) : (s.badSeq h).trace = s.trace := rfl
@[simp] theorem State.badSeq_flash (s : State) (h : Hdr) : (s.badSeq h).flash = s.flash := rfl
@[simp] theorem State.badSeq_twin (s : State) (h : Hdr) : (s.badSeq h).twin = s.twin := rfl
@[simp] theorem State.badSeq_units (s : State) (h : Hdr) : (s.badSeq h).units = s.units := rfl
@[simp] theorem State.badSeq_scrub (s : State) (h : Hdr) : (s.badSeq h).scrub = s.scrub := rfl
@[simp] theorem State.badSeq_host_conns (s : State) (h : Hdr) : (s.badSeq h).host.conns = s.host.conns := rfl
@[simp] theorem State.badSeq_host_ctrls (s : State) (h : Hdr) : (s.badSeq h).host.ctrls = s.host.ctrls := rfl
@[simp] theorem State.badSeq_host_queues (s : State) (h : Hdr) : (s.badSeq h).host.queues = s.host.queues := rfl
@[simp] theorem State.badSeq_host_aerReqs (s : State) (h : Hdr) : (s.badSeq h).host.aerReqs = s.host.aerReqs := rfl
@[simp] theorem State.badSeq_host_aerQueue (s : State) (h : Hdr) : (s.badSeq h).host.aerQueue = s.host.aerQueue := rfl
@[simp] theorem State.badSeq_host_bind (s : State) (h : Hdr) : (s.badSeq h).host.bind = s.host.bind := rfl
@[simp] theorem State.badSeq_host_secrets (s : State) (h : Hdr) : (s.badSeq h).host.secrets = s.host.secrets := rfl
@[simp] theorem State.badSeq_host_mgmtKey (s : State) (h : Hdr) : (s.badSeq h).host.mgmtKey = s.host.mgmtKey := rfl
@[simp] theorem State.badSeq_host_tlsOnly (s : State) (h : Hdr) : (s.badSeq h).host.tlsOnly = s.host.tlsOnly := rfl
@[simp] theorem State.badSeq_host_nss (s : State) (h : Hdr) : (s.badSeq h).host.nss = s.host.nss := rfl
@[simp] theorem State.badSeq_host_blks (s : State) (h : Hdr) : (s.badSeq h).host.blks = s.host.blks := rfl
@[simp] theorem State.badSeq_host_nextKey (s : State) (h : Hdr) : (s.badSeq h).host.nextKey = s.host.nextKey := rfl
@[simp] theorem State.badSeq_host_keys (s : State) (h : Hdr) : (s.badSeq h).host.keys = s.host.keys := rfl
@[simp] theorem State.badSeq_host_aers (s : State) (h : Hdr) : (s.badSeq h).host.aers = s.host.aers := rfl
@[simp] theorem State.badSeq_host_pdus (s : State) (h : Hdr) : (s.badSeq h).host.pdus = s.host.pdus := rfl
@[simp] theorem State.badSeq_host_mi (s : State) (h : Hdr) : (s.badSeq h).host.mi = s.host.mi := rfl
@[simp] theorem State.badSeq_host_log (s : State) (h : Hdr) : (s.badSeq h).host.log = s.host.log := rfl
@[simp] theorem State.badSeq_host_logSeq (s : State) (h : Hdr) : (s.badSeq h).host.logSeq = s.host.logSeq := rfl
@[simp] theorem State.badSeq_host_savedLog (s : State) (h : Hdr) : (s.badSeq h).host.savedLog = s.host.savedLog := rfl
@[simp] theorem State.badSeq_host_stopJobs (s : State) (h : Hdr) : (s.badSeq h).host.stopJobs = s.host.stopJobs := rfl
@[simp] theorem State.badSeq_host_miConfig (s : State) (h : Hdr) : (s.badSeq h).host.miConfig = s.host.miConfig := rfl

/-! ## denied -/

@[simp] theorem State.denied_pending (s : State) (h : Hdr) : (s.denied h).pending = s.pending := rfl
@[simp] theorem State.denied_now (s : State) (h : Hdr) : (s.denied h).now = s.now := rfl
@[simp] theorem State.denied_free (s : State) (h : Hdr) : (s.denied h).free = s.free := rfl
@[simp] theorem State.denied_ident (s : State) (h : Hdr) : (s.denied h).ident = s.ident := rfl
@[simp] theorem State.denied_life (s : State) (h : Hdr) : (s.denied h).life = s.life := rfl
@[simp] theorem State.denied_fw (s : State) (h : Hdr) : (s.denied h).fw = s.fw := rfl
@[simp] theorem State.denied_pwr (s : State) (h : Hdr) : (s.denied h).pwr = s.pwr := rfl
@[simp] theorem State.denied_phys (s : State) (h : Hdr) : (s.denied h).phys = s.phys := rfl
@[simp] theorem State.denied_ptp (s : State) (h : Hdr) : (s.denied h).ptp = s.ptp := rfl
@[simp] theorem State.denied_flt (s : State) (h : Hdr) : (s.denied h).flt = s.flt := rfl
@[simp] theorem State.denied_health (s : State) (h : Hdr) : (s.denied h).health = s.health := rfl
@[simp] theorem State.denied_fab (s : State) (h : Hdr) : (s.denied h).fab = s.fab := rfl
@[simp] theorem State.denied_sched (s : State) (h : Hdr) : (s.denied h).sched = s.sched := rfl
@[simp] theorem State.denied_tiers (s : State) (h : Hdr) : (s.denied h).tiers = s.tiers := rfl
@[simp] theorem State.denied_part (s : State) (h : Hdr) : (s.denied h).part = s.part := rfl
@[simp] theorem State.denied_indexes (s : State) (h : Hdr) : (s.denied h).indexes = s.indexes := rfl
@[simp] theorem State.denied_eng (s : State) (h : Hdr) : (s.denied h).eng = s.eng := rfl
@[simp] theorem State.denied_trace (s : State) (h : Hdr) : (s.denied h).trace = s.trace := rfl
@[simp] theorem State.denied_flash (s : State) (h : Hdr) : (s.denied h).flash = s.flash := rfl
@[simp] theorem State.denied_twin (s : State) (h : Hdr) : (s.denied h).twin = s.twin := rfl
@[simp] theorem State.denied_units (s : State) (h : Hdr) : (s.denied h).units = s.units := rfl
@[simp] theorem State.denied_scrub (s : State) (h : Hdr) : (s.denied h).scrub = s.scrub := rfl
@[simp] theorem State.denied_host_conns (s : State) (h : Hdr) : (s.denied h).host.conns = s.host.conns := rfl
@[simp] theorem State.denied_host_ctrls (s : State) (h : Hdr) : (s.denied h).host.ctrls = s.host.ctrls := rfl
@[simp] theorem State.denied_host_queues (s : State) (h : Hdr) : (s.denied h).host.queues = s.host.queues := rfl
@[simp] theorem State.denied_host_aerReqs (s : State) (h : Hdr) : (s.denied h).host.aerReqs = s.host.aerReqs := rfl
@[simp] theorem State.denied_host_aerQueue (s : State) (h : Hdr) : (s.denied h).host.aerQueue = s.host.aerQueue := rfl
@[simp] theorem State.denied_host_bind (s : State) (h : Hdr) : (s.denied h).host.bind = s.host.bind := rfl
@[simp] theorem State.denied_host_secrets (s : State) (h : Hdr) : (s.denied h).host.secrets = s.host.secrets := rfl
@[simp] theorem State.denied_host_mgmtKey (s : State) (h : Hdr) : (s.denied h).host.mgmtKey = s.host.mgmtKey := rfl
@[simp] theorem State.denied_host_tlsOnly (s : State) (h : Hdr) : (s.denied h).host.tlsOnly = s.host.tlsOnly := rfl
@[simp] theorem State.denied_host_nss (s : State) (h : Hdr) : (s.denied h).host.nss = s.host.nss := rfl
@[simp] theorem State.denied_host_blks (s : State) (h : Hdr) : (s.denied h).host.blks = s.host.blks := rfl
@[simp] theorem State.denied_host_nextKey (s : State) (h : Hdr) : (s.denied h).host.nextKey = s.host.nextKey := rfl
@[simp] theorem State.denied_host_keys (s : State) (h : Hdr) : (s.denied h).host.keys = s.host.keys := rfl
@[simp] theorem State.denied_host_aers (s : State) (h : Hdr) : (s.denied h).host.aers = s.host.aers := rfl
@[simp] theorem State.denied_host_pdus (s : State) (h : Hdr) : (s.denied h).host.pdus = s.host.pdus := rfl
@[simp] theorem State.denied_host_mi (s : State) (h : Hdr) : (s.denied h).host.mi = s.host.mi := rfl
@[simp] theorem State.denied_host_log (s : State) (h : Hdr) : (s.denied h).host.log = s.host.log := rfl
@[simp] theorem State.denied_host_logSeq (s : State) (h : Hdr) : (s.denied h).host.logSeq = s.host.logSeq := rfl
@[simp] theorem State.denied_host_savedLog (s : State) (h : Hdr) : (s.denied h).host.savedLog = s.host.savedLog := rfl
@[simp] theorem State.denied_host_stopJobs (s : State) (h : Hdr) : (s.denied h).host.stopJobs = s.host.stopJobs := rfl
@[simp] theorem State.denied_host_miConfig (s : State) (h : Hdr) : (s.denied h).host.miConfig = s.host.miConfig := rfl

/-! ## laesk -/

@[simp] theorem State.laesk_pending (s : State) (h : Hdr) (sc : Nat) (dw0 dw1 : W32) : (s.laesk h sc dw0 dw1).pending = s.pending := rfl
@[simp] theorem State.laesk_now (s : State) (h : Hdr) (sc : Nat) (dw0 dw1 : W32) : (s.laesk h sc dw0 dw1).now = s.now := rfl
@[simp] theorem State.laesk_free (s : State) (h : Hdr) (sc : Nat) (dw0 dw1 : W32) : (s.laesk h sc dw0 dw1).free = s.free := rfl
@[simp] theorem State.laesk_ident (s : State) (h : Hdr) (sc : Nat) (dw0 dw1 : W32) : (s.laesk h sc dw0 dw1).ident = s.ident := rfl
@[simp] theorem State.laesk_life (s : State) (h : Hdr) (sc : Nat) (dw0 dw1 : W32) : (s.laesk h sc dw0 dw1).life = s.life := rfl
@[simp] theorem State.laesk_fw (s : State) (h : Hdr) (sc : Nat) (dw0 dw1 : W32) : (s.laesk h sc dw0 dw1).fw = s.fw := rfl
@[simp] theorem State.laesk_pwr (s : State) (h : Hdr) (sc : Nat) (dw0 dw1 : W32) : (s.laesk h sc dw0 dw1).pwr = s.pwr := rfl
@[simp] theorem State.laesk_phys (s : State) (h : Hdr) (sc : Nat) (dw0 dw1 : W32) : (s.laesk h sc dw0 dw1).phys = s.phys := rfl
@[simp] theorem State.laesk_ptp (s : State) (h : Hdr) (sc : Nat) (dw0 dw1 : W32) : (s.laesk h sc dw0 dw1).ptp = s.ptp := rfl
@[simp] theorem State.laesk_flt (s : State) (h : Hdr) (sc : Nat) (dw0 dw1 : W32) : (s.laesk h sc dw0 dw1).flt = s.flt := rfl
@[simp] theorem State.laesk_health (s : State) (h : Hdr) (sc : Nat) (dw0 dw1 : W32) : (s.laesk h sc dw0 dw1).health = s.health := rfl
@[simp] theorem State.laesk_fab (s : State) (h : Hdr) (sc : Nat) (dw0 dw1 : W32) : (s.laesk h sc dw0 dw1).fab = s.fab := rfl
@[simp] theorem State.laesk_sched (s : State) (h : Hdr) (sc : Nat) (dw0 dw1 : W32) : (s.laesk h sc dw0 dw1).sched = s.sched := rfl
@[simp] theorem State.laesk_tiers (s : State) (h : Hdr) (sc : Nat) (dw0 dw1 : W32) : (s.laesk h sc dw0 dw1).tiers = s.tiers := rfl
@[simp] theorem State.laesk_part (s : State) (h : Hdr) (sc : Nat) (dw0 dw1 : W32) : (s.laesk h sc dw0 dw1).part = s.part := rfl
@[simp] theorem State.laesk_indexes (s : State) (h : Hdr) (sc : Nat) (dw0 dw1 : W32) : (s.laesk h sc dw0 dw1).indexes = s.indexes := rfl
@[simp] theorem State.laesk_eng (s : State) (h : Hdr) (sc : Nat) (dw0 dw1 : W32) : (s.laesk h sc dw0 dw1).eng = s.eng := rfl
@[simp] theorem State.laesk_trace (s : State) (h : Hdr) (sc : Nat) (dw0 dw1 : W32) : (s.laesk h sc dw0 dw1).trace = s.trace := rfl
@[simp] theorem State.laesk_flash (s : State) (h : Hdr) (sc : Nat) (dw0 dw1 : W32) : (s.laesk h sc dw0 dw1).flash = s.flash := rfl
@[simp] theorem State.laesk_twin (s : State) (h : Hdr) (sc : Nat) (dw0 dw1 : W32) : (s.laesk h sc dw0 dw1).twin = s.twin := rfl
@[simp] theorem State.laesk_units (s : State) (h : Hdr) (sc : Nat) (dw0 dw1 : W32) : (s.laesk h sc dw0 dw1).units = s.units := rfl
@[simp] theorem State.laesk_scrub (s : State) (h : Hdr) (sc : Nat) (dw0 dw1 : W32) : (s.laesk h sc dw0 dw1).scrub = s.scrub := rfl
@[simp] theorem State.laesk_host_conns (s : State) (h : Hdr) (sc : Nat) (dw0 dw1 : W32) : (s.laesk h sc dw0 dw1).host.conns = s.host.conns := rfl
@[simp] theorem State.laesk_host_ctrls (s : State) (h : Hdr) (sc : Nat) (dw0 dw1 : W32) : (s.laesk h sc dw0 dw1).host.ctrls = s.host.ctrls := rfl
@[simp] theorem State.laesk_host_queues (s : State) (h : Hdr) (sc : Nat) (dw0 dw1 : W32) : (s.laesk h sc dw0 dw1).host.queues = s.host.queues := rfl
@[simp] theorem State.laesk_host_aerReqs (s : State) (h : Hdr) (sc : Nat) (dw0 dw1 : W32) : (s.laesk h sc dw0 dw1).host.aerReqs = s.host.aerReqs := rfl
@[simp] theorem State.laesk_host_aerQueue (s : State) (h : Hdr) (sc : Nat) (dw0 dw1 : W32) : (s.laesk h sc dw0 dw1).host.aerQueue = s.host.aerQueue := rfl
@[simp] theorem State.laesk_host_bind (s : State) (h : Hdr) (sc : Nat) (dw0 dw1 : W32) : (s.laesk h sc dw0 dw1).host.bind = s.host.bind := rfl
@[simp] theorem State.laesk_host_secrets (s : State) (h : Hdr) (sc : Nat) (dw0 dw1 : W32) : (s.laesk h sc dw0 dw1).host.secrets = s.host.secrets := rfl
@[simp] theorem State.laesk_host_mgmtKey (s : State) (h : Hdr) (sc : Nat) (dw0 dw1 : W32) : (s.laesk h sc dw0 dw1).host.mgmtKey = s.host.mgmtKey := rfl
@[simp] theorem State.laesk_host_tlsOnly (s : State) (h : Hdr) (sc : Nat) (dw0 dw1 : W32) : (s.laesk h sc dw0 dw1).host.tlsOnly = s.host.tlsOnly := rfl
@[simp] theorem State.laesk_host_nss (s : State) (h : Hdr) (sc : Nat) (dw0 dw1 : W32) : (s.laesk h sc dw0 dw1).host.nss = s.host.nss := rfl
@[simp] theorem State.laesk_host_blks (s : State) (h : Hdr) (sc : Nat) (dw0 dw1 : W32) : (s.laesk h sc dw0 dw1).host.blks = s.host.blks := rfl
@[simp] theorem State.laesk_host_nextKey (s : State) (h : Hdr) (sc : Nat) (dw0 dw1 : W32) : (s.laesk h sc dw0 dw1).host.nextKey = s.host.nextKey := rfl
@[simp] theorem State.laesk_host_keys (s : State) (h : Hdr) (sc : Nat) (dw0 dw1 : W32) : (s.laesk h sc dw0 dw1).host.keys = s.host.keys := rfl
@[simp] theorem State.laesk_host_aers (s : State) (h : Hdr) (sc : Nat) (dw0 dw1 : W32) : (s.laesk h sc dw0 dw1).host.aers = s.host.aers := rfl
@[simp] theorem State.laesk_host_pdus (s : State) (h : Hdr) (sc : Nat) (dw0 dw1 : W32) : (s.laesk h sc dw0 dw1).host.pdus = s.host.pdus := rfl
@[simp] theorem State.laesk_host_mi (s : State) (h : Hdr) (sc : Nat) (dw0 dw1 : W32) : (s.laesk h sc dw0 dw1).host.mi = s.host.mi := rfl
@[simp] theorem State.laesk_host_log (s : State) (h : Hdr) (sc : Nat) (dw0 dw1 : W32) : (s.laesk h sc dw0 dw1).host.log = s.host.log := rfl
@[simp] theorem State.laesk_host_logSeq (s : State) (h : Hdr) (sc : Nat) (dw0 dw1 : W32) : (s.laesk h sc dw0 dw1).host.logSeq = s.host.logSeq := rfl
@[simp] theorem State.laesk_host_savedLog (s : State) (h : Hdr) (sc : Nat) (dw0 dw1 : W32) : (s.laesk h sc dw0 dw1).host.savedLog = s.host.savedLog := rfl
@[simp] theorem State.laesk_host_stopJobs (s : State) (h : Hdr) (sc : Nat) (dw0 dw1 : W32) : (s.laesk h sc dw0 dw1).host.stopJobs = s.host.stopJobs := rfl
@[simp] theorem State.laesk_host_miConfig (s : State) (h : Hdr) (sc : Nat) (dw0 dw1 : W32) : (s.laesk h sc dw0 dw1).host.miConfig = s.host.miConfig := rfl

/-! ## await -/

@[simp] theorem State.await_pending (s : State) (o : OutCmd) : (s.await o).pending = s.pending := rfl
@[simp] theorem State.await_now (s : State) (o : OutCmd) : (s.await o).now = s.now := rfl
@[simp] theorem State.await_free (s : State) (o : OutCmd) : (s.await o).free = s.free := rfl
@[simp] theorem State.await_ident (s : State) (o : OutCmd) : (s.await o).ident = s.ident := rfl
@[simp] theorem State.await_life (s : State) (o : OutCmd) : (s.await o).life = s.life := rfl
@[simp] theorem State.await_fw (s : State) (o : OutCmd) : (s.await o).fw = s.fw := rfl
@[simp] theorem State.await_pwr (s : State) (o : OutCmd) : (s.await o).pwr = s.pwr := rfl
@[simp] theorem State.await_phys (s : State) (o : OutCmd) : (s.await o).phys = s.phys := rfl
@[simp] theorem State.await_ptp (s : State) (o : OutCmd) : (s.await o).ptp = s.ptp := rfl
@[simp] theorem State.await_flt (s : State) (o : OutCmd) : (s.await o).flt = s.flt := rfl
@[simp] theorem State.await_health (s : State) (o : OutCmd) : (s.await o).health = s.health := rfl
@[simp] theorem State.await_fab (s : State) (o : OutCmd) : (s.await o).fab = s.fab := rfl
@[simp] theorem State.await_sched (s : State) (o : OutCmd) : (s.await o).sched = s.sched := rfl
@[simp] theorem State.await_tiers (s : State) (o : OutCmd) : (s.await o).tiers = s.tiers := rfl
@[simp] theorem State.await_part (s : State) (o : OutCmd) : (s.await o).part = s.part := rfl
@[simp] theorem State.await_indexes (s : State) (o : OutCmd) : (s.await o).indexes = s.indexes := rfl
@[simp] theorem State.await_eng (s : State) (o : OutCmd) : (s.await o).eng = s.eng := rfl
@[simp] theorem State.await_trace (s : State) (o : OutCmd) : (s.await o).trace = s.trace := rfl
@[simp] theorem State.await_flash (s : State) (o : OutCmd) : (s.await o).flash = s.flash := rfl
@[simp] theorem State.await_twin (s : State) (o : OutCmd) : (s.await o).twin = s.twin := rfl
@[simp] theorem State.await_units (s : State) (o : OutCmd) : (s.await o).units = s.units := rfl
@[simp] theorem State.await_scrub (s : State) (o : OutCmd) : (s.await o).scrub = s.scrub := rfl
@[simp] theorem State.await_host_conns (s : State) (o : OutCmd) : (s.await o).host.conns = s.host.conns := rfl
@[simp] theorem State.await_host_ctrls (s : State) (o : OutCmd) : (s.await o).host.ctrls = s.host.ctrls := rfl
@[simp] theorem State.await_host_queues (s : State) (o : OutCmd) : (s.await o).host.queues = s.host.queues := rfl
@[simp] theorem State.await_host_aerReqs (s : State) (o : OutCmd) : (s.await o).host.aerReqs = s.host.aerReqs := rfl
@[simp] theorem State.await_host_aerQueue (s : State) (o : OutCmd) : (s.await o).host.aerQueue = s.host.aerQueue := rfl
@[simp] theorem State.await_host_bind (s : State) (o : OutCmd) : (s.await o).host.bind = s.host.bind := rfl
@[simp] theorem State.await_host_secrets (s : State) (o : OutCmd) : (s.await o).host.secrets = s.host.secrets := rfl
@[simp] theorem State.await_host_mgmtKey (s : State) (o : OutCmd) : (s.await o).host.mgmtKey = s.host.mgmtKey := rfl
@[simp] theorem State.await_host_tlsOnly (s : State) (o : OutCmd) : (s.await o).host.tlsOnly = s.host.tlsOnly := rfl
@[simp] theorem State.await_host_nss (s : State) (o : OutCmd) : (s.await o).host.nss = s.host.nss := rfl
@[simp] theorem State.await_host_blks (s : State) (o : OutCmd) : (s.await o).host.blks = s.host.blks := rfl
@[simp] theorem State.await_host_nextKey (s : State) (o : OutCmd) : (s.await o).host.nextKey = s.host.nextKey := rfl
@[simp] theorem State.await_host_keys (s : State) (o : OutCmd) : (s.await o).host.keys = s.host.keys := rfl
@[simp] theorem State.await_host_cq (s : State) (o : OutCmd) : (s.await o).host.cq = s.host.cq := rfl
@[simp] theorem State.await_host_aers (s : State) (o : OutCmd) : (s.await o).host.aers = s.host.aers := rfl
@[simp] theorem State.await_host_pdus (s : State) (o : OutCmd) : (s.await o).host.pdus = s.host.pdus := rfl
@[simp] theorem State.await_host_mi (s : State) (o : OutCmd) : (s.await o).host.mi = s.host.mi := rfl
@[simp] theorem State.await_host_miDrop (s : State) (o : OutCmd) : (s.await o).host.miDrop = s.host.miDrop := rfl
@[simp] theorem State.await_host_log (s : State) (o : OutCmd) : (s.await o).host.log = s.host.log := rfl
@[simp] theorem State.await_host_logSeq (s : State) (o : OutCmd) : (s.await o).host.logSeq = s.host.logSeq := rfl
@[simp] theorem State.await_host_savedLog (s : State) (o : OutCmd) : (s.await o).host.savedLog = s.host.savedLog := rfl
@[simp] theorem State.await_host_stopJobs (s : State) (o : OutCmd) : (s.await o).host.stopJobs = s.host.stopJobs := rfl
@[simp] theorem State.await_host_miConfig (s : State) (o : OutCmd) : (s.await o).host.miConfig = s.host.miConfig := rfl

/-! ## send -/

@[simp] theorem State.send_pending (s : State) (p : Pdu) : (s.send p).pending = s.pending := rfl
@[simp] theorem State.send_now (s : State) (p : Pdu) : (s.send p).now = s.now := rfl
@[simp] theorem State.send_free (s : State) (p : Pdu) : (s.send p).free = s.free := rfl
@[simp] theorem State.send_ident (s : State) (p : Pdu) : (s.send p).ident = s.ident := rfl
@[simp] theorem State.send_life (s : State) (p : Pdu) : (s.send p).life = s.life := rfl
@[simp] theorem State.send_fw (s : State) (p : Pdu) : (s.send p).fw = s.fw := rfl
@[simp] theorem State.send_pwr (s : State) (p : Pdu) : (s.send p).pwr = s.pwr := rfl
@[simp] theorem State.send_phys (s : State) (p : Pdu) : (s.send p).phys = s.phys := rfl
@[simp] theorem State.send_ptp (s : State) (p : Pdu) : (s.send p).ptp = s.ptp := rfl
@[simp] theorem State.send_flt (s : State) (p : Pdu) : (s.send p).flt = s.flt := rfl
@[simp] theorem State.send_health (s : State) (p : Pdu) : (s.send p).health = s.health := rfl
@[simp] theorem State.send_fab (s : State) (p : Pdu) : (s.send p).fab = s.fab := rfl
@[simp] theorem State.send_sched (s : State) (p : Pdu) : (s.send p).sched = s.sched := rfl
@[simp] theorem State.send_tiers (s : State) (p : Pdu) : (s.send p).tiers = s.tiers := rfl
@[simp] theorem State.send_part (s : State) (p : Pdu) : (s.send p).part = s.part := rfl
@[simp] theorem State.send_indexes (s : State) (p : Pdu) : (s.send p).indexes = s.indexes := rfl
@[simp] theorem State.send_eng (s : State) (p : Pdu) : (s.send p).eng = s.eng := rfl
@[simp] theorem State.send_trace (s : State) (p : Pdu) : (s.send p).trace = s.trace := rfl
@[simp] theorem State.send_flash (s : State) (p : Pdu) : (s.send p).flash = s.flash := rfl
@[simp] theorem State.send_twin (s : State) (p : Pdu) : (s.send p).twin = s.twin := rfl
@[simp] theorem State.send_units (s : State) (p : Pdu) : (s.send p).units = s.units := rfl
@[simp] theorem State.send_scrub (s : State) (p : Pdu) : (s.send p).scrub = s.scrub := rfl
@[simp] theorem State.send_host_conns (s : State) (p : Pdu) : (s.send p).host.conns = s.host.conns := rfl
@[simp] theorem State.send_host_ctrls (s : State) (p : Pdu) : (s.send p).host.ctrls = s.host.ctrls := rfl
@[simp] theorem State.send_host_queues (s : State) (p : Pdu) : (s.send p).host.queues = s.host.queues := rfl
@[simp] theorem State.send_host_cmds (s : State) (p : Pdu) : (s.send p).host.cmds = s.host.cmds := rfl
@[simp] theorem State.send_host_aerReqs (s : State) (p : Pdu) : (s.send p).host.aerReqs = s.host.aerReqs := rfl
@[simp] theorem State.send_host_aerQueue (s : State) (p : Pdu) : (s.send p).host.aerQueue = s.host.aerQueue := rfl
@[simp] theorem State.send_host_bind (s : State) (p : Pdu) : (s.send p).host.bind = s.host.bind := rfl
@[simp] theorem State.send_host_secrets (s : State) (p : Pdu) : (s.send p).host.secrets = s.host.secrets := rfl
@[simp] theorem State.send_host_mgmtKey (s : State) (p : Pdu) : (s.send p).host.mgmtKey = s.host.mgmtKey := rfl
@[simp] theorem State.send_host_tlsOnly (s : State) (p : Pdu) : (s.send p).host.tlsOnly = s.host.tlsOnly := rfl
@[simp] theorem State.send_host_nss (s : State) (p : Pdu) : (s.send p).host.nss = s.host.nss := rfl
@[simp] theorem State.send_host_blks (s : State) (p : Pdu) : (s.send p).host.blks = s.host.blks := rfl
@[simp] theorem State.send_host_nextKey (s : State) (p : Pdu) : (s.send p).host.nextKey = s.host.nextKey := rfl
@[simp] theorem State.send_host_keys (s : State) (p : Pdu) : (s.send p).host.keys = s.host.keys := rfl
@[simp] theorem State.send_host_cq (s : State) (p : Pdu) : (s.send p).host.cq = s.host.cq := rfl
@[simp] theorem State.send_host_aers (s : State) (p : Pdu) : (s.send p).host.aers = s.host.aers := rfl
@[simp] theorem State.send_host_mi (s : State) (p : Pdu) : (s.send p).host.mi = s.host.mi := rfl
@[simp] theorem State.send_host_miDrop (s : State) (p : Pdu) : (s.send p).host.miDrop = s.host.miDrop := rfl
@[simp] theorem State.send_host_log (s : State) (p : Pdu) : (s.send p).host.log = s.host.log := rfl
@[simp] theorem State.send_host_logSeq (s : State) (p : Pdu) : (s.send p).host.logSeq = s.host.logSeq := rfl
@[simp] theorem State.send_host_savedLog (s : State) (p : Pdu) : (s.send p).host.savedLog = s.host.savedLog := rfl
@[simp] theorem State.send_host_stopJobs (s : State) (p : Pdu) : (s.send p).host.stopJobs = s.host.stopJobs := rfl
@[simp] theorem State.send_host_miConfig (s : State) (p : Pdu) : (s.send p).host.miConfig = s.host.miConfig := rfl

/-! ## toPeer -/

@[simp] theorem State.toPeer_pending (s : State) (m : TwinMsg) : (s.toPeer m).pending = s.pending := rfl
@[simp] theorem State.toPeer_now (s : State) (m : TwinMsg) : (s.toPeer m).now = s.now := rfl
@[simp] theorem State.toPeer_free (s : State) (m : TwinMsg) : (s.toPeer m).free = s.free := rfl
@[simp] theorem State.toPeer_ident (s : State) (m : TwinMsg) : (s.toPeer m).ident = s.ident := rfl
@[simp] theorem State.toPeer_life (s : State) (m : TwinMsg) : (s.toPeer m).life = s.life := rfl
@[simp] theorem State.toPeer_fw (s : State) (m : TwinMsg) : (s.toPeer m).fw = s.fw := rfl
@[simp] theorem State.toPeer_pwr (s : State) (m : TwinMsg) : (s.toPeer m).pwr = s.pwr := rfl
@[simp] theorem State.toPeer_phys (s : State) (m : TwinMsg) : (s.toPeer m).phys = s.phys := rfl
@[simp] theorem State.toPeer_ptp (s : State) (m : TwinMsg) : (s.toPeer m).ptp = s.ptp := rfl
@[simp] theorem State.toPeer_flt (s : State) (m : TwinMsg) : (s.toPeer m).flt = s.flt := rfl
@[simp] theorem State.toPeer_health (s : State) (m : TwinMsg) : (s.toPeer m).health = s.health := rfl
@[simp] theorem State.toPeer_fab (s : State) (m : TwinMsg) : (s.toPeer m).fab = s.fab := rfl
@[simp] theorem State.toPeer_sched (s : State) (m : TwinMsg) : (s.toPeer m).sched = s.sched := rfl
@[simp] theorem State.toPeer_tiers (s : State) (m : TwinMsg) : (s.toPeer m).tiers = s.tiers := rfl
@[simp] theorem State.toPeer_part (s : State) (m : TwinMsg) : (s.toPeer m).part = s.part := rfl
@[simp] theorem State.toPeer_indexes (s : State) (m : TwinMsg) : (s.toPeer m).indexes = s.indexes := rfl
@[simp] theorem State.toPeer_eng (s : State) (m : TwinMsg) : (s.toPeer m).eng = s.eng := rfl
@[simp] theorem State.toPeer_host (s : State) (m : TwinMsg) : (s.toPeer m).host = s.host := rfl
@[simp] theorem State.toPeer_trace (s : State) (m : TwinMsg) : (s.toPeer m).trace = s.trace := rfl
@[simp] theorem State.toPeer_flash (s : State) (m : TwinMsg) : (s.toPeer m).flash = s.flash := rfl
@[simp] theorem State.toPeer_units (s : State) (m : TwinMsg) : (s.toPeer m).units = s.units := rfl
@[simp] theorem State.toPeer_scrub (s : State) (m : TwinMsg) : (s.toPeer m).scrub = s.scrub := rfl
@[simp] theorem State.toPeer_twin_st (s : State) (m : TwinMsg) : (s.toPeer m).twin.st = s.twin.st := rfl
@[simp] theorem State.toPeer_twin_since (s : State) (m : TwinMsg) : (s.toPeer m).twin.since = s.twin.since := rfl
@[simp] theorem State.toPeer_twin_rank (s : State) (m : TwinMsg) : (s.toPeer m).twin.rank = s.twin.rank := rfl
@[simp] theorem State.toPeer_twin_peerSerial (s : State) (m : TwinMsg) : (s.toPeer m).twin.peerSerial = s.twin.peerSerial := rfl
@[simp] theorem State.toPeer_twin_cages (s : State) (m : TwinMsg) : (s.toPeer m).twin.cages = s.twin.cages := rfl
@[simp] theorem State.toPeer_twin_groups (s : State) (m : TwinMsg) : (s.toPeer m).twin.groups = s.twin.groups := rfl
@[simp] theorem State.toPeer_twin_unacked (s : State) (m : TwinMsg) : (s.toPeer m).twin.unacked = s.twin.unacked := rfl
@[simp] theorem State.toPeer_twin_epSent (s : State) (m : TwinMsg) : (s.toPeer m).twin.epSent = s.twin.epSent := rfl
@[simp] theorem State.toPeer_twin_epAdopted (s : State) (m : TwinMsg) : (s.toPeer m).twin.epAdopted = s.twin.epAdopted := rfl
@[simp] theorem State.toPeer_twin_epFlight (s : State) (m : TwinMsg) : (s.toPeer m).twin.epFlight = s.twin.epFlight := rfl
@[simp] theorem State.toPeer_twin_epAt (s : State) (m : TwinMsg) : (s.toPeer m).twin.epAt = s.twin.epAt := rfl
@[simp] theorem State.toPeer_twin_owed (s : State) (m : TwinMsg) : (s.toPeer m).twin.owed = s.twin.owed := rfl
@[simp] theorem State.toPeer_twin_dirty (s : State) (m : TwinMsg) : (s.toPeer m).twin.dirty = s.twin.dirty := rfl
@[simp] theorem State.toPeer_twin_adopted (s : State) (m : TwinMsg) : (s.toPeer m).twin.adopted = s.twin.adopted := rfl
@[simp] theorem State.toPeer_twin_staging (s : State) (m : TwinMsg) : (s.toPeer m).twin.staging = s.twin.staging := rfl
@[simp] theorem State.toPeer_twin_records (s : State) (m : TwinMsg) : (s.toPeer m).twin.records = s.twin.records := rfl
@[simp] theorem State.toPeer_twin_takeovers (s : State) (m : TwinMsg) : (s.toPeer m).twin.takeovers = s.twin.takeovers := rfl
@[simp] theorem State.toPeer_twin_witness (s : State) (m : TwinMsg) : (s.toPeer m).twin.witness = s.twin.witness := rfl
@[simp] theorem State.toPeer_twin_checkAt (s : State) (m : TwinMsg) : (s.toPeer m).twin.checkAt = s.twin.checkAt := rfl
@[simp] theorem State.toPeer_twin_refuse (s : State) (m : TwinMsg) : (s.toPeer m).twin.refuse = s.twin.refuse := rfl
@[simp] theorem State.toPeer_twin_waiting (s : State) (m : TwinMsg) : (s.toPeer m).twin.waiting = s.twin.waiting := rfl
@[simp] theorem State.toPeer_twin_applied (s : State) (m : TwinMsg) : (s.toPeer m).twin.applied = s.twin.applied := rfl
@[simp] theorem State.toPeer_twin_resLeft (s : State) (m : TwinMsg) : (s.toPeer m).twin.resLeft = s.twin.resLeft := rfl
@[simp] theorem State.toPeer_twin_resDone (s : State) (m : TwinMsg) : (s.toPeer m).twin.resDone = s.twin.resDone := rfl
@[simp] theorem State.toPeer_twin_pairAt (s : State) (m : TwinMsg) : (s.toPeer m).twin.pairAt = s.twin.pairAt := rfl
@[simp] theorem State.toPeer_twin_kek (s : State) (m : TwinMsg) : (s.toPeer m).twin.kek = s.twin.kek := rfl
@[simp] theorem State.toPeer_twin_memSeq (s : State) (m : TwinMsg) : (s.toPeer m).twin.memSeq = s.twin.memSeq := rfl
@[simp] theorem State.toPeer_twin_memRecv (s : State) (m : TwinMsg) : (s.toPeer m).twin.memRecv = s.twin.memRecv := rfl

/-! ## setEx -/

@[simp] theorem State.setEx_pending (s : State) (e : Exec) : (s.setEx e).pending = s.pending := rfl
@[simp] theorem State.setEx_now (s : State) (e : Exec) : (s.setEx e).now = s.now := rfl
@[simp] theorem State.setEx_free (s : State) (e : Exec) : (s.setEx e).free = s.free := rfl
@[simp] theorem State.setEx_ident (s : State) (e : Exec) : (s.setEx e).ident = s.ident := rfl
@[simp] theorem State.setEx_life (s : State) (e : Exec) : (s.setEx e).life = s.life := rfl
@[simp] theorem State.setEx_fw (s : State) (e : Exec) : (s.setEx e).fw = s.fw := rfl
@[simp] theorem State.setEx_pwr (s : State) (e : Exec) : (s.setEx e).pwr = s.pwr := rfl
@[simp] theorem State.setEx_phys (s : State) (e : Exec) : (s.setEx e).phys = s.phys := rfl
@[simp] theorem State.setEx_ptp (s : State) (e : Exec) : (s.setEx e).ptp = s.ptp := rfl
@[simp] theorem State.setEx_flt (s : State) (e : Exec) : (s.setEx e).flt = s.flt := rfl
@[simp] theorem State.setEx_health (s : State) (e : Exec) : (s.setEx e).health = s.health := rfl
@[simp] theorem State.setEx_fab (s : State) (e : Exec) : (s.setEx e).fab = s.fab := rfl
@[simp] theorem State.setEx_tiers (s : State) (e : Exec) : (s.setEx e).tiers = s.tiers := rfl
@[simp] theorem State.setEx_part (s : State) (e : Exec) : (s.setEx e).part = s.part := rfl
@[simp] theorem State.setEx_indexes (s : State) (e : Exec) : (s.setEx e).indexes = s.indexes := rfl
@[simp] theorem State.setEx_eng (s : State) (e : Exec) : (s.setEx e).eng = s.eng := rfl
@[simp] theorem State.setEx_host (s : State) (e : Exec) : (s.setEx e).host = s.host := rfl
@[simp] theorem State.setEx_trace (s : State) (e : Exec) : (s.setEx e).trace = s.trace := rfl
@[simp] theorem State.setEx_flash (s : State) (e : Exec) : (s.setEx e).flash = s.flash := rfl
@[simp] theorem State.setEx_twin (s : State) (e : Exec) : (s.setEx e).twin = s.twin := rfl
@[simp] theorem State.setEx_units (s : State) (e : Exec) : (s.setEx e).units = s.units := rfl
@[simp] theorem State.setEx_scrub (s : State) (e : Exec) : (s.setEx e).scrub = s.scrub := rfl
@[simp] theorem State.setEx_sched_comps (s : State) (e : Exec) : (s.setEx e).sched.comps = s.sched.comps := rfl
@[simp] theorem State.setEx_sched_images (s : State) (e : Exec) : (s.setEx e).sched.images = s.sched.images := rfl
@[simp] theorem State.setEx_sched_gangs (s : State) (e : Exec) : (s.setEx e).sched.gangs = s.sched.gangs := rfl
@[simp] theorem State.setEx_sched_nextExec (s : State) (e : Exec) : (s.setEx e).sched.nextExec = s.sched.nextExec := rfl
@[simp] theorem State.setEx_sched_nextGang (s : State) (e : Exec) : (s.setEx e).sched.nextGang = s.sched.nextGang := rfl
@[simp] theorem State.setEx_sched_budget (s : State) (e : Exec) : (s.setEx e).sched.budget = s.sched.budget := rfl
@[simp] theorem State.setEx_sched_overruns (s : State) (e : Exec) : (s.setEx e).sched.overruns = s.sched.overruns := rfl
@[simp] theorem State.setEx_sched_boundary (s : State) (e : Exec) : (s.setEx e).sched.boundary = s.sched.boundary := rfl
@[simp] theorem State.setEx_sched_abandoned (s : State) (e : Exec) : (s.setEx e).sched.abandoned = s.sched.abandoned := rfl
@[simp] theorem State.setEx_sched_withdrawn (s : State) (e : Exec) : (s.setEx e).sched.withdrawn = s.sched.withdrawn := rfl
@[simp] theorem State.setEx_sched_refusedInf (s : State) (e : Exec) : (s.setEx e).sched.refusedInf = s.sched.refusedInf := rfl
@[simp] theorem State.setEx_sched_refusedOvl (s : State) (e : Exec) : (s.setEx e).sched.refusedOvl = s.sched.refusedOvl := rfl
@[simp] theorem State.setEx_sched_counts (s : State) (e : Exec) : (s.setEx e).sched.counts = s.sched.counts := rfl
@[simp] theorem State.setEx_sched_holder (s : State) (e : Exec) : (s.setEx e).sched.holder = s.sched.holder := rfl
@[simp] theorem State.setEx_sched_grants (s : State) (e : Exec) : (s.setEx e).sched.grants = s.sched.grants := rfl
@[simp] theorem State.setEx_sched_runTimes (s : State) (e : Exec) : (s.setEx e).sched.runTimes = s.sched.runTimes := rfl

/-! ## modEx -/

@[simp] theorem State.modEx_pending (s : State) (id : Nat) (f : Exec → Exec) : (s.modEx id f).pending = s.pending := rfl
@[simp] theorem State.modEx_now (s : State) (id : Nat) (f : Exec → Exec) : (s.modEx id f).now = s.now := rfl
@[simp] theorem State.modEx_free (s : State) (id : Nat) (f : Exec → Exec) : (s.modEx id f).free = s.free := rfl
@[simp] theorem State.modEx_ident (s : State) (id : Nat) (f : Exec → Exec) : (s.modEx id f).ident = s.ident := rfl
@[simp] theorem State.modEx_life (s : State) (id : Nat) (f : Exec → Exec) : (s.modEx id f).life = s.life := rfl
@[simp] theorem State.modEx_fw (s : State) (id : Nat) (f : Exec → Exec) : (s.modEx id f).fw = s.fw := rfl
@[simp] theorem State.modEx_pwr (s : State) (id : Nat) (f : Exec → Exec) : (s.modEx id f).pwr = s.pwr := rfl
@[simp] theorem State.modEx_phys (s : State) (id : Nat) (f : Exec → Exec) : (s.modEx id f).phys = s.phys := rfl
@[simp] theorem State.modEx_ptp (s : State) (id : Nat) (f : Exec → Exec) : (s.modEx id f).ptp = s.ptp := rfl
@[simp] theorem State.modEx_flt (s : State) (id : Nat) (f : Exec → Exec) : (s.modEx id f).flt = s.flt := rfl
@[simp] theorem State.modEx_health (s : State) (id : Nat) (f : Exec → Exec) : (s.modEx id f).health = s.health := rfl
@[simp] theorem State.modEx_fab (s : State) (id : Nat) (f : Exec → Exec) : (s.modEx id f).fab = s.fab := rfl
@[simp] theorem State.modEx_tiers (s : State) (id : Nat) (f : Exec → Exec) : (s.modEx id f).tiers = s.tiers := rfl
@[simp] theorem State.modEx_part (s : State) (id : Nat) (f : Exec → Exec) : (s.modEx id f).part = s.part := rfl
@[simp] theorem State.modEx_indexes (s : State) (id : Nat) (f : Exec → Exec) : (s.modEx id f).indexes = s.indexes := rfl
@[simp] theorem State.modEx_eng (s : State) (id : Nat) (f : Exec → Exec) : (s.modEx id f).eng = s.eng := rfl
@[simp] theorem State.modEx_host (s : State) (id : Nat) (f : Exec → Exec) : (s.modEx id f).host = s.host := rfl
@[simp] theorem State.modEx_trace (s : State) (id : Nat) (f : Exec → Exec) : (s.modEx id f).trace = s.trace := rfl
@[simp] theorem State.modEx_flash (s : State) (id : Nat) (f : Exec → Exec) : (s.modEx id f).flash = s.flash := rfl
@[simp] theorem State.modEx_twin (s : State) (id : Nat) (f : Exec → Exec) : (s.modEx id f).twin = s.twin := rfl
@[simp] theorem State.modEx_units (s : State) (id : Nat) (f : Exec → Exec) : (s.modEx id f).units = s.units := rfl
@[simp] theorem State.modEx_scrub (s : State) (id : Nat) (f : Exec → Exec) : (s.modEx id f).scrub = s.scrub := rfl
@[simp] theorem State.modEx_sched_comps (s : State) (id : Nat) (f : Exec → Exec) : (s.modEx id f).sched.comps = s.sched.comps := rfl
@[simp] theorem State.modEx_sched_images (s : State) (id : Nat) (f : Exec → Exec) : (s.modEx id f).sched.images = s.sched.images := rfl
@[simp] theorem State.modEx_sched_gangs (s : State) (id : Nat) (f : Exec → Exec) : (s.modEx id f).sched.gangs = s.sched.gangs := rfl
@[simp] theorem State.modEx_sched_nextExec (s : State) (id : Nat) (f : Exec → Exec) : (s.modEx id f).sched.nextExec = s.sched.nextExec := rfl
@[simp] theorem State.modEx_sched_nextGang (s : State) (id : Nat) (f : Exec → Exec) : (s.modEx id f).sched.nextGang = s.sched.nextGang := rfl
@[simp] theorem State.modEx_sched_budget (s : State) (id : Nat) (f : Exec → Exec) : (s.modEx id f).sched.budget = s.sched.budget := rfl
@[simp] theorem State.modEx_sched_overruns (s : State) (id : Nat) (f : Exec → Exec) : (s.modEx id f).sched.overruns = s.sched.overruns := rfl
@[simp] theorem State.modEx_sched_boundary (s : State) (id : Nat) (f : Exec → Exec) : (s.modEx id f).sched.boundary = s.sched.boundary := rfl
@[simp] theorem State.modEx_sched_abandoned (s : State) (id : Nat) (f : Exec → Exec) : (s.modEx id f).sched.abandoned = s.sched.abandoned := rfl
@[simp] theorem State.modEx_sched_withdrawn (s : State) (id : Nat) (f : Exec → Exec) : (s.modEx id f).sched.withdrawn = s.sched.withdrawn := rfl
@[simp] theorem State.modEx_sched_refusedInf (s : State) (id : Nat) (f : Exec → Exec) : (s.modEx id f).sched.refusedInf = s.sched.refusedInf := rfl
@[simp] theorem State.modEx_sched_refusedOvl (s : State) (id : Nat) (f : Exec → Exec) : (s.modEx id f).sched.refusedOvl = s.sched.refusedOvl := rfl
@[simp] theorem State.modEx_sched_counts (s : State) (id : Nat) (f : Exec → Exec) : (s.modEx id f).sched.counts = s.sched.counts := rfl
@[simp] theorem State.modEx_sched_holder (s : State) (id : Nat) (f : Exec → Exec) : (s.modEx id f).sched.holder = s.sched.holder := rfl
@[simp] theorem State.modEx_sched_grants (s : State) (id : Nat) (f : Exec → Exec) : (s.modEx id f).sched.grants = s.sched.grants := rfl
@[simp] theorem State.modEx_sched_runTimes (s : State) (id : Nat) (f : Exec → Exec) : (s.modEx id f).sched.runTimes = s.sched.runTimes := rfl

/-! ## release -/

@[simp] theorem State.release_pending (s : State) (id : Nat) : (s.release id).pending = s.pending := rfl
@[simp] theorem State.release_now (s : State) (id : Nat) : (s.release id).now = s.now := rfl
@[simp] theorem State.release_free (s : State) (id : Nat) : (s.release id).free = s.free := rfl
@[simp] theorem State.release_ident (s : State) (id : Nat) : (s.release id).ident = s.ident := rfl
@[simp] theorem State.release_life (s : State) (id : Nat) : (s.release id).life = s.life := rfl
@[simp] theorem State.release_fw (s : State) (id : Nat) : (s.release id).fw = s.fw := rfl
@[simp] theorem State.release_pwr (s : State) (id : Nat) : (s.release id).pwr = s.pwr := rfl
@[simp] theorem State.release_phys (s : State) (id : Nat) : (s.release id).phys = s.phys := rfl
@[simp] theorem State.release_ptp (s : State) (id : Nat) : (s.release id).ptp = s.ptp := rfl
@[simp] theorem State.release_flt (s : State) (id : Nat) : (s.release id).flt = s.flt := rfl
@[simp] theorem State.release_health (s : State) (id : Nat) : (s.release id).health = s.health := rfl
@[simp] theorem State.release_fab (s : State) (id : Nat) : (s.release id).fab = s.fab := rfl
@[simp] theorem State.release_tiers (s : State) (id : Nat) : (s.release id).tiers = s.tiers := rfl
@[simp] theorem State.release_part (s : State) (id : Nat) : (s.release id).part = s.part := rfl
@[simp] theorem State.release_indexes (s : State) (id : Nat) : (s.release id).indexes = s.indexes := rfl
@[simp] theorem State.release_eng (s : State) (id : Nat) : (s.release id).eng = s.eng := rfl
@[simp] theorem State.release_host (s : State) (id : Nat) : (s.release id).host = s.host := rfl
@[simp] theorem State.release_trace (s : State) (id : Nat) : (s.release id).trace = s.trace := rfl
@[simp] theorem State.release_flash (s : State) (id : Nat) : (s.release id).flash = s.flash := rfl
@[simp] theorem State.release_twin (s : State) (id : Nat) : (s.release id).twin = s.twin := rfl
@[simp] theorem State.release_units (s : State) (id : Nat) : (s.release id).units = s.units := rfl
@[simp] theorem State.release_scrub (s : State) (id : Nat) : (s.release id).scrub = s.scrub := rfl
@[simp] theorem State.release_sched_comps (s : State) (id : Nat) : (s.release id).sched.comps = s.sched.comps := rfl
@[simp] theorem State.release_sched_execs (s : State) (id : Nat) : (s.release id).sched.execs = s.sched.execs := rfl
@[simp] theorem State.release_sched_images (s : State) (id : Nat) : (s.release id).sched.images = s.sched.images := rfl
@[simp] theorem State.release_sched_gangs (s : State) (id : Nat) : (s.release id).sched.gangs = s.sched.gangs := rfl
@[simp] theorem State.release_sched_nextExec (s : State) (id : Nat) : (s.release id).sched.nextExec = s.sched.nextExec := rfl
@[simp] theorem State.release_sched_nextGang (s : State) (id : Nat) : (s.release id).sched.nextGang = s.sched.nextGang := rfl
@[simp] theorem State.release_sched_budget (s : State) (id : Nat) : (s.release id).sched.budget = s.sched.budget := rfl
@[simp] theorem State.release_sched_overruns (s : State) (id : Nat) : (s.release id).sched.overruns = s.sched.overruns := rfl
@[simp] theorem State.release_sched_boundary (s : State) (id : Nat) : (s.release id).sched.boundary = s.sched.boundary := rfl
@[simp] theorem State.release_sched_abandoned (s : State) (id : Nat) : (s.release id).sched.abandoned = s.sched.abandoned := rfl
@[simp] theorem State.release_sched_withdrawn (s : State) (id : Nat) : (s.release id).sched.withdrawn = s.sched.withdrawn := rfl
@[simp] theorem State.release_sched_refusedInf (s : State) (id : Nat) : (s.release id).sched.refusedInf = s.sched.refusedInf := rfl
@[simp] theorem State.release_sched_refusedOvl (s : State) (id : Nat) : (s.release id).sched.refusedOvl = s.sched.refusedOvl := rfl
@[simp] theorem State.release_sched_counts (s : State) (id : Nat) : (s.release id).sched.counts = s.sched.counts := rfl
@[simp] theorem State.release_sched_runTimes (s : State) (id : Nat) : (s.release id).sched.runTimes = s.sched.runTimes := rfl

/-! ## countFailed -/

@[simp] theorem State.countFailed_pending (s : State) (ctx : Fin 64) : (s.countFailed ctx).pending = s.pending := rfl
@[simp] theorem State.countFailed_now (s : State) (ctx : Fin 64) : (s.countFailed ctx).now = s.now := rfl
@[simp] theorem State.countFailed_free (s : State) (ctx : Fin 64) : (s.countFailed ctx).free = s.free := rfl
@[simp] theorem State.countFailed_ident (s : State) (ctx : Fin 64) : (s.countFailed ctx).ident = s.ident := rfl
@[simp] theorem State.countFailed_life (s : State) (ctx : Fin 64) : (s.countFailed ctx).life = s.life := rfl
@[simp] theorem State.countFailed_fw (s : State) (ctx : Fin 64) : (s.countFailed ctx).fw = s.fw := rfl
@[simp] theorem State.countFailed_pwr (s : State) (ctx : Fin 64) : (s.countFailed ctx).pwr = s.pwr := rfl
@[simp] theorem State.countFailed_phys (s : State) (ctx : Fin 64) : (s.countFailed ctx).phys = s.phys := rfl
@[simp] theorem State.countFailed_ptp (s : State) (ctx : Fin 64) : (s.countFailed ctx).ptp = s.ptp := rfl
@[simp] theorem State.countFailed_flt (s : State) (ctx : Fin 64) : (s.countFailed ctx).flt = s.flt := rfl
@[simp] theorem State.countFailed_health (s : State) (ctx : Fin 64) : (s.countFailed ctx).health = s.health := rfl
@[simp] theorem State.countFailed_fab (s : State) (ctx : Fin 64) : (s.countFailed ctx).fab = s.fab := rfl
@[simp] theorem State.countFailed_tiers (s : State) (ctx : Fin 64) : (s.countFailed ctx).tiers = s.tiers := rfl
@[simp] theorem State.countFailed_part (s : State) (ctx : Fin 64) : (s.countFailed ctx).part = s.part := rfl
@[simp] theorem State.countFailed_indexes (s : State) (ctx : Fin 64) : (s.countFailed ctx).indexes = s.indexes := rfl
@[simp] theorem State.countFailed_eng (s : State) (ctx : Fin 64) : (s.countFailed ctx).eng = s.eng := rfl
@[simp] theorem State.countFailed_host (s : State) (ctx : Fin 64) : (s.countFailed ctx).host = s.host := rfl
@[simp] theorem State.countFailed_trace (s : State) (ctx : Fin 64) : (s.countFailed ctx).trace = s.trace := rfl
@[simp] theorem State.countFailed_flash (s : State) (ctx : Fin 64) : (s.countFailed ctx).flash = s.flash := rfl
@[simp] theorem State.countFailed_twin (s : State) (ctx : Fin 64) : (s.countFailed ctx).twin = s.twin := rfl
@[simp] theorem State.countFailed_units (s : State) (ctx : Fin 64) : (s.countFailed ctx).units = s.units := rfl
@[simp] theorem State.countFailed_scrub (s : State) (ctx : Fin 64) : (s.countFailed ctx).scrub = s.scrub := rfl
@[simp] theorem State.countFailed_sched_comps (s : State) (ctx : Fin 64) : (s.countFailed ctx).sched.comps = s.sched.comps := rfl
@[simp] theorem State.countFailed_sched_execs (s : State) (ctx : Fin 64) : (s.countFailed ctx).sched.execs = s.sched.execs := rfl
@[simp] theorem State.countFailed_sched_images (s : State) (ctx : Fin 64) : (s.countFailed ctx).sched.images = s.sched.images := rfl
@[simp] theorem State.countFailed_sched_gangs (s : State) (ctx : Fin 64) : (s.countFailed ctx).sched.gangs = s.sched.gangs := rfl
@[simp] theorem State.countFailed_sched_nextExec (s : State) (ctx : Fin 64) : (s.countFailed ctx).sched.nextExec = s.sched.nextExec := rfl
@[simp] theorem State.countFailed_sched_nextGang (s : State) (ctx : Fin 64) : (s.countFailed ctx).sched.nextGang = s.sched.nextGang := rfl
@[simp] theorem State.countFailed_sched_budget (s : State) (ctx : Fin 64) : (s.countFailed ctx).sched.budget = s.sched.budget := rfl
@[simp] theorem State.countFailed_sched_overruns (s : State) (ctx : Fin 64) : (s.countFailed ctx).sched.overruns = s.sched.overruns := rfl
@[simp] theorem State.countFailed_sched_boundary (s : State) (ctx : Fin 64) : (s.countFailed ctx).sched.boundary = s.sched.boundary := rfl
@[simp] theorem State.countFailed_sched_abandoned (s : State) (ctx : Fin 64) : (s.countFailed ctx).sched.abandoned = s.sched.abandoned := rfl
@[simp] theorem State.countFailed_sched_withdrawn (s : State) (ctx : Fin 64) : (s.countFailed ctx).sched.withdrawn = s.sched.withdrawn := rfl
@[simp] theorem State.countFailed_sched_refusedInf (s : State) (ctx : Fin 64) : (s.countFailed ctx).sched.refusedInf = s.sched.refusedInf := rfl
@[simp] theorem State.countFailed_sched_refusedOvl (s : State) (ctx : Fin 64) : (s.countFailed ctx).sched.refusedOvl = s.sched.refusedOvl := rfl
@[simp] theorem State.countFailed_sched_holder (s : State) (ctx : Fin 64) : (s.countFailed ctx).sched.holder = s.sched.holder := rfl
@[simp] theorem State.countFailed_sched_grants (s : State) (ctx : Fin 64) : (s.countFailed ctx).sched.grants = s.sched.grants := rfl
@[simp] theorem State.countFailed_sched_runTimes (s : State) (ctx : Fin 64) : (s.countFailed ctx).sched.runTimes = s.sched.runTimes := rfl

/-! ## recordRun -/

@[simp] theorem State.recordRun_pending (s : State) (e : Exec) : (s.recordRun e).pending = s.pending := rfl
@[simp] theorem State.recordRun_now (s : State) (e : Exec) : (s.recordRun e).now = s.now := rfl
@[simp] theorem State.recordRun_free (s : State) (e : Exec) : (s.recordRun e).free = s.free := rfl
@[simp] theorem State.recordRun_ident (s : State) (e : Exec) : (s.recordRun e).ident = s.ident := rfl
@[simp] theorem State.recordRun_life (s : State) (e : Exec) : (s.recordRun e).life = s.life := rfl
@[simp] theorem State.recordRun_fw (s : State) (e : Exec) : (s.recordRun e).fw = s.fw := rfl
@[simp] theorem State.recordRun_pwr (s : State) (e : Exec) : (s.recordRun e).pwr = s.pwr := rfl
@[simp] theorem State.recordRun_phys (s : State) (e : Exec) : (s.recordRun e).phys = s.phys := rfl
@[simp] theorem State.recordRun_ptp (s : State) (e : Exec) : (s.recordRun e).ptp = s.ptp := rfl
@[simp] theorem State.recordRun_flt (s : State) (e : Exec) : (s.recordRun e).flt = s.flt := rfl
@[simp] theorem State.recordRun_health (s : State) (e : Exec) : (s.recordRun e).health = s.health := rfl
@[simp] theorem State.recordRun_fab (s : State) (e : Exec) : (s.recordRun e).fab = s.fab := rfl
@[simp] theorem State.recordRun_tiers (s : State) (e : Exec) : (s.recordRun e).tiers = s.tiers := rfl
@[simp] theorem State.recordRun_part (s : State) (e : Exec) : (s.recordRun e).part = s.part := rfl
@[simp] theorem State.recordRun_indexes (s : State) (e : Exec) : (s.recordRun e).indexes = s.indexes := rfl
@[simp] theorem State.recordRun_eng (s : State) (e : Exec) : (s.recordRun e).eng = s.eng := rfl
@[simp] theorem State.recordRun_host (s : State) (e : Exec) : (s.recordRun e).host = s.host := rfl
@[simp] theorem State.recordRun_trace (s : State) (e : Exec) : (s.recordRun e).trace = s.trace := rfl
@[simp] theorem State.recordRun_flash (s : State) (e : Exec) : (s.recordRun e).flash = s.flash := rfl
@[simp] theorem State.recordRun_twin (s : State) (e : Exec) : (s.recordRun e).twin = s.twin := rfl
@[simp] theorem State.recordRun_units (s : State) (e : Exec) : (s.recordRun e).units = s.units := rfl
@[simp] theorem State.recordRun_scrub (s : State) (e : Exec) : (s.recordRun e).scrub = s.scrub := rfl
@[simp] theorem State.recordRun_sched_comps (s : State) (e : Exec) : (s.recordRun e).sched.comps = s.sched.comps := rfl
@[simp] theorem State.recordRun_sched_execs (s : State) (e : Exec) : (s.recordRun e).sched.execs = s.sched.execs := rfl
@[simp] theorem State.recordRun_sched_images (s : State) (e : Exec) : (s.recordRun e).sched.images = s.sched.images := rfl
@[simp] theorem State.recordRun_sched_gangs (s : State) (e : Exec) : (s.recordRun e).sched.gangs = s.sched.gangs := rfl
@[simp] theorem State.recordRun_sched_nextExec (s : State) (e : Exec) : (s.recordRun e).sched.nextExec = s.sched.nextExec := rfl
@[simp] theorem State.recordRun_sched_nextGang (s : State) (e : Exec) : (s.recordRun e).sched.nextGang = s.sched.nextGang := rfl
@[simp] theorem State.recordRun_sched_budget (s : State) (e : Exec) : (s.recordRun e).sched.budget = s.sched.budget := rfl
@[simp] theorem State.recordRun_sched_overruns (s : State) (e : Exec) : (s.recordRun e).sched.overruns = s.sched.overruns := rfl
@[simp] theorem State.recordRun_sched_boundary (s : State) (e : Exec) : (s.recordRun e).sched.boundary = s.sched.boundary := rfl
@[simp] theorem State.recordRun_sched_abandoned (s : State) (e : Exec) : (s.recordRun e).sched.abandoned = s.sched.abandoned := rfl
@[simp] theorem State.recordRun_sched_withdrawn (s : State) (e : Exec) : (s.recordRun e).sched.withdrawn = s.sched.withdrawn := rfl
@[simp] theorem State.recordRun_sched_refusedInf (s : State) (e : Exec) : (s.recordRun e).sched.refusedInf = s.sched.refusedInf := rfl
@[simp] theorem State.recordRun_sched_refusedOvl (s : State) (e : Exec) : (s.recordRun e).sched.refusedOvl = s.sched.refusedOvl := rfl
@[simp] theorem State.recordRun_sched_counts (s : State) (e : Exec) : (s.recordRun e).sched.counts = s.sched.counts := rfl
@[simp] theorem State.recordRun_sched_holder (s : State) (e : Exec) : (s.recordRun e).sched.holder = s.sched.holder := rfl
@[simp] theorem State.recordRun_sched_grants (s : State) (e : Exec) : (s.recordRun e).sched.grants = s.sched.grants := rfl

/-! ## cancelFaults -/

@[simp] theorem State.cancelFaults_pending (s : State) (id : Nat) : (s.cancelFaults id).pending = s.pending := rfl
@[simp] theorem State.cancelFaults_now (s : State) (id : Nat) : (s.cancelFaults id).now = s.now := rfl
@[simp] theorem State.cancelFaults_free (s : State) (id : Nat) : (s.cancelFaults id).free = s.free := rfl
@[simp] theorem State.cancelFaults_ident (s : State) (id : Nat) : (s.cancelFaults id).ident = s.ident := rfl
@[simp] theorem State.cancelFaults_life (s : State) (id : Nat) : (s.cancelFaults id).life = s.life := rfl
@[simp] theorem State.cancelFaults_fw (s : State) (id : Nat) : (s.cancelFaults id).fw = s.fw := rfl
@[simp] theorem State.cancelFaults_pwr (s : State) (id : Nat) : (s.cancelFaults id).pwr = s.pwr := rfl
@[simp] theorem State.cancelFaults_phys (s : State) (id : Nat) : (s.cancelFaults id).phys = s.phys := rfl
@[simp] theorem State.cancelFaults_ptp (s : State) (id : Nat) : (s.cancelFaults id).ptp = s.ptp := rfl
@[simp] theorem State.cancelFaults_flt (s : State) (id : Nat) : (s.cancelFaults id).flt = s.flt := rfl
@[simp] theorem State.cancelFaults_health (s : State) (id : Nat) : (s.cancelFaults id).health = s.health := rfl
@[simp] theorem State.cancelFaults_fab (s : State) (id : Nat) : (s.cancelFaults id).fab = s.fab := rfl
@[simp] theorem State.cancelFaults_sched (s : State) (id : Nat) : (s.cancelFaults id).sched = s.sched := rfl
@[simp] theorem State.cancelFaults_part (s : State) (id : Nat) : (s.cancelFaults id).part = s.part := rfl
@[simp] theorem State.cancelFaults_indexes (s : State) (id : Nat) : (s.cancelFaults id).indexes = s.indexes := rfl
@[simp] theorem State.cancelFaults_eng (s : State) (id : Nat) : (s.cancelFaults id).eng = s.eng := rfl
@[simp] theorem State.cancelFaults_host (s : State) (id : Nat) : (s.cancelFaults id).host = s.host := rfl
@[simp] theorem State.cancelFaults_trace (s : State) (id : Nat) : (s.cancelFaults id).trace = s.trace := rfl
@[simp] theorem State.cancelFaults_flash (s : State) (id : Nat) : (s.cancelFaults id).flash = s.flash := rfl
@[simp] theorem State.cancelFaults_twin (s : State) (id : Nat) : (s.cancelFaults id).twin = s.twin := rfl
@[simp] theorem State.cancelFaults_units (s : State) (id : Nat) : (s.cancelFaults id).units = s.units := rfl
@[simp] theorem State.cancelFaults_scrub (s : State) (id : Nat) : (s.cancelFaults id).scrub = s.scrub := rfl
@[simp] theorem State.cancelFaults_tiers_mem (s : State) (id : Nat) : (s.cancelFaults id).tiers.mem = s.tiers.mem := rfl
@[simp] theorem State.cancelFaults_tiers_allocs (s : State) (id : Nat) : (s.cancelFaults id).tiers.allocs = s.tiers.allocs := rfl
@[simp] theorem State.cancelFaults_tiers_nextAlloc (s : State) (id : Nat) : (s.cancelFaults id).tiers.nextAlloc = s.tiers.nextAlloc := rfl
@[simp] theorem State.cancelFaults_tiers_hints (s : State) (id : Nat) : (s.cancelFaults id).tiers.hints = s.tiers.hints := rfl
@[simp] theorem State.cancelFaults_tiers_migs (s : State) (id : Nat) : (s.cancelFaults id).tiers.migs = s.tiers.migs := rfl
@[simp] theorem State.cancelFaults_tiers_queue (s : State) (id : Nat) : (s.cancelFaults id).tiers.queue = s.tiers.queue := rfl
@[simp] theorem State.cancelFaults_tiers_deferred (s : State) (id : Nat) : (s.cancelFaults id).tiers.deferred = s.tiers.deferred := rfl
@[simp] theorem State.cancelFaults_tiers_old (s : State) (id : Nat) : (s.cancelFaults id).tiers.old = s.tiers.old := rfl
@[simp] theorem State.cancelFaults_tiers_nextMig (s : State) (id : Nat) : (s.cancelFaults id).tiers.nextMig = s.tiers.nextMig := rfl
@[simp] theorem State.cancelFaults_tiers_spillGib (s : State) (id : Nat) : (s.cancelFaults id).tiers.spillGib = s.tiers.spillGib := rfl
@[simp] theorem State.cancelFaults_tiers_tlb (s : State) (id : Nat) : (s.cancelFaults id).tiers.tlb = s.tiers.tlb := rfl
@[simp] theorem State.cancelFaults_tiers_nextFault (s : State) (id : Nat) : (s.cancelFaults id).tiers.nextFault = s.tiers.nextFault := rfl
@[simp] theorem State.cancelFaults_tiers_maxUs (s : State) (id : Nat) : (s.cancelFaults id).tiers.maxUs = s.tiers.maxUs := rfl
@[simp] theorem State.cancelFaults_tiers_refused (s : State) (id : Nat) : (s.cancelFaults id).tiers.refused = s.tiers.refused := rfl
@[simp] theorem State.cancelFaults_tiers_poison (s : State) (id : Nat) : (s.cancelFaults id).tiers.poison = s.tiers.poison := rfl
@[simp] theorem State.cancelFaults_tiers_retired (s : State) (id : Nat) : (s.cancelFaults id).tiers.retired = s.tiers.retired := rfl
@[simp] theorem State.cancelFaults_tiers_nsMaps (s : State) (id : Nat) : (s.cancelFaults id).tiers.nsMaps = s.tiers.nsMaps := rfl

/-! ## aer -/

@[simp] theorem State.aer_pending (s : State) (a : Aer) : (s.aer a).pending = s.pending := State.aer_keeps (·.pending) (fun _ _ => rfl) s a
@[simp] theorem State.aer_now (s : State) (a : Aer) : (s.aer a).now = s.now := State.aer_keeps (·.now) (fun _ _ => rfl) s a
@[simp] theorem State.aer_free (s : State) (a : Aer) : (s.aer a).free = s.free := State.aer_keeps (·.free) (fun _ _ => rfl) s a
@[simp] theorem State.aer_ident (s : State) (a : Aer) : (s.aer a).ident = s.ident := State.aer_keeps (·.ident) (fun _ _ => rfl) s a
@[simp] theorem State.aer_life (s : State) (a : Aer) : (s.aer a).life = s.life := State.aer_keeps (·.life) (fun _ _ => rfl) s a
@[simp] theorem State.aer_fw (s : State) (a : Aer) : (s.aer a).fw = s.fw := State.aer_keeps (·.fw) (fun _ _ => rfl) s a
@[simp] theorem State.aer_pwr (s : State) (a : Aer) : (s.aer a).pwr = s.pwr := State.aer_keeps (·.pwr) (fun _ _ => rfl) s a
@[simp] theorem State.aer_phys (s : State) (a : Aer) : (s.aer a).phys = s.phys := State.aer_keeps (·.phys) (fun _ _ => rfl) s a
@[simp] theorem State.aer_ptp (s : State) (a : Aer) : (s.aer a).ptp = s.ptp := State.aer_keeps (·.ptp) (fun _ _ => rfl) s a
@[simp] theorem State.aer_flt (s : State) (a : Aer) : (s.aer a).flt = s.flt := State.aer_keeps (·.flt) (fun _ _ => rfl) s a
@[simp] theorem State.aer_health (s : State) (a : Aer) : (s.aer a).health = s.health := State.aer_keeps (·.health) (fun _ _ => rfl) s a
@[simp] theorem State.aer_fab (s : State) (a : Aer) : (s.aer a).fab = s.fab := State.aer_keeps (·.fab) (fun _ _ => rfl) s a
@[simp] theorem State.aer_sched (s : State) (a : Aer) : (s.aer a).sched = s.sched := State.aer_keeps (·.sched) (fun _ _ => rfl) s a
@[simp] theorem State.aer_tiers (s : State) (a : Aer) : (s.aer a).tiers = s.tiers := State.aer_keeps (·.tiers) (fun _ _ => rfl) s a
@[simp] theorem State.aer_part (s : State) (a : Aer) : (s.aer a).part = s.part := State.aer_keeps (·.part) (fun _ _ => rfl) s a
@[simp] theorem State.aer_indexes (s : State) (a : Aer) : (s.aer a).indexes = s.indexes := State.aer_keeps (·.indexes) (fun _ _ => rfl) s a
@[simp] theorem State.aer_eng (s : State) (a : Aer) : (s.aer a).eng = s.eng := State.aer_keeps (·.eng) (fun _ _ => rfl) s a
@[simp] theorem State.aer_trace (s : State) (a : Aer) : (s.aer a).trace = s.trace := State.aer_keeps (·.trace) (fun _ _ => rfl) s a
@[simp] theorem State.aer_flash (s : State) (a : Aer) : (s.aer a).flash = s.flash := State.aer_keeps (·.flash) (fun _ _ => rfl) s a
@[simp] theorem State.aer_twin (s : State) (a : Aer) : (s.aer a).twin = s.twin := State.aer_keeps (·.twin) (fun _ _ => rfl) s a
@[simp] theorem State.aer_units (s : State) (a : Aer) : (s.aer a).units = s.units := State.aer_keeps (·.units) (fun _ _ => rfl) s a
@[simp] theorem State.aer_scrub (s : State) (a : Aer) : (s.aer a).scrub = s.scrub := State.aer_keeps (·.scrub) (fun _ _ => rfl) s a

end Sys2Proof.Machine
end

