-- ==== Sys2Proof/Tests/Slice0.lean ====
section
/-!
SUPPORT. The author's own tests: what each check of well-formedness refuses, small steps against worked values of the spec, and for every statement a
state and operands that meet its hypotheses.
-/
set_option Elab.async false
set_option maxRecDepth 100000
set_option linter.unusedTactic false
set_option linter.unreachableTactic false
set_option linter.unnecessarySeqFocus false

namespace Sys2Proof.Tests

open Sys2Proof Sys2Proof.Machine

/-! ## States for the tests -/

/-- Every domain is on. -/
def allOn : Domains := { cc := true, cs := true, t1 := true, t2 := true, ma := true, mb := true, hn := true, tl := true, b := BitVec.allOnes 16 }

/-- Power to every domain, in service, 100 s after start-up. -/
def up : State := { life := { phase := .inService, dom := allOn }, now := 100000000000 }

/-- A controller of root. -/
def rootCtrl : Ctrl := { id := 1, nqn := [1], ctx := 0, kato := 1000, aliveAt := 0, auth := true, tls := true }

/-- A controller of context 3. -/
def userCtrl : Ctrl := { id := 2, nqn := [2], ctx := 3, kato := 1000, aliveAt := 0 }

/-- In service with two controllers; context 3 is enabled and has every right. -/
def served : State := { up with
  host := { ctrls := [rootCtrl, userCtrl], bind := [([1], 0), ([2], 3)] }
  part := { entries := vset (Vector.replicate 64 0) 3 (BitVec.allOnes 4096) } }

/-- A command of root. -/
def rh : Hdr := { path := .ctrl 1, sq := 0, cid := 7 }

/-- A command of context 3. -/
def uh : Hdr := { path := .ctrl 2, sq := 1, cid := 8 }

/-- A management command over I3C. -/
def mh : Hdr := { path := .i3c, sq := 0, cid := 1 }

/-- Superblock 5 in a state, with one more state record. -/
def withSb (s : State) (n : Nat) (x : Sb) : State := { s with flash := { s.flash with sbs := [(n, x)] } }

/-- A block. -/
def blk0 : PBlk := { data := 7, pi := none }

/-- A dirty block at namespace 1, LBA 4. -/
def dirty0 : Dirty := { key := blkKey 1 4, seq := 9, blk := blk0 }

/-- A program of that block under way. -/
def programming0 : State := { up with flash := { up.flash with
  dirty := [dirty0], ops := [.program 1 5 6 [(blkKey 1 4, none)] [9] 0], sbs := [(5, { state := .open true false, nextStripe := 7 })] } }

/-- The last erase of superblock 5 under way. -/
def erasing0 : State := { up with flash := { up.flash with
  ops := [.erase 1 5 31 3 0], sbs := [(5, { state := .erasing false, erased := 0x7FFFFFFF#32 })] } }

/-- Bridge 0, which holds superblock 5, has been reset since those operations were sent. -/
def reset0 (s : State) : State := { s with units := { s.units with epochs := [(0, 1)] } }

/-- An empty superblock of the pSLC buffer. -/
def pslc0 : State := { withSb up 5 { state := .pslc, nextStripe := 2048 } with }

/-- The same, the oldest one. -/
def fold0 : State := { pslc0 with flash := { pslc0.flash with pslcOrder := [5] } }

/-- A closed superblock without valid data, and few free ones. -/
def gc0 : State := { withSb up 5 { state := .closed, nextStripe := 8192 } with }

/-- The same with all but 17 groups retired. -/
def gc1 : State := { gc0 with flash := { gc0.flash with retired := List.range' 1 127 } }

/-- A Read that waits for LBA 4 of namespace 1, mapped in superblock 5. -/
def reading0 : State := { served with
  host := { served.host with cmds := [{ hdr := uh, body := .read 1 4 1 [4] true, wait := .flash }] }
  flash := { served.flash with map := [(blkKey 1 4, { sb := 5, stripe := 0, slot := 12 })], sbs := [(5, { state := .closed, nextStripe := 8192 })] } }

/-- A die of group 0. -/
def die0 : Die := { bridge := 0, chan := 3, pos := 0 }

/-- A die of the last group. -/
def die1 : Die := { bridge := 15, chan := 31, pos := 7 }

/-- A read whose first sensing succeeds. -/
def goodRead : ReadFacts := { first := true, retry := none, soft := false, others := true, partner := false, guardOk := true }

/-- Paired, with group 1 ours and group 64 the partner's, synchronised. -/
def pairedGroups : Vector Group 64 :=
  vset (vset (Vector.replicate 64 {}) 0 { role := .declarer, homeHere := true, synced := true }) 63 { role := .dummy, synced := true, ana := .inaccessible, seq := 4 }

/-- A cable group with all lanes trained. -/
def upCable : Cable := { lanes := 255 }

/-- A paired module whose link is up. -/
def pair0 : State := { served with twin := { st := .paired, peerSerial := [9], groups := pairedGroups, cages := Vector.replicate 4 upCable, kek := some 0 } }

/-- The same with every cable group down and a witness check under way since t. -/
def lost0 (t : Nat) : State := { pair0 with twin := { pair0.twin with cages := Vector.replicate 4 {}, checkAt := some t } }

/-- Solo split with the link up again. -/
def solo0 : State := { pair0 with twin := { pair0.twin with st := .soloSplit } }

/-- A module in a pairing that began at time 0. -/
def train0 : State := { served with twin := { st := .training, peerSerial := [50], pairAt := some 0, cages := Vector.replicate 4 upCable } }

/-- A mirrored write to group 64. -/
def mw (seq : Nat) (bs : List PBlk) : MirWrite := { group := 64, seq, nsid := 2, lba := 6, blocks := bs }

/-- A closing shutdown: no execution is left, and PWR_EN is low. -/
def closing0 : State := { up with life := { up.life with phase := .cleanShutdown, shutAt := up.now, pwrEn := false } }

/-- The same with an execution that has not ended. -/
def closing1 : State := { closing0 with sched := { closing0.sched with execs := [{ id := 5, hdr := uh, ctx := 3, image := 1, deadline := 0, phase := .queued }] } }

/-- A module in a phase, at a time. -/
def inPhase (p : LifePhase) (t : Nat) : State := { up with life := { up.life with phase := p }, now := t }

/-- A module that PD_AO alone feeds. -/
def standby0 (en : Bool) : State := { life := { phase := .standby, pwrEn := en } }

/-- The module has lost its 48 V input. -/
def lost48 (s : State) : State := { s with life := { s.life with in48Ok := false } }

/-- After a Major fault, with earlier self-resets. -/
def major0 (rs : List Nat) : State := { up with life := { up.life with phase := .majorOut, responseEnd := 95000000000, selfResets := rs } }

/-- A trial in slot B with d ns left of it since firmware came up. -/
def trial0 (d : Nat) : State := { up with
  life := { up.life with fwUpAt := up.now }
  fw := { up.fw with running := true, trial := some true, inTrial := true, trialLeft := d, imgB := some { major := 1, minor := 1, patch := 0, signed := true } } }

/-- A boot that has lasted 30 s. -/
def boot0 : State := { State.reset with now := 30000000000 }

/-- A pattern of the partner's third cage. -/
def pat (serial : List Nat) : TrainPat := { serial, cage := 2, lane := 7, inverted := false }

/-- A paired module whose partner has serial [9] and whose cables train. -/
def cabled0 : State := { pair0 with life := { pair0.life with dom := allOn } }

/-- Five trained lanes on cage 3, and three heartbeats missed there. -/
def cabled1 : State := { cabled0 with twin := { cabled0.twin with cages := vset cabled0.twin.cages 3 { lanes := 31, consec := 3, lastMiss := 99999998000 } } }

/-- A staging area of the partner's execution 77 with one page. -/
def area0 : Staging := { exec := 77, ctx := 3, pages := [(9, [1, 2])] }

/-- A paired module with that area, and allocation 9 of one page. -/
def staged0 : State := { pair0 with
  twin := { pair0.twin with staging := [area0] }
  tiers := { pair0.tiers with allocs := [{ id := 9, ctx := 0, pages := 1, home := .t2, pin := false, zod := false, large := false, huge := false }] } }

/-- A write that waits for its acknowledgement. -/
def waitWrite : OutCmd := { hdr := uh, body := .write 1 0 [blk0], wait := .mirror 1 3 }

/-- A paired module with a mirrored write of its own under way. -/
def unacked0 : State := { pair0 with
  host := { pair0.host with cmds := [waitWrite] }
  twin := { pair0.twin with unacked := [{ group := 1, seq := 3, bytes := 4096, hdr := some uh, exec := none }] } }

/-- An execution that has sent its finish note. -/
def drained0 : Exec := { id := 5, hdr := uh, ctx := 3, image := 1, deadline := 0, phase := .draining, finishSent := true }

/-- A module with one execution. -/
def withExec (s : State) (e : Exec) : State := { s with sched := { s.sched with execs := [e] } }

/-- A paired module whose control state has changed. -/
def dirty1 : State := { pair0 with twin := { pair0.twin with dirty := true } }

/-- Epoch 4 has been sent; group 1 leaves with it, and a command waits for it. -/
def handed0 : State := { pair0 with
  host := { pair0.host with cmds := [{ hdr := rh, body := .other, wait := .epoch 4 }] }
  twin := { pair0.twin with epSent := 4, epFlight := some 4
                            groups := vset pairedGroups 0 { role := .declarer, handing := true, handEp := some 4, ana := .transition } } }

/-- An epoch of the partner with a namespace of its own. -/
def epoch0 : EpochImage := { num := 3, nss := [{ nsid := 2, group := 64, blocks := 1024, zoned := false, pit := none }], declares := [64], homes := [64]
                             tableEpoch := 0, part := [], jobs := [], allocs := [], whole := true, verified := true }

/-- Resilvering. -/
def resilvering0 : State := { pair0 with twin := { pair0.twin with st := .resilvering, groups := vset pairedGroups 63 { role := .dummy, ana := .inaccessible } } }

/-- A twin-verified execution of the partner, here under 2^63 + 5. -/
def twin0 : Exec := { id := twinId 5, hdr := { path := .ctrl 0, sq := 0, cid := 5 }, ctx := 3, image := 1, deadline := 0, phase := .running, comp := some 2
                      twin := true, copy := true, step := 8 }

/-- This module's own twin-verified execution. -/
def twin1 : Exec := { id := 6, hdr := uh, ctx := 3, image := 1, deadline := 0, phase := .running, comp := some 2, twin := true, step := 8 }

/-- An image of a program whose parameters are not looked at. -/
def image0 : Image := { prog := 1, owner := 3, verified := true }

/-- A paired module with that image. -/
def imaged0 : State := { pair0 with sched := { pair0.sched with images := [image0] } }

/-- A report. -/
def rep (src : Fin 256) (ev : Nat) : Report := { src, event := ev, whr := 0, inj := false, exec := none, spareLeft := true }

/-- A fault being handled. -/
def handling (c : FClass) : State := { up with flt := { up.flt with active := some { rep := rep 0x40 2, cls := c, since := 0 } } }

/-- A latched report. -/
def latched (src : Fin 256) (c : FClass) : ActiveFault := { rep := rep src 1, cls := c, since := 5 }

/-- A Minor fault being handled while reports are latched. -/
def latching (fs : List ActiveFault) : State := { handling .minor with flt := { (handling .minor).flt with latched := fs } }

/-- A Write whose data has been asked for. -/
def asked0 : OutCmd := { hdr := uh, body := .write 1 0 [blk0, blk0, blk0], wait := .data, total := 12288 }

/-- A module with that command. -/
def asking0 : State := { served with host := { served.host with cmds := [asked0] } }

/-- A pipe of bank 15 in reset. -/
def resetting0 : State := { up with units := { resetting := [.pipe 63] } }

/-- The hardware cap has stretched the clocks 100 µs ago. -/
def stretched0 : State := { up with pwr := { up.pwr with keep16 := 15, stretchAt := 99999900000 } }

/-- Reverse flow. -/
def reversed0 : State := { up with pwr := { up.pwr with reverse := true } }

/-- Readings of the thermal loop. -/
def therm0 : ThermIn := { inA := 30, inB := 30, outA := 50, outB := 121, flow := 60, hotSrc := 0xCB, hotC := 70, flashC := 60, margin := 3 }

/-- Trace point 511 is enabled. -/
def traced0 : State := { up with trace := { run := true, en := vset (Vector.replicate 8 0) 7 (BitVec.allOnes 64) } }

/-- A plug-in module in Twin cage 3 and host cage 3. -/
def plugged0 : State := { up with phys := { up.phys with
  host := vset up.phys.host 3 { present := true, downAt := 0 }, twin := vset up.phys.twin 3 { present := true, downAt := 0 } } }

/-- An outlet thermistor has failed. -/
def therm1 : State := { up with pwr := { up.pwr with outletFailB := true } }

/-! ### Executions for the instructions -/

/-- A descriptor of a whole tensor: base, format, layout, extents of dimensions 0 and 1. -/
def win (base fmt layout n m : Nat) : Desc :=
  BitVec.ofNat 512 (base + fmt * 2 ^ 56 + layout * 2 ^ 60 + (if m = 0 then 0 else 2 ^ 64) + 2 ^ 83 + n * 2 ^ 96 + m * 2 ^ 128)

/-- The address of page p. -/
def pg (p : Nat) : Nat := 65536 * p

/-- Descriptors: plain words, plain FP32, attributes, media, vectors, FP4 operands, decode output, decode status and table. -/
def descs0 : Vector Desc 32 := (#[0, win (pg 16) 10 0 1024 0, win (pg 17) 10 0 1024 0, win (pg 18) 0 0 8 0, win (pg 19) 10 0 2 2, win (pg 20) 0 6 64 0
  , win (pg 21) 5 5 32 1, win (pg 22) 5 1 32 1, win (pg 23) 5 4 32 1, win (pg 24) 0 0 1 1, win (pg 25) 5 3 64 1
  , win (pg 26) 10 0 16 0, win (pg 27) 10 0 8 0, win (pg 28) 10 0 8 0] ++ Array.replicate 18 0).toVector.cast (by decide)

/-- Records in the constant area of the image: selections at 100h and 140h (fed), a histogram at 180h, sampling at 1C0h, a predicate at
200h, a scan at 240h, a decode at 280h, a plan record of mode 0 at 2C0h; claim 0 at 40h. -/
def image5 : Image := { prog := 5, owner := 3, verified := true, bytes :=
  [(29, 16), (44, 64)] ++ ((List.range 8).map fun k => (64 + k, if k = 1 then 11#8 else 255#8)) ++ [(72, 4), (258, 1), (260, 8), (322, 1), (384, 1), (448, 12), (450, 1), (452, 8), (512, 12)
  , (580, 1), (582, 32), (640, 0xB2), (641, 0x18), (670, 1)] }

/-- Register s8 points to a page of zeros, s9 holds 1, s10 an odd address. -/
def regs0 : Vector W64 64 := vset (vset (vset (Vector.replicate 64 0) 8 (BitVec.ofNat 64 (pg 30))) 9 1) 10 (BitVec.ofNat 64 (2 ^ 63 + 5))

/-- An execution of context 3 that runs on compositor 15. -/
def e0 : Exec := { id := 5, hdr := uh, ctx := 3, image := 5, deadline := 0, phase := .running, comp := some 15, regs := regs0, descs := descs0
                   lcs := vset (Vector.replicate 8 0) 7 2, pc := 0x40 }

/-- The predicate of an instruction without one, and two that test flag 63. -/
def p0 : Pred := { pen := false, sense := false, flag := 0 }
def p1 : Pred := { pen := true, sense := true, flag := 63 }

/-- Allocation 16 of context 3: 64 pages in T2. -/
def alloc0 : Alloc := { id := 16, ctx := 3, pages := 64, home := .t2, pin := false, zod := false, large := false, huge := false }

/-- A module in which execution e runs, with that image and that allocation. -/
def runs (e : Exec) : State := { served with
  sched := { served.sched with execs := [e], images := [image5] }
  tiers := { served.tiers with allocs := [alloc0], nextAlloc := 80, tlb := [{ mover := .comp 15, ctx := 3, epoch := 0, page := 16, wr := false }, { mover := .comp 15, ctx := 3, epoch := 0, page := 16, wr := true }] }
  host := { served.host with keys := [(1, 2 ^ 300 + 1)] } }

/-- The execution with a step. -/
def withSt (st : StepSt) : Exec := { e0 with st := st }

/-- A result of a check, or a default. -/
def okOf {α : Type} (x : Except JFault α) (d : α) : α := match x with | .ok y => y | .error _ => d

/-- A request that is never made. -/
def noReq : Exec × Req := (e0, { op := { id := 0, kind := .move } })

/-- Format E: ta, tc, record and n. -/
def ea (ta tb tc : Fin 32) (recOff n : Nat) : EArgs := { ta, tb, tc, rp := 8, rn := 0, ev := some 63, recOff := BitVec.ofNat 32 recOff, imm32 := BitVec.ofNat 32 n }

/-- A move of eight words from page 16 to page 17, outstanding as operation 3. -/
def move0 : Op := { id := 3, kind := .move, ev := some 63, a := win (pg 16 + 4096) 10 0 8 0, b := win (pg 16) 10 0 8 0, rdPages := [16], wrPages := [16] }

/-- An impression of one vector and one row, outstanding with its accesses translated. -/
def imp0 : Op := { (okOf ((runs e0).impReq e0 (ea 7 8 9 0x2C0 0)) noReq).2.op with left := [] }

/-- The module with it and the sheets of its operands, and what it does. -/
def imps0 : State := { runs (withSt { ops := [imp0] }) with tiers := { (runs e0).tiers with
  mem := [(0x48, pg 22), (0x53, pg 22 + 1), (0x15, pg 22 + 2), (1, pg 22 + 3), (0x48, pg 23), (0x53, pg 23 + 1), (0x45, pg 23 + 2), (1, pg 23 + 3)].map
    fun x => (3 * 2 ^ 56 + x.2, BitVec.ofNat 8 x.1) } }
def impDone0 : ImpDone := okOf (imps0.doImp (withSt { ops := [imp0] }) imp0) { ex := e0, tiles := [], checks := { inj := [], hits := [] } }

/-- A posted write to page 16, outstanding as operation 3. -/
def sts0 : Op := { id := 3, kind := .sts, list := BitVec.ofNat 64 (pg 16 + 8), record := 2 ^ 63 + 7, wrPages := [16] }

/-- An execution that closes its step with nothing outstanding. -/
def closing2 : Exec := { e0 with phase := .closing 2 false }

/-- One that has written a byte. -/
def wrote0 : Exec := { closing2 with st := { shadow := [(pg 16 + 65535, 5)] } }

/-- One that has ended and waits for its last completion. -/
def draining0 : Exec := { e0 with phase := .draining, comp := none }

/-- One that waits for its step's grant; its deadline has not passed. -/
def waiting0 : Exec := { e0 with phase := .waitGrant }

/-- A job of a gang that has not launched. -/
def ganged0 : Exec := { e0 with phase := .gangWait, comp := none, gang := some 1, deadline := 99000000000 }

/-- Its gang. -/
def gang0 : Gang := { id := 1, image := 5, model := 0, members := [5] }

/-- Job 6 is urgent and needs what the running job 5 holds. -/
def urgent0 : Exec := { e0 with id := 6, phase := .queued, comp := none, deadline := 100000000001 }

/-- A job with an earlier deadline that nobody stands in the way of. -/
def first0 : Exec := { e0 with id := 4, phase := .draining, comp := none, deadline := 1 }

/-- Jobs 4, 5 and 6, of which 5 runs and holds the fabric. -/
def contended0 : State := { runs e0 with sched := { (runs e0).sched with execs := [first0, e0, urgent0], holder := [(.fabric, 5)] } }

/-- A walk and a fault record of the running execution. -/
def walk0 (p : Nat) : Walk := { id := 1, mover := .comp 15, ctx := 3, page := p, wr := true, exec := 5, op := 0 }
def rec0 (p t : Nat) : FaultRec := { id := 1, ctx := 3, mover := .comp 15, chan := 0, va := pg p, wr := true, exec := 5, step := 0, op := 0, compEpoch := 0, at_ := t }

/-- The module with other tiers. -/
def withTiers (f : Tiers → Tiers) : State := { runs e0 with tiers := f (runs e0).tiers }

/-- Allocation 16 with zero pages that nothing has written. -/
def zeroed0 : Alloc := { alloc0 with zod := true }

/-- A migration of pages 0 and 63 of allocation 16 to T1. -/
def mig0 : Mig := { id := 4, alloc := 16, pages := [0, 63], dst := .t1, promo := true }

/-- A deferred eviction of page 63. -/
def late0 : Deferred := { id := 2, alloc := 16, pages := [63], dst := .t3 }

/-- The frames that a migration has left. -/
def left0 : OldFrame := { mig := 3, tier := .t2, pages := 2, alloc := 7 }

/-- A conventional namespace and a zoned one, both of group 64 and attached to controller 2. -/
def ns0 : Ns := { nsid := 1, group := 64, blocks := 1048576, zoned := false, pit := none, attached := [2], mediaKey := 4 }
def zns0 : Ns := { nsid := 2, group := 64, blocks := 1048576, zoned := true, pit := none, attached := [2], mediaKey := 5
                   zones := [(1, { state := .expOpen, wp := 524286 })] }

/-- A connection of no controller, and one that carries controller 2. -/
def conn0 : Conn := { id := 9, port := 3, tls := false, hdgst := true, ddgst := true, maxr2t := 16 }
def conn2 : Conn := { conn0 with id := 10, cntlid := some 2, qid := 1 }

/-- In service with both namespaces, a secret and both connections; port 3 is up. -/
def hosted : State := { served with
  host := { served.host with nss := [ns0, zns0], conns := [conn0, conn2], secrets := [{ nqn := [2], secret := 1 }] }
  phys := { served.phys with host := vset served.phys.host 3 { present := true, linkUp := true, downAt := 0 } } }

/-- A Write whose last R2T is open. -/
def asked1 : OutCmd := { hdr := uh, body := .write 1 0 [blk0, blk0, blk0], wait := .data, total := 12288, asked := 12288, r2ts := [(0, 12288)] }

/-- The same command before its R2T. -/
def asked2 : OutCmd := { asked1 with asked := 0, r2ts := [] }

/-- A module with one outstanding command. -/
def withCmd (s : State) (o : OutCmd) : State := { s with host := { s.host with cmds := [o] } }

/-- A Read that is running. -/
def reading1 : OutCmd := { hdr := { uh with cid := 9 }, body := .read 1 4 1 [4] true, wait := .flash }

/-- An index on namespace 1 whose generation 7 a later one has replaced; generation g is the root's. -/
def index0 : Index := { nsid := 1, old := [(7, 0x58444E49)], waiting := [(5, 77)] }

/-- An object that waits for room, one that has been appended, and a late one. -/
def obj0 : ObjCmd := { hdr := { uh with cid := 30 }, obj := 77, nsid := 1, lba := 8, deadline := 0, defer := false, kind := 0, blocks := [], stage := .embedded, vectors := 1 }
def obj1 : ObjCmd := { obj0 with stage := .appended }
def obj2 : ObjCmd := { obj0 with deadline := 99000000000 }

/-- An ingest execution with one object. -/
def ingest0 (o : ObjCmd) : Exec := { e0 with ingest := true, index := some 1, objs := [o] }

/-- The root record of an index without generations and with room in its stock. -/
def indexed0 (e : Exec) : State := { runs e with
  indexes := [index0]
  host := { (runs e).host with nss := [ns0, zns0], blks := [(blkKey 1 0, { data := BitVec.ofNat 32768 (0x58444E49 + 1000 * 2 ^ 96), pi := none })] } }

/-- A command that names an ingest execution of the same controller. -/
def ingest1 : Exec := { e0 with hdr := { uh with cid := 40 }, ingest := true }

/-- The namespaces beside an ingest execution. -/
def ingesting0 : State := { runs ingest1 with host := { (runs ingest1).host with nss := [ns0] } }

/-- A program that starts at offset 0, and data for it. -/
def image1 : Image := { prog := 6, owner := 3, verified := true }

/-- Parameters whose arguments suit every program of the libraries: s1 = 1, s2 = 1, s3 = 1, s4 = 1, s9 = 1. -/
def params0 : List Byte := List.replicate 8 0 ++ [16#8] ++ List.replicate 7 0 ++ [1#8] ++ List.replicate 7 0 ++ [1#8] ++ List.replicate 7 0 ++ [1#8]
  ++ List.replicate 7 0 ++ [1#8] ++ List.replicate 39 0 ++ [1#8] ++ List.replicate 111 0

/-- Page 0 of context 3 with a list of one sequence record at 1 and the record at 128; namespace 1 with an empty index. -/
def start0 : State := { served with
  sched := { served.sched with images := [image1] }
  tiers := { served.tiers with
    allocs := [{ alloc0 with id := 0, pages := 1 }]
    mem := [(3 * 2 ^ 56 + 1, 128), (3 * 2 ^ 56 + 142, 2), (3 * 2 ^ 56 + 166, 0x80), (3 * 2 ^ 56 + 167, 0x3F)] }
  host := { served.host with nss := [ns0], blks := [(blkKey 1 0, { data := 0x58444E49, pi := none })] } }

/-- The state that an admission leaves. -/
def started0 : State := match start0.takeIn image1 (start0.newExec uh 3 image1 start0.sched.nextExec params0 0 false false) params0 with | .ok t => t | .error _ => start0

/-- An allocation whose pages a host may use, without executions. -/
def mapped0 : State := { hosted with tiers := { hosted.tiers with allocs := [alloc0], nextAlloc := 80 } }

/-- The other firmware image. -/
def fw1 : FwImage := { major := 1, minor := 2, patch := 0, signed := true }

/-- A module with other firmware. -/
def withFw (f : Firmware → Firmware) : State := { served with fw := f served.fw }

/-- The same on a paired module, and what the admission of the partner's execution 5 leaves. -/
def start1 : State := { start0 with twin := pair0.twin }
def copied0 : State := match start1.takeIn image1 (start1.newExec { path := .ctrl 0, sq := 0, cid := 5 } (Fin.ofNat 64 3) image1 (twinId 5) params0 0 true true) params0 with
  | .ok t => t | .error _ => start1


/-- The same page 0, zero on demand, and the module with a promotion of pages 0 and 63 in flight. -/
def zeroed1 : State := { start0 with tiers := { start0.tiers with allocs := [{ alloc0 with id := 0, pages := 1, zod := true }] } }
def kept0 : State := { mapped0 with tiers := { mapped0.tiers with migs := [mig0] } }

/-- Page 0 of that allocation, as the tier manager would demote it from T1. -/
def victim0 : Victim := { cold := false, lastUse := 0, alloc := 16, unit := (0, 1), pages := [0] }

/-! ## Proofs that a check passes -/

/-- The check passes. -/
def passes {ε α : Type} : Except ε α → Bool | .ok _ => true | .error _ => false

/-- A check that passes answers what `okOf` takes from it. -/
theorem okOf_eq {α : Type} {x : Except JFault α} (d : α) (h : passes x = true) : x = .ok (okOf x d) := by
  cases x with
  | ok y => rfl
  | error j => cases h

/-- The same of a pair. -/
theorem okOf_pair {α β : Type} {x : Except JFault (α × β)} (d : α × β) (h : passes x = true) : x = .ok ((okOf x d).1, (okOf x d).2) := okOf_eq d h

/-- The execution of `runs` runs on compositor 15. -/
theorem runs_runs {e : Exec} (h : (e.comp == some 15 && e.phase == .running && !e.fenced) = true) : Runs (runs e) 15 e := by
  rw [Bool.and_eq_true, Bool.and_eq_true] at h
  have hp : e.phase = .running := eq_of_beq h.1.2
  refine ⟨rfl, ?_, ?_, by simpa using h.2⟩
  · simp [State.idsOn, runs, h.1.1, h.1.2]
  · simp [State.running?, State.ex?, runs, hp]

/-- An instruction of it whose predicate holds issues. -/
theorem issues_runs {e : Exec} {p : Pred} (h : ((e.comp == some 15 && e.phase == .running && !e.fenced) && (!e.predWaits p && e.predOk p)) = true) :
    Issues (runs e) 15 p e := by
  have h' := (Bool.and_eq_true _ _).mp h
  have q := (Bool.and_eq_true _ _).mp h'.2
  exact ⟨runs_runs h'.1, by simpa using q.1, q.2⟩

/-- The gang may launch, however large its fill batch: its deadline allows no later start. -/
theorem gang0_ready : ({runs ganged0 with sched := {(runs ganged0).sched with gangs := [gang0], nextGang := 2}} : State).gangReady gang0 = true := by
  unfold State.gangReady
  rw [Bool.or_eq_true]
  exact Or.inr (by decide +kernel)

/-- The module admits the program, whichever library program its image is. -/
theorem start0_passes : passes (start0.takeIn image1 (start0.newExec uh 3 image1 start0.sched.nextExec params0 0 false false) params0) = true := by
  unfold State.takeIn State.newExec
  generalize Config.libraryRole image1.bytes = r
  cases r <;> decide +kernel

/-- What the admission answers. -/
theorem start0_takes : start0.takeIn image1 (start0.newExec uh 3 image1 start0.sched.nextExec params0 0 false false) params0 = .ok started0 := by
  have h := start0_passes
  unfold started0
  cases hx : start0.takeIn image1 (start0.newExec uh 3 image1 start0.sched.nextExec params0 0 false false) params0 with
  | ok t => rfl
  | error f => rw [hx] at h; cases h

/-- The impression completes with every residue check passed. -/
theorem impDone0_eq : imps0.doImp (withSt { ops := [imp0] }) imp0 = .ok impDone0 := okOf_eq _ (by decide +kernel)
theorem impDone0_hits : impDone0.checks.hits = [] := by decide +kernel

/-- The partner's copy is admitted as well. -/
theorem start1_passes : passes (start1.takeIn image1 (start1.newExec { path := .ctrl 0, sq := 0, cid := 5 } (Fin.ofNat 64 3) image1 (twinId 5) params0 0 true true) params0) = true := by
  unfold State.takeIn State.newExec
  generalize Config.libraryRole image1.bytes = r
  cases r <;> decide +kernel

/-- What its admission answers. -/
theorem start1_takes : start1.takeIn image1 (start1.newExec { path := .ctrl 0, sq := 0, cid := 5 } (Fin.ofNat 64 3) image1 (twinId 5) params0 0 true true) params0 = .ok copied0 := by
  have h := start1_passes
  unfold copied0
  cases hx : start1.takeIn image1 (start1.newExec { path := .ctrl 0, sq := 0, cid := 5 } (Fin.ofNat 64 3) image1 (twinId 5) params0 0 true true) params0 with
  | ok t => rfl
  | error f => rw [hx] at h; cases h

/-! ## The hypotheses of the statements can be met -/

/-- Each clause of StepRunsFront has a state and operands that meet its hypotheses. -/
theorem witness_StepRunsFront :
    (∃ (s : State), s.pending = []) := by
  refine ⟨up, ?_⟩ <;> (repeat' apply And.intro) <;> decide +kernel

/-- Each clause of Predicates has a state and operands that meet its hypotheses. -/
theorem witness_Predicates :
    (∃ (i : Instr) (s : State) (c : Fin 16) (p : Pred) (e : Exec), issuedBy i = some (c, p) ∧ Runs s c e ∧ e.predWaits p = false ∧ e.predOk p = false)
    ∧ (∃ (i : Instr) (s : State) (c : Fin 16) (p : Pred) (e : Exec), issuedBy i = some (c, p) ∧ Runs s c e ∧ e.predWaits p = true) := by
  refine ⟨⟨.nop 15 p1, runs e0, 15, p1, e0, ?_⟩
    , ⟨.nop 15 p1, (runs (withSt {ops := [{id := 0, kind := .imp, ev := some 63}]})), 15, p1, (withSt {ops := [{id := 0, kind := .imp, ev := some 63}]}), ?_⟩⟩ <;> (repeat' first | exact issues_runs (by decide +kernel) | exact runs_runs (by decide +kernel) | apply And.intro) <;> decide +kernel

/-- Each clause of ControlFlow has a state and operands that meet its hypotheses. -/
theorem witness_ControlFlow :
    (∃ (s : State) (c : Fin 16) (p : Pred) (e : Exec), Issues s c p e)
    ∧ (∃ (s : State) (c : Fin 16) (p : Pred) (e : Exec) (x : W32) (r : List W32), Issues s c p e ∧ e.rstack = x :: r)
    ∧ (∃ (s : State) (c : Fin 16) (p : Pred) (e : Exec) (ra : Fin 64) (v : W32), Issues s c p e ∧ e.pend [ra] = false ∧ BitVec.toNat (e.reg ra) ≤ if v = 0 then 4294967295 else BitVec.toNat v)
    ∧ (∃ (s : State) (c : Fin 16) (p : Pred) (e : Exec) (ra : Fin 64) (v : W32), Issues s c p e ∧ e.pend [ra] = false ∧ (if v = 0 then 4294967295 else BitVec.toNat v) < BitVec.toNat (e.reg ra))
    ∧ (∃ (s : State) (c : Fin 16) (p : Pred) (e : Exec) (lc : Fin 8), Issues s c p e ∧ 1 < BitVec.toNat e.lcs[lc])
    ∧ (∃ (s : State) (c : Fin 16) (p : Pred) (e : Exec) (lc : Fin 8), Issues s c p e ∧ BitVec.toNat e.lcs[lc] ≤ 1) := by
  refine ⟨⟨runs e0, 15, p0, e0, ?_⟩
    , ⟨runs {e0 with rstack := [7]}, 15, p0, {e0 with rstack := [7]}, 7, [], ?_⟩
    , ⟨runs e0, 15, p0, e0, 9, 1, ?_⟩
    , ⟨runs e0, 15, p0, e0, 10, 0, ?_⟩
    , ⟨runs e0, 15, p0, e0, 7, ?_⟩
    , ⟨runs e0, 15, p0, e0, 0, ?_⟩⟩ <;> (repeat' first | exact issues_runs (by decide +kernel) | exact runs_runs (by decide +kernel) | apply And.intro) <;> decide +kernel

/-- Each clause of StepCloses has a state and operands that meet its hypotheses. -/
theorem witness_StepCloses :
    (∃ (s : State) (c : Fin 16) (e : Exec), Runs s c e ∧ e.st.armed = [])
    ∧ (∃ (s : State) (c : Fin 16) (e : Exec), s.closingOn c = [e] ∧ e.st.ops ≠ [])
    ∧ (∃ (s : State) (c : Fin 16) (e : Exec), s.closingOn c = [e] ∧ s.commitWaits [e] = false ∧ e.st.poisonMv = false ∧ e.st.poisonFx = false ∧ s.overfull e = false ∧ s.refused [e] = false ∧ e.twin = false) := by
  refine ⟨⟨runs e0, 15, e0, ?_⟩
    , ⟨runs {closing2 with st := {ops := [sts0]}}, 15, {closing2 with st := {ops := [sts0]}}, ?_⟩
    , ⟨runs closing2, 15, closing2, ?_⟩⟩ <;> (repeat' first | exact issues_runs (by decide +kernel) | exact runs_runs (by decide +kernel) | apply And.intro) <;> decide +kernel

/-- Each clause of ScalarArithmetic has a state and operands that meet its hypotheses. -/
theorem witness_ScalarArithmetic :
    (∃ (s : State) (c : Fin 16) (p : Pred) (e : Exec) (rd ra : Fin 64) (b : Src2), Issues s c p e ∧ e.pend (rd :: ra :: srcRegs b) = false) := by
  refine ⟨runs e0, 15, p0, e0, 0, 10, .reg 8, ?_⟩ <;> (repeat' first | exact issues_runs (by decide +kernel) | exact runs_runs (by decide +kernel) | apply And.intro) <;> decide +kernel

/-- Each clause of ScalarCompare has a state and operands that meet its hypotheses. -/
theorem witness_ScalarCompare :
    (∃ (s : State) (c : Fin 16) (p : Pred) (e : Exec) (rd ra : Fin 64) (b : Src2) (evd : Fin 64), Issues s c p e ∧ e.pend (rd :: ra :: srcRegs b) = false ∧ e.named evd = false) := by
  refine ⟨runs e0, 15, p0, e0, 0, 10, .reg 10, 63, ?_⟩ <;> (repeat' first | exact issues_runs (by decide +kernel) | exact runs_runs (by decide +kernel) | apply And.intro) <;> decide +kernel

/-- Each clause of ScalarReads has a state and operands that meet its hypotheses. -/
theorem witness_ScalarReads :
    (∃ (s : State) (c : Fin 16) (p : Pred) (e : Exec) (rd ra : Fin 64) (imm : W64) (i : Image), Issues s c p e ∧ e.pend [rd] = false ∧ e.pend [rd, ra] = false ∧ s.image? e.image = some i ∧ BitVec.toNat (e.reg ra + imm) % 8 = 0 ∧ BitVec.toNat (e.reg ra + imm) + 8 ≤ i.constLen)
    ∧ (∃ (s : State) (c : Fin 16) (p : Pred) (e : Exec) (rd : Fin 64), Issues s c p e ∧ e.pend [rd] = false)
    ∧ (∃ (s : State) (c : Fin 16) (p : Pred) (e e1 : Exec) (rd ra : Fin 64) (imm : W64), Issues s c p e ∧ e.pend [rd, ra] = false ∧ BitVec.toNat (e.reg ra + imm) % 8 = 0 ∧ s.inNs e (BitVec.toNat (e.reg ra + imm) / 65536) = false ∧ (∀ o ∈ e.st.ops, BitVec.toNat (e.reg ra + imm) / 65536 ∉ o.wrPages) ∧ s.draining e [BitVec.toNat (e.reg ra + imm) / 65536] = false ∧ s.track e [BitVec.toNat (e.reg ra + imm) / 65536] [] 0 false = Except.ok e1 ∧ s.tlbHit (Mover.comp c) e (BitVec.toNat (e.reg ra + imm) / 65536) false = true ∧ s.poisonAt e (BitVec.toNat (e.reg ra + imm)) (BitVec.toNat (e.reg ra + imm) + 8) = false) := by
  refine ⟨⟨runs e0, 15, p0, e0, 60, 0, 0x118, image5, ?_⟩
    , ⟨runs e0, 15, p0, e0, 60, ?_⟩
    , ⟨runs e0, 15, p0, e0, (okOf ((runs e0).track e0 [16] [] 0 false) e0), 60, 0, (BitVec.ofNat 64 (pg 16 + 8)), ?_⟩⟩ <;> (repeat' first | exact issues_runs (by decide +kernel) | exact runs_runs (by decide +kernel) | apply And.intro) <;> decide +kernel

/-- Each clause of SlotsAndDescriptors has a state and operands that meet its hypotheses. -/
theorem witness_SlotsAndDescriptors :
    (∃ (s : State) (c : Fin 16) (p : Pred) (e : Exec) (ra : Fin 64), Issues s c p e ∧ e.pend [ra] = false)
    ∧ (∃ (s : State) (c : Fin 16) (p : Pred) (e : Exec) (imm : W64) (i : Image), Issues s c p e ∧ s.image? e.image = some i ∧ BitVec.toNat imm + 64 ≤ i.constLen)
    ∧ (∃ (s : State) (c : Fin 16) (p : Pred) (e : Exec), Issues s c p e)
    ∧ (∃ (s : State) (c : Fin 16) (p : Pred) (e : Exec) (ra : Fin 64) (imm : W64) (f : DField), Issues s c p e ∧ e.pend [ra] = false ∧ BitVec.toNat (e.reg ra + imm) < 2 ^ ((fieldRange f 0).1 + 1 - (fieldRange f 0).2)) := by
  refine ⟨⟨runs e0, 15, p0, e0, 8, ?_⟩
    , ⟨runs e0, 15, p0, e0, 0x280, image5, ?_⟩
    , ⟨runs e0, 15, p0, e0, ?_⟩
    , ⟨runs e0, 15, p0, e0, 0, 31, .win, ?_⟩⟩ <;> (repeat' first | exact issues_runs (by decide +kernel) | exact runs_runs (by decide +kernel) | apply And.intro) <;> decide +kernel

/-- Each clause of MovesIssue has a state and operands that meet its hypotheses. -/
theorem witness_MovesIssue :
    (∃ (s : State) (c : Fin 16) (p : Pred) (e e1 : Exec) (r : Req) (ra rb : Fin 64) (imm : W64), Issues s c p e ∧ Free e [rb, ra] ∧ Accepted s e1 r ∧ s.stsReq e rb ra imm = Except.ok (e1, r))
    ∧ (∃ (s : State) (c : Fin 16) (p : Pred) (e e1 : Exec) (r : Req) (td ts : Fin 32) (ra rb : Fin 64) (ev : EvSel), Issues s c p e ∧ Free e [rb, ra] ∧ Accepted s e1 r ∧ s.moveReq e td ts ev = Except.ok (e1, r))
    ∧ (∃ (s : State) (c : Fin 16) (p : Pred) (e e1 : Exec) (r : Req) (ts : Fin 32) (ra rb : Fin 64) (t : Tier) (ev : EvSel), Issues s c p e ∧ Free e [rb, ra] ∧ Accepted s e1 r ∧ s.pageReq e ts (OpKind.pref t) ev = Except.ok (e1, r))
    ∧ (∃ (s : State) (c : Fin 16) (p : Pred) (e e1 : Exec) (r : Req) (ts : Fin 32) (ra rb : Fin 64) (h : HintCode) (ev : EvSel), Issues s c p e ∧ Free e [rb, ra] ∧ Accepted s e1 r ∧ s.pageReq e ts (OpKind.hint h) ev = Except.ok (e1, r))
    ∧ (∃ (s : State) (c : Fin 16) (p : Pred) (e e1 : Exec) (r : Req) (ts : Fin 32) (ra rb : Fin 64) (t : Tier) (ev : EvSel), Issues s c p e ∧ Free e [rb, ra] ∧ Accepted s e1 r ∧ s.pageReq e ts (OpKind.evict t ra) ev = Except.ok (e1, r))
    ∧ (∃ (s : State) (c : Fin 16) (p : Pred) (e e1 : Exec) (r : Req) (td ts : Fin 32) (ra rb : Fin 64) (ev : EvSel), Issues s c p e ∧ Free e [rb, ra] ∧ Accepted s e1 r ∧ s.cvtReq e td ts ra ev = Except.ok (e1, r)) := by
  refine ⟨⟨runs e0, 15, p0, e0, (okOf ((runs e0).stsReq e0 9 0 (BitVec.ofNat 64 (pg 16))) noReq).1, (okOf ((runs e0).stsReq e0 9 0 (BitVec.ofNat 64 (pg 16))) noReq).2, 0, 9, (BitVec.ofNat 64 (pg 16)), ?_⟩
    , ⟨runs e0, 15, p0, e0, (okOf ((runs e0).moveReq e0 13 12 (some 63)) noReq).1, (okOf ((runs e0).moveReq e0 13 12 (some 63)) noReq).2, 13, 12, 0, 9, some 63, ?_⟩
    , ⟨runs e0, 15, p0, e0, (okOf ((runs e0).pageReq e0 12 (.pref .t2) (some 63)) noReq).1, (okOf ((runs e0).pageReq e0 12 (.pref .t2) (some 63)) noReq).2, 12, 0, 9, .t2, some 63, ?_⟩
    , ⟨runs e0, 15, p0, e0, (okOf ((runs e0).pageReq e0 12 (.hint .hot) (some 63)) noReq).1, (okOf ((runs e0).pageReq e0 12 (.hint .hot) (some 63)) noReq).2, 12, 0, 9, .hot, some 63, ?_⟩
    , ⟨runs e0, 15, p0, e0, (okOf ((runs e0).pageReq e0 12 (.evict .t2 0) (some 63)) noReq).1, (okOf ((runs e0).pageReq e0 12 (.evict .t2 0) (some 63)) noReq).2, 12, 0, 9, .t2, some 63, ?_⟩
    , ⟨runs e0, 15, p0, e0, (okOf ((runs e0).cvtReq e0 13 12 0 (some 63)) noReq).1, (okOf ((runs e0).cvtReq e0 13 12 0 (some 63)) noReq).2, 13, 12, 0, 9, some 63, ?_⟩⟩ <;> (repeat' first | exact issues_runs (by decide +kernel) | exact runs_runs (by decide +kernel) | apply And.intro) <;> first | decide +kernel | (refine ⟨_, okOf_eq e0 ?_⟩; decide +kernel) | (refine okOf_pair noReq ?_; decide +kernel)

/-- Each clause of EnginesIssue has a state and operands that meet its hypotheses. -/
theorem witness_EnginesIssue :
    (∃ (s : State) (c : Fin 16) (p : Pred) (e e1 : Exec) (r : Req) (a : EArgs), Issues s c p e ∧ Free e [a.rp, a.rn] ∧ Accepted s e1 r ∧ (a.rn ≠ 0 → ListReady s e (pagesOf (BitVec.toNat (e.reg a.rp)) (BitVec.toNat (e.reg a.rp) + 32 * BitVec.toNat (e.reg a.rn)))) ∧ s.impReq e a = Except.ok (e1, r))
    ∧ (∃ (s : State) (c : Fin 16) (p : Pred) (e e1 : Exec) (r : Req) (a : EArgs), Issues s c p e ∧ Free e [a.rp, a.rn] ∧ Accepted s e1 r ∧ s.platenReq e a = Except.ok (e1, r))
    ∧ (∃ (s : State) (c : Fin 16) (p : Pred) (e e1 : Exec) (r : Req) (a : EArgs), Issues s c p e ∧ Free e [a.rp, a.rn] ∧ Accepted s e1 r ∧ s.sieveArmReq e a = Except.ok (e1, r))
    ∧ (∃ (s : State) (c : Fin 16) (p : Pred) (e e1 : Exec) (r : Req) (a : EArgs), Issues s c p e ∧ Free e [a.rp, a.rn] ∧ Accepted s e1 r ∧ s.sieveEvalReq e a = Except.ok (e1, r))
    ∧ (∃ (s : State) (c : Fin 16) (p : Pred) (e e1 : Exec) (r : Req) (a : EArgs), Issues s c p e ∧ Free e [a.rp, a.rn] ∧ Accepted s e1 r ∧ s.sieveFReq e a = Except.ok (e1, r))
    ∧ (∃ (s : State) (c : Fin 16) (p : Pred) (e e1 : Exec) (r : Req) (a : EArgs), Issues s c p e ∧ Free e [a.rp, a.rn] ∧ Accepted s e1 r ∧ ListReady s e (pagesOf (BitVec.toNat (e.reg a.rp)) (BitVec.toNat (e.reg a.rp) + 64 * e.count a)) ∧ s.galleyReq e a = Except.ok (e1, r))
    ∧ (∃ (s : State) (c : Fin 16) (p : Pred) (e e1 : Exec) (r : Req) (a : EArgs), Issues s c p e ∧ Free e [a.rp, a.rn] ∧ Accepted s e1 r ∧ s.topkReq e a false false = Except.ok (e1, r))
    ∧ (∃ (s : State) (c : Fin 16) (p : Pred) (e e1 : Exec) (r : Req) (a : EArgs), Issues s c p e ∧ Free e [a.rp, a.rn] ∧ Accepted s e1 r ∧ s.topkReq e a true false = Except.ok (e1, r))
    ∧ (∃ (s : State) (c : Fin 16) (p : Pred) (e e1 : Exec) (r : Req) (a : EArgs), Issues s c p e ∧ Free e [a.rp, a.rn] ∧ Accepted s e1 r ∧ s.topkReq e a false true = Except.ok (e1, r))
    ∧ (∃ (s : State) (c : Fin 16) (p : Pred) (e e1 : Exec) (r : Req) (a : EArgs), Issues s c p e ∧ Free e [a.rp, a.rn] ∧ Accepted s e1 r ∧ s.topkReq e a true true = Except.ok (e1, r))
    ∧ (∃ (s : State) (c : Fin 16) (p : Pred) (e e1 : Exec) (r : Req) (a : EArgs), Issues s c p e ∧ Free e [a.rp, a.rn] ∧ Accepted s e1 r ∧ s.argmaxReq e a false = Except.ok (e1, r))
    ∧ (∃ (s : State) (c : Fin 16) (p : Pred) (e e1 : Exec) (r : Req) (a : EArgs), Issues s c p e ∧ Free e [a.rp, a.rn] ∧ Accepted s e1 r ∧ s.argmaxReq e a true = Except.ok (e1, r))
    ∧ (∃ (s : State) (c : Fin 16) (p : Pred) (e e1 : Exec) (r : Req) (a : EArgs), Issues s c p e ∧ Free e [a.rp, a.rn] ∧ Accepted s e1 r ∧ s.histReq e a = Except.ok (e1, r))
    ∧ (∃ (s : State) (c : Fin 16) (p : Pred) (e e1 : Exec) (r : Req) (a : EArgs), Issues s c p e ∧ Free e [a.rp, a.rn] ∧ Accepted s e1 r ∧ s.sampleReq e a false = Except.ok (e1, r))
    ∧ (∃ (s : State) (c : Fin 16) (p : Pred) (e e1 : Exec) (r : Req) (a : EArgs), Issues s c p e ∧ Free e [a.rp, a.rn] ∧ Accepted s e1 r ∧ s.sampleReq e a true = Except.ok (e1, r))
    ∧ (∃ (s : State) (c : Fin 16) (p : Pred) (e e1 : Exec) (r : Req) (a : EArgs), Issues s c p e ∧ Free e [a.rp, a.rn] ∧ Accepted s e1 r ∧ s.cipherReq e a true = Except.ok (e1, r))
    ∧ (∃ (s : State) (c : Fin 16) (p : Pred) (e e1 : Exec) (r : Req) (a : EArgs), Issues s c p e ∧ Free e [a.rp, a.rn] ∧ Accepted s e1 r ∧ s.cipherReq e a false = Except.ok (e1, r))
    ∧ (∃ (s : State) (c : Fin 16) (p : Pred) (e e1 : Exec) (r : Req) (a : EArgs), Issues s c p e ∧ Free e [a.rp, a.rn] ∧ Accepted s e1 r ∧ s.hashReq e a = Except.ok (e1, r)) := by
  refine ⟨⟨runs e0, 15, p0, e0, (okOf ((runs e0).impReq e0 (ea 7 8 9 0x2C0 0)) noReq).1, (okOf ((runs e0).impReq e0 (ea 7 8 9 0x2C0 0)) noReq).2, ea 7 8 9 0x2C0 0, ?_⟩
    , ⟨runs e0, 15, p0, e0, (okOf ((runs e0).platenReq e0 (ea 5 0 10 0x280 1)) noReq).1, (okOf ((runs e0).platenReq e0 (ea 5 0 10 0x280 1)) noReq).2, ea 5 0 10 0x280 1, ?_⟩
    , ⟨runs e0, 15, p0, e0, (okOf ((runs e0).sieveArmReq e0 (ea 0 0 0 0x200 0)) noReq).1, (okOf ((runs e0).sieveArmReq e0 (ea 0 0 0 0x200 0)) noReq).2, ea 0 0 0 0x200 0, ?_⟩
    , ⟨runs e0, 15, p0, e0, (okOf ((runs e0).sieveEvalReq e0 (ea 4 0 1 0x200 0)) noReq).1, (okOf ((runs e0).sieveEvalReq e0 (ea 4 0 1 0x200 0)) noReq).2, ea 4 0 1 0x200 0, ?_⟩
    , ⟨runs e0, 15, p0, e0, (okOf ((runs e0).sieveFReq e0 (ea 0 0 1 0x200 0)) noReq).1, (okOf ((runs e0).sieveFReq e0 (ea 0 0 1 0x200 0)) noReq).2, ea 0 0 1 0x200 0, ?_⟩
    , ⟨runs e0, 15, p0, e0, (okOf ((runs e0).galleyReq e0 (ea 6 0 0 0x240 1)) noReq).1, (okOf ((runs e0).galleyReq e0 (ea 6 0 0 0x240 1)) noReq).2, ea 6 0 0 0x240 1, ?_⟩
    , ⟨runs e0, 15, p0, e0, (okOf ((runs e0).topkReq e0 (ea 3 0 1 0x100 1) false false) noReq).1, (okOf ((runs e0).topkReq e0 (ea 3 0 1 0x100 1) false false) noReq).2, ea 3 0 1 0x100 1, ?_⟩
    , ⟨runs e0, 15, p0, e0, (okOf ((runs e0).topkReq e0 (ea 0 0 1 0x140 1) true false) noReq).1, (okOf ((runs e0).topkReq e0 (ea 0 0 1 0x140 1) true false) noReq).2, ea 0 0 1 0x140 1, ?_⟩
    , ⟨runs e0, 15, p0, e0, (okOf ((runs e0).topkReq e0 (ea 3 12 1 0x100 1) false true) noReq).1, (okOf ((runs e0).topkReq e0 (ea 3 12 1 0x100 1) false true) noReq).2, ea 3 12 1 0x100 1, ?_⟩
    , ⟨runs e0, 15, p0, e0, (okOf ((runs e0).topkReq e0 (ea 0 12 1 0x140 1) true true) noReq).1, (okOf ((runs e0).topkReq e0 (ea 0 12 1 0x140 1) true true) noReq).2, ea 0 12 1 0x140 1, ?_⟩
    , ⟨runs e0, 15, p0, e0, (okOf ((runs e0).argmaxReq e0 (ea 3 0 1 0x100 0) false) noReq).1, (okOf ((runs e0).argmaxReq e0 (ea 3 0 1 0x100 0) false) noReq).2, ea 3 0 1 0x100 0, ?_⟩
    , ⟨runs e0, 15, p0, e0, (okOf ((runs e0).argmaxReq e0 (ea 0 0 1 0x140 0) true) noReq).1, (okOf ((runs e0).argmaxReq e0 (ea 0 0 1 0x140 0) true) noReq).2, ea 0 0 1 0x140 0, ?_⟩
    , ⟨runs e0, 15, p0, e0, (okOf ((runs e0).histReq e0 (ea 3 0 1 0x180 4)) noReq).1, (okOf ((runs e0).histReq e0 (ea 3 0 1 0x180 4)) noReq).2, ea 3 0 1 0x180 4, ?_⟩
    , ⟨runs e0, 15, p0, e0, (okOf ((runs e0).sampleReq e0 (ea 3 0 1 0x1C0 0) false) noReq).1, (okOf ((runs e0).sampleReq e0 (ea 3 0 1 0x1C0 0) false) noReq).2, ea 3 0 1 0x1C0 0, ?_⟩
    , ⟨runs e0, 15, p0, e0, (okOf ((runs e0).sampleReq e0 (ea 0 0 1 0x1C0 0) true) noReq).1, (okOf ((runs e0).sampleReq e0 (ea 0 0 1 0x1C0 0) true) noReq).2, ea 0 0 1 0x1C0 0, ?_⟩
    , ⟨runs e0, 15, p0, e0, (okOf ((runs e0).cipherReq e0 (ea 7 0 8 0 1) true) noReq).1, (okOf ((runs e0).cipherReq e0 (ea 7 0 8 0 1) true) noReq).2, ea 7 0 8 0 1, ?_⟩
    , ⟨runs e0, 15, p0, e0, (okOf ((runs e0).cipherReq e0 (ea 7 0 8 0 1) false) noReq).1, (okOf ((runs e0).cipherReq e0 (ea 7 0 8 0 1) false) noReq).2, ea 7 0 8 0 1, ?_⟩
    , ⟨runs e0, 15, p0, e0, (okOf ((runs e0).hashReq e0 (ea 13 0 12 0 0)) noReq).1, (okOf ((runs e0).hashReq e0 (ea 13 0 12 0 0)) noReq).2, ea 13 0 12 0 0, ?_⟩⟩ <;> (repeat' first | exact issues_runs (by decide +kernel) | exact runs_runs (by decide +kernel) | apply And.intro) <;> first | decide +kernel | (refine ⟨_, okOf_eq e0 ?_⟩; decide +kernel) | (refine okOf_pair noReq ?_; decide +kernel) | (intro h; exact absurd rfl h) | (intro o ho; cases ho)

/-- Each clause of InstructionFaults has a state and operands that meet its hypotheses. -/
theorem witness_InstructionFaults :
    (∃ (e : Exec) (op : ℕ), (Engine.sieve, op) ∈ e.st.armed)
    ∧ (∃ (e : Exec) (op : ℕ), (Engine.galley, op) ∈ e.st.armed)
    ∧ (∃ (e : Exec) (op : ℕ), (Engine.tally, op) ∈ e.st.armed)
    ∧ (∃ (s : State) (c : Fin 16) (p : Pred) (e : Exec) (rd ra : Fin 64) (imm : W64) (i : Image), Issues s c p e ∧ e.pend [rd, ra] = false ∧ s.image? e.image = some i ∧ (BitVec.toNat (e.reg ra + imm) % 8 ≠ 0 ∨ i.constLen < BitVec.toNat (e.reg ra + imm) + 8)) := by
  refine ⟨⟨(withSt {armed := [(.sieve, 3)]}), 3, ?_⟩
    , ⟨(withSt {armed := [(.galley, 3)]}), 3, ?_⟩
    , ⟨(withSt {armed := [(.tally, 3)]}), 3, ?_⟩
    , ⟨runs e0, 15, p0, e0, 60, 0, 1048576, image5, ?_⟩⟩ <;> (repeat' first | exact issues_runs (by decide +kernel) | exact runs_runs (by decide +kernel) | apply And.intro) <;> decide +kernel

/-- Each clause of Synchronises has a state and operands that meet its hypotheses. -/
theorem witness_Synchronises :
    (∃ (s : State) (c : Fin 16) (p : Pred) (e : Exec), Issues s c p e ∧ e.st.ops = [] ∧ e.st.poisonMv = false ∧ e.st.poisonFx = false)
    ∧ (∃ (s : State) (c : Fin 16) (p : Pred) (e : Exec), Issues s c p e ∧ (∀ o ∈ e.st.ops, o.kind.isFx = true) ∧ e.st.poisonMv = false)
    ∧ (∃ (s : State) (c : Fin 16) (p : Pred) (e : Exec), Issues s c p e ∧ (∀ o ∈ e.st.ops, o.kind.isFx = false) ∧ e.st.poisonFx = false)
    ∧ (∃ (s : State) (c : Fin 16) (p : Pred) (e : Exec) (m : W64), Issues s c p e ∧ e.namedIn m = false ∧ (∀ f : Fin 64, m.getLsbD f = true → e.flag f = true))
    ∧ (∃ (s : State) (c : Fin 16) (p : Pred) (e : Exec) (m : W64), Issues s c p e ∧ e.namedIn m = false ∧ (∃ f : Fin 64, m.getLsbD f = true ∧ e.flag f = true))
    ∧ (∃ (s : State) (c : Fin 16) (p : Pred) (e : Exec) (m : W64), Issues s c p e ∧ e.namedIn m = false)
    ∧ (∃ (s : State) (c : Fin 16) (p : Pred) (e : Exec) (o : Op), Issues s c p e ∧ o ∈ e.st.ops)
    ∧ (∃ (s : State) (c : Fin 16) (p : Pred) (e : Exec) (m : W64) (o : Op) (f : Fin 64), Issues s c p e ∧ o ∈ e.st.ops ∧ o.ev = some f ∧ BitVec.getLsbD m (↑f : ℕ) = true) := by
  refine ⟨⟨runs e0, 15, p0, e0, ?_⟩
    , ⟨(runs (withSt {ops := [{id := 0, kind := .imp}]})), 15, p0, (withSt {ops := [{id := 0, kind := .imp}]}), ?_⟩
    , ⟨(runs (withSt {ops := [{id := 0, kind := .move}]})), 15, p0, (withSt {ops := [{id := 0, kind := .move}]}), ?_⟩
    , ⟨runs {e0 with evs := 2 ^ 63}, 15, p0, {e0 with evs := 2 ^ 63}, 2 ^ 63, ?_⟩
    , ⟨runs {e0 with evs := 2 ^ 63}, 15, p0, {e0 with evs := 2 ^ 63}, 2 ^ 63 + 1, ?_⟩
    , ⟨runs e0, 15, p0, e0, 2 ^ 63, ?_⟩
    , ⟨(runs (withSt {ops := [{id := 0, kind := .imp, ev := some 63}]})), 15, p0, (withSt {ops := [{id := 0, kind := .imp, ev := some 63}]}), {id := 0, kind := .imp, ev := some 63}, ?_⟩
    , ⟨(runs (withSt {ops := [{id := 0, kind := .imp, ev := some 63}]})), 15, p0, (withSt {ops := [{id := 0, kind := .imp, ev := some 63}]}), 2 ^ 63, {id := 0, kind := .imp, ev := some 63}, 63, ?_⟩⟩ <;> (repeat' first | exact issues_runs (by decide +kernel) | exact runs_runs (by decide +kernel) | apply And.intro) <;> decide +kernel

/-- Each clause of OperationsComplete has a state and operands that meet its hypotheses. -/
theorem witness_OperationsComplete :
    (∃ (s : State) (c : Fin 16) (e e' : Exec) (o : Op), Opened s c e o ∧ o.kind ≠ OpKind.sts ∧ (∀ (h : HintCode), o.kind ≠ OpKind.hint h) ∧ (∀ (t : Tier), o.kind ≠ OpKind.pref t) ∧ (∀ (t : Tier) (r : Fin 64), o.kind ≠ OpKind.evict t r) ∧ o.kind ≠ OpKind.imp ∧ e.blocked o = false ∧ e.awaitsImp o = false ∧ s.draining e o.rdPages = false ∧ pagesMeet o.wrPages e.st.bankPages = false ∧ o.left = [] ∧ s.readsPoison e o = false ∧ s.readsBadPi e o = false ∧ s.perform e o = Except.ok e' ∧ e'.id = e.id ∧ e'.stall = none)
    ∧ (∃ (s : State) (c : Fin 16) (e : Exec) (o : Op) (d : ImpDone), Opened s c e o ∧ o.kind = OpKind.imp ∧ e.blocked o = false ∧ s.draining e o.rdPages = false ∧ o.left = [] ∧ s.readsPoison e o = false ∧ s.readsBadPi e o = false ∧ s.doImp e o = Except.ok d ∧ d.checks.hits = [] ∧ d.ex.id = e.id ∧ d.ex.stall = none)
    ∧ (∃ (s : State) (c : Fin 16) (e : Exec) (o : Op), Opened s c e o ∧ o.kind = OpKind.sts ∧ e.blocked o = false ∧ o.left = [] ∧ pagesMeet o.wrPages e.st.bankPages = false ∧ e.stall = none) := by
  refine ⟨⟨(runs (withSt {ops := [move0]})), 15, withSt {ops := [move0]}, (okOf ((runs (withSt {ops := [move0]})).perform (withSt {ops := [move0]}) move0) e0), move0, ?_⟩
    , ⟨imps0, 15, withSt {ops := [imp0]}, imp0, impDone0, ?_⟩
    , ⟨(runs (withSt {ops := [sts0]})), 15, withSt {ops := [sts0]}, sts0, ?_⟩⟩ <;> (repeat' apply And.intro) <;> first | decide +kernel | exact impDone0_eq | exact impDone0_hits | (intro _ _ h; cases h) | (intro _ h; cases h)

/-- Each clause of PoisonedResponses has a state and operands that meet its hypotheses. -/
theorem witness_PoisonedResponses :
    (∃ (s : State) (c : Fin 16) (e : Exec) (o : Op), Opened s c e o ∧ (o.kind = OpKind.move ∨ o.kind = OpKind.sts) ∧ e.stall = none)
    ∧ (∃ (s : State) (h : Hdr) (o : OutCmd), (List.find? (fun x => x.hdr == h && x.wait == WaitOn.data) s.host.cmds = some o) ∧ o.retried = false)
    ∧ (∃ (s : State) (m : Mig), (List.find? (fun x => x.id == m.id) s.tiers.migs = some m)) := by
  refine ⟨⟨(runs (withSt {ops := [sts0]})), 15, withSt {ops := [sts0]}, sts0, ?_⟩
    , ⟨asking0, uh, asked0, ?_⟩
    , ⟨withTiers fun t => {t with migs := [mig0]}, mig0, ?_⟩⟩ <;> (repeat' apply And.intro) <;> decide +kernel

/-- Each clause of StepCommits has a state and operands that meet its hypotheses. -/
theorem witness_StepCommits :
    (∃ (s : State) (e : Exec), s.ex? e.id = some e ∧ (s.withBanks e).st.ns = [] ∧ e.ingest = false ∧ s.paired = false) := by
  refine ⟨runs closing2, closing2, ?_⟩ <;> (repeat' apply And.intro) <;> decide +kernel

/-- Each clause of CommitPublishes has a state and operands that meet its hypotheses. -/
theorem witness_CommitPublishes :
    (∃ (s : State) (e : Exec) (va : ℕ) (b : Byte) (a : Alloc) (i : ℕ) (rd wr : Bool), (s.withBanks e).st.shadow = [(va, b)] ∧ (s.withBanks e).st.ns = [] ∧ e.ingest = false ∧ s.paired = false ∧ s.execPlace e (va / 65536) = PageAt.mem a i rd wr ∧ Memory.wf s.tiers.mem = true) := by
  refine ⟨runs wrote0, wrote0, pg 16 + 65535, 5, alloc0, 0, true, true, ?_⟩ <;> (repeat' apply And.intro) <;> decide +kernel

/-- Each clause of ExecutionEnds has a state and operands that meet its hypotheses. -/
theorem witness_ExecutionEnds :
    (∃ (s : State) (e : Exec), s.ex? e.id = some e ∧ e.phase = ExecPhase.draining ∧ (∀ d ∈ s.fab.draining, d.1 ≠ e.id) ∧ e.awaitNs = [] ∧ (∀ o ∈ e.objs, o.waits = []) ∧ s.paired = false)
    ∧ (∃ (s : State) (e : Exec), s.ex? e.id = some e ∧ e.phase = ExecPhase.draining ∧ (∀ d ∈ s.fab.draining, d.1 ≠ e.id) ∧ e.awaitNs = [] ∧ (∀ o ∈ e.objs, o.waits = []) ∧ s.paired = true ∧ e.twin = false ∧ e.finishSent = false)
    ∧ (∃ (s : State) (e : Exec), s.ex? e.id = some e ∧ e.idleJob = true ∧ isLate s.now e.deadline = true ∧ e.objs = [])
    ∧ (∃ (s : State) (g : Gang), (List.find? (fun x => x.id == g.id) s.sched.gangs = some g) ∧ g.launched = false ∧ s.sched.nextGang ≠ g.id ∧ s.gangReady g = true) := by
  refine ⟨⟨runs draining0, draining0, ?_⟩
    , ⟨withExec pair0 draining0, draining0, ?_⟩
    , ⟨(runs {ganged0 with gang := none, phase := .queued}), {ganged0 with gang := none, phase := .queued}, ?_⟩
    , ⟨{runs ganged0 with sched := {(runs ganged0).sched with gangs := [gang0], nextGang := 2}}, gang0, by decide +kernel, rfl, by decide, gang0_ready⟩⟩ <;> (repeat' apply And.intro) <;> decide +kernel

/-- Each clause of JobStatus has a state and operands that meet its hypotheses. -/
theorem witness_JobStatus :
    (∃ (s : State) (e : Exec) (t : ℕ) (o : JobEnd), e.objs = [] ∧ e.copy = false ∧ s.live e.hdr = true ∧ e.hdr ∉ s.host.miDrop ∧ o = JobEnd.success ∧ (¬(e.deadline ≠ 0 ∧ e.deadline < t)))
    ∧ (∃ (s : State) (e : Exec) (t : ℕ) (o : JobEnd), e.objs = [] ∧ e.copy = false ∧ s.live e.hdr = true ∧ e.hdr ∉ s.host.miDrop ∧ o = JobEnd.success ∧ (e.deadline ≠ 0 ∧ e.deadline < t))
    ∧ (∃ (s : State) (e : Exec) (o : JobEnd) (sc : ℕ) (a b : W32), e.objs = [] ∧ e.copy = false ∧ s.live e.hdr = true ∧ e.hdr ∉ s.host.miDrop ∧ o = JobEnd.failed sc a b)
    ∧ (∃ (s : State) (e : Exec) (o : JobEnd) (b : W32), e.objs = [] ∧ e.copy = false ∧ s.live e.hdr = true ∧ e.hdr ∉ s.host.miDrop ∧ o = JobEnd.withdrawn b)
    ∧ (∃ (s : State) (e : Exec) (o : JobEnd), e.objs = [] ∧ e.copy = false ∧ s.live e.hdr = true ∧ e.hdr ∉ s.host.miDrop ∧ o = JobEnd.takeover)
    ∧ (∃ (s : State) (e : Exec) (o : JobEnd), e.objs = [] ∧ e.copy = false ∧ s.live e.hdr = true ∧ e.hdr ∉ s.host.miDrop ∧ o = JobEnd.aborted) := by
  refine ⟨⟨runs e0, e0, 100, .success, ?_⟩
    , ⟨runs {e0 with deadline := 99}, {e0 with deadline := 99}, 1100, .success, ?_⟩
    , ⟨runs e0, e0, .failed 0x86 1 2, 0x86, 1, 2, ?_⟩
    , ⟨runs e0, e0, .withdrawn 7, 7, ?_⟩
    , ⟨runs e0, e0, .takeover, ?_⟩
    , ⟨runs e0, e0, .aborted, ?_⟩⟩ <;> (repeat' apply And.intro) <;> decide +kernel

/-- Each clause of StepGranted has a state and operands that meet its hypotheses. -/
theorem witness_StepGranted :
    (∃ (s : State) (e : Exec), s.waitingCrews = [[e]] ∧ s.ex? e.id = some e ∧ (∀ g ∈ (s.need e).engines, s.mayEngine e.ctx g = true) ∧ s.covers (s.needAll [e]) = true)
    ∧ (∃ (s : State) (e : Exec), s.waitingCrews = [[e]] ∧ s.ex? e.id = some e ∧ (∀ g ∈ (s.need e).engines, s.mayEngine e.ctx g = true) ∧ s.covers (s.needAll [e]) = true ∧ s.fabricHeld = true)
    ∧ (∃ (s : State) (e : Exec), s.waitingCrews = [[e]] ∧ (∀ g ∈ (s.need e).engines, s.mayEngine e.ctx g = true) ∧ s.covers (s.needAll [e]) = true) := by
  refine ⟨⟨runs waiting0, waiting0, ?_⟩
    , ⟨{runs {waiting0 with claim := 1} with sched := {(runs {waiting0 with claim := 1}).sched with holder := [(.fabric, 9)]}}, {waiting0 with claim := 1}, ?_⟩
    , ⟨runs waiting0, waiting0, ?_⟩⟩ <;> (repeat' apply And.intro) <;> decide +kernel

/-- Each clause of PreemptionAndResumption has a state and operands that meet its hypotheses. -/
theorem witness_PreemptionAndResumption :
    (∃ (s : State) (e : Exec) (c : Fin 16), s.ex? e.id = some e ∧ e.gang = none ∧ e.phase = ExecPhase.preempted ∧ isLate s.now e.deadline = false ∧ s.busyComp c = false ∧ s.sched.comps[c].oos = false ∧ s.sched.comps[c].resetting = false)
    ∧ (∃ (s : State) (w e : Exec) (d : ℕ) (r : List Exec), s.urgent = some w ∧ s.dl w = some d ∧ s.inTheWay w d = e :: r ∧ e.gang = none ∧ s.ex? e.id = some e ∧ (∀ x ∈ s.sched.execs, x.id = e.id → x = e))
    ∧ (∃ (s : State) (e : Exec), s.ex? e.id = some e ∧ (∀ x ∈ s.sched.execs, x.id = e.id → x = e) ∧ s.waitedLong e = true ∧ s.backstopVictim e = e ∧ e.gang = none) := by
  refine ⟨⟨(runs {e0 with phase := .preempted, comp := none}), {e0 with phase := .preempted, comp := none}, 15, ?_⟩
    , ⟨contended0, urgent0, e0, 100000000001, [], ?_⟩
    , ⟨runs {waiting0 with waitSince := 97999999999}, {waiting0 with waitSince := 97999999999}, ?_⟩⟩ <;> (repeat' apply And.intro) <;> decide +kernel

/-- Each clause of Translation has a state and operands that meet its hypotheses. -/
theorem witness_Translation :
    (∃ (s : State) (w : Walk) (e : Exec), (List.find? (fun x => x.id == w.id) s.tiers.walks = some w) ∧ s.ex? w.exec = some e ∧ s.lookUp e w.page w.op w.wr = Xlate.ok)
    ∧ (∃ (s : State) (w : Walk) (e : Exec), (List.find? (fun x => x.id == w.id) s.tiers.walks = some w) ∧ s.ex? w.exec = some e ∧ s.lookUp e w.page w.op w.wr ≠ Xlate.ok ∧ s.channels w.mover < chanCap w.mover)
    ∧ (∃ (s : State) (w : Walk) (e : Exec), (List.find? (fun x => x.id == w.id) s.tiers.walks = some w) ∧ s.ex? w.exec = some e ∧ s.lookUp e w.page w.op w.wr ≠ Xlate.ok ∧ chanCap w.mover ≤ s.channels w.mover)
    ∧ (∃ (s : State) (f : FaultRec), (List.find? (fun x => x.id == f.id) s.tiers.faults = some f) ∧ s.faultFinds f = some Xlate.ok)
    ∧ (∃ (s : State) (f : FaultRec), (List.find? (fun x => x.id == f.id) s.tiers.faults = some f) ∧ s.faultFinds f = some Xlate.switching)
    ∧ (∃ (s : State) (f : FaultRec) (a : Alloc) (i : ℕ), (List.find? (fun x => x.id == f.id) s.tiers.faults = some f) ∧ s.faultFinds f = some (Xlate.zod a i) ∧ (a.unitAt i).2 ≤ s.freePages (a.page i).tier)
    ∧ (∃ (s : State) (f : FaultRec) (e : Exec), (List.find? (fun x => x.id == f.id) s.tiers.faults = some f) ∧ f.host = none ∧ s.ex? f.exec = some e ∧ s.faultFinds f = some Xlate.fault)
    ∧ (∃ (s : State) (f : FaultRec) (e : Exec), (List.find? (fun x => x.id == f.id) s.tiers.faults = some f) ∧ f.host = none ∧ s.ex? f.exec = some e ∧ f.at_ + 20000 ≤ s.now)
    ∧ (∃ (s : State) (f : FaultRec) (h : Hdr), (List.find? (fun x => x.id == f.id) s.tiers.faults = some f) ∧ f.host = some h ∧ s.outstanding h = true ∧ f.at_ + 20000 ≤ s.now)
    ∧ (∃ (s : State) (f : FaultRec), (List.find? (fun x => x.id == f.id) s.tiers.faults = some f) ∧ s.now < f.at_ + 20000)
    ∧ (∃ (s : State) (f : FaultRec) (a : Alloc) (i : ℕ), (List.find? (fun x => x.id == f.id) s.tiers.faults = none) ∧ (List.find? (fun x => x.id == f.id) s.tiers.cancelled = some f) ∧ xlate (s.pageAt f.ctx (f.va / 65536)) f.wr = Xlate.zod a i ∧ (a.unitAt i).2 ≤ s.freePages (a.page i).tier) := by
  refine ⟨⟨withTiers fun t => {t with walks := [walk0 79]}, walk0 79, e0, ?_⟩
    , ⟨withTiers fun t => {t with walks := [walk0 80]}, walk0 80, e0, ?_⟩
    , ⟨withTiers fun t => {t with walks := [walk0 80], faults := List.replicate 2 (rec0 80 5)}, walk0 80, e0, ?_⟩
    , ⟨withTiers fun t => {t with faults := [rec0 79 5]}, rec0 79 5, ?_⟩
    , ⟨withTiers fun t => {t with faults := [rec0 79 5], allocs := [alloc0.setPage 63 {alloc0.page 63 with sw := true}]}, rec0 79 5, ?_⟩
    , ⟨(withTiers fun t => {t with faults := [rec0 79 5], allocs := [zeroed0]}), rec0 79 5, zeroed0, 63, ?_⟩
    , ⟨withTiers fun t => {t with faults := [rec0 80 5]}, rec0 80 5, e0, ?_⟩
    , ⟨withTiers fun t => {t with faults := [rec0 80 99999980000]}, rec0 80 99999980000, e0, ?_⟩
    , ⟨withCmd (withTiers fun t => {t with faults := [{rec0 80 5 with host := some uh}]}) {hdr := uh, body := .other, wait := .xlate}, {rec0 80 5 with host := some uh}, uh, ?_⟩
    , ⟨withTiers fun t => {t with faults := [rec0 80 99999980001]}, rec0 80 99999980001, ?_⟩
    , ⟨withTiers fun t => {t with cancelled := [rec0 79 5], allocs := [zeroed0]}, rec0 79 5, zeroed0, 63, ?_⟩⟩ <;> (repeat' apply And.intro) <;> decide +kernel

/-- Each clause of Migrations has a state and operands that meet its hypotheses. -/
theorem witness_Migrations :
    (∃ (s : State) (m : Mig) (a : Alloc), (List.find? (fun x => x.id == m.id) s.tiers.migs = some m) ∧ s.alloc? m.alloc = some a ∧ m.switching = false ∧ (m.promo = true ∨ (m.op = none ∧ m.host = none)) ∧ s.due a m ≠ [])
    ∧ (∃ (s : State) (m : Mig) (a : Alloc), (List.find? (fun x => x.id == m.id) s.tiers.migs = some m) ∧ s.alloc? m.alloc = some a ∧ m.switching = true ∧ (∀ o ∈ s.host.cmds, o.wait ≠ WaitOn.evict))
    ∧ (∃ (s : State) (o : OldFrame), (List.find? (fun x => x.mig == o.mig) s.tiers.old = some o) ∧ (∀ w ∈ o.waits, ∀ e ∈ s.sched.execs, e.id = w.1 → ∀ q ∈ e.st.ops, q.id ≠ w.2))
    ∧ (∃ (s : State) (o : OldFrame) (w : ℕ × ℕ) (e : Exec) (q : Op), (List.find? (fun x => x.mig == o.mig) s.tiers.old = some o) ∧ w ∈ o.waits ∧ e ∈ s.sched.execs ∧ e.id = w.1 ∧ q ∈ e.st.ops ∧ q.id = w.2)
    ∧ (∃ (s : State) (d : Deferred) (a : Alloc), (List.find? (fun x => x.id == d.id) s.tiers.deferred = some d) ∧ s.alloc? d.alloc = some a ∧ s.anyFlight a.id = false ∧ (∀ m ∈ s.tiers.queue, m.alloc ≠ a.id) ∧ (∀ i ∈ d.pages, i < a.pages ∧ s.isHeld a i = false ∧ tierAbove (a.page i).tier d.dst = true ∧ (a.page i).zod = false) ∧ d.pages ≠ [] ∧ d.pages.length ≤ s.freePages d.dst)
    ∧ (∃ (s : State) (a : Alloc) (page reads : ℕ), s.alloc? a.id = some a ∧ page < a.pages ∧ (a.page page).tier = Tier.t2 ∧ (a.page page).zod = false ∧ s.anyHint a page = false ∧ 4 ≤ reads ∧ s.roomy Tier.t1 = true)
    ∧ (∃ (s : State) (a : Alloc) (page : ℕ) (e : Exec) (t : Tier), s.alloc? a.id = some a ∧ page < a.pages ∧ (a.page page).zod = false ∧ a.freed = false ∧ (t = .t0 ∨ t = .t1) ∧ s.ex? e.id = some e ∧ (∃ b i w, s.pageAt e.ctx (a.id + page) = PageAt.mem b i true w))
    ∧ (∃ (s : State) (a : Alloc) (page : ℕ) (v : Victim), s.alloc? a.id = some a ∧ page < a.pages ∧ (a.page page).tier = Tier.t1 ∧ 100 * s.freePages Tier.t1 < 3 * s.capPages Tier.t1 ∧ (s.victims Tier.t1).head? = some v ∧ v.alloc = a.id ∧ v.unit = a.unitAt page ∧ s.anyHint a v.unit.1 = false) := by
  refine ⟨⟨withTiers fun t => {t with migs := [mig0]}, mig0, alloc0, ?_⟩
    , ⟨withTiers fun t => {t with migs := [{mig0 with switching := true}]}, {mig0 with switching := true}, alloc0, ?_⟩
    , ⟨withTiers fun t => {t with old := [left0]}, left0, ?_⟩
    , ⟨(let s := runs (withSt {ops := [move0]}); {s with tiers := {s.tiers with old := [{left0 with waits := [(5, 3)]}]}}), {left0 with waits := [(5, 3)]}, (5, 3), withSt {ops := [move0]}, move0, ?_⟩
    , ⟨withTiers fun t => {t with deferred := [late0]}, late0, alloc0, ?_⟩
    , ⟨runs e0, alloc0, 63, 4, ?_⟩
    , ⟨runs e0, alloc0, 63, e0, .t0, ?_⟩
    , ⟨(let s := withTiers fun t => {t with allocs := [{alloc0 with home := .t1}]}; {s with sched := {s.sched with grants := [(1, [0, 25000000, 0])]}}), {alloc0 with home := .t1}, 0, victim0, ?_⟩⟩ <;> (repeat' apply And.intro) <;> first | decide +kernel | exact ⟨alloc0, 63, true, by decide +kernel⟩

/-- Each clause of TableEpochs has a state and operands that meet its hypotheses. -/
theorem witness_TableEpochs :
    (∃ (s : State) (n : ℕ) (ctx : Fin 64) (entry : BitVec 4096), s.part.next = some (n, ctx, entry))
    ∧ (∃ (s : State), s.part.next = none ∧ s.oldAccess = false)
    ∧ (∃ (s : State), (s.part.next.isSome = true ∨ s.oldAccess = true)) := by
  refine ⟨⟨{up with part := {up.part with next := some (1, 63, 5)}}, 1, 63, 5, ?_⟩
    , ⟨up, ?_⟩
    , ⟨{up with part := {up.part with next := some (1, 63, 5)}}, ?_⟩⟩ <;> (repeat' apply And.intro) <;> decide +kernel

/-- Each clause of IndexEvents has a state and operands that meet its hypotheses. -/
theorem witness_IndexEvents :
    (∃ (s : State) (x : Index) (g : ℕ) (root : Blk), (List.find? (fun y => y.nsid == x.nsid) s.indexes = some x) ∧ (List.find? (fun o => o.1 == g) x.old = some (g, root)) ∧ (∀ e ∈ s.sched.execs, ¬(e.index = some x.nsid ∧ e.snap.map (·.1) = some g)) ∧ (∀ u ∈ s.twin.unacked, u.group ≠ s.groupOf x.nsid))
    ∧ (∃ (s : State) (x : Index) (g : ℕ), (List.find? (fun y => y.nsid == x.nsid) s.indexes = some x) ∧ (List.find? (fun o => o.1 == g) x.old = none) ∧ g = rootGen (s.blk x.nsid 0).data + 1)
    ∧ (∃ (s : State) (x : Index) (w : ℕ × W64) (r : List (ℕ × W64)) (e : Exec) (o : ObjCmd), (List.find? (fun y => y.nsid == x.nsid) s.indexes = some x) ∧ x.waiting = w :: r ∧ s.waitingObj w = some (e, o) ∧ s.stockRoom x.nsid o.vectors = true)
    ∧ (∃ (s : State) (x : Index) (w : ℕ × W64) (e : Exec) (o : ObjCmd), (List.find? (fun y => y.nsid == x.nsid) s.indexes = some x) ∧ x.waiting = [w] ∧ s.waitingObj w = some (e, o) ∧ isLate s.now o.deadline = true ∧ s.live o.hdr = true ∧ o.hdr ∉ s.host.miDrop)
    ∧ (∃ (s : State) (e : Exec) (o : ObjCmd), s.ex? e.id = some e ∧ (List.find? (fun q => q.obj == o.obj && q.stage == ObjStage.appended) e.objs = some o) ∧ o.waits = [] ∧ s.live o.hdr = true ∧ o.hdr ∉ s.host.miDrop ∧ isLate s.now o.deadline = false) := by
  refine ⟨⟨indexed0 e0, index0, 7, 0x58444E49, ?_⟩
    , ⟨indexed0 e0, index0, rootGen ((indexed0 e0).blk 1 0).data + 1, ?_⟩
    , ⟨(indexed0 (ingest0 obj0)), index0, (5, 77), [], ingest0 obj0, obj0, ?_⟩
    , ⟨(indexed0 (ingest0 obj2)), index0, (5, 77), ingest0 obj2, obj2, ?_⟩
    , ⟨(indexed0 (ingest0 obj1)), ingest0 obj1, obj1, ?_⟩⟩ <;> (repeat' apply And.intro) <;> decide +kernel

/-- Each clause of CompletionFrame has a state and operands that meet its hypotheses. -/
theorem witness_CompletionFrame :
    (∃ (s : State) (h : Hdr), s.live h = true ∧ h ∉ s.host.miDrop)
    ∧ (∃ (s : State) (h : Hdr), (s.live h = false ∨ h ∈ s.host.miDrop)) := by
  refine ⟨⟨served, uh, ?_⟩
    , ⟨{served with host := {served.host with miDrop := [uh]}}, uh, ?_⟩⟩ <;> (repeat' apply And.intro) <;> decide +kernel

/-- Each clause of Connections has a state and operands that meet its hypotheses. -/
theorem witness_Connections :
    (∃ (s : State) (n : ℕ) (port : Fin 4) (hpda : ℕ) (tls : Bool), s.serving = true ∧ s.portUp port = true ∧ s.conn? n = none ∧ hpda ≤ 31 ∧ (s.host.tlsOnly[port] = true → tls = true))
    ∧ (∃ (s : State) (n : ℕ) (port : Fin 4) (pfv hpda : ℕ) (tls : Bool), s.serving = true ∧ s.portUp port = true ∧ s.conn? n = none ∧ (pfv ≠ 0 ∨ 31 < hpda ∨ s.host.tlsOnly[port] = true ∧ tls = false))
    ∧ (∃ (s : State) (k : Conn), s.conn? k.id = some k ∧ k.cntlid = none)
    ∧ (∃ (s : State) (k : Conn) (o : OutCmd) (len : ℕ), s.conn? k.id = some k ∧ k.carries o.hdr = true ∧ (List.find? (fun x => x.hdr == o.hdr && x.wait == WaitOn.data) s.host.cmds = some o) ∧ 0 < len ∧ len ≤ 131072 ∧ o.r2ts = [(o.got, len)] ∧ o.got + len = o.total)
    ∧ (∃ (s : State) (o : OutCmd), (List.find? (fun x => x.hdr == o.hdr && x.wait == WaitOn.data) s.host.cmds = some o) ∧ s.serving = true ∧ o.asked < o.total ∧ o.r2ts.length < s.maxR2t o.hdr ∧ (o.body.isBlocks = true → s.bufferRoom (min 1048576 (o.total - o.asked)) = true)) := by
  refine ⟨⟨hosted, 11, 3, 31, false, ?_⟩
    , ⟨hosted, 11, 3, 1, 31, false, ?_⟩
    , ⟨hosted, conn0, ?_⟩
    , ⟨withCmd hosted asked1, conn2, asked1, 12288, ?_⟩
    , ⟨withCmd hosted asked2, asked2, ?_⟩⟩ <;> (repeat' apply And.intro) <;> decide +kernel

/-- Each clause of Connects has a state and operands that meet its hypotheses. -/
theorem witness_Connects :
    (∃ (s : State) (k : Conn) (sqsize kato n : ℕ) (nqn : List ℕ) (ctx : Fin 64), s.conn? k.id = some k ∧ s.serving = true ∧ k.cntlid = none ∧ s.bound nqn = some ctx ∧ s.enabled ctx = true ∧ 0 < sqsize ∧ sqsize < 4096 ∧ 1000 ≤ kato ∧ kato ≤ 120000 ∧ (List.find? (fun i => !s.host.ctrls.any fun x => x.id == i) s.ctrlIds = some n))
    ∧ (∃ (s : State) (k : Conn) (x : Ctrl) (sqsize qid : ℕ) (ctx : Fin 64), s.conn? k.id = some k ∧ s.serving = true ∧ k.cntlid = none ∧ s.bound x.nqn = some ctx ∧ s.enabled ctx = true ∧ 0 < sqsize ∧ sqsize < 4096 ∧ 0 < qid ∧ qid ≤ 128 ∧ s.ctrl? x.id = some x ∧ (∀ q ∈ s.host.queues, ¬(q.cntlid = x.id ∧ q.qid = qid)) ∧ s.queueSum + sqsize + 1 ≤ 262144)
    ∧ (∃ (s : State) (k : Conn) (nqn : List ℕ), s.conn? k.id = some k ∧ s.serving = true ∧ k.cntlid = none ∧ s.bound nqn = none) := by
  refine ⟨⟨hosted, conn0, 31, 120000, 3, [2], 3, ?_⟩
    , ⟨hosted, conn0, userCtrl, 4095, 128, 3, ?_⟩
    , ⟨hosted, conn0, [5], ?_⟩⟩ <;> (repeat' apply And.intro) <;> decide +kernel

/-- Each clause of FabricsCommands has a state and operands that meet its hypotheses. -/
theorem witness_FabricsCommands :
    (∃ (s : State) (h : Hdr) (k : Ctrl), OnHost s h k ∧ s.serving = true ∧ s.outstanding h = false)
    ∧ (∃ (s : State) (h : Hdr) (k : Ctrl) (v : W64), OnHost s h k ∧ s.serving = true ∧ s.outstanding h = false ∧ (BitVec.getLsbD k.cc 0 = false ∨ BitVec.getLsbD v 0 = true))
    ∧ (∃ (s : State) (h : Hdr) (k : Ctrl) (x : Secret), OnHost s h k ∧ s.serving = true ∧ s.outstanding h = false ∧ x ∈ s.host.secrets ∧ x.nqn = k.nqn) := by
  refine ⟨⟨hosted, uh, userCtrl, ?_⟩
    , ⟨hosted, uh, userCtrl, 0x00460001, ?_⟩
    , ⟨{hosted with host := {hosted.host with secrets := [{nqn := [2], secret := 5}]}}, uh, userCtrl, {nqn := [2], secret := 5}, ?_⟩⟩ <;> (repeat' apply And.intro) <;> decide +kernel

/-- Each clause of AdminCommands has a state and operands that meet its hypotheses. -/
theorem witness_AdminCommands :
    (∃ (s : State) (h : Hdr) (c : Fin 64) (cns nsid : ℕ) (f : ℕ → Byte), Arrives s h c ∧ s.identData (hdrCtrl h) cns nsid = some f)
    ∧ (∃ (s : State) (h : Hdr) (c : Fin 64) (page lsp off len : ℕ) (p : Page), Arrives s h c ∧ s.logPageOf c page lsp = Except.ok p ∧ off % 4 = 0 ∧ off < p.len ∧ 0 < len ∧ len % 4 = 0 ∧ len ≤ 8388608)
    ∧ (∃ (s : State) (h : Hdr) (c : Fin 64) (n : ℕ), Arrives s h c ∧ h.path = Path.ctrl n ∧ s.host.aerQueue = [])
    ∧ (∃ (s : State) (h : Hdr) (c : Fin 64) (n : ℕ) (a : Aer), Arrives s h c ∧ h.path = Path.ctrl n ∧ s.host.aerQueue = [(n, a)])
    ∧ (∃ (s : State) (h : Hdr) (c : Fin 64) (n sq cid : ℕ) (o : OutCmd), Arrives s h c ∧ h.path = Path.ctrl n ∧ (List.find? (fun o => o.hdr == { path := h.path, sq := sq, cid := cid }) s.host.cmds = some o) ∧ s.catchable o = true)
    ∧ (∃ (s : State) (h : Hdr) (c : Fin 64) (n sq cid : ℕ), Arrives s h c ∧ h.path = Path.ctrl n ∧ (List.find? (fun o => o.hdr == { path := h.path, sq := sq, cid := cid }) s.host.cmds = none))
    ∧ (∃ (s : State) (h : Hdr) (c : Fin 64), Arrives s h c) := by
  refine ⟨⟨hosted, uh, 3, 1, 0, hosted.identCtrl 2, ?_⟩
    , ⟨hosted, uh, 3, 0xD0, 0, 0, 16, hosted.healthPage, ?_⟩
    , ⟨hosted, uh, 3, 2, ?_⟩
    , ⟨{hosted with host := {hosted.host with aerQueue := [(2, {typ := 0, info := 1, page := 2})]}}, uh, 3, 2, {typ := 0, info := 1, page := 2}, ?_⟩
    , ⟨withCmd hosted reading1, uh, 3, 2, 1, 9, reading1, ?_⟩
    , ⟨withCmd hosted reading1, uh, 3, 2, 1, 10, ?_⟩
    , ⟨hosted, uh, 3, ?_⟩⟩ <;> (repeat' apply And.intro) <;> first | decide +kernel | exact ⟨_, rfl, rfl⟩ | rfl

/-- Each clause of IdentityConflict has a state and operands that meet its hypotheses. -/
theorem witness_IdentityConflict :
    (∃ (s : State) (h : Hdr) (k : Ctrl), OnHost s h k ∧ s.serving = true ∧ s.outstanding h = true) := by
  refine ⟨withCmd hosted asked1, uh, userCtrl, ?_⟩ <;> (repeat' apply And.intro) <;> decide +kernel

/-- Each clause of NvmCommands has a state and operands that meet its hypotheses. -/
theorem witness_NvmCommands :
    (∃ (s : State) (h : Hdr) (k : Ctrl) (n : Ns) (lba nlb : ℕ), OnHost s h k ∧ Arrives s h k.ctx ∧ s.nsReady = true ∧ s.ns? n.nsid = some n ∧ (s.group n.group).ana = Ana.optimized ∧ s.nsRd k.ctx n.nsid = true ∧ lba + nlb ≤ n.blocks ∧ 0 < nlb ∧ n.bytes nlb ≤ 8388608 ∧ s.fromFlash n.nsid lba nlb = [] ∧ (n.check lba (List.map (fun j => s.blk n.nsid (lba + j)) (List.range nlb)) = none))
    ∧ (∃ (s : State) (h : Hdr) (k : Ctrl) (n : Ns) (lba nlb : ℕ), OnHost s h k ∧ Arrives s h k.ctx ∧ s.nsReady = true ∧ s.ns? n.nsid = some n ∧ (s.group n.group).ana = Ana.optimized ∧ s.nsRd k.ctx n.nsid = true ∧ lba + nlb ≤ n.blocks ∧ s.fromFlash n.nsid lba nlb = [] ∧ (n.check lba (List.map (fun j => s.blk n.nsid (lba + j)) (List.range nlb)) = none))
    ∧ (∃ (s : State) (h : Hdr) (k : Ctrl) (n : Ns) (lba : ℕ) (bs : List PBlk), OnHost s h k ∧ Arrives s h k.ctx ∧ s.nsReady = true ∧ s.ns? n.nsid = some n ∧ (s.group n.group).ana = Ana.optimized ∧ s.nsWr k.ctx n.nsid = true ∧ s.noWrites n = false ∧ lba + bs.length ≤ n.blocks ∧ bs ≠ [] ∧ n.bytes bs.length ≤ 8192 ∧ s.bufferRoom (n.bytes bs.length) = true ∧ n.zoneFault lba bs.length = none ∧ n.check lba bs = none)
    ∧ (∃ (s : State) (h : Hdr) (k : Ctrl) (n : Ns) (lba nlb : ℕ), OnHost s h k ∧ Arrives s h k.ctx ∧ s.nsReady = true ∧ s.ns? n.nsid = some n ∧ (s.group n.group).ana = Ana.optimized ∧ s.nsWr k.ctx n.nsid = true ∧ s.noWrites n = false ∧ lba + nlb ≤ n.blocks ∧ n.pit = none ∧ n.zoned = false)
    ∧ (∃ (s : State) (h : Hdr) (k : Ctrl) (n : Ns), OnHost s h k ∧ Arrives s h k.ctx ∧ s.nsReady = true ∧ s.ns? n.nsid = some n ∧ (s.group n.group).ana = Ana.optimized)
    ∧ (∃ (s : State) (h : Hdr) (k : Ctrl) (n : Ns) (lba m : ℕ), OnHost s h k ∧ Arrives s h k.ctx ∧ s.nsReady = true ∧ s.ns? n.nsid = some n ∧ (s.group n.group).ana = Ana.optimized ∧ s.nsWr k.ctx n.nsid = true ∧ s.noWrites n = false ∧ lba + m ≤ n.blocks) := by
  refine ⟨⟨hosted, uh, userCtrl, ns0, 1048575, 1, ?_⟩
    , ⟨hosted, uh, userCtrl, ns0, 1048575, 1, ?_⟩
    , ⟨hosted, uh, userCtrl, ns0, 1048574, [blk0, blk0], ?_⟩
    , ⟨hosted, uh, userCtrl, ns0, 1048575, 1, ?_⟩
    , ⟨hosted, uh, userCtrl, ns0, ?_⟩
    , ⟨hosted, uh, userCtrl, ns0, 1048575, 1, ?_⟩⟩ <;> (repeat' apply And.intro) <;> first | decide +kernel | exact ⟨_, rfl, rfl⟩

/-- Each clause of WriteThenRead has a state and operands that meet its hypotheses. -/
theorem witness_WriteThenRead :
    (∃ (s : State) (h : Hdr) (n : Ns) (lba : ℕ) (bs : List PBlk), s.paired = false ∧ s.ns? n.nsid = some n ∧ n.pit = none ∧ (∀ b ∈ bs, b.pi = none) ∧ lba + bs.length ≤ n.blocks ∧ n.blocks ≤ 2 ^ 62 ∧ s.flash.wthru = false ∧ s.live h = true ∧ h ∉ s.host.miDrop)
    ∧ (∃ (s : State) (h : Hdr) (n : Ns) (lba : ℕ) (bs : List PBlk) (m l : ℕ), s.paired = false ∧ s.ns? n.nsid = some n ∧ n.pit = none ∧ (∀ b ∈ bs, b.pi = none) ∧ lba + bs.length ≤ n.blocks ∧ n.blocks ≤ 2 ^ 62 ∧ s.flash.wthru = false ∧ s.live h = true ∧ h ∉ s.host.miDrop ∧ l < 2 ^ 62 ∧ (m ≠ n.nsid ∨ l < lba ∨ lba + bs.length ≤ l)) := by
  refine ⟨⟨hosted, uh, ns0, 1048574, [blk0, blk0], ?_⟩
    , ⟨hosted, uh, ns0, 1048574, [blk0, blk0], 1, 0, ?_⟩⟩ <;> (repeat' apply And.intro) <;> decide +kernel

/-- Each clause of ZonedCommands has a state and operands that meet its hypotheses. -/
theorem witness_ZonedCommands :
    (∃ (s : State) (h : Hdr) (k : Ctrl) (n : Ns) (z : ℕ) (bs : List PBlk), OnHost s h k ∧ Arrives s h k.ctx ∧ s.nsReady = true ∧ s.ns? n.nsid = some n ∧ (s.group n.group).ana = Ana.optimized ∧ n.zoned = true ∧ s.nsWr k.ctx n.nsid = true ∧ s.noWrites n = false ∧ 0 < bs.length ∧ bs.length ≤ 2 ∧ n.pit = none ∧ z * 524288 + bs.length ≤ n.blocks ∧ s.bufferRoom (4096 * bs.length) = true ∧ n.zoneFault (z * 524288 + (n.zone z).wp) bs.length = none ∧ (n.zone z).wp < 524288)
    ∧ (∃ (s : State) (h : Hdr) (k : Ctrl) (n : Ns) (z : ℕ) (act : ZoneAct), OnHost s h k ∧ Arrives s h k.ctx ∧ s.nsReady = true ∧ s.ns? n.nsid = some n ∧ (s.group n.group).ana = Ana.optimized ∧ n.zoned = true ∧ s.nsWr k.ctx n.nsid = true ∧ s.noWrites n = false ∧ z * 524288 < n.blocks ∧ zoneStep act (n.zone z) = ZoneStep.apply ∧ act ≠ ZoneAct.open)
    ∧ (∃ (s : State) (h : Hdr) (k : Ctrl) (n : Ns), OnHost s h k ∧ Arrives s h k.ctx ∧ s.nsReady = true ∧ s.ns? n.nsid = some n ∧ (s.group n.group).ana = Ana.optimized ∧ n.zoned = true ∧ s.nsRd k.ctx n.nsid = true ∧ 0 < n.blocks)
    ∧ (∃ (s : State) (h : Hdr) (k : Ctrl) (n : Ns) (lba : ℕ) (bs : List PBlk), OnHost s h k ∧ Arrives s h k.ctx ∧ s.nsReady = true ∧ s.ns? n.nsid = some n ∧ (s.group n.group).ana = Ana.optimized ∧ n.zoned = true ∧ s.nsWr k.ctx n.nsid = true ∧ s.noWrites n = false ∧ lba + bs.length ≤ n.blocks ∧ bs ≠ [] ∧ n.bytes bs.length ≤ 8192 ∧ s.bufferRoom (n.bytes bs.length) = true ∧ (n.zone (lba / 524288)).state ≠ ZState.full ∧ lba % 524288 ≠ (n.zone (lba / 524288)).wp) := by
  refine ⟨⟨hosted, uh, userCtrl, zns0, 1, [blk0, blk0], ?_⟩
    , ⟨hosted, uh, userCtrl, zns0, 1, .finish, ?_⟩
    , ⟨hosted, uh, userCtrl, zns0, ?_⟩
    , ⟨hosted, uh, userCtrl, zns0, 524288, [blk0, blk0], ?_⟩⟩ <;> (repeat' apply And.intro) <;> first | decide +kernel | exact ⟨_, rfl, rfl⟩

/-- Each clause of NamespaceCommands has a state and operands that meet its hypotheses. -/
theorem witness_NamespaceCommands :
    (∃ (s : State) (h : Hdr) (k : Ctrl) (group blocks id : ℕ), OnHost s h k ∧ Arrives s h k.ctx ∧ s.paired = false ∧ k.ctx = 0 ∧ 0 < group ∧ group ≤ 64 ∧ 0 < blocks ∧ s.freeNsid = some id ∧ s.nsBlocks + 262144 * s.tiers.spillGib + blocks ≤ 917 * 2 ^ 28)
    ∧ (∃ (s : State) (h : Hdr) (k : Ctrl) (n : Ns), OnHost s h k ∧ Arrives s h k.ctx ∧ s.paired = false ∧ k.ctx = 0 ∧ n.nsid ≠ 4294967295 ∧ (List.filter (fun x => x.nsid == n.nsid) s.host.nss = [n]))
    ∧ (∃ (s : State) (h : Hdr) (k : Ctrl) (n : Ns) (cntlid : ℕ), OnHost s h k ∧ Arrives s h k.ctx ∧ s.paired = false ∧ k.ctx = 0 ∧ s.ns? n.nsid = some n ∧ (s.ctrl? cntlid).isSome = true ∧ cntlid ∉ n.attached)
    ∧ (∃ (s : State) (h : Hdr) (k : Ctrl) (n : Ns) (ses : ℕ), OnHost s h k ∧ Arrives s h k.ctx ∧ s.paired = false ∧ s.nsNamed n.nsid = [n] ∧ s.ns? n.nsid = some n ∧ ses ≤ 2 ∧ s.nsWr k.ctx n.nsid = true ∧ s.noWrites n = false)
    ∧ (∃ (s : State) (h : Hdr) (k : Ctrl), OnHost s h k ∧ Arrives s h k.ctx ∧ s.paired = false ∧ (∀ n ∈ s.host.nss, s.nsWr k.ctx n.nsid = true)) := by
  refine ⟨⟨hosted, rh, rootCtrl, 64, 1024, 3, ?_⟩
    , ⟨hosted, rh, rootCtrl, ns0, ?_⟩
    , ⟨hosted, rh, rootCtrl, ns0, 1, ?_⟩
    , ⟨hosted, rh, rootCtrl, ns0, 2, ?_⟩
    , ⟨hosted, rh, rootCtrl, ?_⟩⟩ <;> (repeat' apply And.intro) <;> first | decide +kernel | exact ⟨_, rfl, rfl⟩

/-- Each clause of ProgramImages has a state and operands that meet its hypotheses. -/
theorem witness_ProgramImages :
    (∃ (s : State) (h : Hdr) (k : Ctrl) (prog off total : ℕ) (data : List Byte), OnHost s h k ∧ Arrives s h k.ctx ∧ s.nsReady = true ∧ s.paired = false ∧ s.live h = true ∧ h ∉ s.host.miDrop ∧ s.image? prog = none ∧ data ≠ [] ∧ data.length ≤ 8192 ∧ off + data.length ≤ total ∧ total ≤ 16777216 ∧ s.sched.images.length < 1024 ∧ s.imageBytes + data.length ≤ 4294967296 ∧ off + data.length < total)
    ∧ (∃ (s : State) (h : Hdr) (k : Ctrl) (prog off total : ℕ) (data : List Byte), OnHost s h k ∧ Arrives s h k.ctx ∧ s.nsReady = true ∧ s.paired = false ∧ s.live h = true ∧ h ∉ s.host.miDrop ∧ s.image? prog = none ∧ data ≠ [] ∧ data.length ≤ 8192 ∧ off + data.length ≤ total ∧ total ≤ 16777216 ∧ s.sched.images.length < 1024 ∧ s.imageBytes + data.length ≤ 4294967296 ∧ off + data.length = total)
    ∧ (∃ (s : State) (h : Hdr) (k : Ctrl) (i : Image) (sel : ℕ), OnHost s h k ∧ Arrives s h k.ctx ∧ s.nsReady = true ∧ s.paired = false ∧ s.image? i.prog = some i ∧ (k.ctx = 0 ∨ i.owner = k.ctx) ∧ sel < 2)
    ∧ (∃ (s : State) (h : Hdr) (k : Ctrl) (i : Image), OnHost s h k ∧ Arrives s h k.ctx ∧ s.nsReady = true ∧ s.paired = false ∧ s.image? i.prog = some i ∧ (k.ctx = 0 ∨ i.owner = k.ctx) ∧ (∀ e ∈ s.sched.execs, e.image ≠ i.prog))
    ∧ (∃ (s : State) (h : Hdr) (k : Ctrl) (i : Image), OnHost s h k ∧ Arrives s h k.ctx ∧ s.nsReady = true ∧ s.paired = false ∧ s.image? i.prog = some i ∧ (k.ctx = 0 ∨ i.owner = k.ctx) ∧ (∃ e ∈ s.sched.execs, e.image = i.prog)) := by
  refine ⟨⟨start0, uh, userCtrl, 7, 0, 1024, [1, 2], ?_⟩
    , ⟨start0, uh, userCtrl, 7, 1022, 1024, [1, 2], ?_⟩
    , ⟨start0, uh, userCtrl, image1, 0, ?_⟩
    , ⟨start0, uh, userCtrl, image1, ?_⟩
    , ⟨runs {e0 with image := 5}, uh, userCtrl, image5, ?_⟩⟩ <;> (repeat' apply And.intro) <;> first | decide +kernel | exact ⟨_, rfl, rfl⟩

/-- Each clause of ExecuteProgram has a state and operands that meet its hypotheses. -/
theorem witness_ExecuteProgram :
    (∃ (s s' : State) (h : Hdr) (k : Ctrl) (i : Image) (params : List Byte) (deadline : W64) (cdw13 : W32), OnHost s h k ∧ Arrives s h k.ctx ∧ s.nsReady = true ∧ 192 ≤ params.length ∧ params.length ≤ 8192 ∧ s.image? i.prog = some i ∧ i.verified = true ∧ (i.owner = 0 ∨ i.owner = k.ctx) ∧ i.active = true ∧ BitVec.getLsbD cdw13 0 = false ∧ s.takeIn i (s.newExec h k.ctx i s.sched.nextExec params (BitVec.toNat deadline) false false) params = Except.ok s') := by
  refine ⟨start0, started0, uh, userCtrl, image1, params0, 0, 0, ?_⟩ <;> (repeat' apply And.intro) <;> first | decide +kernel | exact start0_takes | exact ⟨_, rfl, rfl⟩

/-- Each clause of LocalMemory has a state and operands that meet its hypotheses. -/
theorem witness_LocalMemory :
    (∃ (s : State) (h : Hdr) (k : Ctrl) (addr : W64) (len : ℕ) (bs : List Byte), OnHost s h k ∧ Arrives s h k.ctx ∧ s.nsReady = true ∧ s.paired = false ∧ 0 < len ∧ len ≤ 8388608 ∧ s.ctxRead k.ctx (BitVec.toNat addr) len = Except.ok bs ∧ s.ctxFault k.ctx (BitVec.toNat addr) len false = none ∧ s.ctxPoison k.ctx (BitVec.toNat addr) len = false)
    ∧ (∃ (s : State) (h : Hdr) (k : Ctrl) (addr : W64) (data : List Byte), OnHost s h k ∧ Arrives s h k.ctx ∧ s.nsReady = true ∧ s.paired = false ∧ data ≠ [] ∧ data.length ≤ 8192 ∧ (∀ p ∈ pagesIn (BitVec.toNat addr) data.length, ∃ r, s.slmPage k.ctx p = some (r, true)) ∧ s.ctxFault k.ctx (BitVec.toNat addr) data.length true = none)
    ∧ (∃ (s : State) (h : Hdr) (k : Ctrl) (addr : W64) (data : List Byte) (p : ℕ), OnHost s h k ∧ Arrives s h k.ctx ∧ s.nsReady = true ∧ s.paired = false ∧ data ≠ [] ∧ data.length ≤ 8192 ∧ (∀ q ∈ pagesIn (BitVec.toNat addr) data.length, ∃ r, s.slmPage k.ctx q = some (r, true)) ∧ s.ctxFault k.ctx (BitVec.toNat addr) data.length true = some p)
    ∧ (∃ (s : State) (h : Hdr) (k : Ctrl), OnHost s h k ∧ Arrives s h k.ctx ∧ s.nsReady = true ∧ s.paired = false)
    ∧ (∃ (s : State) (c : Fin 64) (va : ℕ) (a : Alloc) (rd wr : Bool), Memory.wf s.tiers.mem = true ∧ s.pageAt c (va / 65536) = PageAt.mem a (va / 65536 - a.id) rd wr ∧ a.id ≤ va / 65536) := by
  refine ⟨⟨start0, uh, userCtrl, 127, 2, [0, 0], ?_⟩
    , ⟨start0, uh, userCtrl, 65535, [7], ?_⟩
    , ⟨zeroed1, uh, userCtrl, 65535, [7], 0, ?_⟩
    , ⟨start0, uh, userCtrl, ?_⟩
    , ⟨start0, 3, 65535, {alloc0 with id := 0, pages := 1}, true, true, ?_⟩⟩ <;> (repeat' apply And.intro) <;> first | decide +kernel | exact ⟨_, rfl, rfl⟩

/-- Each clause of IngestObject has a state and operands that meet its hypotheses. -/
theorem witness_IngestObject :
    (∃ (s : State) (h : Hdr) (k : Ctrl) (n : Ns) (e : Exec) (obj lba deadline : W64) (cdw12 cdw13 : W32) (data : List Byte), OnHost s h k ∧ Arrives s h k.ctx ∧ s.nsReady = true ∧ s.ns? n.nsid = some n ∧ s.nsWr k.ctx n.nsid = true ∧ (s.group n.group).ana = Ana.optimized ∧ s.noWrites n = false ∧ obj ≠ BitVec.allOnes 64 ∧ bitsOf (BitVec.toNat cdw12) 25 24 ≠ 3 ∧ BitVec.getLsbD cdw12 27 = false ∧ bitsOf (BitVec.toNat cdw12) 23 0 = data.length ∧ data ≠ [] ∧ data.length ≤ 8192 ∧ BitVec.toNat lba + 2 ≤ n.blocks ∧ (List.find? (fun x => x.ingest && x.hdr == cdw13Hdr h cdw13 && !x.copy) s.sched.execs = some e) ∧ s.refusesObj e { hdr := h, obj := obj, nsid := n.nsid, lba := BitVec.toNat lba, deadline := BitVec.toNat deadline, defer := BitVec.getLsbD cdw12 26, kind := bitsOf (BitVec.toNat cdw12) 25 24, blocks := [], stage := ObjStage.arriving, bytes := data } data.length = none) := by
  refine ⟨ingesting0, uh, userCtrl, ns0, ingest1, 77, BitVec.ofNat 64 1048574, 0, 2, (BitVec.ofNat 32 (65536 + 40)), [1, 2], ?_⟩ <;> (repeat' apply And.intro) <;> first | decide +kernel | exact ⟨_, rfl, rfl⟩

/-- Each clause of Allocations has a state and operands that meet its hypotheses. -/
theorem witness_Allocations :
    (∃ (s : State) (h : Hdr) (c : Fin 64) (pages : ℕ) (zod : Bool), Arrives s h c ∧ s.paired = false ∧ 0 < pages ∧ s.noSpace c Tier.t2 pages zod = none)
    ∧ (∃ (s : State) (h : Hdr) (c : Fin 64) (size : ℕ), Arrives s h c ∧ s.paired = false ∧ size % 65536 ≠ 0)
    ∧ (∃ (s : State) (h : Hdr) (c : Fin 64) (a : Alloc), Arrives s h c ∧ s.paired = false ∧ s.alloc? a.id = some a ∧ a.ctx = c ∧ a.freed = false)
    ∧ (∃ (s : State) (h : Hdr) (c : Fin 64) (a : Alloc) (first pages code : ℕ) (x : HintCode), Arrives s h c ∧ s.paired = false ∧ s.alloc? a.id = some a ∧ (a.ctx = c ∨ s.grantOf c a ≠ (false, false)) ∧ a.freed = false ∧ first < a.pages ∧ first + pages ≤ a.pages ∧ hintOf code = some x)
    ∧ (∃ (s : State) (h : Hdr) (c : Fin 64) (a : Alloc) (first pages code : ℕ) (x : Tier), Arrives s h c ∧ s.paired = false ∧ s.alloc? a.id = some a ∧ (a.ctx = c ∨ s.grantOf c a ≠ (false, false)) ∧ a.freed = false ∧ first < a.pages ∧ first + pages ≤ a.pages ∧ wordTier code = some x ∧ x ≠ Tier.t0 ∧ (s.evict a (a.range first pages) x none (some h) none).2 = 0 ∧ (∀ m ∈ (s.evict a (a.range first pages) x none (some h) none).1.tiers.migs ++ (s.evict a (a.range first pages) x none (some h) none).1.tiers.queue, m.host ≠ some h))
    ∧ (∃ (s : State) (h : Hdr) (c : Fin 64) (a : Alloc) (first pages code : ℕ) (x : Tier), Arrives s h c ∧ s.paired = false ∧ s.alloc? a.id = some a ∧ (a.ctx = c ∨ s.grantOf c a ≠ (false, false)) ∧ a.freed = false ∧ first < a.pages ∧ first + pages ≤ a.pages ∧ wordTier code = some x ∧ x ≠ Tier.t0 ∧ (s.evict a (a.range first pages) x none (some h) none).2 = 0 ∧ (∃ m ∈ (s.evict a (a.range first pages) x none (some h) none).1.tiers.migs ++ (s.evict a (a.range first pages) x none (some h) none).1.tiers.queue, m.host = some h))
    ∧ (∃ (s : State) (h : Hdr) (c : Fin 64) (a : Alloc) (first pages code : ℕ) (x : Tier), Arrives s h c ∧ s.paired = false ∧ s.alloc? a.id = some a ∧ (a.ctx = c ∨ s.grantOf c a ≠ (false, false)) ∧ a.freed = false ∧ first < a.pages ∧ first + pages ≤ a.pages ∧ wordTier code = some x ∧ x ≠ Tier.t0 ∧ 0 < (s.evict a (a.range first pages) x none (some h) none).2) := by
  refine ⟨⟨mapped0, uh, 3, 2, true, ?_⟩
    , ⟨mapped0, uh, 3, 65537, ?_⟩
    , ⟨mapped0, uh, 3, alloc0, ?_⟩
    , ⟨mapped0, uh, 3, alloc0, 63, 1, 4, .streamed, ?_⟩
    , ⟨mapped0, uh, 3, alloc0, 63, 1, 2, .t2, ?_⟩
    , ⟨mapped0, uh, 3, alloc0, 63, 1, 3, .t3, ?_⟩
    , ⟨kept0, uh, 3, alloc0, 63, 1, 3, .t3, ?_⟩⟩ <;> (repeat' apply And.intro) <;> first | decide +kernel | exact ⟨_, rfl, rfl⟩

/-- Each clause of SettingsCommands has a state and operands that meet its hypotheses. -/
theorem witness_SettingsCommands :
    (∃ (s : State) (h : Hdr) (c : Fin 64) (nqn : List ℕ) (ctx : Fin 64), Arrives s h c ∧ s.isRoot h = true ∧ s.paired = false ∧ nqn.length ≤ 256 ∧ (ctx ≠ 0 ∨ hostPath h = false))
    ∧ (∃ (s : State) (h : Hdr) (c : Fin 64), Arrives s h c ∧ s.isRoot h = true ∧ s.paired = false)
    ∧ (∃ (s : State) (h : Hdr) (c : Fin 64) (gib : ℕ), Arrives s h c ∧ s.isRoot h = true ∧ s.paired = false ∧ gib ≤ 16384 ∧ s.usedPages Tier.t3 ≤ gib * 16384 ∧ s.nsBlocks + 262144 * gib ≤ 917 * 2 ^ 28)
    ∧ (∃ (s : State) (h : Hdr) (c : Fin 64) (key : BitVec 512), Arrives s h c ∧ s.isRoot h = true ∧ s.paired = false ∧ s.overTls h = true ∧ BitVec.extractLsb' 0 256 key ≠ BitVec.extractLsb' 256 256 key)
    ∧ (∃ (s : State) (h : Hdr) (c : Fin 64) (domain transport : ℕ), Arrives s h c ∧ s.isRoot h = true ∧ s.paired = false ∧ domain ≤ 127 ∧ transport ≤ 2)
    ∧ (∃ (s : State) (h : Hdr) (c : Fin 64) (data : List Byte), Arrives s h c ∧ s.isRoot h = true ∧ s.paired = false ∧ data.length = 256) := by
  refine ⟨⟨hosted, rh, 0, [7], 63, ?_⟩
    , ⟨hosted, rh, 0, ?_⟩
    , ⟨hosted, rh, 0, 16384, ?_⟩
    , ⟨hosted, rh, 0, 1, ?_⟩
    , ⟨hosted, rh, 0, 127, 2, ?_⟩
    , ⟨hosted, rh, 0, List.replicate 256 1, ?_⟩⟩ <;> (repeat' apply And.intro) <;> first | decide +kernel | exact ⟨_, rfl, rfl⟩

/-- Each clause of RootOnly has a state and operands that meet its hypotheses. -/
theorem witness_RootOnly :
    (∃ (s : State) (h : Hdr) (k : Ctrl), OnHost s h k ∧ Arrives s h k.ctx ∧ (k.ctx ≠ 0 ∨ k.auth = false))
    ∧ (∃ (s : State) (h : Hdr) (k : Ctrl), OnHost s h k ∧ Arrives s h k.ctx ∧ k.tls = false) := by
  refine ⟨⟨hosted, uh, userCtrl, ?_⟩
    , ⟨hosted, uh, userCtrl, ?_⟩⟩ <;> (repeat' apply And.intro) <;> first | decide +kernel | exact ⟨_, rfl, rfl⟩

/-- Each clause of PartitionAndInjection has a state and operands that meet its hypotheses. -/
theorem witness_PartitionAndInjection :
    (∃ (s : State) (h : Hdr) (k : Ctrl) (ctx : Fin 64) (entry : BitVec 4096), OnHost s h k ∧ Arrives s h k.ctx ∧ s.isRoot h = true ∧ ctx ≠ 0 ∧ reservedSet entry.toNat = false ∧ s.part.next = none)
    ∧ (∃ (s : State) (h : Hdr) (k : Ctrl) (ctx : Fin 64) (entry : BitVec 4096), OnHost s h k ∧ Arrives s h k.ctx ∧ s.isRoot h = true ∧ (ctx = 0 ∨ reservedSet entry.toNat = true))
    ∧ (∃ (s : State) (h : Hdr) (k : Ctrl) (src : Fin 256) (count : ℕ), OnHost s h k ∧ Arrives s h k.ctx ∧ s.isRoot h = true ∧ 0 < count ∧ count ≤ 255 ∧ sourceUnit (↑src : ℕ) = none) := by
  refine ⟨⟨hosted, rh, rootCtrl, 63, 5, ?_⟩
    , ⟨hosted, rh, rootCtrl, 0, 5, ?_⟩
    , ⟨hosted, rh, rootCtrl, 255, 255, ?_⟩⟩ <;> (repeat' apply And.intro) <;> first | decide +kernel | exact ⟨_, rfl, rfl⟩

/-- Each clause of FirmwareCommands has a state and operands that meet its hypotheses. -/
theorem witness_FirmwareCommands :
    (∃ (s : State) (h : Hdr) (c : Fin 64) (off len : ℕ), Arrives s h c ∧ s.isRoot h = true ∧ 0 < len ∧ len % 4 = 0 ∧ off % 4 = 0 ∧ len ≤ 8388608)
    ∧ (∃ (s : State) (h : Hdr) (c : Fin 64) (img : FwImage), Arrives s h c ∧ s.isRoot h = true ∧ s.fw.inTrial = false ∧ s.fw.running = false ∧ s.fw.download = some img ∧ img.signed = true ∧ s.otherMajor img = false)
    ∧ (∃ (s : State) (h : Hdr) (c : Fin 64), Arrives s h c ∧ s.isRoot h = true ∧ s.fw.inTrial = true) := by
  refine ⟨⟨served, rh, 0, 4, 8388608, ?_⟩
    , ⟨(withFw fun f => {f with download := some fw1, downloadLen := 4}), rh, 0, fw1, ?_⟩
    , ⟨withFw fun f => {f with inTrial := true}, rh, 0, ?_⟩⟩ <;> (repeat' apply And.intro) <;> first | decide +kernel | exact ⟨_, rfl, rfl⟩

/-- Each clause of RegisterReads has a state and operands that meet its hypotheses. -/
theorem witness_RegisterReads :
    (∃ (s : State) (h : Hdr) (c : Fin 64) (r : RegSel) (v : W64), Arrives s h c ∧ s.readReg h c r = Except.ok v)
    ∧ (∃ (s : State) (h : Hdr) (k : Ctrl), OnHost s h k ∧ Arrives s h k.ctx ∧ s.isRoot h = false) := by
  refine ⟨⟨served, uh, 3, {block := 0x0E, index := 0, qual := 0, addr := 0}, served.pwrCap, ?_⟩
    , ⟨served, uh, userCtrl, ?_⟩⟩ <;> (repeat' apply And.intro) <;> first | decide +kernel | exact ⟨_, rfl, rfl⟩

/-- Each clause of RegisterWrites has a state and operands that meet its hypotheses. -/
theorem witness_RegisterWrites :
    (∃ (s : State) (h : Hdr) (r : RegSel) (x : W64), Arrives s h 0 ∧ s.isRoot h = true ∧ s.readReg h 0 r = Except.ok x)
    ∧ (∃ (s : State) (h : Hdr) (v : W64), Arrives s h 0 ∧ s.isRoot h = true ∧ 50 ≤ BitVec.toNat v % 1024 ∧ BitVec.toNat v % 1024 ≤ 1000)
    ∧ (∃ (s : State) (h : Hdr) (v : W64), Arrives s h 0 ∧ s.isRoot h = true ∧ (BitVec.toNat v % 1024 < 50 ∨ 1000 < BitVec.toNat v % 1024))
    ∧ (∃ (s : State) (h : Hdr) (v : W64), Arrives s h 0 ∧ s.isRoot h = true ∧ 1500 ≤ BitVec.toNat v % 8192 ∧ BitVec.toNat v % 8192 ≤ 4000)
    ∧ (∃ (s : State) (h : Hdr) (v : W64), Arrives s h 0 ∧ s.isRoot h = true ∧ (BitVec.toNat v % 8192 < 1500 ∨ 4000 < BitVec.toNat v % 8192))
    ∧ (∃ (s : State) (h : Hdr) (qual : W32) (e : Exec), Arrives s h 0 ∧ s.isRoot h = true ∧ s.qualExec h qual = some e)
    ∧ (∃ (s : State) (h : Hdr) (v : W64), Arrives s h 0 ∧ s.isRoot h = true ∧ BitVec.getLsbD v 10 = true)
    ∧ (∃ (s : State) (h : Hdr) (v : W64), Arrives s h 0 ∧ s.isRoot h = true ∧ BitVec.getLsbD v 10 = false)
    ∧ (∃ (s : State) (h : Hdr), Arrives s h 0 ∧ s.isRoot h = true) := by
  refine ⟨⟨served, rh, {block := 0x0E, index := 0, qual := 0, addr := 0}, served.pwrCap, ?_⟩
    , ⟨served, rh, 1000, ?_⟩
    , ⟨served, rh, 1001, ?_⟩
    , ⟨served, rh, 1500, ?_⟩
    , ⟨served, rh, 4001, ?_⟩
    , ⟨{served with sched := {served.sched with execs := [{e0 with hdr := {rh with cid := 40}}]}}, rh, 40, {e0 with hdr := {rh with cid := 40}}, ?_⟩
    , ⟨served, rh, 1024, ?_⟩
    , ⟨served, rh, 1023, ?_⟩
    , ⟨served, rh, ?_⟩⟩ <;> (repeat' apply And.intro) <;> first | decide +kernel | exact ⟨_, rfl, rfl⟩

/-- Each clause of PortClock has a state and operands that meet its hypotheses. -/
theorem witness_PortClock :
    (∃ (s : State) (port : Fin 4), s.serving = true ∧ s.portUp port = true ∧ s.ptp.locked = false)
    ∧ (∃ (s : State) (d : ℕ), d ≠ s.ptp.domain) := by
  refine ⟨⟨hosted, 3, ?_⟩
    , ⟨hosted, 1, ?_⟩⟩ <;> (repeat' apply And.intro) <;> decide +kernel

/-- Each clause of FlashWork has a state and operands that meet its hypotheses. -/
theorem witness_FlashWork :
    (∃ (s : State) (id sb st key q : ℕ) (d : Dirty), (List.find? (fun o => decide (o.id = id)) s.flash.ops = some (DieOp.program id sb st [(key, none)] [q] (s.bridgeEpoch sb))) ∧ d ∈ s.flash.dirty ∧ d.key = key ∧ d.seq = q ∧ (∀ x ∈ s.flash.dirty, x.seq = q → x = d))
    ∧ (∃ (s : State) (id sb st : ℕ) (en : List (ℕ × Option Loc)) (sq : List ℕ) (u : BitVec 16), (List.find? (fun o => decide (o.id = id)) s.flash.ops = some (DieOp.program id sb st en sq u)) ∧ u ≠ s.bridgeEpoch sb)
    ∧ (∃ (s : State) (id sb : ℕ) (ch : Fin 32) (j : ℕ) (u : BitVec 16), (List.find? (fun o => decide (o.id = id)) s.flash.ops = some (DieOp.erase id sb ch j u)) ∧ u ≠ s.bridgeEpoch sb)
    ∧ (∃ (s : State) (id sb : ℕ) (ch : Fin 32) (j : ℕ), (List.find? (fun o => decide (o.id = id)) s.flash.ops = some (DieOp.erase id sb ch j (s.bridgeEpoch sb))) ∧ (s.sb sb).erased ||| BitVec.twoPow 32 (↑ch : ℕ) = BitVec.allOnes 32 ∧ (s.sb sb).state = SbState.erasing false)
    ∧ (∃ (s : State) (sb : ℕ) (ch : Fin 32) (e96 : Bool), sb < Config.superblocks ∧ (s.sb sb).state = SbState.free ∧ s.erasingIn sb = false ∧ s.halfErased sb ch e96 = true)
    ∧ (∃ (s : State) (sb : ℕ) (ch : Fin 32) (e96 : Bool), s.halfErased sb ch e96 = false)
    ∧ (∃ (s : State) (g : Fin 128) (n : ℕ), s.mayStart (↑g : ℕ) = true ∧ s.flash.pslcOrder.head? = some n ∧ (s.sb n).state = SbState.pslc ∧ s.validIn n = [])
    ∧ (∃ (s : State) (g : Fin 128), s.mayStart (↑g : ℕ) = false)
    ∧ (∃ (s : State), (∀ x ∈ s.flash.sbs, x.2.refresh = false ∧ ∀ (p : Bool), x.2.state ≠ SbState.erasing p) ∧ 2048 ≤ s.freeSbs)
    ∧ (∃ (s : State) (n : ℕ), (∀ x ∈ s.flash.sbs, x.2.refresh = false ∧ ∀ (p : Bool), x.2.state ≠ SbState.erasing p) ∧ s.freeSbs < 2048 ∧ s.gcVictim = some n ∧ s.validIn n = [])
    ∧ (∃ (s : State) (sb stripe : ℕ), (s.sb sb).state = SbState.closed ∧ stripe < (s.sb sb).nextStripe ∧ s.busyIn (groupOfSb sb) = 0 ∧ groupOfSb sb ∉ s.readGroups)
    ∧ (∃ (s : State) (sb : ℕ) (ch : Fin 32), (s.sb sb).state = SbState.closed ∧ 100000 ≤ (assocGet (↑ch : ℕ) (s.sb sb).reads).getD 0) := by
  refine ⟨⟨programming0, 1, 5, 6, blkKey 1 4, 9, dirty0, ?_⟩
    , ⟨reset0 programming0, 1, 5, 6, [(blkKey 1 4, none)], [9], 0, ?_⟩
    , ⟨reset0 erasing0, 1, 5, 31, 3, 0, ?_⟩
    , ⟨erasing0, 1, 5, 31, 3, ?_⟩
    , ⟨up, Config.superblocks - 1, 31, true, ?_⟩
    , ⟨up, 0, 0, false, ?_⟩
    , ⟨fold0, 0, 5, ?_⟩
    , ⟨{up with flash := {up.flash with retired := [0]}}, 0, ?_⟩
    , ⟨gc0, ?_⟩
    , ⟨gc1, 5, ?_⟩
    , ⟨gc0, 5, 8191, ?_⟩
    , ⟨(withSb up 5 { state := .closed, nextStripe := 8192, reads := [(31, 100000)] }), 5, 31, ?_⟩⟩ <;> (repeat' apply And.intro) <;> decide +kernel

/-- Each clause of FlashTrouble has a state and operands that meet its hypotheses. -/
theorem witness_FlashTrouble :
    (∃ (s : State) (d : Die) (h : Hdr) (o : OutCmd) (nsid lba nlb : ℕ) (left : List ℕ) (send : Bool) (l : ℕ) (f : ReadFacts) (loc : Loc), (List.find? (fun x => x.hdr == h) s.host.cmds = some o) ∧ o.body = Body.read nsid lba nlb left send ∧ left = [l] ∧ assocGet (blkKey nsid l) s.flash.map = some loc ∧ groupOfSb loc.sb = 8 * (↑d.bridge : ℕ) + (↑d.pos : ℕ) ∧ s.ladder d f = ReadEnd.clean)
    ∧ (∃ (s : State) (d : Die) (h : Hdr) (o : OutCmd) (nsid lba nlb : ℕ) (left : List ℕ) (send : Bool) (l : ℕ) (f : ReadFacts) (loc : Loc), (List.find? (fun x => x.hdr == h) s.host.cmds = some o) ∧ o.body = Body.read nsid lba nlb left send ∧ l ∈ left ∧ assocGet (blkKey nsid l) s.flash.map = some loc ∧ groupOfSb loc.sb = 8 * (↑d.bridge : ℕ) + (↑d.pos : ℕ) ∧ Calm s ∧ f.guardOk = false ∧ s.live h = true ∧ h ∉ s.host.miDrop)
    ∧ (∃ (s : State) (nsid lba : ℕ), s.paired = true ∧ (assocGet (blkKey nsid lba) s.flash.map).isSome = true)
    ∧ (∃ (s : State) (d : Die), Calm s ∧ 8 * (↑d.bridge : ℕ) + (↑d.pos : ℕ) ∉ s.flash.retired ∧ (∀ x ∈ s.flash.failed, x.1 ≠ 8 * (↑d.bridge : ℕ) + (↑d.pos : ℕ)))
    ∧ (∃ (s : State) (g : Fin 128), s.relocating (↑g : ℕ) = true ∧ (∀ m ∈ s.flash.map, groupOfSb m.2.sb ≠ (↑g : ℕ)))
    ∧ (∃ (s : State), s.life.in48Ok = true)
    ∧ (∃ (s : State), s.life.in48Ok = false)
    ∧ (∃ (s : State) (b : Fin 16), Calm s ∧ s.life.phase ≠ LifePhase.flushing ∧ s.flash.bridges[b].resetting = false)
    ∧ (∃ (s : State) (b : Fin 16), s.flash.bridges[b].resetting = true) := by
  refine ⟨⟨reading0, die0, uh, {hdr := uh, body := .read 1 4 1 [4] true, wait := .flash}, 1, 4, 1, [4], true, 4, goodRead, {sb := 5, stripe := 0, slot := 12}, ?_⟩
    , ⟨reading0, die0, uh, {hdr := uh, body := .read 1 4 1 [4] true, wait := .flash}, 1, 4, 1, [4], true, 4, {goodRead with guardOk := false}, {sb := 5, stripe := 0, slot := 12}, ?_⟩
    , ⟨{pair0 with flash := reading0.flash}, 1, 4, ?_⟩
    , ⟨up, die1, ?_⟩
    , ⟨{up with flash := {up.flash with failed := [(127, die1)], ops := [.erase 1 (127*2048) 3 0 0]}}, 127, ?_⟩
    , ⟨up, ?_⟩
    , ⟨{up with life := {up.life with in48Ok := false}}, ?_⟩
    , ⟨up, 15, ?_⟩
    , ⟨{up with flash := {up.flash with bridges := vset up.flash.bridges 15 {resetting := true, up := true}}, units := {resetting := [.bridge 15]}}, 15, ?_⟩⟩ <;> (repeat' apply And.intro) <;> decide +kernel

/-- Each clause of LifeCycle has a state and operands that meet its hypotheses. -/
theorem witness_LifeCycle :
    (∃ (s : State), s.life.phase = LifePhase.inService ∧ s.life.auxOk = true)
    ∧ (∃ (s : State), s.life.phase = LifePhase.standby ∧ s.life.auxOk = true)
    ∧ (∃ (s : State), s.life.phase = LifePhase.powerLost ∧ s.life.dom.ao = true ∧ s.life.aoReady = true ∧ s.life.pwrEn = true ∧ s.life.held = false)
    ∧ (∃ (s : State), s.life.phase = LifePhase.firmwareUp)
    ∧ (∃ (s : State), s.life.phase ≠ LifePhase.firmwareUp)
    ∧ (∃ (s : State), s.life.phase = LifePhase.off ∧ s.life.dom.ao = false ∧ s.life.in48Ok = false)
    ∧ (∃ (s : State), s.life.dom.ao = true ∧ s.life.in48Ok = true)
    ∧ (∃ (s : State), s.life.dom.ao = true ∧ s.life.in48Ok = false)
    ∧ (∃ (s : State) (b a bb : Bool), s.life.phase = LifePhase.startReady ∧ s.mayStart574 = true ∧ s.bootChoice a bb = some b)
    ∧ (∃ (s : State) (a bb : Bool), s.life.phase = LifePhase.startReady ∧ s.mayStart574 = true ∧ s.bootChoice a bb = none)
    ∧ (∃ (s : State), s.life.phase = LifePhase.startReady ∧ s.life.bootAt + 30000000000 ≤ s.now)
    ∧ (∃ (s : State), s.now < s.life.bootAt + 30000000000)
    ∧ (∃ (s : State), s.life.phase = LifePhase.inService ∧ s.phys.i3cReleased = false)
    ∧ (∃ (s : State), s.phys.i3cReleased = true)
    ∧ (∃ (s : State), s.life.phase = LifePhase.cleanShutdown ∧ s.sched.execs = [] ∧ s.handsOver = false ∧ s.life.fallAfter = true ∧ s.mayStart574 = true)
    ∧ (∃ (s : State), s.life.phase = LifePhase.cleanShutdown ∧ s.sched.execs = [] ∧ s.handsOver = false ∧ s.life.fallAfter = false ∧ s.life.pwrEn = false)
    ∧ (∃ (s : State), s.life.phase = LifePhase.cleanShutdown ∧ s.now < s.life.shutAt + 1000000000 ∧ s.sched.execs ≠ [])
    ∧ (∃ (s : State), s.life.phase = LifePhase.standby ∧ s.life.pwrEn = false ∧ s.life.dom.ao = true ∧ s.life.aoReady = true ∧ s.life.in48Ok = true ∧ s.life.held = false)
    ∧ (∃ (s : State), s.life.phase = LifePhase.majorOut ∧ s.life.responseEnd + 5000000000 ≤ s.now ∧ s.life.selfResets.length < 3 ∧ s.mayStart574 = true)
    ∧ (∃ (s : State), s.life.phase = LifePhase.majorOut ∧ s.life.responseEnd + 5000000000 ≤ s.now ∧ 3 ≤ s.life.selfResets.length ∧ (∀ x ∈ s.life.selfResets, s.now < x + 3600000000000))
    ∧ (∃ (s : State) (b : Bool), s.fw.trial = some b ∧ s.fw.inTrial = true ∧ s.fw.running = b ∧ 0 < s.trialNs ∧ s.healthy = true)
    ∧ (∃ (s : State), s.fw.inTrial = true ∧ s.life.phase = LifePhase.inService ∧ s.trialNs = 0 ∧ s.sched.execs ≠ [])
    ∧ (∃ (s : State), s.fw.inTrial = true ∧ s.life.phase = LifePhase.inService ∧ s.trialNs = 0 ∧ s.sched.execs = [] ∧ s.paired = false ∧ s.mayStart574 = true) := by
  refine ⟨⟨up, ?_⟩
    , ⟨standby0 true, ?_⟩
    , ⟨{lost48 (standby0 true) with life := {(lost48 (standby0 true)).life with phase := .powerLost}}, ?_⟩
    , ⟨inPhase .firmwareUp 0, ?_⟩
    , ⟨up, ?_⟩
    , ⟨{life := {phase := .off, dom := {ao := false}, in48Ok := false}}, ?_⟩
    , ⟨up, ?_⟩
    , ⟨(lost48 (standby0 true)), ?_⟩
    , ⟨State.reset, false, true, false, ?_⟩
    , ⟨State.reset, false, false, ?_⟩
    , ⟨boot0, ?_⟩
    , ⟨State.reset, ?_⟩
    , ⟨up, ?_⟩
    , ⟨{up with phys := {up.phys with i3cReleased := true}}, ?_⟩
    , ⟨{closing0 with life := {closing0.life with fallAfter := true, pwrEn := true}}, ?_⟩
    , ⟨closing0, ?_⟩
    , ⟨closing1, ?_⟩
    , ⟨standby0 false, ?_⟩
    , ⟨(major0 [1, 2]), ?_⟩
    , ⟨(major0 [1, 2, 3]), ?_⟩
    , ⟨trial0 1, true, ?_⟩
    , ⟨withExec (trial0 0) drained0, ?_⟩
    , ⟨trial0 0, ?_⟩⟩ <;> (repeat' apply And.intro) <;> decide +kernel

/-- Each clause of PairControl has a state and operands that meet its hypotheses. -/
theorem witness_PairControl :
    (∃ (s : State) (h : Hdr) (k : Ctrl) (serial : List ℕ), OnHost s h k ∧ Arrives s h k.ctx ∧ s.isRoot h = true ∧ h ∉ s.host.miDrop ∧ serial.length = 32 ∧ s.twin.st = PairSt.unpaired)
    ∧ (∃ (s : State) (h : Hdr) (k : Ctrl), OnHost s h k ∧ Arrives s h k.ctx ∧ s.isRoot h = true ∧ h ∉ s.host.miDrop ∧ s.twin.st ≠ PairSt.unpaired)
    ∧ (∃ (s : State) (h : Hdr) (k : Ctrl) (t0 : ℕ), OnHost s h k ∧ Arrives s h k.ctx ∧ s.isRoot h = true ∧ h ∉ s.host.miDrop ∧ s.twin.st = PairSt.training ∧ s.twin.pairAt = some t0 ∧ t0 + 60000000000 ≤ s.now)
    ∧ (∃ (s : State) (h : Hdr) (k : Ctrl), OnHost s h k ∧ Arrives s h k.ctx ∧ s.isRoot h = true ∧ h ∉ s.host.miDrop ∧ s.twin.st = PairSt.training ∧ s.linkIsUp = true ∧ s.host.nss = [] ∧ s.twin.adopted = none)
    ∧ (∃ (s : State) (h : Hdr) (k : Ctrl), OnHost s h k ∧ Arrives s h k.ctx ∧ s.isRoot h = true ∧ h ∉ s.host.miDrop ∧ s.twin.st = PairSt.paired)
    ∧ (∃ (s : State) (h : Hdr) (k : Ctrl), OnHost s h k ∧ Arrives s h k.ctx ∧ s.isRoot h = true ∧ h ∉ s.host.miDrop ∧ (s.twin.st = PairSt.soloSplit ∨ s.twin.st = PairSt.soloSurvivor) ∧ s.linkIsUp = true)
    ∧ (∃ (s : State) (h : Hdr) (k : Ctrl), OnHost s h k ∧ Arrives s h k.ctx ∧ s.isRoot h = true ∧ h ∉ s.host.miDrop ∧ s.twin.st = PairSt.paired ∧ (∀ g ∈ s.ours, (s.group g).homeHere = true))
    ∧ (∃ (s : State) (h : Hdr) (k : Ctrl) (g0 : ℕ), OnHost s h k ∧ Arrives s h k.ctx ∧ s.isRoot h = true ∧ h ∉ s.host.miDrop ∧ s.twin.st = PairSt.paired ∧ g0 ∈ s.ours ∧ (s.group g0).homeHere = false)
    ∧ (∃ (s : State) (h : Hdr) (k : Ctrl) (cdw11 : W32), OnHost s h k ∧ Arrives s h k.ctx ∧ s.isRoot h = true ∧ h ∉ s.host.miDrop ∧ s.twin.st = PairSt.paired ∧ bitsOf (BitVec.toNat cdw11) 5 0 ∈ s.ours ∧ (s.group (bitsOf (BitVec.toNat cdw11) 5 0)).synced = true)
    ∧ (∃ (s : State) (h : Hdr) (k : Ctrl) (n : ℕ), OnHost s h k ∧ Arrives s h k.ctx ∧ s.isRoot h = true ∧ h ∉ s.host.miDrop ∧ n ≤ 1920) := by
  refine ⟨⟨served, rh, rootCtrl, List.replicate 32 50, ?_⟩
    , ⟨pair0, rh, rootCtrl, ?_⟩
    , ⟨train0, rh, rootCtrl, 0, ?_⟩
    , ⟨train0, rh, rootCtrl, ?_⟩
    , ⟨pair0, rh, rootCtrl, ?_⟩
    , ⟨solo0, rh, rootCtrl, ?_⟩
    , ⟨pair0, rh, rootCtrl, ?_⟩
    , ⟨{pair0 with twin := {pair0.twin with groups := vset pairedGroups 63 {role := .declarer, synced := true}}}, rh, rootCtrl, 64, ?_⟩
    , ⟨pair0, rh, rootCtrl, 1, ?_⟩
    , ⟨served, rh, rootCtrl, 1920, ?_⟩⟩ <;> (repeat' apply And.intro) <;> first | decide +kernel | exact ⟨_, rfl, rfl⟩

/-- Each clause of TwinLink has a state and operands that meet its hypotheses. -/
theorem witness_TwinLink :
    (∃ (s : State) (cage : Fin 4) (p : TrainPat), s.life.dom.tl = true ∧ s.phys.twin[cage].supplyOff = false ∧ p.serial ≠ s.ident.serial ∧ s.twin.peerSerial = p.serial)
    ∧ (∃ (s : State) (cage : Fin 4) (p : TrainPat), s.life.dom.tl = true ∧ s.phys.twin[cage].supplyOff = false ∧ p.serial = s.ident.serial)
    ∧ (∃ (s : State) (cage : Fin 4) (lane : Fin 8), s.twin.cages[cage].lanes.getLsbD (↑lane : ℕ) = true ∧ s.twin.cages[cage].held = false ∧ 4 ≤ popcount 8 (s.twin.cages[cage].lanes &&& ~~~BitVec.twoPow 8 (↑lane : ℕ)).toNat)
    ∧ (∃ (s : State), s.life.dom.tl = true ∧ s.life.dom.cc = true)
    ∧ (∃ (s : State) (cage : Fin 4), s.twin.cages[cage].isUp = true ∧ s.twin.cages[cage].consec < 3)
    ∧ (∃ (s : State) (cage : Fin 4), s.twin.cages[cage].isUp = true ∧ s.twin.cages[cage].consec = 3 ∧ s.now ≤ s.twin.cages[cage].lastMiss + 3000)
    ∧ (∃ (s : State), s.life.dom.cc = true ∧ s.life.dom.hn = true)
    ∧ (∃ (s : State) (t0 : ℕ), s.twin.checkAt = some t0 ∧ t0 + 20000 ≤ s.now ∧ s.linkIsUp = false ∧ s.paired = true)
    ∧ (∃ (s : State) (t0 : ℕ), s.twin.checkAt = some t0 ∧ s.now < t0 + 20000 ∧ s.linkIsUp = false)
    ∧ (∃ (s : State), s.paired = true)
    ∧ (∃ (s : State) (gs : List ℕ), s.linkIsUp = true ∧ (s.twin.st = PairSt.soloSplit ∨ s.twin.st = PairSt.soloSurvivor) ∧ (∀ g ∈ gs, (s.group g).role ≠ Role.declarer))
    ∧ (∃ (s : State) (gs : List ℕ) (g0 : ℕ), s.linkIsUp = true ∧ (s.twin.st = PairSt.soloSplit ∨ s.twin.st = PairSt.soloSurvivor) ∧ g0 ∈ gs ∧ (s.group g0).role = Role.declarer) := by
  refine ⟨⟨cabled0, 3, pat [9], ?_⟩
    , ⟨cabled0, 3, (pat (List.replicate 32 48)), ?_⟩
    , ⟨cabled1, 3, 4, ?_⟩
    , ⟨cabled0, ?_⟩
    , ⟨cabled0, 3, ?_⟩
    , ⟨cabled1, 3, ?_⟩
    , ⟨up, ?_⟩
    , ⟨lost0 99999980000, 99999980000, ?_⟩
    , ⟨lost0 99999980001, 99999980001, ?_⟩
    , ⟨pair0, ?_⟩
    , ⟨solo0, [64], ?_⟩
    , ⟨solo0, [64, 1], 1, ?_⟩⟩ <;> (repeat' apply And.intro) <;> decide +kernel

/-- Each clause of TwinMirror has a state and operands that meet its hypotheses. -/
theorem witness_TwinMirror :
    (∃ (s : State) (w : MirWrite), s.twin.st = PairSt.paired ∧ w.op = MirOp.write ∧ w.group ≠ 0 ∧ w.seq < 2 ^ 64 ∧ (s.group w.group).role = Role.dummy ∧ (s.group w.group).synced = true ∧ w.seq = (s.group w.group).seq + 1 ∧ s.twin.waiting = [])
    ∧ (∃ (s : State) (w : MirWrite), s.twin.st = PairSt.paired ∧ w.group ≠ 0 ∧ w.seq < 2 ^ 64 ∧ (s.group w.group).role = Role.dummy ∧ (s.group w.group).synced = true ∧ w.seq ≤ (s.group w.group).seq)
    ∧ (∃ (s : State) (g q : ℕ) (u : Unacked), (List.find? (fun u => u.group == g && u.seq == q) s.twin.unacked = some u) ∧ q < 2 ^ 65 ∧ u.rel = none ∧ s.flash.wthru = false)
    ∧ (∃ (s : State) (exec : ℕ), s.paired = true ∧ s.staging? exec = none)
    ∧ (∃ (s : State) (g : Staging) (key : ℕ) (data : List Byte), s.paired = true ∧ s.staging? g.exec = some g ∧ g.applied = false ∧ g.pages = [(key, data)] ∧ Memory.wf s.tiers.mem = true)
    ∧ (∃ (s : State) (e : Exec), s.ex? e.id = some e ∧ e.phase = ExecPhase.draining ∧ e.finishSent = true)
    ∧ (∃ (s : State), s.paired = true ∧ s.twin.dirty = true ∧ s.twin.epFlight = none)
    ∧ (∃ (s : State) (n : ℕ), s.paired = true ∧ n ≤ s.twin.epSent)
    ∧ (∃ (e : EpochImage), (e.whole = false ∨ e.verified = false))
    ∧ (∃ (s : State) (e : EpochImage), e.whole = true ∧ e.verified = true ∧ s.paired = true ∧ s.twin.adopted = none)
    ∧ (∃ (s : State) (w : MirWrite), s.twin.st = PairSt.resilvering ∧ w.op = MirOp.write ∧ w.blocks = [] ∧ (s.group w.group).role = Role.dummy)
    ∧ (∃ (s : State) (w : MirWrite) (b : PBlk), s.twin.st = PairSt.resilvering ∧ w.op = MirOp.write ∧ w.blocks = [b] ∧ (s.group w.group).role = Role.dummy ∧ s.newer w w.lba = false) := by
  refine ⟨⟨pair0, (mw 5 [blk0, {blk0 with data := 8}]), ?_⟩
    , ⟨pair0, mw 4 [blk0], ?_⟩
    , ⟨unacked0, 1, 3, {group := 1, seq := 3, bytes := 4096, hdr := some uh, exec := none}, ?_⟩
    , ⟨pair0, 78, ?_⟩
    , ⟨staged0, area0, 9, [1, 2], ?_⟩
    , ⟨withExec pair0 drained0, drained0, ?_⟩
    , ⟨dirty1, ?_⟩
    , ⟨handed0, 4, ?_⟩
    , ⟨{epoch0 with verified := false}, ?_⟩
    , ⟨pair0, epoch0, ?_⟩
    , ⟨resilvering0, mw 5 [], ?_⟩
    , ⟨resilvering0, mw 5 [blk0], blk0, ?_⟩⟩ <;> (repeat' apply And.intro) <;> decide +kernel

/-- Each clause of TwinVerify has a state and operands that meet its hypotheses. -/
theorem witness_TwinVerify :
    (∃ (s : State) (x prog ctx : ℕ) (params : List Byte) (dl : W64) (i : Image) (t : State), s.paired = true ∧ ctx < 64 ∧ s.ex? (twinId x) = none ∧ s.nsReady = true ∧ s.image? prog = some i ∧ i.verified = true ∧ i.active = true ∧ s.takeIn i (s.newExec { path := Path.ctrl 0, sq := 0, cid := x } (Fin.ofNat 64 ctx) i (twinId x) params (BitVec.toNat dl) true true) params = Except.ok t)
    ∧ (∃ (s : State) (x prog ctx : ℕ), s.paired = true ∧ ctx < 64 ∧ s.ex? (twinId x) = none ∧ s.nsReady = true ∧ s.image? prog = none)
    ∧ (∃ (s : State) (e : Exec), s.ex? e.id = some e ∧ e.twin = true ∧ e.copy = false)
    ∧ (∃ (s : State) (e : Exec) (x : ℕ), s.ex? (twinId x) = some e ∧ e.twin = true ∧ e.phase = ExecPhase.running)
    ∧ (∃ (s : State) (e : Exec) (x step : ℕ), s.ex? (twinId x) = some e ∧ e.twin = true ∧ e.step < step)
    ∧ (∃ (s : State) (e : Exec) (x : ℕ), s.ex? (twinId x) = some e ∧ (∀ y ∈ s.sched.execs, y.id = e.id → y = e) ∧ e.twin = true ∧ e.phase = ExecPhase.running ∧ e.gang = none) := by
  refine ⟨⟨start1, 5, 6, 3, params0, 0, image1, copied0, ?_⟩
    , ⟨pair0, 5, 1, 63, ?_⟩
    , ⟨withExec pair0 twin1, twin1, ?_⟩
    , ⟨withExec pair0 twin0, twin0, 5, ?_⟩
    , ⟨withExec pair0 twin0, twin0, 5, 9, ?_⟩
    , ⟨withExec pair0 twin0, twin0, 5, ?_⟩⟩ <;> (repeat' apply And.intro) <;> first | decide +kernel | exact start1_takes

/-- Each clause of FaultEvents has a state and operands that meet its hypotheses. -/
theorem witness_FaultEvents :
    (∃ (s : State) (r : Report) (c : FClass), s.life.dom.ao = true ∧ s.life.phase ≠ LifePhase.off ∧ faultClass r.src r.event = some c ∧ r.inj = false)
    ∧ (∃ (r : Report), faultClass r.src r.event = none ∧ r.inj = false)
    ∧ (∃ (s : State) (a : ActiveFault), s.flt.active = some a ∧ a.cls = FClass.minor ∧ s.flt.latched = [])
    ∧ (∃ (s : State), s.flt.active = none ∧ s.flt.latched = [])
    ∧ (∃ (s : State) (a : ActiveFault), s.flt.active = some a ∧ (a.cls = FClass.major ∨ a.cls = FClass.trump))
    ∧ (∃ (s : State) (f : ActiveFault), (∀ a, s.flt.active = some a → a.cls = FClass.minor ∨ a.cls = FClass.note) ∧ s.flt.latched = [f] ∧ f.cls = FClass.minor ∧ f.rep.src.val ≤ 0x0F ∧ f.merged = [] ∧ s.stormy f.rep.src = false)
    ∧ (∃ (s : State) (f g : ActiveFault), (∀ a, s.flt.active = some a → a.cls = FClass.minor ∨ a.cls = FClass.note) ∧ s.flt.latched = [f, g] ∧ f.rep.src ≠ g.rep.src ∧ grav f.cls < grav g.cls)
    ∧ (∃ (s : State) (f g : ActiveFault), (∀ a, s.flt.active = some a → a.cls = FClass.minor ∨ a.cls = FClass.note) ∧ s.flt.latched = [f, g] ∧ f.rep.src ≠ g.rep.src ∧ (f.cls = g.cls ∧ g.rep.src.val < f.rep.src.val))
    ∧ (∃ (s : State) (r : ℕ), s.life.dom.on (.b (Fin.ofNat 16 (r / 5))) = true)
    ∧ (∃ (s : State) (n : Fin 64) (word : ℕ), s.life.dom.cs = true ∧ s.bankFull (↑n : ℕ) word = false)
    ∧ (∃ (s : State), Calm s ∧ s.life.dom.t1 = true)
    ∧ (∃ (s : State), Calm s ∧ s.life.dom.t2 = true)
    ∧ (∃ (s : State) (p : Fin 64), s.life.dom.cs = true ∧ ResetUnit.pipe p ∉ s.units.resetting)
    ∧ (∃ (s : State) (p : Fin 64), ResetUnit.pipe p ∈ s.units.resetting)
    ∧ (∃ (s : State) (h : Hdr) (o : OutCmd), (List.find? (fun x => x.hdr == h && x.wait == WaitOn.data) s.host.cmds = some o) ∧ o.retried = false ∧ s.answersReset (.pipe 63) o.uep = true)
    ∧ (∃ (s : State) (u : ResetUnit) (n : ℕ), n % 65536 ≠ (s.unitEpoch (unitCode u)).toNat)
    ∧ (∃ (s : State) (u : ResetUnit) (n : ℕ), n % 65536 = (s.unitEpoch (unitCode u)).toNat)
    ∧ (∃ (s : State) (ti : ScrubTier), s.scrubOn ti = true)
    ∧ (∃ (s : State), s.serving = true)
    ∧ (∃ (s : State) (c : Fin 16), s.serving = true ∧ s.armed (Fin.ofNat 256 (16 + (↑c : ℕ))) = false) := by
  refine ⟨⟨up, rep 0 2, .note, ?_⟩
    , ⟨rep 255 1, ?_⟩
    , ⟨handling .minor, {rep := rep 0x40 2, cls := .minor, since := 0}, ?_⟩
    , ⟨up, ?_⟩
    , ⟨handling .major, {rep := rep 0x40 2, cls := .major, since := 0}, ?_⟩
    , ⟨latching [latched 0x0F .minor], latched 0x0F .minor, ?_⟩
    , ⟨latching [latched 0 .note, latched 0x0F .minor], latched 0 .note, latched 0x0F .minor, ?_⟩
    , ⟨latching [latched 0x0F .minor, latched 0x0E .minor], latched 0x0F .minor, latched 0x0E .minor, ?_⟩
    , ⟨up, 79, ?_⟩
    , ⟨up, 63, 1023, ?_⟩
    , ⟨up, ?_⟩
    , ⟨up, ?_⟩
    , ⟨up, 63, ?_⟩
    , ⟨resetting0, 63, ?_⟩
    , ⟨{asking0 with units := {resetting := [.pipe 63]}}, uh, asked0, ?_⟩
    , ⟨up, .comp 15, 65535, ?_⟩
    , ⟨up, .comp 15, 65536, ?_⟩
    , ⟨up, .t2, ?_⟩
    , ⟨up, ?_⟩
    , ⟨up, 15, ?_⟩⟩ <;> (repeat' apply And.intro) <;> decide +kernel

/-- Each clause of PowerLoops has a state and operands that meet its hypotheses. -/
theorem witness_PowerLoops :
    (∃ (s : State) (src : Fin 256), isMonitor src = true ∧ s.miUp = true)
    ∧ (∃ (s : State) (src : Fin 256), isMonitor src = true ∧ s.miUp = true ∧ src ≠ 223 ∧ s.flt.active = none)
    ∧ (∃ (s : State) (avg : ℕ), s.isPowered = true ∧ s.hwCap < avg ∧ s.pwr.keep16 = 16)
    ∧ (∃ (s : State) (avg : ℕ), avg ≤ s.hwCap)
    ∧ (∃ (s : State) (avg : ℕ), s.pwr.keep16 < 16 ∧ avg < s.pwr.capNext ∧ s.pwr.stretchAt + 100000 ≤ s.now)
    ∧ (∃ (s : State), s.serving = true)
    ∧ (∃ (s : State), s.life.dom.cc = true)
    ∧ (∃ (s : State), s.life.dom.cc = true ∧ s.pwr.watchdogAt + 50000000 ≤ s.now ∧ s.flt.active = none ∧ s.life.phase = LifePhase.inService ∧ s.fw.inTrial = false)
    ∧ (∃ (s : State), s.now < s.pwr.watchdogAt + 50000000)
    ∧ (∃ (s : State) (p : Fin 512), s.trace.run = true ∧ BitVec.getLsbD (s.trace.en.toList[(↑p : ℕ) / 64]?.getD 0) ((↑p : ℕ) % 64) = true)
    ∧ (∃ (s : State), s.trace.run = false) := by
  refine ⟨⟨up, 0xDF, ?_⟩
    , ⟨up, 0xDE, ?_⟩
    , ⟨up, 4201, ?_⟩
    , ⟨up, 4200, ?_⟩
    , ⟨stretched0, 3999, ?_⟩
    , ⟨up, ?_⟩
    , ⟨up, ?_⟩
    , ⟨up, ?_⟩
    , ⟨State.reset, ?_⟩
    , ⟨traced0, 511, ?_⟩
    , ⟨up, ?_⟩⟩ <;> (repeat' apply And.intro) <;> decide +kernel

/-- Each clause of ManagementCommands has a state and operands that meet its hypotheses. -/
theorem witness_ManagementCommands :
    (∃ (s : State) (h : Hdr), Manages s h)
    ∧ (∃ (s : State) (h : Hdr) (k : ℕ), Manages s h ∧ k ≠ 2)
    ∧ (∃ (s : State) (h : Hdr) (id : ℕ) (v : W32), Manages s h ∧ assocGet id s.host.miConfig = some v)
    ∧ (∃ (s : State) (h : Hdr) (nqn : List ℕ), Manages s h ∧ nqn.length ≤ 256)
    ∧ (∃ (s : State) (h : Hdr), Manages s h ∧ s.life.phase ≠ LifePhase.cleanShutdown ∧ s.mayStart574 = true)
    ∧ (∃ (s : State) (h : Hdr), Manages s h ∧ s.life.phase = LifePhase.inService)
    ∧ (∃ (s : State) (h : Hdr), Manages s h ∧ s.twin.st = PairSt.unpaired)
    ∧ (∃ (s : State) (h : Hdr), Manages s h ∧ s.twin.st ≠ PairSt.unpaired) := by
  refine ⟨⟨served, mh, ?_⟩
    , ⟨served, mh, 0, ?_⟩
    , ⟨{served with host := {served.host with miConfig := [(3, 4)]}}, mh, 3, 4, ?_⟩
    , ⟨served, mh, List.replicate 256 1, ?_⟩
    , ⟨served, mh, ?_⟩
    , ⟨served, mh, ?_⟩
    , ⟨served, mh, ?_⟩
    , ⟨pair0, mh, ?_⟩⟩ <;> (repeat' apply And.intro) <;> decide +kernel

/-- Each clause of PhysicalEvents has a state and operands that meet its hypotheses. -/
theorem witness_PhysicalEvents :
    (∃ (s : State), s.miUp = true)
    ∧ (∃ (s : State), s.miUp = true ∧ s.life.in48Ok = true ∧ s.phys.senseOpen = false)
    ∧ (∃ (s : State), s.miUp = true ∧ s.phys.senseOpen = false)
    ∧ (∃ (s : State) (tw : Bool) (cage : Fin 4), s.miUp = true ∧ s.isPowered = true ∧ (s.cageSt tw cage).present = true ∧ (s.cageSt tw cage).supplyOff = false)
    ∧ (∃ (s : State), s.miUp = true ∧ s.isPowered = true)
    ∧ (∃ (s : State), s.miUp = true ∧ s.pwr.reverse = true)
    ∧ (∃ (s : State) (o b : Bool), s.miUp = true ∧ s.thermBad o b = false)
    ∧ (∃ (s : State) (o b : Bool), s.miUp = true ∧ s.thermBad o b = true)
    ∧ (∃ (s : State), s.miUp = true ∧ s.life.in48Ok = true ∧ s.life.dom.ao = true)
    ∧ (∃ (s : State), s.miUp = true ∧ s.life.phase = LifePhase.standby ∧ s.life.auxOk = true ∧ s.life.dom.ao = true)
    ∧ (∃ (s : State) (tw : Bool) (cage : Fin 4), s.miUp = true ∧ (s.cageSt tw cage).present = true ∧ (s.cageSt tw cage).linkUp = false ∧ (s.cageSt tw cage).downAt + 10000000000 < s.now)
    ∧ (∃ (s : State) (a : ActiveFault), s.miUp = true ∧ s.flt.active = some a ∧ a.cls = FClass.minor ∧ a.since + 50000 ≤ s.now ∧ s.life.phase = LifePhase.inService ∧ s.fw.inTrial = false)
    ∧ (∃ (s : State) (a : ActiveFault), s.miUp = true ∧ s.flt.active = some a ∧ s.now < a.since + 50000)
    ∧ (∃ (s : State) (port : Fin 4), s.miUp = true ∧ s.life.dom.hn = true ∧ s.phys.host[port].present = true ∧ s.phys.host[port].refused = false ∧ s.phys.host[port].supplyOff = false ∧ ResetUnit.hostPort port ∉ s.units.resetting) := by
  refine ⟨⟨up, ?_⟩
    , ⟨up, ?_⟩
    , ⟨up, ?_⟩
    , ⟨plugged0, false, 3, ?_⟩
    , ⟨plugged0, ?_⟩
    , ⟨reversed0, ?_⟩
    , ⟨up, true, true, ?_⟩
    , ⟨therm1, true, true, ?_⟩
    , ⟨up, ?_⟩
    , ⟨standby0 true, ?_⟩
    , ⟨plugged0, true, 3, ?_⟩
    , ⟨handling .minor, {rep := rep 0x40 2, cls := .minor, since := 0}, ?_⟩
    , ⟨{handling .minor with now := 49999}, {rep := rep 0x40 2, cls := .minor, since := 0}, ?_⟩
    , ⟨plugged0, 3, ?_⟩⟩ <;> (repeat' apply And.intro) <;> decide +kernel

/-! ## What well-formedness refuses -/

/-- Arguments of an ENG instruction with nothing but a record. -/
def bare : EArgs := { ta := 0, tb := 0, tc := 0, rp := 0, rn := 0, ev := none, recOff := 0, imm32 := 0 }

/-- A predicate field without pen (R176). -/
theorem test_refuses_pred : Instr.wf (.nop 0 { pen := false, sense := true, flag := 0 }) = false ∧ Instr.wf (.fence 0 { pen := false, sense := false, flag := 1 }) = false := by decide
/-- s61 as a destination (R181). -/
theorem test_refuses_dst : Instr.wf (.add 0 p0 61 1 (.imm 1)) = false ∧ Instr.wf (.dget 0 p0 63 1 .base 0) = false := by decide
/-- A branch target off the instruction grid (R180). -/
theorem test_refuses_target : Instr.wf (.br 0 p0 8) = false := by decide
/-- A dimension where the selector takes none (R201). -/
theorem test_refuses_dim : Instr.wf (.dset 0 p0 1 1 0 .base 1) = false := by decide
/-- A descriptor constant off its 64-byte grid (R200). -/
theorem test_refuses_dld : Instr.wf (.dld 0 p0 1 32) = false := by decide
/-- PREF to T3 and EVICT to T0 (R204). -/
theorem test_refuses_tier : Instr.wf (.pref 0 p0 1 .t3 none) = false ∧ Instr.wf (.evict 0 p0 1 .t0 1 none) = false := by decide
/-- Format E: imm32 beside rn, and a record off its grid (R180). -/
theorem test_refuses_formatE : Instr.wf (.tallyTopk 0 p0 { bare with rn := 1, imm32 := 1 }) = false ∧ Instr.wf (.tallyArgmax 0 p0 { bare with recOff := 32 }) = false := by decide
/-- A field that the variant's row has a dash for (R216): rp, ta, tb, tc, n, the record. -/
theorem test_refuses_dash : Instr.wf (.platenDec 0 p0 { bare with rp := 1 }) = false ∧ Instr.wf (.sieveArm 0 p0 { bare with ta := 1 }) = false
    ∧ Instr.wf (.cipherHash 0 p0 { bare with tb := 1 }) = false ∧ Instr.wf (.galleyScan 0 p0 { bare with tc := 1 }) = false
    ∧ Instr.wf (.tallySample 0 p0 { bare with imm32 := 1 }) = false ∧ Instr.wf (.cipherEnc 0 p0 { bare with recOff := 64 }) = false
    ∧ Instr.wf (.imp 0 p0 { bare with rp := 1 }) = false := by decide
/-- A mask of no flag (R221). -/
theorem test_refuses_mask : Instr.wf (.waitAll 0 p0 0) = false := by decide
/-- A serial number that is not 32 bytes long (R481). -/
theorem test_refuses_serial : Instr.wf (.laneTraining 0 0 (some { serial := [9], cage := 0, lane := 0, inverted := false })) = false := by decide
/-- More blocks than a transfer holds, and a host NQN that is too long. -/
theorem test_refuses_range : Instr.wf (.read uh 1 0 65537) = false ∧ Instr.wf (.write uh 1 0 (List.replicate 2049 blk0)) = false
    ∧ Instr.wf (.hostBindingSet rh (List.replicate 224 0) 1) = false := by decide +kernel

/-! ## Worked examples of the spec -/

/-- Chapter 05's two encodings: ADD s5, s5, 0x1_0000 and (!ev3) BR -48. -/
theorem test_words : jenunWord (2 ^ 80 + 0x0000000145008002) = some (.add 0 p0 5 5 (.imm 0x10000))
    ∧ jenunWord (0xFFFFFFD0 * 2 ^ 64 + 0x830101) = some (.br 0 { pen := true, sense := false, flag := 3 } 0xFFFFFFD0) := by decide +kernel
/-- Chapter 02: 3.140625 in FP16 splits into 3.25, -0.109375 and 0. -/
theorem test_pieces : (pieces 3 (decodeFloat .fp16 0x4248 :: List.replicate 31 (decodeFloat .fp16 0))).map (fun q => (q.head?).map fun x => toFp32 x.val)
    = [some 0x40500000, some 0xBDE00000, some 0] := by decide +kernel
/-- Chapter 02: slot 5 in delayed mode goes from t = 0 to 1 after amax_e = 8, and to 2 after amax_e = 9. -/
theorem test_slot :
    let x := slotCommit { word := 0x10000001A00#64 } { slot := 5, amax := some 8, clip := 4, L := 8 }
    slotT x.word = 1 ∧ slotT (slotCommit x { slot := 5, amax := some 9, clip := 4, L := 8 }).word = 2 := by decide +kernel
/-- Chapter 13: of two reports in one cycle, FLT_FIRST records the Minor one, and both sticky bits are set. -/
theorem test_first : (up.sample [rep 0x63 1, rep 0x25 2]).flt.first = some { src := 0x25, cls := .minor }
    ∧ (up.sample [rep 0x63 1, rep 0x25 2]).flt.sticky = 2 ^ 0x63 + 2 ^ 0x25 := by decide +kernel
/-- Chapter 14: a cap of 3,200 W makes the hardware cap 3,360 W. -/
theorem test_cap : ({ served with pwr := { served.pwr with capNext := 3200 } }).hwCap = 3360 := by decide +kernel
/-- Chapter 00: the fourth fenced tile of a physical row makes the shape 125 × 79. -/
theorem test_shape : ({ served with fab := { served.fab with fencesNow := (List.range 4).map fun k => { prow := 7, pcol := k, cause := 0, sec := 0 } } }).tiles = 9875 := by decide +kernel
/-- The digest of the three bytes "abc" (FIPS 180-4). -/
theorem test_sha : (sha256 [0x61, 0x62, 0x63]).take 4 = [0xBA, 0x78, 0x16, 0xBF] := by decide +kernel
/-- R196: a division by zero, a shift by 64 and an arithmetic shift of a negative number. -/
theorem test_scalar : (match exec (.divu 15 p0 1 10 (.imm 0)) (runs e0) with | .next t => (t.ex? 5).map fun e => e.reg 1 | _ => none) = some (BitVec.allOnes 64)
    ∧ (match exec (.shl 15 p0 1 9 (.imm 64)) (runs e0) with | .next t => (t.ex? 5).map fun e => e.reg 1 | _ => none) = some 1
    ∧ (match exec (.sra 15 p0 1 10 (.imm 63)) (runs e0) with | .next t => (t.ex? 5).map fun e => e.reg 1 | _ => none) = some (BitVec.allOnes 64) := by decide +kernel
/-- The table gives no row bits: no word spells a command. -/
theorem test_decode : decodeTableWord 0 0 = none ∧ decodeTableWord 128 7 = none := by decide
end Sys2Proof.Tests
end

section
/-!
SUPPORT. What the tier manager does touches the tiers and the host's side of the module only: its own queue of migrations,
and the landing of a step's pages at its commit (R147, R246).
-/
namespace Sys2Proof.Machine

/-- The module is as in s but for its tiers and its host's side. -/
def TierWork (s t : State) : Prop := ∃ tiers host, t = { s with tiers, host }

/-- Work on the tiers leaves the executions, the grants and all else of the scheduler. -/
theorem TierWork.sched {s t : State} (h : TierWork s t) : t.sched = s.sched := by
  obtain ⟨_, _, rfl⟩ := h
  rfl

theorem TierWork.refl (s : State) : TierWork s s := ⟨_, _, rfl⟩

theorem TierWork.trans {s t u : State} (h : TierWork s t) (h' : TierWork t u) : TierWork s u := by
  obtain ⟨_, _, rfl⟩ := h
  obtain ⟨_, _, rfl⟩ := h'
  exact ⟨_, _, rfl⟩

/-- A fold of such work is such work. -/
theorem TierWork.foldl {α : Type} {f : State → α → State} (hf : ∀ s a, TierWork s (f s a)) (l : List α) (s : State) :
    TierWork s (l.foldl f s) := by
  induction l generalizing s with
  | nil => exact .refl s
  | cons a l ih => exact (hf s a).trans (ih _)

theorem State.modAlloc_tierWork (s : State) (id : Nat) (f : Alloc → Alloc) : TierWork s (s.modAlloc id f) := ⟨_, _, rfl⟩

theorem State.invalidate_tierWork (s : State) (keep : TlbEntry → Bool) : TierWork s (s.invalidate keep) := ⟨_, _, rfl⟩

/-! ## The queue of migrations -/

theorem State.defer_tierWork (s : State) (a : Alloc) (ps : List Nat) (t : Tier) (op : Option (Nat × Nat)) (host : Option Hdr) :
    TierWork s (s.defer a ps t op host) := by
  unfold State.defer
  split
  · exact .refl s
  · exact ⟨_, _, rfl⟩

/-- One turn of the queue: a migration goes, begins, or waits. -/
theorem State.turn_tierWork (s : State) (m : Mig) : TierWork s (s.turn m).1 := by
  have hunqueue : TierWork s (s.unqueue m.id) := ⟨_, _, rfl⟩
  have hlaunch (ps : List Nat) : TierWork s (s.launch m ps) := ⟨_, _, rfl⟩
  have hlate {c : Bool} {t : State} {a : Alloc} {ps : List Nat} (ht : TierWork s t) :
      TierWork s (if c = true then t.defer a ps m.dst m.op m.host else t) := by
    split
    · exact ht.trans (t.defer_tierWork ..)
    · exact ht
  unfold State.turn
  split
  · exact hunqueue
  · split
    · dsimp only
      split
      · exact hunqueue
      · exact hlaunch _
    · dsimp only
      split
      · exact hlate hunqueue
      · split
        · exact hlate (hlaunch _)
        · exact .refl s

theorem State.turns_tierWork (n : Nat) (s : State) (a : Nat) : TierWork s (State.turns n s a) := by
  induction n generalizing s with
  | zero => exact .refl s
  | succ n ih =>
    unfold State.turns
    split
    · exact .refl s
    · split
      · exact .refl s
      · dsimp only
        split
        · exact (s.turn_tierWork _).trans (ih _)
        · exact s.turn_tierWork _

theorem State.startQueued_tierWork (s : State) (a : Nat) : TierWork s (s.startQueued a) := turns_tierWork ..

theorem State.migrate_tierWork (s : State) (m : Mig) : TierWork s (s.migrate m) := by
  unfold State.migrate
  split
  · exact .refl s
  · exact TierWork.trans ⟨_, _, rfl⟩ (startQueued_tierWork ..)

theorem State.promote_tierWork (s : State) (a : Alloc) (ps : List Nat) (t : Tier) (op : Option (Nat × Nat)) (cause : Option HintCode) :
    TierWork s (s.promote a ps t op cause) := by
  unfold State.promote
  split
  · exact .refl s
  · exact s.migrate_tierWork _

theorem State.evict_tierWork (s : State) (a : Alloc) (ps : List Nat) (t : Tier) (op : Option (Nat × Nat)) (host : Option Hdr)
    (cause : Option HintCode) : TierWork s (s.evict a ps t op host cause).1 :=
  (s.defer_tierWork ..).trans (migrate_tierWork ..)

/-! ## What follows a change of the migrations -/

theorem State.retryHot_tierWork (s : State) : TierWork s s.retryHot := by
  refine TierWork.foldl (fun s id => ?_) _ s
  split
  · exact s.promote_tierWork ..
  · exact .refl s

theorem State.evictsDone_tierWork (s : State) : TierWork s s.evictsDone := by
  refine TierWork.foldl (fun s o => ?_) _ s
  dsimp only
  split <;> exact ⟨_, _, rfl⟩

theorem State.movesOver_tierWork (s : State) : TierWork s s.movesOver :=
  ((TierWork.foldl startQueued_tierWork _ s).trans (retryHot_tierWork _)).trans (evictsDone_tierWork _)

theorem State.demoteStreamed_tierWork (s : State) (a : Alloc) (ps : List Nat) : TierWork s (s.demoteStreamed a ps) := by
  refine TierWork.foldl (fun s i => ?_) _ s
  split
  · exact s.evict_tierWork ..
  · exact .refl s

theorem State.reissue_tierWork (s : State) (c : HintCode) (a : Alloc) (i : Nat) : TierWork s (s.reissue c a i) := by
  unfold State.reissue
  split
  · cases c with
    | hot => exact s.promote_tierWork ..
    | streamed => exact s.demoteStreamed_tierWork ..
    | clear | keep | cold => exact .refl s
  · exact .refl s

theorem State.cutMigs_tierWork (s : State) (ps : List (Nat × Nat)) : TierWork s (s.cutMigs ps) :=
  TierWork.trans ⟨_, _, rfl⟩ (TierWork.foldl (fun s _ => s.modAlloc_tierWork ..) ps _)

theorem State.cancelMig_tierWork (s : State) (ps : List (Nat × Nat)) : TierWork s (s.cancelMig ps) := by
  refine ((s.cutMigs_tierWork ps).trans (TierWork.foldl (fun s l => ?_) _ _)).trans (movesOver_tierWork _)
  split
  · exact s.reissue_tierWork ..
  · exact .refl s

/-- The bytes, frames and translations of the step's pages (R147, R252). -/
theorem State.landPages_tierWork (s : State) (e : Exec) : TierWork s (s.landPages e) := by
  unfold State.landPages
  dsimp only
  have hmem (mem : List Host.Cell) (poison : List Nat) : TierWork s { s with tiers := { s.tiers with mem, poison } } := ⟨_, _, rfl⟩
  refine .trans ?_ (invalidate_tierWork ..)
  refine .trans ?_ (cancelMig_tierWork ..)
  exact (hmem _ _).trans (.foldl (fun s _ => s.modAlloc_tierWork ..) _ _)

end Sys2Proof.Machine
end

section
/-!
SUPPORT. The parts of a commit: what each leaves of the executions, and the execution that it leaves (R135, R144, R226).
-/
namespace Sys2Proof.Machine

/-- The execution is as in e but for its step and the runs that its meld has to give back (R323). -/
def StepWork (e e' : Exec) : Prop := ∃ st wrote, e' = { e with st, wrote }

theorem StepWork.refl (e : Exec) : StepWork e e := ⟨_, _, rfl⟩

theorem StepWork.trans {e e' e'' : Exec} (h : StepWork e e') (h' : StepWork e' e'') : StepWork e e'' := by
  obtain ⟨_, _, rfl⟩ := h
  obtain ⟨_, _, rfl⟩ := h'
  exact ⟨_, _, rfl⟩

theorem StepWork.id {e e' : Exec} (h : StepWork e e') : e'.id = e.id := by
  obtain ⟨_, _, rfl⟩ := h
  rfl

theorem StepWork.ingest {e e' : Exec} (h : StepWork e e') : e'.ingest = e.ingest := by
  obtain ⟨_, _, rfl⟩ := h
  rfl

/-- A fold of such work is such work. -/
theorem StepWork.foldl {α : Type} {f : Exec → α → Exec} (hf : ∀ e a, StepWork e (f e a)) (l : List α) (e : Exec) :
    StepWork e (l.foldl f e) := by
  induction l generalizing e with
  | nil => exact .refl e
  | cons a l ih => exact (hf e a).trans (ih _)

/-- A store changes what the step holds, and nothing else of the execution (R147, R148). -/
theorem State.store_stepWork (s : State) (e : Exec) (bs : List (Nat × Byte)) : StepWork e (s.store e bs) := by
  have hput (bs : List (Nat × Byte)) : StepWork e (e.putBytes bs) := ⟨_, _, rfl⟩
  refine (hput _).trans (StepWork.foldl (fun e k => ?_) _ _)
  split
  · exact ⟨_, _, rfl⟩
  · exact .refl e

@[simp] theorem State.switchBanks_sched (s : State) (e : Exec) : (s.switchBanks e).sched = s.sched := by
  unfold State.switchBanks
  split <;> rfl

@[simp] theorem State.landPages_sched (s : State) (e : Exec) : (s.landPages e).sched = s.sched := (s.landPages_tierWork e).sched

/-- A fold of operations that leave the scheduler as it is leaves it so. -/
theorem foldl_sched {α : Type} {f : State → α → State} (hf : ∀ s a, (f s a).sched = s.sched) (l : List α) (s : State) :
    (l.foldl f s).sched = s.sched := by
  induction l generalizing s with
  | nil => rfl
  | cons a l ih => exact (ih _).trans (hf s a)

@[simp] theorem State.mirrorPages_sched (s : State) (e : Exec) : (s.mirrorPages e).1.sched = s.sched := by
  unfold State.mirrorPages
  split
  · exact foldl_sched (fun _ _ => toPeer_sched ..) _ s
  · rfl

/-- A step without namespace writes has none to release. -/
theorem State.releaseNs_nil (s : State) {e : Exec} (h : e.st.ns = []) : s.releaseNs e = (s, []) := by
  unfold State.releaseNs
  rw [h]
  split <;> rfl

/-- Executions are found in the scheduler's list. -/
theorem State.ex?_congr {s t : State} (h : t.sched.execs = s.sched.execs) (id : Nat) : t.ex? id = s.ex? id := by
  unfold State.ex?
  rw [h]

/-- Only the objects of an ingest execution move on at a commit. -/
theorem State.advanceObjs_not_ingest {s : State} {id : Nat} {e : Exec} (h : s.ex? id = some e) (hi : e.ingest = false) :
    s.advanceObjs id = s := by
  simp [State.advanceObjs, h, hi]

/-! ## The commit of one execution -/

/-- The module once a commit has switched the banks of the step and landed its pages. -/
def State.landed (s : State) (e : Exec) : State := (s.switchBanks (s.withBanks e)).landPages (s.withBanks e)

/-- The module once the partner has its copies and the namespace writes are released too, with what these wait for. -/
def State.published (s : State) (e : Exec) : State × List (Nat × Nat) :=
  ((s.landed e).mirrorPages (s.withBanks e)).1.releaseNs (s.withBanks e)

/-- The execution with its banks written out; one that publishes a root owes no runs (R323). -/
def State.closedStep (s : State) (e : Exec) : Exec :=
  let eb := s.withBanks e
  if eb.newRoot.isSome then { eb with wrote := [] } else eb

/-- The execution as the commit of its step leaves it. -/
def State.committedForm (s : State) (e : Exec) (claim : BitVec 16) (final : Bool) : Exec :=
  (s.closedStep e).committed (s.landed e).now ((s.landed e).stepEstimate (s.closedStep e)) claim final
    ((s.landed e).mirrorPages (s.withBanks e)).2 (s.published e).2

/-- The module in which the committed execution stands, before the counters of the commit. -/
def State.recorded (s : State) (e : Exec) (claim : BitVec 16) (final : Bool) : State :=
  let id := (s.closedStep e).id
  (((s.published e).1.setEx (s.committedForm e claim final)).advanceObjs id).release id

/-- A commit records the execution; besides, it writes Platen's counts, the forme rate and the count of overruns
(R106, R156, R283). -/
theorem State.commit1_eq (s : State) (e : Exec) (claim : BitVec 16) (final : Bool) :
    ∃ eng fab free overruns, s.commit1 e claim final = { s.recorded e claim final with
      eng, fab, free, sched := { (s.recorded e claim final).sched with overruns } } := ⟨_, _, _, _, rfl⟩

theorem State.published_sched (s : State) {e : Exec} (hns : (s.withBanks e).st.ns = []) : (s.published e).1.sched = s.sched := by
  simp [State.published, State.landed, State.releaseNs_nil _ hns]

theorem State.closedStep_stepWork (s : State) (e : Exec) : StepWork e (s.closedStep e) := by
  have hbanks : StepWork e (s.withBanks e) := s.store_stepWork ..
  refine hbanks.trans ?_
  unfold State.closedStep
  dsimp only
  split
  · exact ⟨_, _, rfl⟩
  · exact .refl _

section Commit
variable {s : State} {e : Exec} (he : s.ex? e.id = some e) (hns : (s.withBanks e).st.ns = []) (hi : e.ingest = false)
  (claim : BitVec 16) (final : Bool)
include he hns hi

/-- Where the execution is no ingest execution and its step holds no namespace write, recording it replaces it by its committed
form and releases what its step held. -/
theorem State.recorded_sched : (s.recorded e claim final).sched = ((s.setEx (s.committedForm e claim final)).release e.id).sched := by
  have hwork := s.closedStep_stepWork e
  have hid : (s.closedStep e).id = e.id := hwork.id
  have hsched := s.published_sched hns
  have hfound := State.ex?_setEx (e' := s.committedForm e claim final) ((State.ex?_congr (congrArg (·.execs) hsched) e.id).trans he) hid
  unfold State.recorded
  dsimp only
  rw [hid, State.advanceObjs_not_ingest hfound (hwork.ingest.trans hi)]
  simp only [State.release, State.setEx, hsched]

theorem State.commit1_ex? : (s.commit1 e claim final).ex? e.id = some (s.committedForm e claim final) := by
  obtain ⟨_, _, _, _, h⟩ := s.commit1_eq e claim final
  have hexecs : (s.commit1 e claim final).sched.execs = (s.setEx (s.committedForm e claim final)).sched.execs := by
    rw [h, State.recorded_sched he hns hi]
    rfl
  rw [State.ex?_congr hexecs]
  exact State.ex?_setEx he (s.closedStep_stepWork e).id

theorem State.commit1_holder : (s.commit1 e claim final).sched.holder = s.sched.holder.filter fun h => h.2 != e.id := by
  obtain ⟨_, _, _, _, h⟩ := s.commit1_eq e claim final
  rw [h, State.recorded_sched he hns hi]
  exact State.release_holder ..

theorem State.commit1_grants : (s.commit1 e claim final).sched.grants = s.sched.grants.filter fun g => g.1 != e.id := by
  obtain ⟨_, _, _, _, h⟩ := s.commit1_eq e claim final
  rw [h, State.recorded_sched he hns hi]
  exact State.release_grants ..

end Commit

end Sys2Proof.Machine
end

section
/-!
SUPPORT. How a step closes and when COMMIT_POINT commits it (R145, R177, R194).
-/
namespace Sys2Proof.Machine

/-- The closing instructions are never predicated: they issue wherever their execution runs (R177). -/
theorem issues_noPred {s : State} {c : Fin 16} {e : Exec} (h : Runs s c e) : Issues s c noPred e := ⟨h, rfl, rfl⟩

/-- An instruction that closes a step with no armed engine left makes its execution a closing one. -/
theorem becomes_closing {i : Instr} {s : State} {c : Fin 16} {e : Exec} {claim : BitVec 16} {final : Bool} (h : Runs s c e)
    (ha : e.st.armed = []) (hx : exec i s = .next (s.sync c noPred [] fun s e => e.close claim final s.now)) :
    Becomes i s e { e with phase := .closing claim final, stall := none, waitSince := s.now } := by
  have hpend : e.pend [] = false := by
    unfold Exec.pend
    rw [List.any_eq_false]
    intro o _
    cases o.kind <;> simp
  refine becomes_of_eq h rfl (hx.trans ?_)
  rw [State.sync_issues (issues_noPred h) hpend]
  simp [Exec.close, ha]

/-- A commit waits for every operation of its step (R145). -/
theorem commitWaits_of_ops {s : State} {e : Exec} (h : e.st.ops ≠ []) : s.commitWaits [e] = true := by
  simp [State.commitWaits, h]

/-- What COMMIT_POINT does is said of the executions that close on its compositor. -/
theorem exec_commitPoint (c : Fin 16) (s : State) : exec (.commitPoint c) s = execCommitPoint c s := rfl

end Sys2Proof.Machine
end

section
/-!
CERTIFICATE. The steps of a program close and commit (R135, R144, R145, R226).
-/
open Sys2Proof Sys2Proof.Machine

/-- Settles O4: STEP and END issue without a predicate, and COMMIT_POINT on a single closing execution either waits or commits. -/
theorem stepCloses : Obligations.StepCloses := by
  refine ⟨fun s c e h ha => ⟨becomes_closing h ha rfl, fun claim => becomes_closing h ha rfl⟩, ?_, ?_⟩
  · intro s c e hc hops
    rw [exec_commitPoint]
    simp [execCommitPoint, hc, commitWaits_of_ops hops]
  · intro s c e hc hw hmv hfx hover hrefused htwin
    rw [exec_commitPoint]
    simp [execCommitPoint, hc, hw, hmv, hfx, hover, hrefused, htwin]

/-- Settles O15: the scheduler after the commit holds the committed form of the execution, and the release leaves nothing held. -/
theorem stepCommits : Obligations.StepCommits := by
  intro s e claim final he hns hi _
  obtain ⟨st, wrote, hwork⟩ := s.closedStep_stepWork e
  refine ⟨_, State.commit1_ex? he hns hi claim final, ?_⟩
  rw [State.commit1_holder he hns hi, State.commit1_grants he hns hi]
  unfold State.committedForm
  rw [hwork]
  refine ⟨rfl, rfl, rfl, rfl, rfl, rfl, rfl, rfl, rfl, rfl, rfl, rfl, rfl, rfl, fun h hh => ?_, fun g hg => ?_⟩
  · simpa using (List.mem_filter.mp hh).2
  · simpa using (List.mem_filter.mp hg).2
end

section
/-!
SUPPORT. What a control instruction that issues makes of its execution (R189, R192).
-/
namespace Sys2Proof.Machine

/-- An instruction that names no register waits for none (R137). -/
@[simp] theorem Exec.pend_nil (e : Exec) : e.pend [] = false := by
  unfold Exec.pend
  rw [List.any_eq_false]
  intro o _
  cases o.kind <;> simp

/-- A synchronous instruction that issues and raises no fault makes its execution what its effect says. -/
theorem becomes_of_sync {i : Instr} {s : State} {c : Fin 16} {p : Pred} {e e' : Exec} {rs : List (Fin 64)}
    {f : State → Exec → Except JFault Exec} (h : Issues s c p e) (hr : e.pend rs = false) (hid : e'.id = e.id)
    (hx : exec i s = .next (s.sync c p rs f)) (hf : f s e = .ok e') : Becomes i s e e' := by
  refine becomes_of_eq h.1 hid (hx.trans ?_)
  rw [State.sync_issues h hr, hf]

/-- The same of an instruction that names no register. -/
theorem becomes_of_sync_nil {i : Instr} {s : State} {c : Fin 16} {p : Pred} {e e' : Exec} {f : State → Exec → Except JFault Exec}
    (h : Issues s c p e) (hid : e'.id = e.id) (hx : exec i s = .next (s.sync c p [] f)) (hf : f s e = .ok e') : Becomes i s e e' :=
  becomes_of_sync h e.pend_nil hid hx hf

/-- A synchronous instruction that issues and raises fault j ends its execution as j does (R229). -/
theorem exec_of_sync_error {i : Instr} {s : State} {c : Fin 16} {p : Pred} {e : Exec} {rs : List (Fin 64)} {j : JFault}
    {f : State → Exec → Except JFault Exec} (h : Issues s c p e) (hr : e.pend rs = false)
    (hx : exec i s = .next (s.sync c p rs f)) (hf : f s e = .error j) : exec i s = .next (s.jfault e j e.pc) := by
  rw [hx, State.sync_issues h hr, hf]

/-- The bound fault has the effect of a descriptor fault: status 0x87, with the instruction's offset (R158, R229, R435). -/
@[simp] theorem State.jfault_bound (s : State) (e : Exec) (pc : W32) : s.jfault e .bound pc = s.jobFail e 0x87 0 pc := rfl

section Control
variable {s : State} {c : Fin 16} {p : Pred} {e : Exec} (h : Issues s c p e)
include h

/-- RET pops the top of the return stack (R189). -/
theorem becomes_ret {x : W32} {r : List W32} (hx : e.rstack = x :: r) :
    Becomes (.ret c p) s e { e with pc := x, rstack := r, stall := none } :=
  becomes_of_sync_nil h rfl rfl (by simp [hx])

/-- LCSET within its bound (R192). -/
theorem becomes_lcset {lc : Fin 8} {ra : Fin 64} {v : W32} (hr : e.pend [ra] = false) (hv : (e.reg ra).toNat ≤ lcBound v) :
    Becomes (.lcset c p lc ra v) s e { e.next with lcs := e.lcs.set lc ((e.reg ra).setWidth 32) } :=
  becomes_of_sync h hr rfl rfl (if_neg hv.not_gt)

/-- LCSET above its bound (R158, R192). -/
theorem exec_lcset_above {lc : Fin 8} {ra : Fin 64} {v : W32} (hr : e.pend [ra] = false) (hv : lcBound v < (e.reg ra).toNat) :
    exec (.lcset c p lc ra v) s = .next (s.jobFail e 0x87 0 e.pc) := by
  rw [exec_of_sync_error h hr rfl (if_pos hv), State.jfault_bound]

/-- BLC with turns left to run branches (R189). -/
theorem becomes_blc_taken {lc : Fin 8} {target : W32} (hlc : 1 < (e.lcs[lc]).toNat) :
    Becomes (.blc c p lc target) s e { e.jump target with lcs := e.lcs.set lc (e.lcs[lc] - 1) } :=
  becomes_of_sync_nil h rfl rfl (if_pos hlc)

/-- BLC on its last turn falls through (R189). -/
theorem becomes_blc_last {lc : Fin 8} {target : W32} (hlc : (e.lcs[lc]).toNat ≤ 1) :
    Becomes (.blc c p lc target) s e { e.next with lcs := e.lcs.set lc 0 } :=
  becomes_of_sync_nil h rfl rfl (if_neg hlc.not_gt)

end Control

end Sys2Proof.Machine
end

section
/-!
CERTIFICATE. Control flow within a step (R158, R189, R192).
-/
open Sys2Proof Sys2Proof.Machine

/-- Settles O3: NOP, BR, CALL and LCSETI always have their effect; RET, LCSET and BLC split on the return stack, the bound and the
counter. -/
theorem controlFlow : Obligations.ControlFlow := by
  intro s c p e h
  refine ⟨?nop, fun tg => ?br, fun tg => ?call, fun x r hx => becomes_ret h hx, fun lc ra v hr hv => becomes_lcset h hr hv,
    fun lc ra v hr hv => exec_lcset_above h hr hv, fun lc v => ?lcseti, fun lc tg hlc => becomes_blc_taken h hlc,
    fun lc tg hlc => becomes_blc_last h hlc⟩
  case nop | br | call | lcseti => exact becomes_of_sync_nil h rfl rfl rfl
end

section
/-!
SUPPORT. How the step of one execution starts: what the fabric takes over, what comes back to T0, and the execution that runs
(R117, R122, R136, R233, R234).
-/
namespace Sys2Proof.Machine

/-- An execution is found after its update. -/
theorem State.ex?_modEx {s : State} {id : Nat} {e : Exec} {f : Exec → Exec} (h : s.ex? id = some e) (hf : ∀ x, (f x).id = x.id) :
    (s.modEx id f).ex? id = some (f e) := by
  have hid (x : Exec) : (if x.id = id then f x else x).id = x.id := by split <;> simp [hf]
  have heq : e.id = id := by simpa using List.find?_some h
  unfold State.ex? at h ⊢
  rw [State.modEx_execs, List.find?_map]
  simp only [Function.comp_def, hid, h, Option.map_some, heq, if_true]

/-! ## Work on the tiers alone -/

/-- The module is as in s but for its tiers. -/
def OnlyTiers (s t : State) : Prop := ∃ tiers, t = { s with tiers }

theorem OnlyTiers.refl (s : State) : OnlyTiers s s := ⟨_, rfl⟩

theorem OnlyTiers.trans {s t u : State} (h : OnlyTiers s t) (h' : OnlyTiers t u) : OnlyTiers s u := by
  obtain ⟨_, rfl⟩ := h
  obtain ⟨_, rfl⟩ := h'
  exact ⟨_, rfl⟩

theorem State.cutMigs_onlyTiers (s : State) (ps : List (Nat × Nat)) : OnlyTiers s (s.cutMigs ps) :=
  List.foldlRecOn ps _ ⟨_, rfl⟩ fun _ h _ _ => h.trans ⟨_, rfl⟩

/-- The held pages of a step come back by moves of frames (R234). -/
theorem State.restore_onlyTiers (s : State) (e : Exec) : OnlyTiers s (s.restore e) := by
  refine List.foldlRecOn e.heldT0 _ (.refl s) fun t h p _ => h.trans ?_
  split
  next a i _ _ _ =>
    refine (t.cutMigs_onlyTiers [(a.id, i)]).trans ?_
    dsimp only
    split
    · exact .refl _
    · exact ⟨_, rfl⟩
  · exact .refl t

/-! ## The start of a step -/

/-- The module with its fabric as a step's start makes it: cleared and reshaped, unless a step holds it (R117, R122). -/
def State.fabricReady (s : State) : State := (if s.fabricHeld then s else { s with fab := s.fab.clear }).reshape

/-- The execution as the start of its step makes it. -/
def State.startedForm (s : State) (x : Exec) : Exec := { x with
  phase := .running, evs := 0, stall := none, resuming := false, st := { startedAt := s.now }
  began := if x.began = 0 then max 1 s.now else x.began
  snap := match x.index, x.snap with
    | some n, none => some (s.snapshotOf n)
    | _, g => g }

/-- The module with the held pages of an execution in T0 again, as its step starts. -/
def State.stepReady (s : State) (e : Exec) : State := s.fabricReady.restore e

/-- The start of a single execution's step: the fabric is made ready, the held pages come back, the execution runs, and the
arbiter enters what it holds. -/
theorem State.startStep_single (s : State) (e : Exec) :
    s.startStep [e] =
      let t := (s.stepReady e).modEx e.id (s.stepReady e).startedForm
      let n := s.fabricReady.need e
      { t with sched := { t.sched with
        holder := t.sched.holder ++ n.engines.map fun g => (g, e.id)
        grants := t.sched.grants ++ [(e.id, [claimT0 (t.claimOf e) - e.heldT0.length, n.t1, n.t2])] } } := by
  unfold State.startStep State.stepReady State.fabricReady State.startedForm
  rfl

/-- While a step holds the fabric, another one's start leaves it as it is. -/
theorem State.fabricReady_held {s : State} (h : s.fabricHeld = true) : s.fabricReady = s := by
  simp [State.fabricReady, State.reshape, h]

/-- Where no step holds the fabric, it is cleared, and gates, fences and clocks come into force. -/
theorem State.fabricReady_free {s : State} (h : s.fabricHeld = false) :
    s.fabricReady = { s with
      fab := { s.fab.clear with fencesNow := s.fab.fences, gatedNow := s.fab.gated, freq := s.fab.freqNext }
      life := { s.life with dom := s.life.dom.bands s.fab.gated } } := by
  have hclear : ({ s with fab := s.fab.clear } : State).fabricHeld = false := h
  unfold State.fabricReady State.reshape
  rw [h, if_neg Bool.false_ne_true, hclear, if_neg Bool.false_ne_true]
  rfl

/-- A step's start touches the fabric, the power domains and the tiers, and the tiers only where held pages come back. -/
theorem State.stepReady_eq (s : State) (e : Exec) :
    ∃ tiers life, s.stepReady e = { s with tiers, life, fab := s.fabricReady.fab } ∧ (e.heldT0 = [] → tiers = s.tiers) := by
  have hfab : ∃ life, s.fabricReady = { s with life, fab := s.fabricReady.fab } := by
    cases h : s.fabricHeld with
    | true => exact ⟨s.life, by rw [State.fabricReady_held h]⟩
    | false => exact ⟨_, by rw [State.fabricReady_free h]⟩
  obtain ⟨life, hlife⟩ := hfab
  obtain ⟨tiers, htiers⟩ := s.fabricReady.restore_onlyTiers e
  refine ⟨tiers, life, ?_, fun hheld => ?_⟩
  · rw [State.stepReady, htiers, hlife]
  · have hsame : s.fabricReady.restore e = s.fabricReady := by rw [State.restore, hheld, List.foldl_nil]
    calc tiers = (s.fabricReady.restore e).tiers := by rw [htiers]
      _ = s.tiers := by rw [hsame, hlife]

theorem State.fabricReady_sched (s : State) : s.fabricReady.sched = s.sched := by
  cases h : s.fabricHeld with
  | true => rw [State.fabricReady_held h]
  | false => rw [State.fabricReady_free h]

/-- The claim record in force is the image's. -/
theorem State.claimOf_congr {s t : State} (h : t.sched = s.sched) (e : Exec) : t.claimOf e = s.claimOf e := by
  unfold State.claimOf State.image?
  rw [h]

/-- The clear leaves nothing in the operand stores, the working banks and the scratch (R117). -/
theorem Fabric.clear_tiles {f : Fabric} {k : Nat} {x : Tile} (h : (k, x) ∈ f.clear.tiles) :
    x.store = [] ∧ x.working = [] ∧ x.scratch = [] := by
  obtain ⟨y, -, hy⟩ := List.mem_map.mp h
  cases hy
  exact ⟨rfl, rfl, rfl⟩

/-! ## The grant -/

/-- What is free now needs no demotion and no end of another grant. -/
theorem State.never_of_covers {s : State} {n : Need} (h : s.covers n = true) : s.never n = none := by
  obtain ⟨hpages, -⟩ := Bool.and_eq_true_iff.mp h
  refine List.find?_eq_none.mpr fun t ht => ?_
  have hfree := of_decide_eq_true (List.all_eq_true.mp hpages t ht)
  rw [decide_eq_true_eq, State.canFree]
  omega

/-- STEP_GRANT of an execution alone in waiting whose claim is permitted and free: its step starts, unless the valid-bit check
fails. -/
theorem exec_stepGrant_covered {s : State} {e : Exec} (hw : s.waitingCrews = [[e]])
    (hg : ∀ g ∈ (s.need e).engines, s.mayEngine e.ctx g = true) (hc : s.covers (s.needAll [e]) = true) (bad : List ClearFail) :
    exec (.stepGrant bad) s = .next (if bad = [] then s.startStep [e] else s.sample (bad.map clearReport)) := by
  have hmay : [e].find? (fun x => (s.need x).engines.any fun g => !(s.mayEngine x.ctx g)) = none := by
    simpa using hg
  have hexec : exec (.stepGrant bad) s = .next (s.grantOne s.waitingCrews bad) := rfl
  rw [hexec, hw, State.grantOne]
  simp only [hmay, hc, if_true, State.never_of_covers hc]

end Sys2Proof.Machine
end

section
/-!
CERTIFICATE. A step's grant (R117, R122, R233, R523).
-/
open Sys2Proof Sys2Proof.Machine

/-- Settles O19: with its claim covered, the execution alone in waiting is the one that STEP_GRANT picks, and its step starts on a
module that only the fabric's clear and the return of held pages have changed. -/
theorem stepGranted : Obligations.StepGranted := by
  refine ⟨fun s e hw he hg hc => ⟨s.startStep [e], exec_stepGrant_covered hw hg hc [], ?_⟩,
    fun s e b bs hw hg hc => exec_stepGrant_covered hw hg hc (b :: bs)⟩
  obtain ⟨tiers, life, hready, htiers⟩ := s.stepReady_eq e
  have hclaim : s.fabricReady.claimOf e = s.claimOf e := State.claimOf_congr s.fabricReady_sched e
  have hmem : (s.startStep [e]).tiers.mem = s.tiers.mem := State.startStep_mem ..
  rw [State.startStep_single, hready] at hmem ⊢
  refine ⟨⟨_, State.ex?_modEx he fun _ => rfl, rfl, rfl, rfl, rfl, rfl, rfl, rfl⟩, ?holder, ?grants, fun hfree => ?free, fun hheld => ?held,
    hmem, htiers, rfl⟩
  case holder => simp [State.need, hclaim]
  case grants =>
    have hrun (f : Exec → Exec) : ({ s with tiers, life, fab := s.fabricReady.fab }.modEx e.id f).claimOf e = s.claimOf e := rfl
    simp [State.need, hclaim, hrun]
  case free =>
    rw [State.fabricReady_free hfree]
    exact ⟨rfl, fun _ _ => Fabric.clear_tiles⟩
  case held => rw [State.fabricReady_held hheld]; rfl
end

section
/-!
SUPPORT. What the tier manager's queue changes, and what a request makes of it (R240 to R244).
-/
namespace Sys2Proof.Machine

/-- The module is as in s but for the migrations in flight, queued and deferred. -/
def QueueWork (s t : State) : Prop :=
  ∃ migs queue deferred nextMig, t = { s with tiers := { s.tiers with migs, queue, deferred, nextMig } }

theorem QueueWork.refl (s : State) : QueueWork s s := ⟨_, _, _, _, rfl⟩

theorem QueueWork.trans {s t u : State} (h : QueueWork s t) (h' : QueueWork t u) : QueueWork s u := by
  obtain ⟨_, _, _, _, rfl⟩ := h
  obtain ⟨_, _, _, _, rfl⟩ := h'
  exact ⟨_, _, _, _, rfl⟩

/-- A fold of such work is such work. -/
theorem QueueWork.foldl {α : Type} {f : State → α → State} (hf : ∀ s a, QueueWork s (f s a)) (l : List α) (s : State) :
    QueueWork s (l.foldl f s) :=
  List.foldlRecOn l f (.refl s) fun t h a _ => h.trans (hf t a)

/-! ## The queue in its turns -/

theorem State.defer_queueWork (s : State) (a : Alloc) (ps : List Nat) (t : Tier) (op : Option (Nat × Nat)) (host : Option Hdr) :
    QueueWork s (s.defer a ps t op host) := by
  unfold State.defer
  split
  · exact .refl s
  · exact ⟨_, _, _, _, rfl⟩

/-- A turn of the queue is a migration that leaves it, one that starts, or one that waits; what has become held is deferred. -/
theorem State.turn_queueWork (s : State) (m : Mig) : QueueWork s (s.turn m).1 := by
  have hunqueue : QueueWork s (s.unqueue m.id) := ⟨_, _, _, _, rfl⟩
  have hlaunch (ps : List Nat) : QueueWork s (s.launch m ps) := ⟨_, _, _, _, rfl⟩
  have hlate {c : Bool} {t : State} {a : Alloc} {ps : List Nat} (ht : QueueWork s t) :
      QueueWork s (if c = true then t.defer a ps m.dst m.op m.host else t) := by
    split
    · exact ht.trans (t.defer_queueWork ..)
    · exact ht
  unfold State.turn
  cases s.alloc? m.alloc with
  | none => exact hunqueue
  | some a =>
    cases m.promo with
    | true =>
      simp only [if_true]
      split
      · exact hunqueue
      · exact hlaunch _
    | false =>
      simp only [Bool.false_eq_true, if_false]
      split
      · exact hlate hunqueue
      · split
        · exact hlate (hlaunch _)
        · exact .refl s

theorem State.turns_queueWork (n : Nat) (s : State) (a : Nat) : QueueWork s (State.turns n s a) := by
  induction n generalizing s with
  | zero => exact .refl s
  | succ n ih =>
    unfold State.turns
    split
    · exact .refl s
    · split
      · exact .refl s
      · dsimp only
        split
        · exact (s.turn_queueWork _).trans (ih _)
        · exact s.turn_queueWork _

theorem State.migrate_queueWork (s : State) (m : Mig) : QueueWork s (s.migrate m) := by
  unfold State.migrate
  split
  · exact .refl s
  · exact QueueWork.trans ⟨_, _, _, _, rfl⟩ (turns_queueWork ..)

theorem State.promote_queueWork (s : State) (a : Alloc) (ps : List Nat) (t : Tier) (op : Option (Nat × Nat)) (cause : Option HintCode) :
    QueueWork s (s.promote a ps t op cause) := by
  unfold State.promote
  split
  · exact .refl s
  · exact s.migrate_queueWork _

/-- Hot hints that have found no room ask again (R238). -/
theorem State.retryHot_queueWork (s : State) : QueueWork s s.retryHot := by
  refine .foldl (fun s id => ?_) _ s
  split
  · exact s.promote_queueWork ..
  · exact .refl s

/-- Without a host's eviction that waits there is none to complete. -/
theorem State.evictsDone_noEvict {s : State} (h : ∀ o ∈ s.host.cmds, o.wait ≠ .evict) : s.evictsDone = s := by
  have hnone : (s.host.cmds.filter fun o =>
      o.wait == .evict && !((s.tiers.migs ++ s.tiers.queue).any fun m => m.host == some o.hdr)) = [] := by
    simpa using fun o ho hwait => absurd hwait (h o ho)
  unfold State.evictsDone
  rw [hnone]
  rfl

/-- The end of a move changes the queue alone while no host's eviction waits for it. -/
theorem State.movesOver_queueWork {s : State} (h : ∀ o ∈ s.host.cmds, o.wait ≠ .evict) : QueueWork s s.movesOver := by
  have hwork : QueueWork s s.startAll.retryHot :=
    (QueueWork.foldl (fun s a => turns_queueWork _ s a) _ s).trans (retryHot_queueWork _)
  have hhost : s.startAll.retryHot.host = s.host := by
    obtain ⟨_, _, _, _, heq⟩ := hwork
    rw [heq]
  rw [State.movesOver, State.evictsDone_noEvict (by rwa [hhost])]
  exact hwork

/-! ## A deferred eviction that finds room -/

/-- A migration of no one's, all of whose pages still have to move down, starts at its turn when its tier has room for them. -/
theorem State.turn_fits {s : State} {m : Mig} {a : Alloc} (ha : s.alloc? m.alloc = some a) (hpromo : m.promo = false)
    (hop : m.op = none) (hhost : m.host = none) (hdue : s.due a m = m.pages) (hne : m.pages ≠ [])
    (hroom : m.pages.length ≤ s.freePages m.dst) : s.turn m = (s.launch m m.pages, false) := by
  simp [State.turn, ha, hpromo, hop, hhost, hdue, hne, hroom]

/-- The module with a migration at the end of the queue, under its number. -/
def State.enqueue (s : State) (m : Mig) : State := { s with tiers := { s.tiers with
  nextMig := s.tiers.nextMig + 1, queue := s.tiers.queue ++ [{ m with id := s.tiers.nextMig }] } }

/-- A migration of an allocation that has none in flight or queued has its turn at once. -/
theorem State.migrate_turn {s t : State} {m : Mig} (hne : m.pages ≠ []) (hflight : s.anyFlight m.alloc = false)
    (hqueue : ∀ x ∈ s.tiers.queue, x.alloc ≠ m.alloc) (hturn : (s.enqueue m).turn { m with id := s.tiers.nextMig } = (t, false)) :
    s.migrate m = t := by
  have hflight' : (s.enqueue m).anyFlight m.alloc = false := hflight
  have hlength : (s.enqueue m).tiers.queue.length = s.tiers.queue.length + 1 := List.length_append
  have hfirst : (s.enqueue m).tiers.queue.find? (fun x => decide (x.alloc = m.alloc)) = some { m with id := s.tiers.nextMig } := by
    rw [State.enqueue, List.find?_append, List.find?_eq_none.mpr (by simpa using hqueue)]
    simp
  calc s.migrate m = State.turns (s.enqueue m).tiers.queue.length (s.enqueue m) m.alloc := if_neg hne
    _ = t := by simp [hlength, State.turns, hflight', hfirst, hturn]

/-- A page of an allocation without migrations is bound for the tier in which it lies. -/
theorem State.boundTier_idle {s : State} {a : Alloc} (hflight : s.anyFlight a.id = false) (hqueue : ∀ m ∈ s.tiers.queue, m.alloc ≠ a.id)
    (i : Nat) : s.boundTier a i = (a.page i).tier := by
  have hflight' : ∀ m ∈ s.tiers.migs, m.alloc ≠ a.id := by simpa [State.anyFlight] using hflight
  have hnone : ((s.tiers.migs ++ s.tiers.queue).filter fun m => decide (m.alloc = a.id) && m.pages.contains i) = [] := by
    refine List.filter_eq_nil_iff.mpr fun m hm => ?_
    have hne : m.alloc ≠ a.id := (List.mem_append.mp hm).elim (hflight' m) (hqueue m)
    simp [hne]
  rw [State.boundTier, hnone]
  rfl

/-- A migration moves all its pages down where each has a frame above its destination and nothing holds it. -/
theorem State.due_eviction {s : State} {a : Alloc} {m : Mig} (hpromo : m.promo = false) (hrenew : m.renew = false)
    (h : ∀ i ∈ m.pages, i < a.pages ∧ s.isHeld a i = false ∧ tierAbove (a.page i).tier m.dst = true ∧ (a.page i).zod = false) :
    s.due a m = m.pages := by
  refine List.filter_eq_self.mpr fun i hi => ?_
  obtain ⟨hlt, hheld, habove, hzod⟩ := h i hi
  simp [hpromo, hrenew, hlt, hheld, habove, hzod]

/-- The module without a deferred eviction. -/
def State.undefer (s : State) (d : Nat) : State := { s with tiers := { s.tiers with
  deferred := (s.tiers.deferred.map fun y => if y.id = d then { y with pages := [] } else y).filter fun y => !y.pages.isEmpty } }

theorem State.undefer_deferred {s : State} {d : Nat} {x : Deferred} (h : x ∈ (s.undefer d).tiers.deferred) : x.id ≠ d := by
  obtain ⟨hmem, hpages⟩ := List.mem_filter.mp h
  obtain ⟨y, -, rfl⟩ := List.mem_map.mp hmem
  by_cases hy : y.id = d
  · simp [hy] at hpages
  · simp [hy]

/-- The migration that a deferred eviction becomes. -/
def Deferred.eviction (d : Deferred) : Mig := { id := 0, alloc := d.alloc, pages := d.pages, dst := d.dst, promo := false }

section Proceeds
variable {s : State} {d : Deferred} {a : Alloc} (hd : s.tiers.deferred.find? (fun x => x.id == d.id) = some d)
  (ha : s.alloc? d.alloc = some a) (hflight : s.anyFlight a.id = false) (hqueue : ∀ m ∈ s.tiers.queue, m.alloc ≠ a.id)
  (hpages : ∀ i ∈ d.pages, i < a.pages ∧ s.isHeld a i = false ∧ tierAbove (a.page i).tier d.dst = true ∧ (a.page i).zod = false)
include ha hflight hqueue hpages

include hd in
/-- A deferred eviction none of whose pages is held becomes a migration of all of them (R242). -/
theorem exec_deferredEvictionProceed_unheld : exec (.deferredEvictionProceed d.id) s = .next ((s.undefer d.id).migrate d.eviction) := by
  have hid : a.id = d.alloc := by simpa using List.find?_some ha
  have hno : s.inFlight a.id true = false := by
    simp only [State.anyFlight, State.inFlight, List.any_eq_false, Bool.and_eq_true, not_and] at hflight ⊢
    exact fun m hm h => absurd h (hflight m hm)
  have hgo : d.pages.filter (fun i => !(s.isHeld a i)) = d.pages :=
    List.filter_eq_self.mpr fun i hi => by simp [(hpages i hi).2.1]
  have hstay : d.pages.filter (fun i => s.isHeld a i) = [] :=
    List.filter_eq_nil_iff.mpr fun i hi => by simp [(hpages i hi).2.1]
  have habove : d.pages.filter ((s.undefer d.id).isAbove a d.dst) = d.pages := by
    refine List.filter_eq_self.mpr fun i hi => ?_
    obtain ⟨-, -, htier, hzod⟩ := hpages i hi
    have hbound : (s.undefer d.id).boundTier a i = (a.page i).tier := State.boundTier_idle hflight hqueue i
    simp [State.isAbove, hbound, htier, hzod]
  have hexec : exec (.deferredEvictionProceed d.id) s = execDeferredEvictionProceed d.id s := rfl
  rw [hexec, execDeferredEvictionProceed, hd]
  dsimp only
  rw [ha]
  dsimp only
  rw [hno, if_neg Bool.false_ne_true, hgo, hstay]
  rw [State.undefer] at habove ⊢
  rw [habove, hid]
  rfl

/-- Where its tier has room for it, this migration starts at once. -/
theorem State.undefer_migrate (hne : d.pages ≠ []) (hroom : d.pages.length ≤ s.freePages d.dst) :
    (s.undefer d.id).migrate d.eviction
      = ((s.undefer d.id).enqueue d.eviction).launch { d.eviction with id := s.tiers.nextMig } d.pages := by
  have hid : a.id = d.alloc := by simpa using List.find?_some ha
  rw [hid] at hflight hqueue
  exact State.migrate_turn hne hflight hqueue (State.turn_fits ha rfl rfl rfl (State.due_eviction rfl rfl hpages) hne hroom)

end Proceeds

/-! ## The pages of an allocation -/

theorem Alloc.page_setPage (a : Alloc) (i j : Nat) (p : PageInfo) : (a.setPage i p).page j = if j = i then p else a.page j := by
  rw [Alloc.page, Alloc.setPage, assocGet_put]
  split <;> rfl

/-- An allocation with some of its pages updated. -/
def Alloc.mapPages (a : Alloc) (ps : List Nat) (f : PageInfo → PageInfo) : Alloc :=
  ps.foldl (fun b i => b.setPage i (f (b.page i))) a

theorem Alloc.mapPages_id (a : Alloc) (ps : List Nat) (f : PageInfo → PageInfo) : (a.mapPages ps f).id = a.id := by
  induction ps generalizing a with
  | nil => rfl
  | cons i ps ih => exact ih _

/-- An update that does nothing more the second time changes the pages listed and no other. -/
theorem Alloc.mapPages_page (a : Alloc) (ps : List Nat) {f : PageInfo → PageInfo} (hf : ∀ p, f (f p) = f p) (j : Nat) :
    (a.mapPages ps f).page j = if j ∈ ps then f (a.page j) else a.page j := by
  induction ps generalizing a with
  | nil => rfl
  | cons i ps ih =>
    rw [Alloc.mapPages, List.foldl_cons, ← Alloc.mapPages, ih, Alloc.page_setPage]
    by_cases hj : j = i <;> simp [hj, hf]

/-- An allocation is found after its update. -/
theorem State.alloc?_modAlloc {s : State} {id : Nat} {a : Alloc} {f : Alloc → Alloc} (h : s.alloc? id = some a)
    (hf : ∀ x, (f x).id = x.id) : (s.modAlloc a.id f).alloc? id = some (f a) := by
  have hid (x : Alloc) : (if (x.id == a.id) = true then f x else x).id = x.id := by split <;> simp [hf]
  unfold State.alloc? at h ⊢
  rw [State.modAlloc, mapWhere, List.find?_map]
  simp only [Function.comp_def, hid, h, Option.map_some, beq_self_eq_true, if_true]

/-- No entry of a TLB is left for pages that it has lost. -/
theorem State.invalPages_tlb {s : State} {a : Alloc} {ps : List Nat} {i : Nat} {x : TlbEntry} (hi : i ∈ ps)
    (hx : x ∈ (s.invalPages a ps).tiers.tlb) : x.page ≠ a.id + i := by
  obtain ⟨-, hkeep⟩ := List.mem_filter.mp hx
  have hlost : ∀ j ∈ ps, a.id + j ≠ x.page := by simpa using hkeep
  exact (hlost i hi).symm

/-! ## The switch (R245) -/

/-- An entry whose switch is under way. -/
def PageInfo.marked (p : PageInfo) : PageInfo := { p with sw := true }

/-- An entry that names a frame of another tier. -/
def PageInfo.moved (t : Tier) (p : PageInfo) : PageInfo := { p with tier := t, sw := false }

theorem State.markSwitch_eq (s : State) (a : Alloc) (ps : List Nat) :
    s.markSwitch a ps = (s.modAlloc a.id fun b => b.mapPages ps .marked).invalPages a ps := rfl

/-- The first event of a migration that no one waits for: the entries of what is due are marked and leave every TLB. -/
theorem exec_migrationSwitch_begins {s : State} {m : Mig} {a : Alloc} (hm : s.tiers.migs.find? (fun x => x.id == m.id) = some m)
    (ha : s.alloc? m.alloc = some a) (hsw : m.switching = false) (hfree : m.promo = true ∨ (m.op = none ∧ m.host = none))
    (hdue : s.due a m ≠ []) :
    exec (.migrationSwitch m.id) s = .next (({ s with tiers := { s.tiers with
      migs := mapWhere (fun x => x.id == m.id) (fun x => { x with pages := s.due a m, switching := true }) s.tiers.migs } } : State).markSwitch
        a (s.due a m)) := by
  have hlate : (m.promo || (m.op.isNone && m.host.isNone)) = true := by
    obtain h | ⟨hop, hhost⟩ := hfree
    · simp [h]
    · simp [hop, hhost]
  have hexec : exec (.migrationSwitch m.id) s = execMigrationSwitch m.id s := rfl
  rw [hexec]
  simp [execMigrationSwitch, hm, ha, hsw, hlate, hdue, State.defer]

/-- The module without a migration in flight. -/
def State.unfly (s : State) (id : Nat) : State := { s with tiers := { s.tiers with migs := s.tiers.migs.filter fun x => x.id != id } }

/-- The module with the pages of a migration in frames of their new tier. -/
def State.newFrames (s : State) (a : Alloc) (m : Mig) : State :=
  (s.modAlloc a.id fun b => b.mapPages m.pages (.moved m.dst)).invalPages a m.pages

/-- Beside the entries that a move rewrites, the frames that it leaves are entered as old ones. -/
theorem State.reframe_retireOld (s : State) (a : Alloc) (m : Mig) :
    ∃ old, (s.reframe m.id a m.pages m.dst).retireOld m = { s.newFrames a m with tiers := { (s.newFrames a m).tiers with old } } := by
  unfold State.retireOld
  split <;> exact ⟨_, rfl⟩

/-- The second event: the pages take frames of the new tier, and the queue of migrations goes on. -/
theorem exec_migrationSwitch_ends {s : State} {m : Mig} {a : Alloc} (hm : s.tiers.migs.find? (fun x => x.id == m.id) = some m)
    (ha : s.alloc? m.alloc = some a) (hsw : m.switching = true) (hhost : ∀ o ∈ s.host.cmds, o.wait ≠ .evict) :
    ∃ migs queue deferred nextMig old, exec (.migrationSwitch m.id) s = .next { s.newFrames a m with tiers :=
      { (s.newFrames a m).tiers with migs, queue, deferred, nextMig, old } } := by
  have hexec : exec (.migrationSwitch m.id) s = execMigrationSwitch m.id s := rfl
  have hstep : execMigrationSwitch m.id s = .next (((s.unfly m.id).reframe m.id a m.pages m.dst).retireOld m).movesOver := by
    simp [execMigrationSwitch, hm, ha, hsw, State.unfly]
  obtain ⟨old, hold⟩ := (s.unfly m.id).reframe_retireOld a m
  have hqueue : QueueWork _ (((s.unfly m.id).reframe m.id a m.pages m.dst).retireOld m).movesOver :=
    State.movesOver_queueWork (by rw [hold]; exact hhost)
  obtain ⟨migs, queue, deferred, nextMig, hover⟩ := hqueue
  refine ⟨migs, queue, deferred, nextMig, old, ?_⟩
  rw [hexec, hstep, hover, hold]
  rfl

/-! ## The old frames (R245) -/

/-- An access that was outstanding when the frames became old ones still is. -/
def State.awaited (s : State) (o : OldFrame) : Bool :=
  o.waits.any fun w => s.sched.execs.any fun e => decide (e.id = w.1) && e.st.ops.any fun q => decide (q.id = w.2)

theorem State.awaited_iff (s : State) (o : OldFrame) :
    s.awaited o = true ↔ ∃ w ∈ o.waits, ∃ e ∈ s.sched.execs, e.id = w.1 ∧ ∃ q ∈ e.st.ops, q.id = w.2 := by
  simp only [State.awaited, List.any_eq_true, Bool.and_eq_true, decide_eq_true_eq]

/-- Old frames come free, and with them an allocation that has been freed, once no access awaits them. -/
theorem exec_oldFrameFree {s : State} {o : OldFrame} (h : s.tiers.old.find? (fun x => x.mig == o.mig) = some o) :
    exec (.oldFrameFree o.mig) s = .next (if s.awaited o then s else ({ s with tiers := { s.tiers with
      old := s.tiers.old.filter fun x => x.mig != o.mig
      retired := if o.retire then s.tiers.retired ++ (upto o.pages).map (fun k => (o.tier, s.tiers.retired.length + k)) else s.tiers.retired
      allocs := s.tiers.allocs.filter fun a => !(a.id == o.alloc && a.freed) } }).movesOver) := by
  have hexec : exec (.oldFrameFree o.mig) s = execOldFrameFree o.mig s := rfl
  rw [hexec, execOldFrameFree, h]
  rfl

/-! ## The tier manager's own moves (R239, R278) -/

/-- A page of T2 that is read often, and to which no hint applies, moves up where T1 is roomy. -/
theorem exec_tierAutoPromote_read {s : State} {a : Alloc} {page reads : Nat} (ha : s.alloc? a.id = some a) (hpage : page < a.pages)
    (htier : (a.page page).tier = .t2) (hzod : (a.page page).zod = false) (hhint : s.anyHint a page = false) (hreads : 4 ≤ reads)
    (hroomy : s.roomy .t1 = true) :
    exec (.tierAutoPromote a.id page (.read reads)) s = .next (s.promote a [page] .t1 none none) := by
  have hexec : exec (.tierAutoPromote a.id page (.read reads)) s = execTierAutoPromote a.id page (.read reads) s := rfl
  rw [hexec]
  simp [execTierAutoPromote, ha, hpage, htier, hzod, hhint, hreads, hroomy]

/-- A page of a forme that its execution may read is fetched ahead. -/
theorem exec_tierAutoPromote_forme {s : State} {a : Alloc} {page : Nat} {e : Exec} {t : Tier} (ha : s.alloc? a.id = some a)
    (hpage : page < a.pages) (hzod : (a.page page).zod = false) (hfreed : a.freed = false) (ht : t = .t0 ∨ t = .t1)
    (he : s.ex? e.id = some e) (hread : ∃ b i w, s.pageAt e.ctx (a.id + page) = .mem b i true w) :
    exec (.tierAutoPromote a.id page (.forme e.id t)) s = .next (s.promote a [page] t none none) := by
  obtain ⟨b, i, w, hread⟩ := hread
  have hexec : exec (.tierAutoPromote a.id page (.forme e.id t)) s = execTierAutoPromote a.id page (.forme e.id t) s := rfl
  rw [hexec]
  simp [execTierAutoPromote, ha, he, hread, hpage, hzod, hfreed, ht]

/-- The first victim of a T1 that is nearly full moves down when no hint applies to it. -/
theorem exec_tierAutoDemote_t1 {s : State} {a : Alloc} {page : Nat} {v : Victim} (ha : s.alloc? a.id = some a) (hpage : page < a.pages)
    (htier : (a.page page).tier = .t1) (hfull : 100 * s.freePages .t1 < 3 * s.capPages .t1) (hv : (s.victims .t1).head? = some v)
    (halloc : v.alloc = a.id) (hunit : v.unit = a.unitAt page) (hhint : s.anyHint a v.unit.1 = false) :
    exec (.tierAutoDemote a.id page) s = .next (s.evict a [page] .t2 none none none).1 := by
  obtain ⟨vs, hvs⟩ := List.head?_eq_some_iff.mp hv
  have hexec : exec (.tierAutoDemote a.id page) s = execTierAutoDemote a.id page s := rfl
  rw [hunit] at hhint
  rw [hexec]
  simp [execTierAutoDemote, ha, htier, hvs, halloc, hunit, hhint, hpage, hfull, tierDown]

end Sys2Proof.Machine
end

section
/-!
CERTIFICATE. The moves of the tier manager (R239, R242, R245, R278).
-/
open Sys2Proof Sys2Proof.Machine

/-- Settles O22: what ends a move changes the queue of migrations alone, so the pages, the TLBs and all else stand as the switch has
left them; a deferred eviction without holds is due whole, and its turn comes at once. -/
theorem migrations : Obligations.Migrations := by
  refine ⟨fun s m a hm ha hsw hfree hdue => ⟨_, exec_migrationSwitch_begins hm ha hsw hfree hdue, ?begins⟩,
    fun s m a hm ha hsw hhost => ?ends,
    fun s o ho => ?old, fun s d a hd ha hflight hqueue hpages hne hroom => ?deferred,
    fun s a page reads => exec_tierAutoPromote_read, fun s a page e t => exec_tierAutoPromote_forme,
    fun s a page v => exec_tierAutoDemote_t1⟩
  case begins =>
    rw [State.markSwitch_eq]
    have hfound := State.alloc?_modAlloc ha fun b => b.mapPages_id (s.due a m) .marked
    have hpages := a.mapPages_page (s.due a m) (f := .marked) fun _ => rfl
    have hmem : m ∈ s.tiers.migs := List.mem_of_find?_eq_some hm
    exact ⟨⟨_, hfound, hpages⟩, fun i hi x hx => State.invalPages_tlb hi hx,
      ⟨_, List.mem_map.mpr ⟨m, hmem, if_pos (beq_self_eq_true _)⟩, rfl⟩, rfl, rfl, rfl⟩
  case ends =>
    obtain ⟨_, _, _, _, _, hexec⟩ := exec_migrationSwitch_ends hm ha hsw hhost
    have hfound := State.alloc?_modAlloc ha fun b => b.mapPages_id m.pages (.moved m.dst)
    have hpages := a.mapPages_page m.pages (f := .moved m.dst) fun _ => rfl
    exact ⟨_, hexec, ⟨_, hfound, hpages⟩, fun i hi x hx => State.invalPages_tlb hi hx, rfl, rfl, rfl⟩
  case old =>
    rw [exec_oldFrameFree ho]
    refine ⟨fun hnone => ?_, fun w e q hw he hid hq hop => ?_⟩
    · rw [if_neg]
      intro hawaited
      obtain ⟨w, hw, e, he, hid, q, hq, hop⟩ := (s.awaited_iff o).mp hawaited
      exact hnone w hw e he hid q hq hop
    · rw [if_pos ((s.awaited_iff o).mpr ⟨w, hw, e, he, hid, q, hq, hop⟩)]
  case deferred =>
    refine ⟨_, exec_deferredEvictionProceed_unheld hd ha hflight hqueue hpages, ?_⟩
    rw [State.undefer_migrate ha hflight hqueue hpages hne hroom]
    have hid : a.id = d.alloc := by simpa using List.find?_some ha
    exact ⟨fun x => State.undefer_deferred, _, rfl, hid.symm, rfl, rfl, rfl⟩
end

section
/-!
SUPPORT. What the end of an operation leaves of its execution, and the retry of a host's data transfer (R223, R546).
-/
namespace Sys2Proof.Machine

/-- The completion of an operation sets at most its flag. -/
theorem Exec.setNamed_eq (e : Exec) (ev : EvSel) : ∃ evs, e.setNamed ev = { e with evs } := by
  unfold Exec.setNamed
  cases ev with
  | none => exact ⟨_, rfl⟩
  | some f =>
    dsimp only
    split <;> exact ⟨_, rfl⟩

/-- An operation that ends leaves the outstanding ones; beside its flag nothing else of the execution changes. -/
theorem Exec.finishOp_eq (e : Exec) (o : Op) :
    ∃ evs, e.finishOp o = { e with evs, st := { e.st with ops := e.st.ops.filter fun q => q.id != o.id } } :=
  Exec.setNamed_eq ..

/-- Without a fence or a wait under way, a completion changes its own execution only (R222 to R224). -/
theorem State.settle_unstalled (s : State) {e : Exec} (h : e.stall = none) : s.settle e = s.setEx e := by
  rw [State.settle, h]

/-- What an asynchronous answer does to the one open execution of its compositor that has the operation (R184). -/
theorem State.onOp_opened {s : State} {c : Fin 16} {e : Exec} {o : Op} (h : Opened s c e o) (f : State → Exec → Op → State) :
    s.onOp c o.id f = f s e o := by
  obtain ⟨hopen, hex, hop⟩ := h
  rw [State.onOp, hopen, List.foldl_cons, List.foldl_nil]
  simp only [hex, hop]

/-- The execution whose step has a write that FENCE.MV covers fail (R223). -/
def Exec.poisoned (e : Exec) : Exec := { e with st := { e.st with poisonMv := true } }

/-- A write that FENCE.MV covers and that fails poisons the step, and its operation is over (R223). -/
theorem exec_poisonedResponse_compositor {s : State} {c : Fin 16} {e : Exec} {o : Op} (h : Opened s c e o)
    (hk : o.kind = .move ∨ o.kind = .sts) (hstall : e.stall = none) :
    exec (.poisonedResponse (.compositor c o.id)) s = .next (s.setEx (e.poisoned.finishOp o)) := by
  have hop : s.poisonOp e o = s.settle (e.poisoned.finishOp o) := by
    obtain hk | hk := hk <;> rw [State.poisonOp, hk] <;> rfl
  have hexec : exec (.poisonedResponse (.compositor c o.id)) s = .next (s.onOp c o.id fun s e o => s.poisonOp e o) := rfl
  have hfree : (e.poisoned.finishOp o).stall = none := by
    obtain ⟨_, hfin⟩ := e.poisoned.finishOp_eq o
    rw [hfin]
    exact hstall
  rw [hexec, State.onOp_opened h, hop, State.settle_unstalled s hfree]

/-- The commands of the host with those of one header marked as retried under the unit epochs of now (R546, R550). -/
def State.retriedCmds (s : State) (h : Hdr) : List OutCmd :=
  mapWhere (fun x => x.hdr == h) (fun x => { x with retried := true, uep := s.units.epochs }) s.host.cmds

theorem State.retriedCmds_length (s : State) (h : Hdr) : (s.retriedCmds h).length = s.host.cmds.length := List.length_map ..

theorem State.retriedCmds_retried {s : State} {h : Hdr} {x : OutCmd} (hx : x ∈ s.retriedCmds h) (hh : x.hdr = h) : x.retried = true := by
  obtain ⟨y, -, rfl⟩ := List.mem_map.mp hx
  split
  · rfl
  next hy => exact absurd (beq_iff_eq.mpr (by simpa [hy] using hh)) hy

/-- A data transfer that fails for the first time is sent again (R546, R550). -/
theorem State.hostRetry_first {s : State} {h : Hdr} {o : OutCmd} (hf : s.host.cmds.find? (fun x => x.hdr == h && x.wait == .data) = some o)
    (ho : o.retried = false) : s.hostRetry h = { s with host := { s.host with cmds := s.retriedCmds h } } := by
  simp [State.hostRetry, hf, ho, State.retriedCmds]

end Sys2Proof.Machine
end

section
/-!
CERTIFICATE. Poisoned responses (R223, R546, R550).
-/
open Sys2Proof Sys2Proof.Machine

/-- Settles O14: each unit that collects a poisoned response has one thing to do with it, and a bridge that has mended its data only
reports. -/
theorem poisonedResponses : Obligations.PoisonedResponses := by
  refine ⟨fun s c e o h hk hstall => ⟨_, exec_poisonedResponse_compositor h hk hstall, ?compositor⟩, fun s h o hf ho => ?hostDma,
    fun s m hm => ?tierManager, fun s b => ?bridge⟩
  case compositor =>
    obtain ⟨-, hex, -⟩ := h
    obtain ⟨_, hfin⟩ := e.poisoned.finishOp_eq o
    rw [hfin]
    exact ⟨_, State.ex?_setEx hex rfl, rfl, fun q hq => by simpa using (List.mem_filter.mp hq).2, rfl, rfl⟩
  case hostDma =>
    have hexec : exec (.poisonedResponse (.hostDma h)) s = .next (s.hostRetry h) := rfl
    refine ⟨_, hexec, ?_⟩
    rw [State.hostRetry_first hf ho]
    exact ⟨rfl, s.retriedCmds_length h, fun x => State.retriedCmds_retried⟩
  case tierManager =>
    have hexec : exec (.poisonedResponse (.tierManager m.id)) s = execPoisonedResponse (.tierManager m.id) s := rfl
    rw [hexec, execPoisonedResponse]
    simp only [hm]
  case bridge => rfl
end

section
/-!
SUPPORT. What lasts beyond every response to a fault: the sticky bits and FLT_FIRST (R526 to R528), and the spare words that the
banks' remap tables have given out (R541).
-/
namespace Sys2Proof.Machine

/-- The sticky bits, FLT_FIRST and the banks' remap tables. -/
def State.ledger (s : State) : BitVec 256 × Option FirstFault × List (Nat × Nat) := (s.flt.sticky, s.flt.first, s.fab.bankRemap)

/-- The ledger is the collector's and the fabric's. -/
theorem ledger_congr {s t : State} (hflt : t.flt = s.flt) (hfab : t.fab = s.fab) : t.ledger = s.ledger := by
  rw [State.ledger, State.ledger, hflt, hfab]

/-- A condition between two operations that both leave the ledger. -/
theorem ite_ledger {p : Prop} [Decidable p] {a b s : State} (ha : a.ledger = s.ledger) (hb : b.ledger = s.ledger) :
    (if p then a else b).ledger = s.ledger := by
  split
  · exact ha
  · exact hb

/-- A fold of operations that leave the ledger leaves it. -/
theorem foldl_ledger {α : Type} {f : State → α → State} (hf : ∀ s a, (f s a).ledger = s.ledger) (l : List α) (s : State) :
    (l.foldl f s).ledger = s.ledger := by
  induction l generalizing s with
  | nil => rfl
  | cons a l ih => exact (ih _).trans (hf s a)

/-! ## Executions and their jobs -/

theorem State.modEx_ledger (s : State) (id : Nat) (f : Exec → Exec) : (s.modEx id f).ledger = s.ledger := rfl

theorem State.post_ledger (s : State) (h : Hdr) (sct sc : Nat) (dw0 dw1 : W32) : (s.post h sct sc dw0 dw1).ledger = s.ledger := rfl

theorem State.jobDoneAt_ledger (s : State) (t : Nat) (h : Hdr) (ctx : Fin 64) (dl : Nat) (o : JobEnd) :
    (s.jobDoneAt t h ctx dl o).ledger = s.ledger := by
  cases o with
  | success => exact ite_ledger rfl rfl
  | _ => rfl

theorem State.jobDone_ledger (s : State) (h : Hdr) (ctx : Fin 64) (dl : Nat) (o : JobEnd) : (s.jobDone h ctx dl o).ledger = s.ledger :=
  jobDoneAt_ledger ..

theorem State.objDone_ledger (s : State) (e : Exec) (o : ObjCmd) : (s.objDone e o).ledger = s.ledger := jobDone_ledger ..

theorem State.endObjs_ledger (s : State) (e : Exec) (o : JobEnd) : (s.endObjs e o).ledger = s.ledger :=
  foldl_ledger (fun s x => ite_ledger (s.objDone_ledger e x) (jobDone_ledger ..)) _ s

theorem State.fillComp_ledger (s : State) (c : Fin 16) : (s.fillComp c).ledger = s.ledger := by
  refine ite_ledger rfl ?_
  split
  · exact ite_ledger (foldl_ledger (fun s i => s.modEx_ledger i _) _ s) rfl
  · rfl

theorem State.fillComps_ledger (s : State) : s.fillComps.ledger = s.ledger := foldl_ledger fillComp_ledger _ s

theorem State.dropExec_ledger (s : State) (e : Exec) : (s.dropExec e).ledger = s.ledger := fillComps_ledger _

theorem State.endExecAt_ledger (s : State) (t : Nat) (e : Exec) (o : JobEnd) : (s.endExecAt t e o).ledger = s.ledger :=
  calc (s.endExecAt t e o).ledger
    _ = _ := ite_ledger rfl (jobDoneAt_ledger ..)
    _ = _ := dropExec_ledger ..
    _ = _ := ite_ledger rfl rfl
    _ = _ := ite_ledger rfl rfl
    _ = _ := ite_ledger rfl (ite_ledger rfl rfl)
    _ = s.ledger := endObjs_ledger ..

theorem State.endExec_ledger (s : State) (e : Exec) (o : JobEnd) : (s.endExec e o).ledger = s.ledger := endExecAt_ledger ..

theorem State.abandon1_ledger (s : State) (id : Nat) : (s.abandon1 id).ledger = s.ledger := rfl

theorem State.abandon_ledger (s : State) (e : Exec) : (s.abandon e).ledger = s.ledger := foldl_ledger abandon1_ledger _ s

theorem State.jobFail_ledger (s : State) (e : Exec) (sc : Nat) (dw0 dw1 : W32) : (s.jobFail e sc dw0 dw1).ledger = s.ledger :=
  (endExec_ledger ..).trans (foldl_ledger abandon1_ledger _ s)

theorem State.rerunOr_ledger (s : State) (e : Exec) (cause : RerunCause) (sc : Nat) (dw0 dw1 : W32) :
    (s.rerunOr e cause sc dw0 dw1).ledger = s.ledger :=
  ite_ledger (jobFail_ledger ..) ((abandon_ledger ..).trans (foldl_ledger (fun s i => s.modEx_ledger i _) _ s))

/-! ## The end of service -/

theorem State.caught_ledger (s : State) (o : OutCmd) (how : JobEnd) : (s.caught o how).ledger = s.ledger := by
  unfold State.caught
  dsimp only
  split
  · split
    · exact endExec_ledger ..
    · exact ite_ledger rfl rfl
  · split
    · exact jobDone_ledger ..
    · exact ite_ledger rfl rfl
  · exact ite_ledger rfl rfl
  · exact ite_ledger rfl rfl

theorem State.endAssoc_ledger (s : State) (n : Nat) : (s.endAssoc n).ledger = s.ledger := by
  refine Eq.trans (ledger_congr rfl rfl) (foldl_ledger (fun s o => ?_) _ s)
  exact ite_ledger (ite_ledger (caught_ledger ..) rfl) rfl

theorem State.endAllAssocs_ledger (s : State) : s.endAllAssocs.ledger = s.ledger := foldl_ledger endAssoc_ledger _ s

theorem State.stopService_ledger (s : State) : s.stopService.ledger = s.ledger := by
  refine (foldl_ledger (fun s e => ?_) _ _).trans s.endAllAssocs_ledger
  split
  · exact dropExec_ledger ..
  · rfl

theorem State.portDown_ledger (s : State) (p : Fin 4) : (s.portDown p).ledger = s.ledger :=
  Eq.trans (ledger_congr rfl rfl) (foldl_ledger endAssoc_ledger _ s)

/-! ## Writes and the flush -/

theorem State.modIndex_ledger (s : State) (n : Nat) (f : Index → Index) : (s.modIndex n f).ledger = s.ledger := ite_ledger rfl rfl

theorem State.hold1_ledger (s : State) (nsid lba : Nat) (b : PBlk) : (s.hold1 nsid lba b).ledger = s.ledger := by
  have hpublish : (s.publish nsid lba b).ledger = s.ledger := ite_ledger (modIndex_ledger ..) rfl
  exact hpublish

theorem State.holdAll_ledger (s : State) (nsid lba : Nat) (bs : List PBlk) : (s.holdAll nsid lba bs).ledger = s.ledger := by
  induction bs generalizing s lba with
  | nil => rfl
  | cons b bs ih => exact (ih ..).trans (hold1_ledger ..)

theorem State.program_ledger (s : State) (pslc gc : Bool) (entries : List (Nat × Option Loc)) (seqs : List Nat) :
    (s.program pslc gc entries seqs).ledger = s.ledger := by
  unfold State.program
  dsimp only
  split <;> rfl

theorem State.gather_ledger (s : State) : s.gather.ledger = s.ledger :=
  foldl_ledger (fun _ _ => ite_ledger (program_ledger ..) rfl) _ s

theorem State.hold_ledger (s : State) (nsid lba : Nat) (bs : List PBlk) : (s.hold nsid lba bs).ledger = s.ledger :=
  (gather_ledger _).trans (s.holdAll_ledger nsid lba bs)

theorem State.zoneApply_ledger (s : State) (nsid z : Nat) (act : ZoneAct) : (s.zoneApply nsid z act).ledger = s.ledger := by
  cases act <;> rfl

theorem State.applyWrite_ledger (s : State) (w : MirWrite) : (s.applyWrite w).ledger = s.ledger := by
  unfold State.applyWrite
  split
  · exact hold_ledger ..
  · rfl
  · exact (gather_ledger _).trans (zoneApply_ledger ..)
  · rfl

theorem State.modGroup_ledger (s : State) (g : Nat) (f : Group → Group) : (s.modGroup g f).ledger = s.ledger := ite_ledger rfl rfl

theorem State.markChanged_ledger (s : State) (w : MirWrite) : (s.markChanged w).ledger = s.ledger :=
  ite_ledger (modGroup_ledger ..) rfl

theorem State.wroteThrough_ledger (s : State) (keys : List Nat) : (s.wroteThrough keys).ledger = s.ledger := by
  refine foldl_ledger (fun s o => ?_) _ _
  exact s.post_ledger ..

theorem State.programDone_ledger (s : State) (op : DieOp) (verified : Bool) : (s.programDone op verified).ledger = s.ledger := by
  cases op with
  | erase => rfl
  | program => exact ite_ledger rfl (wroteThrough_ledger ..)

theorem State.programsDone_ledger (s : State) : s.programsDone.ledger = s.ledger := foldl_ledger (fun s o => s.programDone_ledger o true) _ s

theorem flushRounds_ledger (n : Nat) (s : State) : (flushRounds n s).ledger = s.ledger := by
  induction n generalizing s with
  | zero => rfl
  | succ n ih => exact (ih _).trans ((State.programsDone_ledger _).trans s.gather_ledger)

theorem State.flushAll_ledger (s : State) : s.flushAll.ledger = s.ledger := (flushRounds_ledger ..).trans (programsDone_ledger _)

/-! ## The partner is lost -/

theorem State.pairTo_ledger (s : State) (st : PairSt) : (s.pairTo st).ledger = s.ledger :=
  ite_ledger rfl (State.aer_keeps State.ledger (fun _ _ => rfl) ..)

theorem State.heldBoth_ledger (s : State) (o : OutCmd) : (s.heldBoth o).ledger = s.ledger := ite_ledger rfl rfl

theorem State.soloWrite_ledger (s : State) (u : Unacked) : (s.soloWrite u).ledger = s.ledger := by
  unfold State.soloWrite
  refine (foldl_ledger (fun s o => ?_) _ _).trans ?_
  · exact ite_ledger rfl (s.heldBoth_ledger o)
  change State.ledger (match u.w with | some _ => _ | none => _) = _
  split
  · exact ite_ledger ((markChanged_ledger ..).trans (applyWrite_ledger ..)) (markChanged_ledger ..)
  · rfl

theorem State.keepHanding_ledger (s : State) : s.keepHanding.ledger = s.ledger := by
  refine foldl_ledger (fun s o => ?_) _ _
  exact s.post_ledger ..

theorem State.soloEpochs_ledger (s : State) : s.soloEpochs.ledger = s.ledger := by
  refine foldl_ledger (fun s o => ?_) _ s
  exact s.post_ledger ..

theorem State.withoutPartner_ledger (s : State) : s.withoutPartner.ledger = s.ledger :=
  (keepHanding_ledger _).trans ((soloEpochs_ledger _).trans (foldl_ledger soloWrite_ledger _ _))

theorem State.linkLost_ledger (s : State) : s.linkLost.ledger = s.ledger :=
  ite_ledger (ite_ledger rfl ((withoutPartner_ledger _).trans (s.pairTo_ledger _))) rfl

theorem State.groupDown_ledger (s : State) (g : Fin 4) : (s.groupDown g).ledger = s.ledger := ite_ledger rfl (linkLost_ledger _)

/-! ## Power down and fallback -/

theorem State.loseRoles_ledger (s : State) : s.loseRoles.ledger = s.ledger := ite_ledger rfl rfl

theorem State.dropVolatile_ledger (s : State) : s.dropVolatile.ledger = s.ledger := s.endAllAssocs_ledger

theorem State.powerDown_ledger (s : State) : s.powerDown.ledger = s.ledger := by
  refine Eq.trans ?_ ((dropVolatile_ledger _).trans s.loseRoles_ledger)
  unfold State.powerDown
  generalize s.loseRoles.dropVolatile = t
  rfl

theorem State.raiseEpoch_ledger (s : State) (u : Nat) : (s.raiseEpoch u).ledger = s.ledger := rfl

theorem State.raiseAll_ledger (s : State) : s.raiseAll.ledger = s.ledger := foldl_ledger raiseEpoch_ledger _ s

theorem State.moduleReset_ledger (s : State) : s.moduleReset.ledger = s.ledger := by
  refine Eq.trans ?_ ((raiseAll_ledger _).trans s.powerDown_ledger)
  unfold State.moduleReset
  generalize s.powerDown.raiseAll = t
  rfl

theorem State.fallBack_ledger (s : State) : s.fallBack.ledger = s.ledger := by
  refine Eq.trans ?_ s.moduleReset_ledger
  unfold State.fallBack
  generalize s.moduleReset = t
  dsimp only
  split <;> rfl

/-! ## Remedies and responses (R525, R531, R532) -/

theorem State.leaveComp_ledger (s : State) (c : Fin 16) : (s.leaveComp c).ledger = s.ledger := by
  refine (fillComps_ledger _).trans (Eq.trans (ledger_congr rfl rfl) (foldl_ledger (fun s i => ?_) _ s))
  exact (modEx_ledger ..).trans (s.abandon1_ledger i)

theorem State.startBridgeReset_ledger (s : State) (b : Fin 16) : (s.startBridgeReset b).ledger = s.ledger := ite_ledger rfl rfl

theorem State.fenceTile_ledger (s : State) (prow pcol cause : Nat) (inj : Bool) : (s.fenceTile prow pcol cause inj).ledger = s.ledger :=
  ite_ledger rfl rfl

theorem State.fenceAll_ledger (s : State) (rs : List Report) : (s.fenceAll rs).ledger = s.ledger := by
  refine foldl_ledger (fun s r => ?_) rs s
  have hcount (h : Health) (c : Bool) : (if c = true then { s with health := h } else s).ledger = s.ledger := ite_ledger rfl rfl
  exact ite_ledger ((fenceTile_ledger ..).trans (hcount ..)) (hcount ..)

theorem State.residueReruns_ledger (s : State) (rs : List Report) : (s.residueReruns rs).ledger = s.ledger := by
  refine foldl_ledger (fun s i => ?_) _ s
  split
  · exact (rerunOr_ledger ..).trans rfl
  · rfl

theorem State.stepHit_ledger (s : State) (r : Report) : (s.stepHit r).ledger = s.ledger := by
  unfold State.stepHit
  dsimp only
  split
  · rfl
  · exact ite_ledger (ite_ledger rfl (ite_ledger (abandon_ledger ..) (rerunOr_ledger ..)))
      (ite_ledger (rerunOr_ledger ..) (ite_ledger (rerunOr_ledger ..) (ite_ledger (rerunOr_ledger ..) rfl)))

theorem State.minorHits_ledger (s : State) (rs : List Report) : (s.minorHits rs).ledger = s.ledger :=
  (foldl_ledger stepHit_ledger ..).trans ((residueReruns_ledger ..).trans (fenceAll_ledger ..))

theorem State.remedy1_ledger (s : State) (r : Report) : (s.remedy1 r).ledger = s.ledger :=
  ite_ledger rfl <| ite_ledger (leaveComp_ledger ..) <| ite_ledger rfl <|
    ite_ledger (ite_ledger (startBridgeReset_ledger ..) rfl) <| ite_ledger (ite_ledger rfl rfl) <|
      ite_ledger (portDown_ledger ..) <| ite_ledger (groupDown_ledger ..) rfl

theorem State.remedy_ledger (s : State) (f : ActiveFault) : (s.remedy f).ledger = s.ledger := foldl_ledger remedy1_ledger _ s

theorem State.bootFailed_ledger (s : State) : s.bootFailed.ledger = s.ledger := ite_ledger rfl rfl

theorem State.announce_ledger (s : State) : s.announce.ledger = s.ledger := ite_ledger rfl rfl

theorem State.saveMap_ledger (s : State) : s.saveMap.ledger = s.ledger := rfl

/-- Only in the phases that still serve does the response act; none of its parts touches the ledger (R531, R532). -/
theorem State.majorResponse_ledger (s : State) : s.majorResponse.ledger = s.ledger := by
  have hstop (t : State) : t.announce.stopService.flushAll.ledger = t.ledger :=
    (flushAll_ledger _).trans ((stopService_ledger _).trans t.announce_ledger)
  unfold State.majorResponse
  split
  case h_7 =>
    refine (ite_ledger (fallBack_ledger _) rfl).trans ((loseRoles_ledger _).trans ?_)
    refine Eq.trans ?_ ((hstop _).trans (bootFailed_ledger { s with flt := { s.flt with faultN := true } }))
    generalize State.flushAll _ = t
    rfl
  all_goals rfl

/-- The module in the Trump response once service has stopped and dirty data is out, before its power goes (R531). -/
def State.trumpStopped (s : State) (src : Fin 256) : State :=
  let s := ({ s with flt := { s.flt with faultN := true } }).bootFailed
  let s := if s.life.phase = .majorOut then s else s.announce.stopService
  if noFlush src then s else s.flushAll

theorem State.trumpStopped_ledger (s : State) (src : Fin 256) : (s.trumpStopped src).ledger = s.ledger := by
  have hstopped (t : State) : (if t.life.phase = .majorOut then t else t.announce.stopService).ledger = t.ledger :=
    ite_ledger rfl ((stopService_ledger _).trans t.announce_ledger)
  have hboot := bootFailed_ledger { s with flt := { s.flt with faultN := true } }
  exact (ite_ledger rfl (flushAll_ledger _)).trans ((hstopped _).trans hboot)

theorem State.trumpResponse_eq (s : State) (src : Fin 256) :
    s.trumpResponse src = if s.life.phase = .off then s
      else let t := (s.trumpStopped src).saveMap.powerDown; { t with life := { t.life with phase := .trump, cleanEnd := false } } := rfl

theorem State.trumpResponse_ledger (s : State) (src : Fin 256) : (s.trumpResponse src).ledger = s.ledger := by
  have hdown : (s.trumpStopped src).saveMap.powerDown.ledger = s.ledger :=
    (powerDown_ledger _).trans ((saveMap_ledger _).trans (s.trumpStopped_ledger src))
  rw [State.trumpResponse_eq]
  refine ite_ledger rfl ?_
  generalize (s.trumpStopped src).saveMap.powerDown = t at hdown
  exact hdown

/-! ## A report meets the handler (R528, R534 to R539) -/

theorem State.begin_ledger (s : State) (f : ActiveFault) : (s.begin f).ledger = s.ledger := by
  unfold State.begin
  split
  · rfl
  · exact ite_ledger (majorResponse_ledger _) (remedy_ledger ..)
  · exact majorResponse_ledger _
  · exact trumpResponse_ledger ..

theorem State.latch_ledger (s : State) (f : ActiveFault) : (s.latch f).ledger = s.ledger := ite_ledger rfl rfl

theorem State.meet_ledger (s : State) (f : ActiveFault) : (s.meet f).ledger = s.ledger := by
  unfold State.meet
  split
  · exact begin_ledger ..
  · exact ite_ledger (begin_ledger ..) (ite_ledger (begin_ledger ..) (ite_ledger (begin_ledger ..) (latch_ledger ..)))

end Sys2Proof.Machine
end

section
/-!
SUPPORT. What one report leaves in the collector, and what a Note or a Minor fault of a memory changes besides (R526 to R529, R535,
R537).
-/
namespace Sys2Proof.Machine

/-! ## One report in a sample (R528) -/

/-- FLT_FIRST keeps what it holds, or takes the report (R527). -/
theorem State.recordFirst_eq (s : State) (r : Report) (c : FClass) :
    s.recordFirst (r, c) = { s with flt := { s.flt with first := some (s.flt.first.getD { src := r.src, cls := c }) } } := by
  unfold State.recordFirst
  split
  next f hf => rw [hf, Option.getD_some, ← hf]
  next hf => rw [hf, Option.getD_none]

/-- The module once it has recorded a report of class c and its Minor faults have met the steps, before the handler sees it. -/
def State.collected (s : State) (r : Report) (c : FClass) : State :=
  ((s.record1 r c).recordFirst (r, c)).minorHits (if c = .minor then [r] else [])

theorem State.sampled_classed (s : State) {r : Report} {c : FClass} (h : faultClass r.src r.event = some c) :
    s.sampled [r] = (s.collected r c).meet { rep := r, cls := c, since := (s.collected r c).now } := by
  have hknown : sortBy sooner ([r].filterMap fun r => (faultClass r.src r.event).map fun c => (r, c)) = [(r, c)] := by
    simp [h, sortBy, sortBy.insertFirst]
  unfold State.sampled
  dsimp only
  rw [hknown]
  by_cases hc : c = .minor <;> simp [State.collected, hc]

/-- The collector knows no class for the event: nothing happens. -/
theorem State.sampled_unclassed (s : State) {r : Report} (h : faultClass r.src r.event = none) : s.sampled [r] = s := by
  simp [State.sampled, h, sortBy]

/-- A report that is not injected uses up no injection. -/
theorem State.sample_genuine (s : State) {r : Report} (h : r.inj = false) : s.sample [r] = s.sampled [r] := by
  obtain ⟨src, event, whr, inj, exec, spareLeft⟩ := r
  cases h
  rfl

/-- One report sets its sticky bit and takes an empty FLT_FIRST, whatever the response to it does. -/
theorem State.sampled_ledger (s : State) {r : Report} {c : FClass} (h : faultClass r.src r.event = some c) :
    (s.sampled [r]).ledger
      = (s.flt.sticky ||| BitVec.twoPow 256 r.src.val, some (s.flt.first.getD { src := r.src, cls := c }), s.fab.bankRemap) := by
  rw [s.sampled_classed h, State.meet_ledger, State.collected, State.minorHits_ledger, State.recordFirst_eq]
  rfl

theorem State.sampled_sticky (s : State) {r : Report} {c : FClass} (h : faultClass r.src r.event = some c) :
    Sticky (s.sampled [r]) r.src.val := by
  have hbits : (s.sampled [r]).flt.sticky = s.flt.sticky ||| BitVec.twoPow 256 r.src.val := congrArg (·.1) (s.sampled_ledger h)
  simp [Sticky, hbits]

theorem State.sampled_first (s : State) {r : Report} {c : FClass} (h : faultClass r.src r.event = some c) :
    (s.sampled [r]).flt.first = some (s.flt.first.getD { src := r.src, cls := c }) := congrArg (·.2.1) (s.sampled_ledger h)

theorem State.sampled_bankRemap (s : State) {r : Report} {c : FClass} (h : faultClass r.src r.event = some c) :
    (s.sampled [r]).fab.bankRemap = s.fab.bankRemap := congrArg (·.2.2) (s.sampled_ledger h)

section Report
variable (s : State) {src : Fin 256} {ev : Nat} (whr : BitVec 24) (x : Option Nat)

/-- A report of a unit is a sample of its own, with a spare left. -/
theorem State.report_eq : s.report src ev whr x = s.sampled [{ src, event := ev, whr, inj := false, exec := x, spareLeft := true }] :=
  s.sample_genuine rfl

theorem State.report_sticky {c : FClass} {n : Nat} (h : faultClass src ev = some c) (hn : src.val = n) :
    Sticky (s.report src ev whr x) n := by
  rw [State.report_eq, ← hn]
  exact s.sampled_sticky h

theorem State.report_bankRemap {c : FClass} (h : faultClass src ev = some c) :
    (s.report src ev whr x).fab.bankRemap = s.fab.bankRemap := by
  rw [State.report_eq]
  exact s.sampled_bankRemap h

end Report

/-! ## Notes (R529, R531) -/

/-- The handler logs a Note, or latches it while it handles another fault. -/
theorem State.meet_note (s : State) {f : ActiveFault} (hf : f.cls = .note) :
    ∃ latched log logSeq, s.meet f = { s with flt := { s.flt with latched }, host := { s.host with log, logSeq } } := by
  unfold State.meet
  split
  next => exact ⟨_, _, _, by rw [State.begin, hf]; rfl⟩
  next a ha =>
    have hhandler : s.hitsHandler f = false := by simp [State.hitsHandler, ha, hf]
    have hgrav : ¬grav a.cls < grav f.cls := by simp [hf, grav]
    rw [hhandler, if_neg Bool.false_ne_true, if_neg hgrav, if_neg (by simp [hf]), State.latch]
    split <;> exact ⟨_, _, _, rfl⟩

/-- A Note leaves the collector's record, its Health Detail count, and an entry of the log. -/
theorem State.sampled_note (s : State) {r : Report} (h : faultClass r.src r.event = some .note) :
    ∃ flt log logSeq, s.sampled [r] = { s with flt, health := (s.record1 r .note).health, host := { s.host with log, logSeq } } := by
  have hcollected : s.collected r .note = (s.record1 r .note).recordFirst (r, .note) := rfl
  rw [State.recordFirst_eq] at hcollected
  rw [s.sampled_classed h, hcollected]
  obtain ⟨latched, log, logSeq, hmeet⟩ := State.meet_note _ (f := { rep := r, cls := .note, since := _ }) rfl
  exact ⟨_, log, logSeq, hmeet⟩

theorem State.report_note (s : State) {src : Fin 256} {ev : Nat} (whr : BitVec 24) (x : Option Nat) (h : faultClass src ev = some .note) :
    ∃ flt log logSeq, s.report src ev whr x = { s with flt, health := s.health.count .note, host := { s.host with log, logSeq } } := by
  rw [State.report_eq]
  exact s.sampled_note h

/-! ## Minor faults of memories (R540, R544, R545) -/

/-- A Minor fault that no step has met, and that is not a tile's, has nothing to do at once. -/
theorem State.minorHits_idle (s : State) {r : Report} (hexec : r.exec = none) (htile : 0x0F < r.src.val) : s.minorHits [r] = s := by
  have htile' : ¬r.src.val ≤ 0x0F := htile.not_ge
  simp [State.minorHits, State.fenceAll, State.residueReruns, State.stepHit, State.openEx, residueReport, hexec, htile']

/-- The source is a memory, whose Minor faults have no remedy at their unit (R525). -/
def memorySource (src : Fin 256) : Prop := 0x1F < src.val ∧ src.val ≤ 0x7F

theorem State.remedy_memory (s : State) {f : ActiveFault} (h : memorySource f.rep.src) (hm : f.merged = []) : s.remedy f = s := by
  obtain ⟨hlow, hhigh⟩ := h
  have hone : s.remedy1 f.rep = s := by
    simp only [State.remedy1]
    rw [if_neg (by omega), if_neg (by omega), if_pos hhigh]
  unfold State.remedy
  rw [hm, List.filter_cons]
  split
  · exact hone
  · rfl

/-- With no fault in progress, no Minor report within the last second and a spare left, the handler of a memory's Minor fault
starts and has nothing to do. -/
theorem State.sampled_calm_minor (s : State) {r : Report} (hcalm : Calm s) (h : faultClass r.src r.event = some .minor)
    (hexec : r.exec = none) (hspare : r.spareLeft = true) (hsrc : memorySource r.src) :
    ∃ flt, s.sampled [r] = { s with flt, health := (s.record1 r .minor).health } := by
  obtain ⟨hactive, hminors⟩ := hcalm
  obtain ⟨hlow, hhigh⟩ := hsrc
  have hcollected : s.collected r .minor = ((s.record1 r .minor).recordFirst (r, .minor)).minorHits [r] := rfl
  rw [State.minorHits_idle _ hexec (by omega), State.recordFirst_eq] at hcollected
  rw [s.sampled_classed h]
  have hidle : (s.collected r .minor).flt.active = none := by rw [hcollected]; exact hactive
  have hcomp : compOf r.src = none := if_neg (by omega)
  have hnospare : (s.collected r .minor).noRetrySpare r = false := by simp [State.noRetrySpare, hspare, hcomp]
  have hstorm : (s.collected r .minor).stormy r.src = false := by
    rw [hcollected]
    simp [State.stormy, State.record1, hminors]
  rw [State.meet, hidle]
  simp only [State.begin, hstorm, hnospare, List.any_cons, List.any_nil]
  rw [if_neg (by simp), State.remedy_memory _ ⟨hlow, hhigh⟩ rfl, hcollected]
  exact ⟨_, rfl⟩

theorem State.report_calm_minor (s : State) {src : Fin 256} {ev : Nat} (whr : BitVec 24) (hcalm : Calm s)
    (h : faultClass src ev = some .minor) (hsrc : memorySource src) :
    ∃ flt, s.report src ev whr none = { s with flt, health := s.health.count .minor } := by
  rw [State.report_eq]
  exact s.sampled_calm_minor hcalm h rfl rfl hsrc

end Sys2Proof.Machine
end

section
/-!
SUPPORT. The reports that the collector has latched (R531, R537).
-/
namespace Sys2Proof.Machine

/-- A fault that another report may follow: its handler ends by itself (R531). -/
def ActiveFault.light (a : ActiveFault) : Prop := a.cls = .minor ∨ a.cls = .note

theorem ActiveFault.grav_of_light {a : ActiveFault} (h : a.light) : ¬2 ≤ grav a.cls := by
  obtain h | h := h <;> simp [h, grav]

/-- The order in which latched reports are handled (R537). -/
def ActiveFault.sooner (x y : ActiveFault) : Bool := Machine.sooner (x.rep, x.cls) (y.rep, y.cls)

/-- The module without a fault in progress. -/
def State.unhandled (s : State) : State := { s with flt := { s.flt with active := none } }

theorem State.unhandled_idle {s : State} (h : s.flt.active = none) : s.unhandled = s := by
  rw [State.unhandled, ← h]

/-- The module without a fault in progress and without the latched report of a source. -/
def State.unlatched (s : State) (src : Fin 256) : State :=
  { s with flt := { s.flt with active := none, latched := s.flt.latched.filter fun l => !(l.rep.src == src) } }

section Latched
variable {s : State} (hlight : ∀ a, s.flt.active = some a → a.light)
include hlight

/-- With nothing latched, the fault in progress ends. -/
theorem exec_latchedFaultHandle_none (hl : s.flt.latched = []) : exec .latchedFaultHandle s = .next s.unhandled := by
  have hexec : exec .latchedFaultHandle s = execLatchedFaultHandle s := rfl
  have hsort : sortBy (fun x y : ActiveFault => sooner (x.rep, x.cls) (y.rep, y.cls)) s.flt.latched = [] := by rw [hl]; rfl
  rw [hexec, execLatchedFaultHandle]
  split
  next a ha =>
    rw [if_neg (ActiveFault.grav_of_light (hlight a ha))]
    dsimp only
    rw [hsort]
    rfl
  next hidle => rw [hsort, State.unhandled_idle hidle]

/-- The gravest and lowest latched report is handled next. -/
theorem exec_latchedFaultHandle_next {f : ActiveFault} {fs : List ActiveFault} (hl : sortBy ActiveFault.sooner s.flt.latched = f :: fs) :
    exec .latchedFaultHandle s = .next ((s.unlatched f.rep.src).begin f) := by
  have hexec : exec .latchedFaultHandle s = execLatchedFaultHandle s := rfl
  have hsort : sortBy (fun x y : ActiveFault => sooner (x.rep, x.cls) (y.rep, y.cls)) s.flt.latched = f :: fs := hl
  rw [hexec, execLatchedFaultHandle]
  split
  next a ha =>
    rw [if_neg (ActiveFault.grav_of_light (hlight a ha))]
    dsimp only
    rw [hsort]
    rfl
  next hidle =>
    rw [hsort]
    rw [State.unlatched, ← hidle]

end Latched

/-- A Major or Trump fault ends only through its exit (R531). -/
theorem exec_latchedFaultHandle_grave {s : State} {a : ActiveFault} (ha : s.flt.active = some a) (hgrave : 2 ≤ grav a.cls) :
    exec .latchedFaultHandle s = .next s := by
  have hexec : exec .latchedFaultHandle s = execLatchedFaultHandle s := rfl
  rw [hexec, execLatchedFaultHandle, ha]
  exact congrArg _ (if_pos hgrave)

/-- A tile has been fenced with the sample of its Minor fault, so its handler starts and has nothing left to remedy (R525, R534). -/
theorem State.begin_tile (s : State) {f : ActiveFault} (hcls : f.cls = .minor) (htile : f.rep.src.val ≤ 0x0F) (hm : f.merged = [])
    (hstorm : s.stormy f.rep.src = false) : s.begin f = { s with flt := { s.flt with active := some f } } := by
  have hcomp : compOf f.rep.src = none := if_neg (by omega)
  have hone (t : State) : t.remedy1 f.rep = t := if_pos htile
  have hremedy (t : State) : t.remedy f = t := by
    rw [State.remedy, hm, List.filter_cons]
    split
    · exact hone t
    · rfl
  simp [State.begin, hcls, hm, hstorm, State.noRetrySpare, hcomp, htile, hremedy]

end Sys2Proof.Machine
end

section
/-!
SUPPORT. Memory errors, unit resets, scrubbing and checker tests (R540 to R550, R553, R559).
-/
namespace Sys2Proof.Machine

/-! ## Parity errors in SRAM (R540, R541) -/

/-- The report of clean tile data is a Note of its band (R525). -/
theorem tileSource (b : Fin 16) : (Fin.ofNat 256 b.val).val = b.val ∧ faultClass (Fin.ofNat 256 b.val) 2 = some .note := by
  revert b
  decide

/-- The report of dirty bank data is a Minor fault of the bank (R525). -/
theorem bankSource (n : Fin 64) : (Fin.ofNat 256 (0x20 + n.val)).val = 0x20 + n.val
    ∧ faultClass (Fin.ofNat 256 (0x20 + n.val)) 2 = some .minor := by
  revert n
  decide

/-- An error in a tile's clean data counts as a parity error and is reported as a Note. -/
theorem exec_sramParityError_cleanTile {s : State} {r : Nat} (c word : Nat) (fails : Bool)
    (hon : s.life.dom.on (.b (Fin.ofNat 16 (r / 5))) = true) :
    exec (.sramParityError (.tile r c) word false false fails none) s
      = .next (s.countParity.report (Fin.ofNat 256 (r / 5 % 16)) 2 (sramWhere (.tile r c) word) none) := by
  have hexec : exec (.sramParityError (.tile r c) word false false fails none) s
      = .next (if !(s.life.dom.on (.b (Fin.ofNat 16 (r / 5)))) then s else s.sramError (.tile r c) word false fails none) := rfl
  rw [hexec, hon]
  rfl

/-- A failing address of a bank whose table has room gets its spare word, and the error is a Minor fault. -/
theorem exec_sramParityError_failingBank {s : State} {n : Fin 64} {word : Nat} (hon : s.life.dom.cs = true) (hroom : s.bankFull n.val word = false) :
    exec (.sramParityError (.bank n) word true false true none) s
      = .next ((s.countParity.remapBank n.val word).report (Fin.ofNat 256 (0x20 + n.val)) 2 (sramWhere (.bank n) word) none) := by
  have hexec : exec (.sramParityError (.bank n) word true false true none) s
      = .next (if !s.life.dom.cs then s else s.sramError (.bank n) word true true none) := rfl
  have hroom' : s.countParity.bankFull n.val word = false := hroom
  rw [hexec, hon]
  simp [State.sramError, State.noteWord, hroom', sramSrc, sramEvent]

theorem State.mem_remapBank (s : State) (n word : Nat) : (n, word) ∈ (s.remapBank n word).fab.bankRemap := by
  unfold State.remapBank
  split
  next h => exact List.contains_iff_mem.mp h
  · exact List.mem_append_right _ (List.mem_singleton_self _)

/-! ## Poisoned words of T1 and T2 (R544, R545) -/

theorem State.mem_poisonWord (s : State) (w : Nat) : w ∈ (s.poisonWord w).tiers.poison := by
  unfold State.poisonWord
  dsimp only
  split
  next h => exact List.contains_iff_mem.mp h
  · exact List.mem_append_right _ (List.mem_singleton_self _)

/-- Poison stays where it is. -/
theorem State.poisonWord_keeps (s : State) (w : Nat) {v : Nat} (h : v ∈ s.tiers.poison) : v ∈ (s.poisonWord w).tiers.poison := by
  unfold State.poisonWord
  dsimp only
  split
  · exact h
  · exact List.mem_append_left _ h

/-- The report of a dirty word of T1 or T2 is a Minor fault of its stack or channels (R525). -/
theorem dramSource (t2 : Bool) (u : Fin 16) : (dramSrc t2 u).val = (if t2 then 0x70 else 0x60) + u.val
    ∧ faultClass (dramSrc t2 u) 3 = some .minor := by
  revert t2 u
  decide

/-- A dirty uncorrectable word is poisoned and reported; where the collector is calm, memory's bytes stay as they are (R544). -/
theorem State.report_poisonWord {s : State} (hcalm : Calm s) (t2 : Bool) (u : Fin 16) (w : Nat) (whr : BitVec 24) :
    w ∈ ((s.poisonWord w).report (dramSrc t2 u) 3 whr none).tiers.poison
      ∧ Sticky ((s.poisonWord w).report (dramSrc t2 u) 3 whr none) ((if t2 then 0x70 else 0x60) + u.val)
      ∧ ((s.poisonWord w).report (dramSrc t2 u) 3 whr none).tiers.mem = s.tiers.mem := by
  obtain ⟨hval, hclass⟩ := dramSource t2 u
  have hmemory : memorySource (dramSrc t2 u) := by
    unfold memorySource
    rw [hval]
    split <;> omega
  have hsticky := (s.poisonWord w).report_sticky whr none hclass hval
  obtain ⟨flt, hreport⟩ := (s.poisonWord w).report_calm_minor whr hcalm hclass hmemory
  refine ⟨?_, hsticky, ?_⟩ <;> rw [hreport]
  · exact s.mem_poisonWord w
  · exact s.poisonWord_mem w

theorem exec_dramEccError_dirty {s : State} {u : Fin 16} {key : Nat} (hon : s.life.dom.t1 = true) :
    exec (.dramEccError false u key .dirty false none) s
      = .next ((s.poisonWord key).report (dramSrc false u) 3 (BitVec.ofNat 24 key) none) := by
  have hexec : exec (.dramEccError false u key .dirty false none) s
      = .next (if !s.life.dom.t1 then s else (s.poisonWord key).report (dramSrc false u) 3 (BitVec.ofNat 24 key) none) := rfl
  rw [hexec, hon]
  rfl

theorem exec_mergeBufferWriteback_bad {s : State} {u : Fin 16} {word : Nat} (hon : s.life.dom.t2 = true) :
    exec (.mergeBufferWriteback true u word true) s
      = .next ((s.poisonWord word).report (dramSrc true u) 3 (BitVec.ofNat 24 word) none) := by
  have hexec : exec (.mergeBufferWriteback true u word true) s = execMergeBufferWriteback true u word true s := rfl
  rw [hexec]
  simp [execMergeBufferWriteback, hon]

/-! ## Unit resets (R547 to R550) -/

/-- The reset of a pipe begins: its epoch rises. -/
theorem exec_unitReset_pipe {s : State} {p : Fin 64} (hon : s.life.dom.cs = true) (hnot : ResetUnit.pipe p ∉ s.units.resetting) :
    exec (.unitReset (.pipe p)) s
      = .next (({ s with units := { s.units with resetting := s.units.resetting ++ [.pipe p] } } : State).raiseEpoch (unitCode (.pipe p))) := by
  have hexec : exec (.unitReset (.pipe p)) s = execUnitReset (.pipe p) s := rfl
  rw [hexec]
  simp [execUnitReset, State.unitOn, hon, hnot]

theorem State.unitEpoch_raiseEpoch (s : State) (u : Nat) : (s.raiseEpoch u).unitEpoch u = s.unitEpoch u + 1 := by
  rw [State.unitEpoch, State.raiseEpoch, assocGet_put, if_pos rfl, Option.getD_some]

/-- The reset of a pipe ends. -/
theorem exec_unitResetComplete_pipe {s : State} {p : Fin 64} (h : ResetUnit.pipe p ∈ s.units.resetting) :
    exec (.unitResetComplete (.pipe p)) s
      = .next { s with units := { s.units with resetting := s.units.resetting.filter fun x => x != .pipe p } } := by
  have hexec : exec (.unitResetComplete (.pipe p)) s = execUnitResetComplete (.pipe p) s := rfl
  rw [hexec]
  simp [execUnitResetComplete, h]

/-- A data transfer whose unit has been reset under it is sent again (R550). -/
theorem exec_targetUnitResetResponse_hostDma {s : State} {h : Hdr} {o : OutCmd} {u : ResetUnit}
    (hf : s.host.cmds.find? (fun x => x.hdr == h && x.wait == .data) = some o) (hreset : s.answersReset u o.uep = true) :
    exec (.targetUnitResetResponse (.hostDma h) u) s = .next (s.hostRetry h) := by
  have hany : (s.host.cmds.any fun o => o.hdr == h && o.wait == .data && s.answersReset u o.uep) = true :=
    List.any_eq_true.mpr ⟨o, List.mem_of_find?_eq_some hf, by rw [List.find?_some hf, hreset]; rfl⟩
  have hexec : exec (.targetUnitResetResponse (.hostDma h) u) s
      = .next (if s.host.cmds.any fun o => o.hdr == h && o.wait == .data && s.answersReset u o.uep then s.hostRetry h else s) := rfl
  rw [hexec, if_pos hany]

theorem exec_staleReplyDiscard (u : ResetUnit) (n : Nat) (s : State) :
    exec (.staleReplyDiscard u n) s = .next (if n % 65536 = (s.unitEpoch (unitCode u)).toNat then s else s.staleReply) := rfl

/-! ## Scrubbing (R543, R553, R555) -/

/-- The module is as in s but for its allocations, its queue of migrations and its Health Detail counts. -/
def RenewalWork (s t : State) : Prop :=
  ∃ allocs migs queue deferred nextMig health, t = { s with health, tiers := { s.tiers with allocs, migs, queue, deferred, nextMig } }

theorem RenewalWork.refl (s : State) : RenewalWork s s := ⟨_, _, _, _, _, _, rfl⟩

theorem RenewalWork.trans {s t u : State} (h : RenewalWork s t) (h' : RenewalWork t u) : RenewalWork s u := by
  obtain ⟨_, _, _, _, _, _, rfl⟩ := h
  obtain ⟨_, _, _, _, _, _, rfl⟩ := h'
  exact ⟨_, _, _, _, _, _, rfl⟩

theorem QueueWork.renewalWork {s t : State} (h : QueueWork s t) : RenewalWork s t := by
  obtain ⟨_, _, _, _, rfl⟩ := h
  exact ⟨_, _, _, _, _, _, rfl⟩

/-- A corrected word counts, and moves its page once it has needed correction too often (R543). -/
theorem State.corrected_renewalWork (s : State) (w : Nat) : RenewalWork s (s.corrected w) := by
  have hrenew (t : State) (a : Alloc) (i : Nat) : RenewalWork t (t.renew a i) := by
    unfold State.renew
    split
    · exact .refl t
    · exact (t.migrate_queueWork _).renewalWork
  have hmod (t : State) (id : Nat) (f : Alloc → Alloc) : RenewalWork t (t.modAlloc id f) := ⟨_, _, _, _, _, _, rfl⟩
  have hcount : RenewalWork s { s with health := { s.health with dramCorr := satAdd max64 s.health.dramCorr 1 } } :=
    ⟨_, _, _, _, _, _, rfl⟩
  unfold State.corrected
  refine hcount.trans ?_
  dsimp only
  split
  · exact .refl _
  · split
    · exact hmod ..
    · exact (hmod ..).trans (hrenew ..)

theorem State.foldl_corrected_renewalWork (s : State) (ws : List Nat) : RenewalWork s (ws.foldl State.corrected s) :=
  List.foldlRecOn ws _ (.refl s) fun t h w _ => h.trans (t.corrected_renewalWork w)

/-- Poisoning words poisons each of them, and does nothing else. -/
theorem State.foldl_poisonWord (s : State) (ws : List Nat) :
    ∃ poison, ws.foldl State.poisonWord s = { s with tiers := { s.tiers with poison } } ∧ (∀ w ∈ s.tiers.poison, w ∈ poison)
      ∧ ∀ w ∈ ws, w ∈ poison := by
  induction ws generalizing s with
  | nil => exact ⟨_, rfl, fun _ h => h, fun _ h => absurd h List.not_mem_nil⟩
  | cons w ws ih =>
    obtain ⟨poison, heq, hold, hnew⟩ := ih (s.poisonWord w)
    refine ⟨poison, heq, fun v hv => hold v (s.poisonWord_keeps w hv), fun v hv => ?_⟩
    obtain rfl | hv := List.mem_cons.mp hv
    · exact hold v (s.mem_poisonWord v)
    · exact hnew v hv

/-- Element i of a vector after its update. -/
theorem vmod_getD {α : Type} {n : Nat} (v : Vector α n) {i : Nat} (h : i < n) (f : α → α) (d : α) :
    (vmod v i f).toList.getD i d = f (v.toList.getD i d) := by
  simp [vmod, vset, h]

theorem scrubNo_lt (ti : ScrubTier) : scrubNo ti < 5 := by cases ti <;> decide

/-- The scrubber of a tier that is T1 or T2. -/
def scrubsDram (ti : ScrubTier) : Bool := ti == .t1 || ti == .t2

/-- The module once a quota has poisoned and renewed what it found in T1 or T2. -/
def State.scrubbed (s : State) (ti : ScrubTier) (corrected keys : List Nat) : State :=
  let t := if scrubsDram ti then keys.foldl State.poisonWord s else s
  if scrubsDram ti then corrected.foldl State.corrected t else t

theorem State.scrubbed_keeps (s : State) (ti : ScrubTier) (corrected keys : List Nat) :
    (s.scrubbed ti corrected keys).scrub = s.scrub ∧ (s.scrubbed ti corrected keys).tiers.mem = s.tiers.mem
      ∧ (scrubsDram ti = true → ∀ w ∈ keys, w ∈ (s.scrubbed ti corrected keys).tiers.poison) := by
  unfold State.scrubbed
  cases scrubsDram ti with
  | false => exact ⟨rfl, rfl, fun h => absurd h Bool.false_ne_true⟩
  | true =>
    obtain ⟨poison, hpoison, -, hkeys⟩ := s.foldl_poisonWord keys
    obtain ⟨_, _, _, _, _, _, hcorrected⟩ := (keys.foldl State.poisonWord s).foldl_corrected_renewalWork corrected
    dsimp only
    rw [if_pos rfl, if_pos rfl, hcorrected, hpoison]
    exact ⟨rfl, rfl, fun _ => hkeys⟩

/-- A quota leaves its entry of the Scrub Laps page beside what it has poisoned and renewed. -/
theorem exec_scrubQuota {s : State} {ti : ScrubTier} (bytes : Nat) (mended : ScrubMended) (poisoned yielded : Nat) (keys : List Nat)
    (hon : s.scrubOn ti = true) :
    ∃ f : Scrub → Scrub, exec (.scrubQuota ti bytes mended poisoned yielded keys) s
        = .next { s.scrubbed ti mended.corrected keys with scrub := vmod (s.scrubbed ti mended.corrected keys).scrub (scrubNo ti) f }
      ∧ ∀ x, (f x).corrected = satAdd max64 x.corrected (mended.corrected.length + mended.refetched) := by
  have hexec : exec (.scrubQuota ti bytes mended poisoned yielded keys) s = execScrubQuota ti bytes mended poisoned yielded keys s := rfl
  rw [hexec, execScrubQuota, hon]
  refine ⟨_, rfl, ?_⟩
  intro x
  rfl

/-! ## Checker tests (R559) -/

theorem State.fillComp_comps (s : State) (c : Fin 16) : (s.fillComp c).sched.comps = s.sched.comps := by
  have hcrew (e : Exec) (f : State → Exec → Exec) : ((s.crew e).foldl (fun t i => t.modEx i (f t)) s).sched.comps = s.sched.comps :=
    List.foldlRecOn (motive := fun t : State => t.sched.comps = s.sched.comps) (s.crew e) _ rfl fun t h i _ => h
  unfold State.fillComp
  split
  · rfl
  · split
    · split
      · exact hcrew _ fun t x => { x with phase := .waitGrant, comp := some c, waitSince := t.now }
      · rfl
    · rfl

theorem State.fillComps_comps (s : State) : s.fillComps.sched.comps = s.sched.comps := by
  unfold State.fillComps
  induction List.finRange 16 generalizing s with
  | nil => rfl
  | cons c cs ih => exact (ih _).trans (s.fillComp_comps c)

/-- The element that an update names. -/
theorem vmod_get {α : Type} {n : Nat} (v : Vector α n) (i : Fin n) (f : α → α) : (vmod v i f)[i] = f v[i] := by
  simp [vmod, vset]

/-- A compositor that its executions leave is out of service (R525). -/
theorem State.leaveComp_oos (s : State) (c : Fin 16) : (s.leaveComp c).sched.comps[c].oos = true := by
  unfold State.leaveComp
  dsimp only
  simp only [State.fillComps_comps, vmod_get]

theorem exec_checkerTest_comp {s : State} {src : Fin 256} {c : Fin 16} (hsrc : src.val = 0x10 + c.val) (hserving : s.serving = true)
    (harmed : s.armed src = false) : exec (.checkerTest [src]) s = .next (s.leaveComp c) := by
  have hexec : exec (.checkerTest [src]) s = execCheckerTest [src] s := rfl
  have hfails : s.checkerFails src = s.leaveComp c := by
    simp only [State.checkerFails, hsrc]
    rw [if_neg (by omega), if_pos (by omega), Nat.add_sub_cancel_left, Fin.ofNat_val_eq_self]
  have htested : src.val ≤ 0xB7 := by omega
  rw [hexec]
  simp [execCheckerTest, hserving, htested, harmed, hfails]

end Sys2Proof.Machine
end

section
/-!
CERTIFICATE. Faults, memory errors, unit resets, scrubbing and checker tests (R526 to R559).
-/
open Sys2Proof Sys2Proof.Machine

/-- Settles O55: whatever a response does, the sticky bits, FLT_FIRST and the banks' spare words stay; a Note and a memory's Minor fault on a
calm collector change the record alone; and the other events are what their conditions select. -/
theorem faultEvents : Obligations.FaultEvents := by
  intro s
  refine ⟨fun r c hao hphase hclass hinj => ?report, fun r hclass hinj => ?unclassed, fun a ha hcls hl => ?minorEnds, fun ha hl => ?idle,
    fun a ha hcls => ?grave, fun f hlight hl => ⟨?one, fun hcls hsrc hm hstorm => ?tile⟩, fun f g hlight hl hne hsooner => ?two,
    fun r c word fails hon => ?sramTile, fun n word hon hroom => ?sramBank, fun u key hcalm hon => ?dram, fun u word hcalm hon => ?merge,
    fun t2 u word => ?mergeGood, fun p hon hnot => ?reset, fun p hin => ?resetDone, fun h o u hf ho hreset => ?retry,
    fun u n hn => ?stale, fun u n hn => ?fresh, fun ti bytes mended poisoned yielded keys hon => ?scrub, fun hserving => ?untested,
    fun c hserving harmed => ?tested⟩
  case report =>
    have hexec : exec (.faultReport [r]) s = .next (if s.life.dom.ao ∧ s.life.phase ≠ .off then s.sample [r] else s) := rfl
    rw [if_pos ⟨hao, hphase⟩, s.sample_genuine hinj] at hexec
    refine ⟨_, hexec, s.sampled_sticky hclass, (s.sampled_first hclass).trans ?_⟩
    cases s.flt.first <;> rfl
  case unclassed =>
    have hexec : exec (.faultReport [r]) s = .next (if s.life.dom.ao ∧ s.life.phase ≠ .off then s.sample [r] else s) := rfl
    rw [hexec, s.sample_genuine hinj, s.sampled_unclassed hclass, ite_self]
  case minorEnds =>
    refine exec_latchedFaultHandle_none (fun b hb => ?_) hl
    obtain rfl : a = b := Option.some.inj (ha.symm.trans hb)
    exact .inl hcls
  case idle =>
    rw [exec_latchedFaultHandle_none (fun a h => by simp [ha] at h) hl, State.unhandled_idle ha]
  case grave => exact exec_latchedFaultHandle_grave ha (by obtain h | h := hcls <;> simp [h, grav])
  case one =>
    rw [exec_latchedFaultHandle_next hlight (f := f) (fs := []) (by rw [hl]; rfl), State.unlatched, hl]
    simp
  case tile =>
    have hbegin := (s.unlatched f.rep.src).begin_tile hcls hsrc hm hstorm
    rw [exec_latchedFaultHandle_next hlight (f := f) (fs := []) (by rw [hl]; rfl), hbegin, State.unlatched, hl]
    simp
  case two =>
    have hfirst : g.sooner f = true := by
      obtain hgrav | ⟨hcls, hsrc⟩ := hsooner
      · simp [ActiveFault.sooner, sooner, hgrav]
      · simp [ActiveFault.sooner, sooner, hcls, Fin.lt_def, hsrc]
    have hsort : sortBy ActiveFault.sooner s.flt.latched = [g, f] := by simp [hl, sortBy, sortBy.insertFirst, hfirst]
    rw [exec_latchedFaultHandle_next hlight hsort, State.unlatched, hl]
    simp [hne]
  case sramTile =>
    obtain ⟨hval, hclass⟩ := tileSource ⟨r / 5 % 16, Nat.mod_lt _ (by decide)⟩
    refine ⟨_, exec_sramParityError_cleanTile c word fails hon, State.report_sticky _ _ _ hclass hval, ?_⟩
    obtain ⟨_, _, _, hreport⟩ := s.countParity.report_note (sramWhere (.tile r c) word) none hclass
    rw [hreport]
    exact ⟨rfl, rfl, rfl⟩
  case sramBank =>
    obtain ⟨hval, hclass⟩ := bankSource n
    refine ⟨_, exec_sramParityError_failingBank hon hroom, ?_, State.report_sticky _ _ _ hclass hval⟩
    rw [State.report_bankRemap _ _ _ hclass]
    exact State.mem_remapBank ..
  case dram => exact ⟨_, exec_dramEccError_dirty hon, State.report_poisonWord hcalm false u key _⟩
  case merge =>
    obtain ⟨hpoison, -, hmem⟩ := State.report_poisonWord hcalm true u word (BitVec.ofNat 24 word)
    exact ⟨_, exec_mergeBufferWriteback_bad hon, hpoison, hmem⟩
  case mergeGood =>
    have hexec : exec (.mergeBufferWriteback t2 u word false) s = execMergeBufferWriteback t2 u word false s := rfl
    rw [hexec]
    simp [execMergeBufferWriteback]
  case reset => exact ⟨_, exec_unitReset_pipe hon hnot, rfl, State.unitEpoch_raiseEpoch .., rfl⟩
  case resetDone => exact ⟨_, exec_unitResetComplete_pipe hin, by simp, rfl⟩
  case retry =>
    refine ⟨_, exec_targetUnitResetResponse_hostDma hf hreset, ?_⟩
    rw [State.hostRetry_first hf ho]
    exact ⟨rfl, fun x => State.retriedCmds_retried⟩
  case stale =>
    rw [Gives, exec_staleReplyDiscard, if_neg hn]
    obtain ⟨_, _, _, hreport⟩ := ({ s with units := { s.units with stale := s.units.stale + 1 } } : State).report_note
      (src := 0xA9) (ev := 3) 0 none rfl
    refine ⟨_, rfl, rfl, State.report_sticky _ _ _ (c := .note) rfl rfl, ?_⟩
    rw [State.staleReply, hreport]
    exact ⟨rfl, rfl⟩
  case fresh => rw [exec_staleReplyDiscard, if_pos hn]
  case scrub =>
    obtain ⟨f, hexec, hcorrected⟩ := exec_scrubQuota bytes mended poisoned yielded keys hon
    obtain ⟨hscrub, hmem, hpoison⟩ := s.scrubbed_keeps ti mended.corrected keys
    refine ⟨_, hexec, fun hti => hpoison (by obtain rfl | rfl := hti <;> rfl), hmem, ?_⟩
    rw [vmod_getD _ (scrubNo_lt ti), hcorrected, hscrub]
  case untested =>
    have hexec : exec (.checkerTest []) s = .next (if !s.serving then s else s) := rfl
    rw [hexec, ite_self]
  case tested =>
    have hsrc : (Fin.ofNat 256 (0x10 + c.val)).val = 0x10 + c.val := Nat.mod_eq_of_lt (by omega)
    exact ⟨_, exec_checkerTest_comp hsrc hserving harmed, s.leaveComp_oos c⟩
end

section
/-!
SUPPORT. Predicated instructions, and the instructions that write a scalar register (R134, R175, R176, R185, R195, R196).
-/
namespace Sys2Proof.Machine

/-- Whatever it does, a predicated instruction goes through the prologue with its own compositor and predicate. -/
theorem exec_predicated {i : Instr} {c : Fin 16} {p : Pred} (h : issuedBy i = some (c, p)) (s : State) :
    ∃ f, exec i s = .next (s.insn c p f) := by
  cases i <;> cases h <;> exact ⟨_, rfl⟩

/-! ## Registers -/

@[simp] theorem Exec.reg_zero (e : Exec) : e.reg 0 = 0 := if_pos rfl

/-- A write to a register changes the registers only. -/
theorem Exec.setReg_eq (e : Exec) (r : Fin 64) (v : W64) : ∃ regs, e.setReg r v = { e with regs } := by
  unfold Exec.setReg
  split <;> exact ⟨_, rfl⟩

/-- The register that a write names. -/
theorem Exec.reg_setReg_same (e : Exec) (r : Fin 64) (v : W64) : (e.setReg r v).reg r = if r = 0 then 0 else v := by
  rw [Exec.reg_setReg]
  by_cases h : r = 0 <;> simp [h]

/-- The registers that a write does not name. -/
theorem Exec.reg_setReg_other (e : Exec) {r q : Fin 64} (v : W64) (h : q ≠ r) : (e.setReg r v).reg q = e.reg q := by
  rw [Exec.reg_setReg, if_neg fun hq => h hq.1]

/-- A synchronous instruction whose effect is the write of one register. -/
theorem writes_of_sync {i : Instr} {s : State} {c : Fin 16} {p : Pred} {e : Exec} {rs : List (Fin 64)} {rd : Fin 64} {v : W64}
    {f : State → Exec → Except JFault Exec} (h : Issues s c p e) (hr : e.pend rs = false)
    (hx : exec i s = .next (s.sync c p rs f)) (hf : f s e = .ok (e.setReg rd v).next) : Writes i s e rd v := by
  obtain ⟨regs, hregs⟩ := e.setReg_eq rd v
  refine ⟨(e.setReg rd v).next, becomes_of_sync h hr ?_ hx hf, e.reg_setReg_same rd v, fun r => e.reg_setReg_other v, ?_⟩ <;>
    rw [hregs] <;> rfl

/-! ## The sixteen operations as numbers -/

theorem add_eq_ofNat (x y : W64) : x + y = BitVec.ofNat 64 ((x.toNat + y.toNat) % 2 ^ 64) := by
  rw [← BitVec.toNat_add, BitVec.ofNat_toNat, BitVec.setWidth_eq]

theorem sub_eq_ofInt (x y : W64) : x - y = BitVec.ofInt 64 (x.toNat - y.toNat) := by
  refine BitVec.eq_of_toInt_eq ?_
  rw [BitVec.toInt_sub, BitVec.toInt_ofInt, BitVec.toInt_eq_toNat_bmod, BitVec.toInt_eq_toNat_bmod]
  simp

theorem mul_eq_ofNat (x y : W64) : x * y = BitVec.ofNat 64 (x.toNat * y.toNat % 2 ^ 64) := by
  rw [← BitVec.toNat_mul, BitVec.ofNat_toNat, BitVec.setWidth_eq]

theorem divu_eq_ofNat (x y : W64) : divu x y = BitVec.ofNat 64 (if y = 0 then 2 ^ 64 - 1 else x.toNat / y.toNat) := by
  unfold divu
  split
  · rfl
  · exact BitVec.eq_of_toNat_eq (by simp [BitVec.udiv_eq, Nat.mod_eq_of_lt (Nat.div_lt_of_lt x.isLt)])

theorem remu_eq_ofNat (x y : W64) : remu x y = BitVec.ofNat 64 (if y = 0 then x.toNat else x.toNat % y.toNat) := by
  unfold remu
  split
  · simp
  · exact BitVec.eq_of_toNat_eq (by simp [BitVec.umod_eq, Nat.mod_eq_of_lt (Nat.mod_lt_of_lt x.isLt)])

theorem shl_eq_ofNat (x : W64) (n : Nat) : x <<< n = BitVec.ofNat 64 (x.toNat * 2 ^ n % 2 ^ 64) :=
  BitVec.eq_of_toNat_eq (by simp [Nat.shiftLeft_eq])

theorem shr_eq_ofNat (x : W64) (n : Nat) : x >>> n = BitVec.ofNat 64 (x.toNat / 2 ^ n) :=
  BitVec.eq_of_toNat_eq (by simp [Nat.shiftRight_eq_div_pow, Nat.mod_eq_of_lt (Nat.div_lt_of_lt x.isLt)])

theorem sra_eq_ofInt (x : W64) (n : Nat) : x.sshiftRight n = BitVec.ofInt 64 (x.toInt / 2 ^ n) := by
  rw [← BitVec.ofInt_toInt (x := x.sshiftRight n), BitVec.toInt_sshiftRight, Int.shiftRight_eq_div_pow]
  rfl

theorem minu_eq_ofNat (x y : W64) : (if y.ult x then y else x) = BitVec.ofNat 64 (min x.toNat y.toNat) := by
  simp only [BitVec.ult_eq_decide, decide_eq_true_eq]
  split
  · simp [Nat.min_eq_right (le_of_lt ‹_›)]
  · simp [Nat.min_eq_left (not_lt.mp ‹_›)]

theorem maxu_eq_ofNat (x y : W64) : (if x.ult y then y else x) = BitVec.ofNat 64 (max x.toNat y.toNat) := by
  simp only [BitVec.ult_eq_decide, decide_eq_true_eq]
  split
  · simp [Nat.max_eq_right (le_of_lt ‹_›)]
  · simp [Nat.max_eq_left (not_lt.mp ‹_›)]

theorem mins_eq_ofInt (x y : W64) : (if y.slt x then y else x) = BitVec.ofInt 64 (min x.toInt y.toInt) := by
  simp only [BitVec.slt_eq_decide, decide_eq_true_eq]
  split
  · simp [Int.min_eq_right (le_of_lt ‹_›)]
  · simp [Int.min_eq_left (not_lt.mp ‹_›)]

theorem maxs_eq_ofInt (x y : W64) : (if x.slt y then y else x) = BitVec.ofInt 64 (max x.toInt y.toInt) := by
  simp only [BitVec.slt_eq_decide, decide_eq_true_eq]
  split
  · simp [Int.max_eq_right (le_of_lt ‹_›)]
  · simp [Int.max_eq_left (not_lt.mp ‹_›)]

/-! ## Compares -/

/-- The mask of one flag. -/
theorem flagMask_getLsbD (f g : Fin 64) : (BitVec.ofNat 64 (2 ^ f.val)).getLsbD g = decide (g = f) := by
  rw [BitVec.getLsbD_ofNat, decide_eq_true g.isLt, Bool.true_and, Nat.testBit_two_pow]
  simp [Fin.ext_iff, eq_comm]

/-- Flags after one of them was set or cleared. -/
theorem Exec.flag_setFlag (e : Exec) (f g : Fin 64) (b : Bool) : (e.setFlag f b).flag g = if g = f then b else e.flag g := by
  have hmask := flagMask_getLsbD f g
  unfold Exec.setFlag Exec.flag
  dsimp only
  generalize BitVec.ofNat 64 (2 ^ f.val) = m at hmask
  obtain rfl | h := eq_or_ne g f
  · cases b <;> simp [-BitVec.getLsbD_eq_getElem, hmask]
  · cases b <;> simp [-BitVec.getLsbD_eq_getElem, hmask, h]

/-- A compare that waits for nothing writes its result to its register and its flag. -/
theorem compares_of_op {i : Instr} {s : State} {c : Fin 16} {p : Pred} {e : Exec} {rd ra evd : Fin 64} {b : Src2}
    {op : W64 → W64 → Bool} {r : Prop} (h : Issues s c p e) (hr : e.pend (rd :: ra :: srcRegs b) = false) (hn : e.named evd = false)
    (hx : exec i s = .next (s.compare c p rd ra b evd op)) (hop : op (e.reg ra) (e.src2 b) = true ↔ r) : Compares i s e rd evd r := by
  let v : W64 := if op (e.reg ra) (e.src2 b) then 1 else 0
  obtain ⟨regs, hregs⟩ := e.setReg_eq rd v
  have hreg (q : Fin 64) : (((e.setReg rd v).setFlag evd (op (e.reg ra) (e.src2 b))).next).reg q = (e.setReg rd v).reg q := rfl
  have hflag (f : Fin 64) : (((e.setReg rd v).setFlag evd (op (e.reg ra) (e.src2 b))).next).flag f
      = if f = evd then op (e.reg ra) (e.src2 b) else e.flag f := by
    rw [hregs]
    exact Exec.flag_setFlag { e with regs } evd f _
  refine ⟨((e.setReg rd v).setFlag evd (op (e.reg ra) (e.src2 b))).next, becomes_of_sync h hr ?id hx ?f, fun hrd => ?rd, Exec.reg_zero _,
    ?evd, fun q hq => ?regs, fun f hf => ?flags, ?frame⟩
  case id | frame => rw [hregs]; rfl
  case f => exact if_neg (by simp [hn])
  case rd =>
    rw [hreg, Exec.reg_setReg_same, if_neg hrd, ← hop]
    exact ⟨fun ht => if_pos ht, fun hf => if_neg hf⟩
  case evd => rw [hflag, if_pos rfl]; exact hop
  case regs => rw [hreg, Exec.reg_setReg_other _ _ hq]
  case flags => rw [hflag, if_neg hf]

end Sys2Proof.Machine
end

section
/-!
CERTIFICATE. Predicates, and the scalar arithmetic and compares (R175, R176, R185, R195, R196).
-/
open Sys2Proof Sys2Proof.Machine

/-- Settles O2: every predicated instruction begins with the same prologue, which decides both cases. -/
theorem predicates : Obligations.Predicates := by
  refine ⟨fun i s c p e hi h hw hp => ?_, fun i s c p e hi h hw => ?_⟩ <;> obtain ⟨f, hf⟩ := exec_predicated hi s <;>
    rw [State.insn_eq h] at hf
  · exact becomes_of_eq h rfl (by rw [hf, hw, hp]; rfl)
  · exact becomes_of_eq h rfl (by rw [hf, hw]; rfl)

/-- Settles O5: each instruction writes the result of its operation on words, which is the number that the statement names. -/
theorem scalarArithmetic : Obligations.ScalarArithmetic := by
  intro s c p e rd ra b h hr
  have write {i : Instr} {op : W64 → W64 → W64} {v : W64} (hx : exec i s = .next (s.arith c p rd ra b op))
      (hv : op (e.reg ra) (e.src2 b) = v) : Writes i s e rd v := writes_of_sync h hr hx (by rw [hv])
  exact ⟨write rfl (add_eq_ofNat ..), write rfl (sub_eq_ofInt ..), write rfl (mul_eq_ofNat ..), write rfl rfl,
    write rfl (divu_eq_ofNat ..), write rfl (remu_eq_ofNat ..), write rfl rfl, write rfl rfl, write rfl rfl,
    write rfl (shl_eq_ofNat ..), write rfl (shr_eq_ofNat ..), write rfl (sra_eq_ofInt ..), write rfl (minu_eq_ofNat ..),
    write rfl (maxu_eq_ofNat ..), write rfl (mins_eq_ofInt ..), write rfl (maxs_eq_ofInt ..)⟩

/-- Settles O6: a compare writes what its test says, and the tests are those of numbers. -/
theorem scalarCompare : Obligations.ScalarCompare := by
  intro s c p e rd ra b evd h hr hn
  have compare {i : Instr} {op : W64 → W64 → Bool} {r : Prop} (hx : exec i s = .next (s.compare c p rd ra b evd op))
      (hop : op (e.reg ra) (e.src2 b) = true ↔ r) : Compares i s e rd evd r := compares_of_op h hr hn hx hop
  refine ⟨compare rfl ?_, compare rfl ?_, compare rfl ?_, compare rfl ?_, compare rfl ?_, compare rfl ?_⟩
  · exact beq_iff_eq
  · exact bne_iff_ne
  · simp [BitVec.ult]
  · simp [BitVec.slt]
  · simp [BitVec.ule]
  · simp [BitVec.sle]
end

section
/-!
SUPPORT. Scale slots and descriptors of a program (R82, R139, R197, R199 to R201).
-/
namespace Sys2Proof.Machine

/-! ## Scale slots -/

/-- A word whose low half is replaced is made of the two halves (R199). -/
theorem toNat_lowHalf (x v : W64) :
    ((x &&& 0xFFFFFFFF00000000#64) ||| (v &&& 0xFFFFFFFF#64)).toNat = x.toNat / 2 ^ 32 * 2 ^ 32 + v.toNat % 2 ^ 32 := by
  have hhigh : 0xFFFFFFFF00000000#64 = BitVec.allOnes 64 <<< 32 := rfl
  have hlow : 0xFFFFFFFF#64 = BitVec.allOnes 64 >>> 32 := rfl
  rw [hhigh, hlow]
  refine Nat.eq_of_testBit_eq fun k => ?_
  rw [mul_comm, Nat.testBit_two_pow_mul_add _ (Nat.mod_lt _ (by decide)), Nat.testBit_mod_two_pow, Nat.testBit_div_two_pow]
  simp only [BitVec.testBit_toNat, BitVec.getLsbD_or, BitVec.getLsbD_and, BitVec.getLsbD_shiftLeft, BitVec.getLsbD_ushiftRight,
    BitVec.getLsbD_allOnes]
  by_cases h : k < 32
  · simp [h, show k < 64 by omega, show 32 + k < 64 by omega]
  · by_cases hk : k < 64
    · simp [h, hk, show ¬ 32 + k < 64 by omega, show k - 32 + 32 = k by omega, show k - 32 < 64 by omega]
    · simp [h, hk, show ¬ 32 + k < 64 by omega, show k - 32 + 32 = k by omega, BitVec.getLsbD_of_ge _ _ (not_lt.mp hk)]

/-- The history goes when the mode and history length change, bits [14:9] (R82, R199). -/
theorem slotWrite_hist (x : Slot) (v : W64) :
    (slotWrite x v).hist = if v.toNat / 512 % 64 = x.word.toNat / 512 % 64 then x.hist else [] := by
  have hlow : bitsOf ((x.word &&& 0xFFFFFFFF00000000#64) ||| (v &&& 0xFFFFFFFF#64)).toNat 14 9 = v.toNat / 512 % 64 := by
    rw [toNat_lowHalf]
    unfold bitsOf
    omega
  simp only [slotWrite, hlow]
  rfl

/-! ## Fields of a descriptor -/

/-- A field lies inside the 512 bits of a descriptor, and its width does not depend on its dimension (R139). -/
theorem fieldRange_bounds (f : DField) (dim : Fin 4) :
    (fieldRange f dim).2 ≤ (fieldRange f dim).1 ∧ (fieldRange f dim).1 < 512
      ∧ (fieldRange f dim).1 + 1 - (fieldRange f dim).2 = fieldWidth f := by
  cases f <;> fin_cases dim <;> decide

/-- Each bit of a descriptor after a field was set. -/
theorem dsetField_getLsbD (d : Desc) (f : DField) (dim : Fin 4) (v k : Nat) :
    (dsetField d f dim v).getLsbD k = if (fieldRange f dim).2 ≤ k ∧ k ≤ (fieldRange f dim).1 then v.testBit (k - (fieldRange f dim).2)
      else d.getLsbD k := by
  obtain ⟨hle, hlt, -⟩ := fieldRange_bounds f dim
  unfold dsetField
  generalize fieldRange f dim = r at hle hlt
  obtain ⟨hi, lo⟩ := r
  dsimp only at hle hlt ⊢
  by_cases hk : k < 512
  · have hwidth : (k - lo < hi + 1 - lo ∧ lo ≤ k) ↔ (lo ≤ k ∧ k ≤ hi) := by omega
    simp only [BitVec.getLsbD_or, BitVec.getLsbD_and, BitVec.getLsbD_not, BitVec.getLsbD_ofNat, hk, Nat.testBit_mul_two_pow,
      Nat.testBit_two_pow_sub_one, Nat.testBit_mod_two_pow, decide_true, Bool.true_and]
    by_cases hin : lo ≤ k ∧ k ≤ hi
    · simp [hin, (hwidth.mpr hin).1]
    · rw [if_neg hin]
      by_cases hlo : lo ≤ k
      · simp [hlo, show ¬ k - lo < hi + 1 - lo by omega]
      · simp [hlo]
  · rw [BitVec.getLsbD_of_ge _ _ (not_lt.mp hk), if_neg (by omega), BitVec.getLsbD_of_ge _ _ (not_lt.mp hk)]

/-- A field reads as what was written to it, if that fits (R200, R201). -/
theorem dfield_dsetField (d : Desc) (f : DField) (dim : Fin 4) {v : Nat} (hv : v < 2 ^ fieldWidth f) :
    dfield (dsetField d f dim v) f dim = v := by
  obtain ⟨hle, hlt, hwidth⟩ := fieldRange_bounds f dim
  refine Nat.eq_of_testBit_eq fun i => ?_
  unfold dfield dbits bitsOf
  rw [hwidth, Nat.testBit_mod_two_pow, Nat.testBit_div_two_pow, ← BitVec.getLsbD, dsetField_getLsbD]
  by_cases hi : i < fieldWidth f
  · rw [if_pos (by omega)]
    simp [hi]
  · rw [Nat.testBit_lt_two_pow (hv.trans_le (Nat.pow_le_pow_right (by decide) (not_lt.mp hi)))]
    simp [hi]

/-- The bits of a descriptor outside the field that is set (R201). -/
theorem dsetField_other (d : Desc) (f : DField) (dim : Fin 4) (v : Nat) {k : Nat}
    (h : ¬((fieldRange f dim).2 ≤ k ∧ k ≤ (fieldRange f dim).1)) : (dsetField d f dim v).getLsbD k = d.getLsbD k := by
  rw [dsetField_getLsbD, if_neg h]

/-- A synchronous instruction that changes one descriptor. -/
theorem describes_of_sync {i : Instr} {s : State} {c : Fin 16} {p : Pred} {e : Exec} {rs : List (Fin 64)} {td : Fin 32} {d : Desc}
    {f : State → Exec → Except JFault Exec} (h : Issues s c p e) (hr : e.pend rs = false)
    (hx : exec i s = .next (s.sync c p rs f)) (hf : f s e = .ok (e.setDesc td d).next) : Describes i s e td d :=
  becomes_of_sync h hr rfl hx hf

/-- What lies inside the constant area of the image is read there (R197). -/
theorem State.constant_within {s : State} {e : Exec} {i : Image} {off n : Nat} (hi : s.image? e.image = some i)
    (h : off + n ≤ i.constLen) : s.constant e off n = some (i.num (i.constOff + off) n) := by
  simp [State.constant, hi, h]

end Sys2Proof.Machine
end

section
/-!
CERTIFICATE. SLOTW and the descriptor instructions (R82, R199 to R201).
-/
open Sys2Proof Sys2Proof.Machine

/-- Settles O8: SLOTW keeps the upper half of a slot, and a descriptor's field is its bits, of which DSET and DADV change no others. -/
theorem slotsAndDescriptors : Obligations.SlotsAndDescriptors := by
  refine ⟨fun s c p e ra slot h hr => ?slotw, fun s c p e td h => ⟨fun imm i hi hin => ?dld, fun ts => ?dcpy, ?dnull,
    fun ra imm f dim hr hv => ?dset, fun ra imm dim hr => ?dadv⟩⟩
  case slotw =>
    have hset : (e.slots.set slot (slotWrite e.slots[slot] (e.reg ra)))[slot] = slotWrite e.slots[slot] (e.reg ra) :=
      Vector.getElem_set_self ..
    refine ⟨{ e.next with slots := e.slots.set slot (slotWrite e.slots[slot] (e.reg ra)) }, becomes_of_sync h hr rfl rfl rfl, ?_, ?_,
      fun q hq => ?_, rfl⟩
    · exact (congrArg (fun x : Slot => x.word.toNat) hset).trans (toNat_lowHalf (e.slots[slot]).word (e.reg ra))
    · exact (congrArg Slot.hist hset).trans (slotWrite_hist e.slots[slot] (e.reg ra))
    · simp [Fin.val_ne_of_ne (Ne.symm hq)]
  case dld => exact describes_of_sync h e.pend_nil rfl (by rw [State.constant_within hi hin, Option.getD_some])
  case dcpy | dnull => exact describes_of_sync h e.pend_nil rfl rfl
  case dset =>
    exact ⟨_, describes_of_sync h hr rfl (if_neg (not_le.mpr hv)), dfield_dsetField _ _ _ hv, fun k => dsetField_other _ _ _ _⟩
  case dadv =>
    exact ⟨_, describes_of_sync h hr rfl rfl, dfield_dsetField _ _ _ (Nat.mod_lt _ (by decide)), fun k => dsetField_other _ _ _ _⟩
end

section
/-!
SUPPORT. A program's reads of memory touch the pages that they use, and nothing else (R198, R233, R239).
-/
namespace Sys2Proof.Machine

/-! ## The use of pages -/

/-- An allocation whose pages differ from those of another one in their last use only. -/
def Alloc.UsedAs (a b : Alloc) : Prop := b.id = a.id ∧ ∀ i, { b.page i with lastUse := (a.page i).lastUse } = a.page i

theorem Alloc.UsedAs.refl (a : Alloc) : a.UsedAs a := ⟨rfl, fun _ => rfl⟩

theorem Alloc.UsedAs.trans {a b c : Alloc} (h : a.UsedAs b) (h' : b.UsedAs c) : a.UsedAs c := by
  obtain ⟨hid, hpage⟩ := h
  obtain ⟨hid', hpage'⟩ := h'
  refine ⟨hid'.trans hid, fun i => ?_⟩
  have hi := hpage i
  rw [← hpage' i] at hi
  exact hi

/-- Only the last uses of pages have changed. -/
def UseWork (s t : State) : Prop :=
  ∃ allocs, t = { s with tiers := { s.tiers with allocs } } ∧ ∀ n a, s.alloc? n = some a → ∃ b, t.alloc? n = some b ∧ a.UsedAs b

theorem UseWork.refl (s : State) : UseWork s s := ⟨_, rfl, fun _ a h => ⟨a, h, .refl a⟩⟩

theorem UseWork.trans {s t u : State} (h : UseWork s t) (h' : UseWork t u) : UseWork s u := by
  obtain ⟨_, rfl, hs⟩ := h
  obtain ⟨_, rfl, ht⟩ := h'
  refine ⟨_, rfl, fun n a ha => ?_⟩
  obtain ⟨b, hb, hab⟩ := hs n a ha
  obtain ⟨c, hc, hbc⟩ := ht n b hb
  exact ⟨c, hc, hab.trans hbc⟩

/-- A fold of such work is such work. -/
theorem UseWork.foldl {α : Type} {f : State → α → State} (hf : ∀ s a, UseWork s (f s a)) (l : List α) (s : State) :
    UseWork s (l.foldl f s) :=
  List.foldlRecOn l f (.refl s) fun t h a _ => h.trans (hf t a)

theorem State.touch_useWork (s : State) (a i : Nat) : UseWork s (s.touch a i) := by
  refine ⟨_, rfl, fun n x hx => ?_⟩
  have hid (y : Alloc) : (if (y.id == a) = true then y.setPage i { y.page i with lastUse := s.now } else y).id = y.id := by
    split <;> rfl
  refine ⟨if (x.id == a) = true then x.setPage i { x.page i with lastUse := s.now } else x, ?_, hid x, fun j => ?_⟩
  · unfold State.alloc? at hx ⊢
    rw [State.touch, State.modAlloc, mapWhere, List.find?_map]
    simp only [Function.comp_def, hid, hx, Option.map_some]
  · split
    · rw [Alloc.page_setPage]
      split
      · subst j; rfl
      · rfl
    · rfl

/-- Pages that are used are touched (R239). -/
theorem State.used_useWork (s : State) (e : Exec) (ps : List Nat) : UseWork s (s.used e ps []) :=
  UseWork.foldl (f := fun s (q : Alloc × List Nat) => q.2.foldl (fun s i => s.touch q.1.id i) s)
    (fun s q => .foldl (fun s i => s.touch_useWork q.1.id i) q.2 s) _ s

/-! ## LDS -/

/-- A read of eight aligned bytes outside namespaces that nothing holds back and whose translation is at hand (R195, R198). -/
theorem exec_lds {s : State} {c : Fin 16} {p : Pred} {e e1 : Exec} {rd ra : Fin 64} {imm : W64} (h : Issues s c p e)
    (hr : e.pend [rd, ra] = false) (halign : (e.reg ra + imm).toNat % 8 = 0) (hns : s.inNs e ((e.reg ra + imm).toNat / 65536) = false)
    (hops : ∀ o ∈ e.st.ops, (e.reg ra + imm).toNat / 65536 ∉ o.wrPages) (hdrain : s.draining e [(e.reg ra + imm).toNat / 65536] = false)
    (htrack : s.track e [(e.reg ra + imm).toNat / 65536] [] 0 false = .ok e1)
    (htlb : s.tlbHit (.comp c) e ((e.reg ra + imm).toNat / 65536) false = true)
    (hpoison : s.poisonAt e (e.reg ra + imm).toNat ((e.reg ra + imm).toNat + 8) = false) :
    exec (.lds c p rd ra imm) s = .next ((s.setEx (e1.setReg rd (BitVec.ofNat 64
      (leNat ((List.range 8).map fun k => s.rdByte e ((e.reg ra + imm).toNat + k))))).next).used e [(e.reg ra + imm).toNat / 65536] []) := by
  have hany : (e.st.ops.any fun o => o.wrPages.contains ((e.reg ra + imm).toNat / 65536)) = false := by
    simpa using hops
  have hexec : exec (.lds c p rd ra imm) s = execLds c p rd ra imm s := rfl
  rw [hexec, execLds, State.insn_issues h]
  simp only [hr, halign, hns, hany, hdrain, htrack, htlb, hpoison]
  rfl

/-- The tracking of a read changes the held pages and the step only. -/
theorem State.track_eq {s : State} {e e1 : Exec} {rds : List Nat} {wrs : List WrWin} {wins : Nat} {bank : Bool}
    (h : s.track e rds wrs wins bank = .ok e1) : ∃ heldT0 rdPages rdAll wrWins shPages bankPages windows, e1 = { e with
      heldT0, st := { e.st with rdPages, rdAll, wrWins, shPages, bankPages, windows } } := by
  unfold State.track at h
  split at h
  · cases h
  · dsimp only at h
    split at h
    · cases h
      exact ⟨_, _, _, _, _, _, _, rfl⟩
    · cases h

end Sys2Proof.Machine
end

section
/-!
CERTIFICATE. The instructions that read a value into a register (R195, R197 to R200, R239).
-/
open Sys2Proof Sys2Proof.Machine

/-- Settles O7: the register reads are writes of one register; LDS besides leaves its tracking in the step and touches its page. -/
theorem scalarReads : Obligations.ScalarReads := by
  refine ⟨fun s c p e rd h hr => ⟨fun ra imm i hra hi halign hin => ?ldc, writes_of_sync h hr rfl rfl, fun rb => writes_of_sync h hr rfl rfl,
    fun slot => writes_of_sync h hr rfl rfl, fun ts f dim => writes_of_sync h hr rfl rfl⟩, ?lds⟩
  case ldc =>
    refine writes_of_sync h hra rfl ?_
    dsimp only
    rw [if_neg (not_not.mpr halign), State.constant_within hi hin]
  case lds =>
    intro s c p e e1 rd ra imm a h hr halign hns hops hdrain htrack htlb hpoison
    refine ⟨_, exec_lds h hr halign hns hops hdrain htrack htlb hpoison, ?_⟩
    obtain ⟨_, _, _, _, _, _, _, htracked⟩ := State.track_eq htrack
    have hreg (q : Fin 64) : e1.reg q = e.reg q := by rw [htracked]; rfl
    generalize BitVec.ofNat 64 (leNat ((List.range 8).map fun k => s.rdByte e ((e.reg ra + imm).toNat + k))) = v
    obtain ⟨regs, hregs⟩ := e1.setReg_eq rd v
    have hfound : (s.setEx (e1.setReg rd v).next).ex? e.id = some (e1.setReg rd v).next :=
      State.ex?_setEx (State.running?_some h.1.2.2.1).1 (by rw [hregs, htracked]; rfl)
    obtain ⟨allocs, hused, hpages⟩ := (s.setEx (e1.setReg rd v).next).used_useWork e [(e.reg ra + imm).toNat / 65536]
    rw [hused] at hpages ⊢
    refine ⟨(e1.setReg rd v).next, hfound, rfl, ?_, fun r hne => ?_, ?_, rfl, fun n b hb => ?_, rfl⟩
    · exact e1.reg_setReg_same rd v
    · exact (e1.reg_setReg_other v hne).trans (hreg r)
    · rw [hregs, htracked]; rfl
    · obtain ⟨b', hb', -, hpage⟩ := hpages n b hb
      exact ⟨b', hb', hpage⟩
end

section
/-!
SUPPORT. Fences, waits and signals (R182, R185, R221 to R225).
-/
namespace Sys2Proof.Machine

/-- A fence or a wait that issues is settled at once. -/
theorem exec_of_settled {i : Instr} {s : State} {c : Fin 16} {p : Pred} {e : Exec} {w : Stall} (h : Issues s c p e)
    (hx : exec i s = .next (s.insn c p fun s e => s.settle (e.wait w s.now))) : exec i s = .next (s.settle (e.wait w s.now)) := by
  rw [hx, State.insn_issues h]

/-- What becomes of a fence (R222, R223). -/
theorem State.settle_fence (s : State) (e : Exec) (mv fx : Bool) :
    s.settle (e.wait (.fence mv fx) s.now) =
      let e := e.wait (.fence mv fx) s.now
      if e.st.ops.any (fenceCovers mv fx) then s.setEx e
      else if e.poisonIn mv fx then (s.setEx e).rerunOr e .poison 0x85 0 e.step32
      else s.setEx (e.passFence mv fx) := rfl

/-- What becomes of a wait (R185, R221, R224). -/
theorem State.settle_wait (s : State) (e : Exec) (m : W64) (all : Bool) :
    s.settle (e.wait (.waitFlags m all) s.now) =
      let e := e.wait (.waitFlags m all) s.now
      if e.namedIn m then s.setEx e
      else if e.waitTest m all then s.setEx e.next
      else s.jfault e .bound e.pc := rfl

/-- A fence with nothing to cover and no poison to collect passes (R222, R223). -/
theorem State.settle_fence_passes {s : State} {e : Exec} {mv fx : Bool} (hops : ∀ o ∈ e.st.ops, fenceCovers mv fx o = false)
    (hpoison : e.poisonIn mv fx = false) :
    s.settle (e.wait (.fence mv fx) s.now) = s.setEx ((e.wait (.fence mv fx) s.now).passFence mv fx) := by
  have hany : ¬ e.st.ops.any (fenceCovers mv fx) = true := by simpa using hops
  have hclean : ¬ e.poisonIn mv fx = true := by simp [hpoison]
  exact (s.settle_fence e mv fx).trans ((if_neg hany).trans (if_neg hclean))

/-- A fence that an outstanding operation holds back stays (R221). -/
theorem State.settle_fence_held {s : State} {e : Exec} {o : Op} {mv fx : Bool} (ho : o ∈ e.st.ops) (hc : fenceCovers mv fx o = true) :
    s.settle (e.wait (.fence mv fx) s.now) = s.setEx (e.wait (.fence mv fx) s.now) := by
  have hany : e.st.ops.any (fenceCovers mv fx) = true := List.any_eq_true.mpr ⟨o, ho, hc⟩
  exact (s.settle_fence e mv fx).trans (if_pos hany)

/-- A wait whose flags no operation names and whose test holds passes (R185, R221). -/
theorem State.settle_wait_passes {s : State} {e : Exec} {m : W64} {all : Bool} (hn : e.namedIn m = false)
    (ht : e.waitTest m all = true) :
    s.settle (e.wait (.waitFlags m all) s.now) = s.setEx (e.wait (.waitFlags m all) s.now).next := by
  have hn' : ¬ e.namedIn m = true := by simp [hn]
  exact (s.settle_wait e m all).trans ((if_neg hn').trans (if_pos ht))

/-- A wait for a flag that an outstanding operation names stays (R185). -/
theorem State.settle_wait_held {s : State} {e : Exec} {o : Op} {f : Fin 64} {m : W64} {all : Bool} (ho : o ∈ e.st.ops)
    (hev : o.ev = some f) (hm : m.getLsbD f = true) :
    s.settle (e.wait (.waitFlags m all) s.now) = s.setEx (e.wait (.waitFlags m all) s.now) := by
  have hn : e.namedIn m = true := List.any_eq_true.mpr ⟨o, ho, by rw [hev]; exact hm⟩
  exact (s.settle_wait e m all).trans (if_pos hn)

/-- WAIT.ALL's test asks for every flag of its mask (R221). -/
theorem Exec.waitTest_all {e : Exec} {m : W64} (h : ∀ f : Fin 64, m.getLsbD f = true → e.flag f = true) : e.waitTest m true = true := by
  refine decide_eq_true (BitVec.eq_of_getLsbD_eq fun k hk => ?_)
  have hk' := h ⟨k, hk⟩
  rw [BitVec.getLsbD_and]
  cases hm : m.getLsbD k with
  | false => exact Bool.and_false _
  | true => rw [Bool.and_true]; exact hk' hm

/-- WAIT.ANY's test asks for one flag of its mask (R221). -/
theorem Exec.waitTest_any {e : Exec} {m : W64} {f : Fin 64} (hm : m.getLsbD f = true) (hf : e.flag f = true) :
    e.waitTest m false = true := by
  refine decide_eq_true fun hzero => ?_
  have hbit : (e.evs &&& m).getLsbD f = true := by rw [BitVec.getLsbD_and, hm, Bool.and_true]; exact hf
  rw [hzero] at hbit
  exact Bool.false_ne_true (BitVec.getLsbD_zero.symm.trans hbit)

end Sys2Proof.Machine
end

section
/-!
CERTIFICATE. Fences, waits and signals (R221 to R225).
-/
open Sys2Proof Sys2Proof.Machine

/-- Settles O12: a fence or wait is settled as it issues, and a signal is a synchronous instruction on the flags. -/
theorem synchronises : Obligations.Synchronises := by
  refine ⟨fun s c p e m h => ⟨fun hops hmv hfx => ?fence, fun hops hmv => ?fenceMv, fun hops hfx => ?fenceFx, fun hn hall => ?waitAll,
    fun hn ⟨f, hm, hf⟩ => ?waitAny, fun hn => ?set, fun hn => ?clr⟩, fun s c p e m o h ho => ⟨?held, fun f hev hm => ?heldAll,
    fun f hev hm => ?heldAny⟩⟩
  case fence =>
    have hx := exec_of_settled (i := .fence c p) h rfl
    rw [State.settle_fence_passes (by simp [hops]) (by simp [Exec.poisonIn, hmv, hfx])] at hx
    refine becomes_of_eq h.1 rfl (hx.trans ?_)
    simp [Exec.passFence, Exec.next, Exec.wait, waitBegan]
  case fenceMv =>
    have hx := exec_of_settled (i := .fenceMv c p) h rfl
    rw [State.settle_fence_passes (fun o ho => if_pos (hops o ho)) (by simp [Exec.poisonIn, hmv])] at hx
    refine becomes_of_eq h.1 rfl (hx.trans ?_)
    simp [Exec.passFence, Exec.next, Exec.wait, waitBegan]
  case fenceFx =>
    have hx := exec_of_settled (i := .fenceFx c p) h rfl
    rw [State.settle_fence_passes (fun o ho => if_neg (by simp [hops o ho])) (by simp [Exec.poisonIn, hfx])] at hx
    refine becomes_of_eq h.1 rfl (hx.trans ?_)
    simp [Exec.passFence, Exec.next, Exec.wait, waitBegan]
  case waitAll =>
    exact becomes_of_eq h.1 rfl ((exec_of_settled h rfl).trans (by rw [State.settle_wait_passes hn (Exec.waitTest_all hall)]; rfl))
  case waitAny =>
    exact becomes_of_eq h.1 rfl ((exec_of_settled h rfl).trans (by rw [State.settle_wait_passes hn (Exec.waitTest_any hm hf)]; rfl))
  case set =>
    exact ⟨{ e.next with evs := e.evs ||| m }, becomes_of_sync_nil h rfl rfl (by simp [hn]), fun f => BitVec.getLsbD_or, rfl⟩
  case clr =>
    refine ⟨{ e.next with evs := e.evs &&& ~~~m }, becomes_of_sync_nil h rfl rfl (by simp [hn]), fun f => ?_, rfl⟩
    simp [Exec.flag, -BitVec.getLsbD_eq_getElem]
  case held =>
    exact becomes_of_eq h.1 rfl ((exec_of_settled h rfl).trans (by rw [State.settle_fence_held ho (by simp [fenceCovers])]; rfl))
  case heldAll | heldAny =>
    exact becomes_of_eq h.1 rfl ((exec_of_settled h rfl).trans (by rw [State.settle_wait_held ho hev hm]; rfl))
end

section
/-!
SUPPORT. What an asynchronous instruction asks for, and how its operation issues (R182 to R184, R202 to R220).
-/
namespace Sys2Proof.Machine

/-! ## What a computation that may raise a fault can answer -/

/-- Whatever a computation answers without a fault satisfies P. -/
def Answers {α : Type} (x : Except JFault α) (P : α → Prop) : Prop := ∀ y, x = .ok y → P y

theorem Answers.pure {α : Type} {P : α → Prop} {a : α} (h : P a) : Answers (Pure.pure a) P := by
  rintro _ ⟨⟩
  exact h

theorem Answers.throw {α : Type} {P : α → Prop} (j : JFault) : Answers (MonadExcept.throw j) P := by
  rintro _ ⟨⟩

theorem Answers.bind {α β : Type} {P : β → Prop} {x : Except JFault α} {f : α → Except JFault β}
    (h : ∀ a, x = .ok a → Answers (f a) P) : Answers (x >>= f) P := by
  cases x with
  | error j => rintro _ ⟨⟩
  | ok a => exact h a rfl

/-- A check that raises a fault, and the rest. -/
theorem Answers.check {α β : Type} {P : β → Prop} {c : Prop} [Decidable c] {j : JFault} {f : α → Except JFault β} {x : Except JFault β}
    (h : Answers x P) : Answers (if c then MonadExcept.throw j >>= f else x) P := by
  split
  · rintro _ ⟨⟩
  · exact h

theorem Answers.ite {α : Type} {P : α → Prop} {c : Prop} [Decidable c] {x y : Except JFault α} (hx : Answers x P)
    (hy : Answers y P) : Answers (if c then x else y) P := by
  split
  · exact hx
  · exact hy

/-- The request is one of execution e for an operation of kind k. -/
def AsksFor (e : Exec) (k : OpKind) (y : Exec × Req) : Prop := y.1.id = e.id ∧ y.2.op.kind = k

theorem AsksFor.of_eq {e e' : Exec} {k : OpKind} {r : Req} (hid : e'.id = e.id) (hk : r.op.kind = k) : AsksFor e k (e', r) := ⟨hid, hk⟩

theorem Exec.arm_id {e e' : Exec} {g : Engine} (h : e.arm g = .ok e') : e'.id = e.id := by
  unfold Exec.arm at h
  split at h <;> cases h
  rfl

/-! ## The requests -/

theorem State.stsReq_asks (s : State) (e : Exec) (rb ra : Fin 64) (imm : W64) : Answers (s.stsReq e rb ra imm) (AsksFor e .sts) := by
  unfold State.stsReq
  dsimp only
  split
  · rintro _ ⟨⟩
  · exact .pure ⟨rfl, rfl⟩

theorem State.moveReq_asks (s : State) (e : Exec) (td ts : Fin 32) (ev : EvSel) : Answers (s.moveReq e td ts ev) (AsksFor e .move) :=
  .bind fun _ _ => .bind fun _ _ => .check (.pure ⟨rfl, rfl⟩)

theorem State.pageReq_asks (s : State) (e : Exec) (ts : Fin 32) (k : OpKind) (ev : EvSel) :
    Answers (s.pageReq e ts k ev) (AsksFor e k) :=
  .bind fun _ _ => .pure ⟨rfl, rfl⟩

theorem State.cvtReq_asks (s : State) (e : Exec) (td ts : Fin 32) (ra : Fin 64) (ev : EvSel) :
    Answers (s.cvtReq e td ts ra ev) (AsksFor e (.cvt ((e.reg ra).setWidth 8))) :=
  .bind fun _ _ => .bind fun _ _ => .check (.check (.bind fun _ _ => .pure ⟨rfl, rfl⟩))

theorem State.impReq_asks (s : State) (e : Exec) (x : EArgs) : Answers (s.impReq e x) (AsksFor e .imp) := by
  refine .check (.bind fun a _ => .bind fun b _ => .check (.check (.check (.ite ?c ?fed))))
  case c => exact .bind fun d _ => .check (.check (.bind fun _ _ => .pure ⟨rfl, rfl⟩))
  case fed =>
    extract_lets eng
    cases e.armedOp eng with
    | none => exact .throw _
    | some o => exact .ite (.pure ⟨rfl, rfl⟩) (.throw _)

theorem State.platenReq_asks (s : State) (e : Exec) (a : EArgs) : Answers (s.platenReq e a) (AsksFor e (.platen (e.count a))) :=
  .check (.bind fun _ _ => .pure ⟨rfl, rfl⟩)

theorem State.sieveArmReq_asks (s : State) (e : Exec) (a : EArgs) : Answers (s.sieveArmReq e a) (AsksFor e .sieveArm) :=
  .bind fun _ _ => .bind fun _ harm => .pure ⟨Exec.arm_id harm, rfl⟩

theorem State.sieveEvalReq_asks (s : State) (e : Exec) (a : EArgs) : Answers (s.sieveEvalReq e a) (AsksFor e .sieveEval) :=
  .bind fun _ _ => .bind fun _ _ => .bind fun _ _ => .check (.pure ⟨rfl, rfl⟩)

theorem State.sieveFReq_asks (s : State) (e : Exec) (a : EArgs) : Answers (s.sieveFReq e a) (AsksFor e .sieveF) :=
  .bind fun _ _ => .bind fun _ _ => .bind fun _ harm => .pure ⟨Exec.arm_id harm, rfl⟩

theorem State.histReq_asks (s : State) (e : Exec) (a : EArgs) : Answers (s.histReq e a) (AsksFor e (.hist (e.count a))) :=
  .check (.bind fun _ _ => .bind fun _ _ => .pure ⟨rfl, rfl⟩)

theorem State.hashReq_asks (s : State) (e : Exec) (a : EArgs) : Answers (s.hashReq e a) (AsksFor e .cipherHash) :=
  .bind fun _ _ => .bind fun _ _ => .bind fun _ _ => .pure ⟨rfl, rfl⟩

theorem State.cipherReq_asks (s : State) (e : Exec) (a : EArgs) (enc : Bool) :
    Answers (s.cipherReq e a enc) (AsksFor e (if enc then .cipherEnc (e.count a) else .cipherDec (e.count a))) :=
  .check (.bind fun _ _ => .bind fun _ _ => .bind fun _ _ => .bind fun _ _ => .check (.pure ⟨rfl, rfl⟩))

/-- Galley's list and its optional windows are read first; then the scan is armed (R216, R324, R325). -/
theorem State.galleyReq_asks (s : State) (e : Exec) (a : EArgs) :
    Answers (s.galleyReq e a) (AsksFor e (.galley (e.count a) (e.reg a.rp))) := by
  have hlist : BitVec.ofNat 64 (e.reg a.rp).toNat = e.reg a.rp := by simp
  refine .bind fun d _ => .check (.check (.check (.check (.bind fun pw _ => .bind fun dw _ => ?_))))
  cases pw <;> cases dw
  case none.none => exact .bind fun _ harm => .pure ⟨Exec.arm_id harm, by rw [hlist]⟩
  case none.some | some.none => exact .check (.bind fun _ harm => .pure ⟨Exec.arm_id harm, by rw [hlist]⟩)
  case some.some => exact .check (.check (.bind fun _ harm => .pure ⟨Exec.arm_id harm, by rw [hlist]⟩))

/-- A fed Tally operation is armed, the others are not (R218). -/
theorem Answers.armed {e : Exec} {k : OpKind} {fed : Bool} {f : Exec → Except JFault (Exec × Req)}
    (h : ∀ x : Exec, x.id = e.id → Answers (f x) (AsksFor e k)) :
    Answers (if fed = true then e.arm .tally >>= f else Pure.pure e >>= f) (AsksFor e k) :=
  .ite (.bind fun _ harm => h _ (Exec.arm_id harm)) (h e rfl)

/-- The keys of a Tally operation come from an impression, or from a window whose size must fit. -/
theorem Answers.keys {P : Exec × Req → Prop} {fed : Bool} {c : DInfo → Prop} [DecidablePred c] {x : Except JFault DInfo}
    {f : List DInfo → Except JFault (Exec × Req)} (h : ∀ ins, Answers (f ins) P) :
    Answers (if fed = true then Pure.pure [] >>= f else x >>= fun i => if c i then MonadExcept.throw .descriptor >>= fun (_ : Unit) =>
      Pure.pure [i] >>= f else Pure.pure [i] >>= f) P :=
  .ite (h []) (.bind fun i _ => .check (h [i]))

theorem State.argmaxReq_asks (s : State) (e : Exec) (a : EArgs) (fed : Bool) :
    Answers (s.argmaxReq e a fed) (AsksFor e (.argmax fed)) :=
  .check (.keys fun _ => .bind fun _ _ => .armed fun _ hid => .pure ⟨hid, rfl⟩)

theorem State.sampleReq_asks (s : State) (e : Exec) (a : EArgs) (fed : Bool) :
    Answers (s.sampleReq e a fed) (AsksFor e (.sample fed)) :=
  .check (.keys fun _ => .bind fun _ _ => .bind fun _ _ => .armed fun _ hid => .pure ⟨hid, rfl⟩)

/-- The list that a merge reads, whose size must fit. -/
theorem Answers.merged {P : Exec × Req → Prop} {merge : Bool} {c : DInfo → Prop} [DecidablePred c] {x : Except JFault DInfo}
    {f : List DInfo → Except JFault (Exec × Req)} (h : ∀ prev, Answers (f prev) P) :
    Answers (if merge = true then x >>= fun i => if c i then MonadExcept.throw .descriptor >>= fun (_ : Unit) =>
      Pure.pure [i] >>= f else Pure.pure [i] >>= f else Pure.pure [] >>= f) P :=
  .ite (.bind fun i _ => .check (h [i])) (h [])

/-- The sums that a selection writes on request. -/
theorem Answers.summed {P : Exec × Req → Prop} {c : Bool} {x : Except JFault DInfo} {f : List DInfo → Except JFault (Exec × Req)}
    (h : ∀ sums, Answers (f sums) P) : Answers (if c = true then x >>= fun i => Pure.pure [i] >>= f else Pure.pure [] >>= f) P :=
  .ite (.bind fun i _ => h [i]) (h [])

theorem State.topkReq_asks (s : State) (e : Exec) (a : EArgs) (fed merge : Bool) :
    Answers (s.topkReq e a fed merge) (AsksFor e (.topk (e.count a) fed merge)) :=
  .check (.keys fun _ => .merged fun _ => .bind fun _ _ => .summed fun _ => .armed fun _ hid => .pure ⟨hid, rfl⟩)

/-! ## The issue -/

/-- A flag changes the flags of the execution only. -/
theorem Exec.setFlag_eq (e : Exec) (f : Fin 64) (b : Bool) : ∃ evs, e.setFlag f b = { e with evs } := ⟨_, rfl⟩

/-- The issue of an operation clears its completion flag at most. -/
theorem Exec.clearNamed_eq (e : Exec) (ev : EvSel) : ∃ evs, e.clearNamed ev = { e with evs } := by
  cases ev <;> exact ⟨_, rfl⟩

/-- At issue the completion flag of an operation is cleared, and no other flag changes (R184). -/
theorem Exec.clearNamed_flag (e : Exec) (ev : EvSel) (f : Fin 64) :
    (e.clearNamed ev).flag f = if ev = some f then false else e.flag f := by
  cases ev with
  | none => rfl
  | some g =>
    refine (e.flag_setFlag g f false).trans ?_
    simp [eq_comm]

/-- Execution e1 with its request r issued: the operation is outstanding behind the others (R149, R182, R184). -/
def IssuedForm (e1 : Exec) (r : Req) (e2 : Exec) : Prop :=
  ∃ o, e2.st.ops = e1.st.ops ++ [o] ∧ o.kind = r.op.kind ∧ o.ev = r.op.ev ∧ o.id = e1.nextOp ∧ o.pc = e1.pc
    ∧ (∀ f, e2.flag f = if r.op.ev = some f then false else e1.flag f)
    ∧ e2.st.shadow = e1.st.shadow ∧ e2.st.ns = e1.st.ns ∧ e2.st.fed = e1.st.fed ∧ e2.st.armed = e1.st.armed
    ∧ e2 = { e1 with evs := e2.evs, heldT0 := e2.heldT0, nextOp := e1.nextOp + 1, st := e2.st }

theorem State.issueOp_issues (s : State) (e1 : Exec) (r : Req) : Answers (s.issueOp e1 r) (IssuedForm e1 r) := by
  refine .check (.bind fun x hx => .pure ?_)
  obtain ⟨_, _, _, _, _, _, _, rfl⟩ := State.track_eq hx
  dsimp only
  generalize hx' : Exec.clearNamed _ r.op.ev = x'
  have hflag (f : Fin 64) : x'.flag f = if r.op.ev = some f then false else e1.flag f := by
    rw [← hx', Exec.clearNamed_flag]
    rfl
  obtain ⟨evs, hevs⟩ := Exec.clearNamed_eq _ r.op.ev
  rw [hx'] at hevs
  subst hevs
  exact ⟨_, rfl, rfl, rfl, rfl, rfl, hflag, rfl, rfl, rfl, rfl, rfl⟩

/-- An instruction whose request is accepted becomes an outstanding operation. -/
theorem queued_of_asyncList {i : Instr} {s : State} {c : Fin 16} {p : Pred} {e e1 : Exec} {r : Req} {rs : List (Fin 64)}
    {l : Exec → List Nat} {k : OpKind} {f : State → Exec → Except JFault (Exec × Req)} (h : Issues s c p e) (hr : e.pend rs = false)
    (hn : e.st.ops.length < 64) (hl : ListReady s e (l e)) (ha : Accepted s e1 r) (hasks : Answers (f s e) (AsksFor e k))
    (hx : exec i s = .next (s.asyncList c p rs l f)) (hf : f s e = .ok (e1, r)) : Queued i s e e1 r ∧ r.op.kind = k := by
  obtain ⟨e2, he2⟩ := ha
  obtain ⟨hid, hkind⟩ := hasks _ hf
  obtain ⟨o, hops, ho, hev, hoid, hpc, hflag, hshadow, hns, hfed, harmed, hform⟩ := s.issueOp_issues e1 r _ he2
  rw [State.asyncList_issues h hr hn hl hf he2] at hx
  have hid2 : e2.id = e.id := by rw [hform]; exact hid
  refine ⟨⟨e2.next, o, becomes_of_eq h.1 hid2 hx, hops, ho, hev, hoid, hpc, fun f hf => (hflag f).trans (if_pos hf),
    fun f hf => (hflag f).trans (if_neg hf), hshadow, hns, hfed, harmed, ?_⟩, hkind⟩
  rw [hform]
  rfl

/-- An instruction without a list reads no page at issue. -/
theorem listReady_nil (s : State) (e : Exec) : ListReady s e [] := ⟨fun _ _ _ _ => List.not_mem_nil, rfl⟩

/-- No result is awaited in some of the registers in which none is. -/
theorem Exec.pend_sublist {e : Exec} {rs qs : List (Fin 64)} (h : e.pend rs = false) (hsub : qs ⊆ rs) : e.pend qs = false := by
  unfold Exec.pend at h ⊢
  rw [List.any_eq_false] at h ⊢
  intro o ho
  have ho' := h o ho
  generalize o.kind = k at ho' ⊢
  cases k with
  | evict t ra =>
    simp only [Bool.and_eq_true, bne_iff_ne, List.contains_iff_mem, not_and] at ho' ⊢
    exact fun hne hmem => ho' hne (hsub hmem)
  | _ => exact Bool.false_ne_true

end Sys2Proof.Machine
end

section
/-!
CERTIFICATE. The asynchronous instructions issue (R182 to R187, R198, R202 to R220).
-/
open Sys2Proof Sys2Proof.Machine

/-- Settles O9: each of the six asks for an operation of its kind, and an accepted request is queued. -/
theorem movesIssue : Obligations.MovesIssue := by
  intro s c p e e1 r td ts ra rb t hc imm ev h ⟨hr, hn⟩ ha
  have issue {i : Instr} {rs : List (Fin 64)} {k : OpKind} {f : State → Exec → Except JFault (Exec × Req)} (hsub : rs ⊆ [rb, ra])
      (hx : exec i s = .next (s.async c p rs f)) (hasks : Answers (f s e) (AsksFor e k)) (hf : f s e = .ok (e1, r)) :
      Queued i s e e1 r ∧ r.op.kind = k :=
    queued_of_asyncList h (e.pend_sublist hr hsub) hn (listReady_nil s e) ha hasks hx hf
  have both : [rb, ra] ⊆ [rb, ra] := List.Subset.refl _
  have none : [] ⊆ [rb, ra] := List.nil_subset _
  have last : [ra] ⊆ [rb, ra] := List.subset_cons_self ..
  refine ⟨?sts, ?move, ?pref, ?hint, ?evict, ?cvt⟩
  case sts => exact fun hf => issue both rfl (s.stsReq_asks e rb ra imm) hf
  case move => exact fun hf => issue none rfl (s.moveReq_asks e td ts ev) hf
  case pref | hint => exact fun hf => issue none rfl (s.pageReq_asks e ts _ ev) hf
  case evict => exact fun hf => issue last rfl (s.pageReq_asks e ts _ ev) hf
  case cvt => exact fun hf => issue last rfl (s.cvtReq_asks e td ts ra ev) hf

/-- Settles O10: each of the eighteen asks for an operation of its kind; IMP and GALLEY.SCAN besides read a list at issue. -/
theorem enginesIssue : Obligations.EnginesIssue := by
  intro s c p e e1 r a h ⟨hr, hn⟩ ha
  have issueList {i : Instr} {rs : List (Fin 64)} {l : Exec → List Nat} {k : OpKind} {f : State → Exec → Except JFault (Exec × Req)}
      (hsub : rs ⊆ [a.rp, a.rn]) (hl : ListReady s e (l e)) (hx : exec i s = .next (s.asyncList c p rs l f))
      (hasks : Answers (f s e) (AsksFor e k)) (hf : f s e = .ok (e1, r)) : Queued i s e e1 r ∧ r.op.kind = k :=
    queued_of_asyncList h (e.pend_sublist hr hsub) hn hl ha hasks hx hf
  have issue {i : Instr} {rs : List (Fin 64)} {k : OpKind} {f : State → Exec → Except JFault (Exec × Req)} (hsub : rs ⊆ [a.rp, a.rn])
      (hx : exec i s = .next (s.async c p rs f)) (hasks : Answers (f s e) (AsksFor e k)) (hf : f s e = .ok (e1, r)) :
      Queued i s e e1 r ∧ r.op.kind = k := issueList hsub (listReady_nil s e) hx hasks hf
  have none : ([] : List (Fin 64)) ⊆ [a.rp, a.rn] := List.nil_subset _
  have count : [a.rn] ⊆ [a.rp, a.rn] := List.subset_cons_self ..
  have all : [a.rp, a.rn] ⊆ [a.rp, a.rn] := List.Subset.refl _
  refine ⟨fun hl hf => issueList all ?imp rfl (s.impReq_asks e a) hf, ?platen, ?sieveArm, ?sieveEval, ?sieveF,
    fun hl => ?galley, ?topk, ?topkF, ?topkM, ?topkFm, ?argmax, ?argmaxF, ?hist, ?sample, ?sampleF, ?enc, ?dec, ?hash⟩
  case platen => exact fun hf => issue count rfl (s.platenReq_asks e a) hf
  case sieveArm => exact fun hf => issue none rfl (s.sieveArmReq_asks e a) hf
  case sieveEval => exact fun hf => issue none rfl (s.sieveEvalReq_asks e a) hf
  case sieveF => exact fun hf => issue none rfl (s.sieveFReq_asks e a) hf
  case galley => exact fun hf => issueList all hl rfl (s.galleyReq_asks e a) hf
  case topk | topkF | topkM | topkFm => exact fun hf => issue count rfl (s.topkReq_asks e a _ _) hf
  case argmax | argmaxF => exact fun hf => issue none rfl (s.argmaxReq_asks e a _) hf
  case hist => exact fun hf => issue count rfl (s.histReq_asks e a) hf
  case sample | sampleF => exact fun hf => issue none rfl (s.sampleReq_asks e a _) hf
  case enc | dec => exact fun hf => issue count rfl (s.cipherReq_asks e a _) hf
  case hash => exact fun hf => issue none rfl (s.hashReq_asks e a) hf
  case imp =>
    split
    · exact listReady_nil s e
    next hrn => exact hl hrn
end

section
/-!
SUPPORT. What an operation leaves as it completes, and how bytes land (R114, R144, R147, R184, R198, R222).
-/
namespace Sys2Proof.Machine

/-! ## Bytes written one after another -/

/-- Reading after a run of bytes was written. -/
theorem assocGet_putBytes (bs : List Byte) (a x : Nat) (m : List (Nat × Byte)) :
    assocGet x ((bytesAt a bs).foldl (fun m b => assocPut b.1 b.2 m) m)
      = if h : a ≤ x ∧ x - a < bs.length then some bs[x - a] else assocGet x m := by
  induction bs generalizing a m with
  | nil => simp [bytesAt, upto]
  | cons b t ih =>
    have hcons : bytesAt a (b :: t) = (a, b) :: bytesAt (a + 1) t := by
      simp only [bytesAt, upto, List.length_cons, List.range_succ_eq_map, List.zip_cons_cons, List.map_cons, Nat.add_zero,
        List.zip_map_left, List.map_map]
      congr 1
      refine List.map_congr_left fun p _ => Prod.ext ?_ rfl
      show a + (p.1 + 1) = a + 1 + p.1
      omega
    rw [hcons, List.foldl_cons, ih, assocGet_put]
    obtain hlt | rfl | hgt := lt_trichotomy x a
    · simp [show ¬ a + 1 ≤ x by omega, show ¬ a ≤ x by omega, hlt.ne]
    · simp
    · obtain ⟨k, rfl⟩ : ∃ k, x = a + 1 + k := ⟨x - (a + 1), by omega⟩
      simp [show a + 1 + k - a = k + 1 by omega, show a ≤ a + 1 + k by omega, show a + 1 + k ≠ a by omega]

theorem leBytes_length (n v : Nat) : (leBytes n v).length = n := by
  induction n generalizing v with
  | zero => rfl
  | succ n ih => rw [leBytes, List.length_cons, ih]

/-- The bytes of a number, little-endian (R13). -/
theorem leBytes_getElem (n v k : Nat) (h : k < (leBytes n v).length) : (leBytes n v)[k] = BitVec.ofNat 8 (v / 256 ^ k) := by
  induction n generalizing v k with
  | zero => exact absurd h (Nat.not_lt_zero k)
  | succ n ih =>
    cases k with
    | zero => simp [leBytes]
    | succ k =>
      have hk : k < (leBytes n (v / 256)).length := Nat.lt_of_succ_lt_succ h
      calc (leBytes (n + 1) v)[k + 1] = (leBytes n (v / 256))[k] := rfl
        _ = BitVec.ofNat 8 (v / 256 ^ (k + 1)) := by rw [ih, Nat.div_div_eq_div_mul, pow_succ']

/-! ## The use of pages that were read completely -/

theorem State.evict_queueWork (s : State) (a : Alloc) (ps : List Nat) (t : Tier) (op : Option (Nat × Nat)) (host : Option Hdr)
    (cause : Option HintCode) : QueueWork s (s.evict a ps t op host cause).1 :=
  (s.defer_queueWork ..).trans (migrate_queueWork ..)

theorem State.demoteStreamed_queueWork (s : State) (a : Alloc) (ps : List Nat) : QueueWork s (s.demoteStreamed a ps) := by
  refine QueueWork.foldl (fun s i => ?_) _ s
  split
  · exact s.evict_queueWork ..
  · exact .refl s

theorem QueueWork.onlyTiers {s t : State} (h : QueueWork s t) : OnlyTiers s t := by
  obtain ⟨_, _, _, _, rfl⟩ := h
  exact ⟨_, rfl⟩

theorem UseWork.onlyTiers {s t : State} (h : UseWork s t) : OnlyTiers s t := by
  obtain ⟨_, rfl, -⟩ := h
  exact ⟨_, rfl⟩

/-- The use of pages touches the tiers only (R233, R239). -/
theorem State.used_onlyTiers (s : State) (e : Exec) (ps whole : List Nat) : OnlyTiers s (s.used e ps whole) :=
  (s.used_useWork e ps).onlyTiers.trans
    (QueueWork.foldl (f := fun s (q : Alloc × List Nat) => s.demoteStreamed q.1 q.2) (fun s _ => s.demoteStreamed_queueWork ..) _ _).onlyTiers

/-! ## The end of an operation -/

/-- Only the executions and the tiers have changed, no byte of memory among the latter. -/
def Finished (s t : State) (e : Exec) : Prop :=
  ∃ tiers, t = ({ s with tiers } : State).setEx e ∧ tiers.mem = s.tiers.mem

/-- Without a fence or a wait under way, an operation that completes leaves the outstanding ones, and its pages are used. -/
theorem State.finish_unstalled {s : State} {e : Exec} {o : Op} (h : e.stall = none) : Finished s (s.finish e o) (e.finishOp o) := by
  obtain ⟨tiers, hused⟩ := s.used_onlyTiers e (o.rdPages ++ o.wrPages) o.wholePages
  have hmem : (s.used e (o.rdPages ++ o.wrPages) o.wholePages).tiers.mem = s.tiers.mem := by simp
  obtain ⟨_, hfin⟩ := e.finishOp_eq o
  refine ⟨tiers, ?_, by rw [hused] at hmem; exact hmem⟩
  rw [State.finish, State.settle_unstalled _ (by rw [hfin]; exact h), hused]

/-- An execution that stood under its number stands there as the operation leaves it. -/
theorem Finished.ex? {s t : State} {e e' : Exec} (h : Finished s t e') (he : s.ex? e.id = some e) (hid : e'.id = e.id) :
    t.ex? e.id = some e' := by
  obtain ⟨tiers, rfl, -⟩ := h
  exact State.ex?_setEx (s := { s with tiers }) he hid

/-- What is outstanding after an operation was finished: the others. -/
theorem Exec.mem_finishOp {e : Exec} {o q : Op} (h : q ∈ (e.finishOp o).st.ops) : q ∈ e.st.ops ∧ q.id ≠ o.id := by
  obtain ⟨_, hfin⟩ := e.finishOp_eq o
  rw [hfin] at h
  simpa using h

/-- The completion flag is set unless another outstanding operation names it (R184). -/
theorem Exec.finishOp_flag {e : Exec} {o : Op} {f : Fin 64} (ho : o.ev = some f) (h : ∀ q ∈ e.st.ops, q.id ≠ o.id → q.ev ≠ some f) :
    (e.finishOp o).flag f = true := by
  have hfree : ({ e with st := { e.st with ops := e.st.ops.filter fun q => q.id != o.id } } : Exec).named f = false := by
    simpa [Exec.named, Op.names] using h
  unfold Exec.finishOp Exec.setNamed
  rw [ho]
  simp only [hfree, Bool.false_eq_true, if_false]
  exact (Exec.flag_setFlag _ f f true).trans (if_pos rfl)

/-- An operation all of whose accesses have been translated has none left to translate. -/
theorem State.translate_done {s : State} {e : Exec} {c : Fin 16} {o : Op} (h : o.left = []) : s.translate e c o = (e, o) := by
  simp [State.translate, h]

/-- Without bytes of its pages in the working banks, an operation drains none early. -/
theorem State.drainEarly_none {s : State} {e : Exec} {o : Op} (h : pagesMeet o.wrPages e.st.bankPages = false) :
    s.drainEarly e o = (s, e) := by
  simp [State.drainEarly, h]

/-- An operation that only tier control, STS and IMP complete otherwise performs its effect when nothing holds it back (R184, R186,
R187, R218, R251). -/
theorem State.opDone_performs {s : State} {c : Fin 16} {e e' : Exec} {o : Op} (hsts : o.kind ≠ .sts) (hhint : ∀ h, o.kind ≠ .hint h)
    (hpref : ∀ t, o.kind ≠ .pref t) (hevict : ∀ t r, o.kind ≠ .evict t r) (himp : o.kind ≠ .imp) (hb : e.blocked o = false)
    (ha : e.awaitsImp o = false) (hd : s.draining e o.rdPages = false) (hbank : pagesMeet o.wrPages e.st.bankPages = false)
    (hl : o.left = []) (hpoison : s.readsPoison e o = false) (hpi : s.readsBadPi e o = false) (hp : s.perform e o = .ok e') :
    ∃ eng, s.opDone c e o = ({ s with eng } : State).finish e' o := by
  have htr : s.translate e c o = (e, o) := State.translate_done hl
  have hdrain : s.drainEarly e o = (s, e) := State.drainEarly_none hbank
  unfold State.opDone
  split
  case h_1 h => exact absurd h hsts
  case h_2 h => exact absurd h (hhint _)
  case h_3 h => exact absurd h (hpref _)
  case h_4 h => exact absurd h (hevict _ _)
  case h_5 =>
    simp only [hb, ha, hd, htr, hl, hpoison, hpi, himp, hdrain, hp]
    exact ⟨_, rfl⟩

/-- An impression whose residue checks pass leaves its execution and the tiles' parts (R93 to R97, R102). -/
theorem State.opDone_imp {s : State} {c : Fin 16} {e : Exec} {o : Op} {d : ImpDone} (hk : o.kind = .imp) (hb : e.blocked o = false)
    (hd : s.draining e o.rdPages = false) (hl : o.left = []) (hpoison : s.readsPoison e o = false) (hpi : s.readsBadPi e o = false)
    (hp : s.doImp e o = .ok d) (hhits : d.checks.hits = []) :
    ∃ flt, s.opDone c e o = ({ s with flt, fab := { s.fab with tiles := d.tiles } } : State).finish d.ex o := by
  have ha : e.awaitsImp o = false := by simp [Exec.awaitsImp, hk, OpKind.fed]
  have htr : s.translate e c o = (e, o) := State.translate_done hl
  unfold State.opDone
  simp only [hk, hb, ha, hd, htr, hl, hpoison, hpi, hp, State.impDone, hhits]
  exact ⟨_, rfl⟩

/-- The response of a posted STS writes its eight bytes (R147, R198, R222). -/
theorem exec_postedWriteResponse {s : State} {c : Fin 16} {e : Exec} {o : Op} (h : Opened s c e o) (hk : o.kind = .sts)
    (hb : e.blocked o = false) (hl : o.left = []) (hbank : pagesMeet o.wrPages e.st.bankPages = false) :
    exec (.postedWriteResponse c o.id) s
      = .next (s.finish (e.putBytes (bytesAt o.list.toNat (leBytes 8 o.record.toNat))) o) := by
  have htr : s.translate e c o = (e, o) := State.translate_done hl
  have hdrain : s.drainEarly e o = (s, e) := State.drainEarly_none hbank
  have hp : s.perform e o = .ok (e.putBytes (bytesAt o.list.toNat (leBytes 8 o.record.toNat))) := by
    unfold State.perform
    rw [hk]
  have hexec : exec (.postedWriteResponse c o.id) s = execPostedWriteResponse c o.id s := rfl
  rw [hexec, execPostedWriteResponse, State.onOp_opened h]
  simp only [hk, hb, htr, hl, hdrain, hp]
  rfl

end Sys2Proof.Machine
end

section
/-!
CERTIFICATE. Operations complete (R147, R184, R186, R187, R198, R218, R222, R251).
-/
open Sys2Proof Sys2Proof.Machine

/-- Settles O13: with nothing in its way an operation performs its effect and is finished, which leaves all but its execution and the
tiers. -/
theorem operationsComplete : Obligations.OperationsComplete := by
  refine ⟨fun s c e e' o h hsts hhint hpref hevict himp hb ha hd hbank hl hpoison hpi hp hid hstall => ?performs,
    fun s c e o d h hk hb hd hl hpoison hpi hp hhits hid hstall => ?imp, fun s c e o h hk hb hl hbank hstall => ?posted⟩
  case performs =>
    have hexec : exec (.asyncOperationComplete c o.id) s = .next (s.opDone c e o) :=
      congrArg Host.Outcome.next (State.onOp_opened h _)
    obtain ⟨eng, hdone⟩ := State.opDone_performs (c := c) hsts hhint hpref hevict himp hb ha hd hbank hl hpoison hpi hp
    have hfinished := State.finish_unstalled (s := { s with eng }) (o := o) hstall
    refine ⟨_, hexec, ?_⟩
    rw [hdone]
    obtain ⟨_, hfin⟩ := e'.finishOp_eq o
    refine ⟨hfinished.ex? h.2.1 (by rw [hfin]; exact hid), fun q => Exec.mem_finishOp, fun f => Exec.finishOp_flag, ?_⟩
    obtain ⟨tiers, hform, hmem⟩ := hfinished
    rw [hform]
    exact ⟨hmem, rfl, rfl, rfl, rfl⟩
  case imp =>
    have hexec : exec (.asyncOperationComplete c o.id) s = .next (s.opDone c e o) :=
      congrArg Host.Outcome.next (State.onOp_opened h _)
    obtain ⟨flt, hdone⟩ := State.opDone_imp (c := c) hk hb hd hl hpoison hpi hp hhits
    have hfinished := State.finish_unstalled (s := { s with flt, fab := { s.fab with tiles := d.tiles } }) (o := o) hstall
    refine ⟨_, hexec, ?_⟩
    rw [hdone]
    obtain ⟨_, hfin⟩ := d.ex.finishOp_eq o
    refine ⟨hfinished.ex? h.2.1 (by rw [hfin]; exact hid), fun q hq => (Exec.mem_finishOp hq).2, ?_⟩
    obtain ⟨tiers, hform, hmem⟩ := hfinished
    rw [hform]
    exact ⟨rfl, hmem, rfl, rfl, rfl⟩
  case posted =>
    refine ⟨_, exec_postedWriteResponse h hk hb hl hbank, ?_⟩
    have hfinished := State.finish_unstalled (s := s) (e := e.putBytes (bytesAt o.list.toNat (leBytes 8 o.record.toNat))) (o := o) hstall
    obtain ⟨_, hfin⟩ := (e.putBytes (bytesAt o.list.toNat (leBytes 8 o.record.toNat))).finishOp_eq o
    have hshadow (x : Nat) := assocGet_putBytes (leBytes 8 o.record.toNat) o.list.toNat x e.st.shadow
    refine ⟨_, hfinished.ex? h.2.1 (by rw [hfin]; rfl), fun k hk => ?_, fun x hx => ?_, fun q hq => (Exec.mem_finishOp hq).2, ?_⟩
    · rw [hfin]
      refine (hshadow _).trans ?_
      simp [leBytes_length, leBytes_getElem, hk]
    · rw [hfin]
      refine (hshadow x).trans (dif_neg ?_)
      rw [leBytes_length]
      omega
    · obtain ⟨tiers, hform, hmem⟩ := hfinished
      rw [hform, hfin]
      exact ⟨rfl, rfl, rfl, hmem⟩
end

section
/-!
SUPPORT. The memory that a commit leaves (R114, R144, R147).
-/
namespace Sys2Proof.Machine

/-- Where a page of an execution lies does not depend on its step. -/
theorem State.execPlace_withBanks (s : State) (e : Exec) (p : Nat) :
    (s.switchBanks (s.withBanks e)).execPlace (s.withBanks e) p = s.execPlace e p := by
  have hstore : StepWork e (s.withBanks e) := s.store_stepWork e _
  obtain ⟨st, wrote, hbanks⟩ := hstore
  rw [hbanks]
  unfold State.switchBanks
  split <;> rfl

/-- The bytes of the step land; frames and translations change no byte. -/
theorem State.landPages_mem (s : State) (e : Exec) : (s.landPages e).tiers.mem = e.st.shadow.foldl (s.landByte e) s.tiers.mem := by
  unfold State.landPages
  dsimp only
  rw [State.invalidate_mem, State.cancelMig_mem]
  exact foldl_mem _ _ _ fun _ _ => rfl

/-- Without namespace writes, a commit leaves the memory that its landed bytes make. -/
theorem State.commit1_mem {s : State} {e : Exec} (hns : (s.withBanks e).st.ns = []) (claim : BitVec 16)
    (final : Bool) : (s.commit1 e claim final).tiers.mem
      = (s.withBanks e).st.shadow.foldl ((s.switchBanks (s.withBanks e)).landByte (s.withBanks e)) s.tiers.mem := by
  obtain ⟨_, _, _, _, hcommit⟩ := s.commit1_eq e claim final
  have hmem : (s.switchBanks (s.withBanks e)).tiers.mem = s.tiers.mem := by simp
  have hlanded : (s.landed e).tiers.mem
      = (s.withBanks e).st.shadow.foldl ((s.switchBanks (s.withBanks e)).landByte (s.withBanks e)) s.tiers.mem := by
    rw [State.landed, State.landPages_mem, hmem]
  rw [hcommit, ← hlanded]
  simp [State.recorded, State.published, State.releaseNs_nil _ hns]

end Sys2Proof.Machine
end

section
/-!
CERTIFICATE. A commit publishes what its step has written (R114, R144, R147).
-/
open Sys2Proof Sys2Proof.Machine

/-- Settles O16: the one byte that lands is written to its place in memory, and nothing else of the commit touches memory. -/
theorem commitPublishes : Obligations.CommitPublishes := by
  intro s e claim final va b a i rd wr hshadow hns _ _ hplace hwf
  have hmem : (s.commit1 e claim final).tiers.mem = memPut s.tiers.mem (byteKey a i (va % 65536)) b := by
    rw [State.commit1_mem hns, hshadow, List.foldl_cons, List.foldl_nil, State.landByte]
    simp only [State.execPlace_withBanks, hplace]
  rw [hmem]
  exact ⟨(memGet_put _ _ _ _ hwf).trans (if_pos rfl), fun k hk => (memGet_put _ _ _ _ hwf).trans (if_neg hk)⟩
end

section
/-!
SUPPORT. Memory through a command: every arm of exec has a next state whose memory is canonical where its own was.
-/
namespace Sys2Proof.Machine

/-- The outcome is a next state with canonical memory. -/
def Kept (o : Out) : Prop := ∃ t, o = .next t ∧ Memory.wf t.tiers.mem = true

/-- A next state with the memory of a state whose memory is canonical. -/
theorem Kept.of_mem {s t : State} (hs : Memory.wf s.tiers.mem = true) (h : t.tiers.mem = s.tiers.mem) : Kept (.next t) :=
  ⟨t, rfl, h ▸ hs⟩

section
variable {s : State} (hs : Memory.wf s.tiers.mem = true)
include hs

/-! ## Instructions and operations of a program -/

theorem execLds_kept (c : Fin 16) (p : Pred) (rd ra : Fin 64) (imm : W64) : Kept (execLds c p rd ra imm s) := by
  refine .of_mem hs (State.insn_mem _ _ _ _ fun s e => ?_)
  dsimp only
  repeat' split
  all_goals simp

theorem execAsyncOperationComplete_kept (c : Fin 16) (op : Nat) : Kept (execAsyncOperationComplete c op s) :=
  ⟨_, rfl, State.onOp_wf _ _ _ _ hs fun s e o h => s.opDone_wf c e o h⟩

theorem execPostedWriteResponse_kept (c : Fin 16) (op : Nat) : Kept (execPostedWriteResponse c op s) := by
  refine .of_mem hs (State.onOp_mem _ _ _ _ fun s e o => ?_)
  dsimp only
  repeat' split
  all_goals simp

/-! ## Grants, gangs and scheduling -/

theorem execExecutionResume_kept (n : Nat) (c : Fin 16) : Kept (execExecutionResume n c s) := by
  refine .of_mem hs ?_
  split
  · rfl
  · split
    · rfl
    · exact foldl_mem _ _ _ fun _ _ => rfl

theorem execGangLaunch_kept (g : Nat) : Kept (execGangLaunch g s) := by
  unfold execGangLaunch
  cases s.sched.gangs.find? fun x => x.id == g with
  | none => exact ⟨s, rfl, hs⟩
  | some x =>
    dsimp only
    split
    · exact ⟨s, rfl, hs⟩
    · refine .of_mem hs ?_
      rw [State.fillComps_mem]
      refine (foldl_mem _ _ _ fun _ _ => ?_).trans ?_
      · rfl
      · exact State.leaveBehind_mem ..

theorem execTwinPreemptNote_kept (n k : Nat) : Kept (execTwinPreemptNote n k s) := by
  unfold execTwinPreemptNote
  split
  · exact .of_mem hs rfl
  next e _ =>
    have hoff := s.pushOff_mem e
    generalize s.pushOff e = t at *
    split
    · exact .of_mem hs rfl
    by_cases hlt : e.step < k
    · rw [if_pos hlt]
      exact ⟨_, rfl, hs⟩
    · rw [if_neg hlt]
      cases e.phase
      all_goals exact ⟨_, rfl, by simp [hoff, hs]⟩

/-! ## Translation and tiers -/

theorem execFaultRecordAnswer_kept (n : Nat) : Kept (execFaultRecordAnswer n s) := by
  unfold execFaultRecordAnswer
  split
  · split
    · exact .of_mem hs (State.dequeue_mem ..)
    · exact ⟨_, rfl, State.answered_wf _ _ hs⟩
    · exact ⟨s, rfl, hs⟩
    · split
      next h => exact ⟨_, rfl, State.answered_wf _ _ (State.zeroFrame_mem (.inl h) ▸ hs)⟩
      next h => exact .of_mem hs (State.zeroFrame_mem (.inr h))
      next => exact .of_mem hs (State.refuseFault_mem ..)
    · exact .of_mem hs (State.refuseFault_mem ..)
  · split
    · exact ⟨s, rfl, hs⟩
    · dsimp only
      split
      · split
        next h => exact .of_mem hs (Eq.trans (State.zeroFrame_mem (.inl h)) rfl)
        all_goals exact ⟨_, rfl, hs⟩
      · exact ⟨_, rfl, hs⟩

theorem execAllocate_kept (h : Hdr) (size : Nat) (flags : W32) : Kept (execAllocate h size flags s) := by
  refine .of_mem hs (State.commandAny_mem _ _ _ fun c => ?_)
  dsimp only
  repeat' split
  all_goals simp

theorem execTierHint_kept (h : Hdr) (a first pages code : Nat) : Kept (execTierHint h a first pages code s) := by
  refine .of_mem hs (State.tierReq_mem _ _ _ _ _ _ fun c a => ?_)
  split <;> simp

theorem execTierEvict_kept (h : Hdr) (a first pages code : Nat) : Kept (execTierEvict h a first pages code s) := by
  refine .of_mem hs (State.tierReq_mem _ _ _ _ _ _ fun c a => ?_)
  dsimp only
  repeat' split
  all_goals simp

theorem execRevocationComplete_kept : Kept (execRevocationComplete s) := by
  refine .of_mem hs ?_
  dsimp only
  split
  · rfl
  · refine (foldl_mem _ _ _ fun s r => ?_).trans (State.payOwed_mem _)
    split <;> simp

/-! ## Commands of hosts -/

theorem execGetLogPage_kept (h : Hdr) (page lsp off len : Nat) : Kept (execGetLogPage h page lsp off len s) := by
  refine .of_mem hs (State.commandAny_mem _ _ _ fun c => ?_)
  repeat' split
  all_goals simp

theorem execWrite_kept (h : Hdr) (nsid slba : Nat) (blocks : List PBlk) : Kept (execWrite h nsid slba blocks s) :=
  .of_mem hs (State.ioWrite_mem _ _ _ _ fun _ => State.ranged_mem _ _ _ _ _ _ _ (State.takeData_mem _ _ _ _ _ (State.runWrite_mem ..)))

theorem execZoneAppend_kept (h : Hdr) (nsid zslba : Nat) (blocks : List PBlk) : Kept (execZoneAppend h nsid zslba blocks s) := by
  refine .of_mem hs (State.ioWrite_mem _ _ _ _ fun n => ?_)
  repeat' split
  · rfl
  · rfl
  · exact State.ranged_mem _ _ _ _ _ _ _ (State.takeData_mem _ _ _ _ _ (State.runAppend_mem ..))

theorem execZoneManagementSend_kept (h : Hdr) (nsid slba : Nat) (act : ZoneAct) (all : Bool) :
    Kept (execZoneManagementSend h nsid slba act all s) := by
  refine .of_mem hs (State.ioWrite_mem _ _ _ _ fun n => ?_)
  dsimp only
  repeat' split
  all_goals simp

theorem execMemoryWrite_kept (h : Hdr) (addr : W64) (data : List Byte) : Kept (execMemoryWrite h addr data s) := by
  refine ⟨_, rfl, State.command_wf _ _ _ hs fun c => ?_⟩
  dsimp only
  repeat' split
  all_goals simp [hs]

theorem execRegisterRead_kept (h : Hdr) (r : RegSel) : Kept (execRegisterRead h r s) := by
  refine .of_mem hs (State.commandAny_mem _ _ _ fun c => ?_)
  split <;> simp

theorem execFaultInject_kept (h : Hdr) (src : Fin 256) (mask count : Nat) : Kept (execFaultInject h src mask count s) := by
  refine .of_mem hs (State.rsCmd_mem _ _ _ _ ?_)
  repeat' split
  all_goals simp

theorem execExecuteProgram_kept (h : Hdr) (prog : Nat) (params : List Byte) (deadline : W64) (cdw13 : W32) (mrs : Nat) :
    Kept (execExecuteProgram h prog params deadline cdw13 mrs s) := by
  refine ⟨_, rfl, State.arrive_wf _ _ _ hs fun c => ?_⟩
  dsimp only
  repeat' split
  rotate_right 2
  · simp [State.takeIn_wf hs ‹_›]
  · simp [State.takeIn_wf hs ‹_›]
  all_goals simp [hs]

/-! ## The pair -/

theorem execTwinCopy_kept (n prog ctx : Nat) (params : List Byte) (deadline : W64) : Kept (execTwinCopy n prog ctx params deadline s) := by
  unfold execTwinCopy
  dsimp only
  split
  · exact ⟨s, rfl, hs⟩
  split
  · exact .of_mem hs (State.toPeer_mem ..)
  split
  · exact .of_mem hs (State.toPeer_mem ..)
  split
  · exact .of_mem hs (State.toPeer_mem ..)
  split
  · exact .of_mem hs (State.toPeer_mem ..)
  next t h => exact ⟨_, rfl, (State.toPeer_mem t _).symm ▸ State.takeIn_wf hs h⟩

theorem execStartResilvering_kept (h : Hdr) (cdw11 : W32) : Kept (execStartResilvering h cdw11 s) := by
  refine .of_mem hs (State.rootCmd_mem _ _ _ ?_)
  dsimp only
  have hask (t : State) (gs : List Nat) : (gs.foldl (fun s g => s.toPeer (askFor g)) t).tiers.mem = t.tiers.mem :=
    foldl_mem _ _ _ fun _ _ => State.toPeer_mem ..
  repeat' split
  all_goals simp [hask]

theorem execHeartbeatSend_kept : Kept (execHeartbeatSend s) := by
  refine .of_mem hs ?_
  split
  · exact foldl_mem _ _ _ fun _ _ => rfl
  · rfl

theorem execEpochAdoptionNotice_kept (n : Nat) : Kept (execEpochAdoptionNotice n s) := by
  refine .of_mem hs ?_
  dsimp only
  split
  · rfl
  · refine (foldl_mem _ _ _ fun _ _ => ?_).trans ?_
    · rfl
    · split
      · rfl
      · refine foldl_mem _ _ _ fun _ _ => ?_
        rfl

/-! ## Scrubbing, checker tests and loops -/

theorem execScrubQuota_kept (ti : ScrubTier) (bytes : Nat) (mended : ScrubMended) (poisoned yielded : Nat) (keys : List Nat) :
    Kept (execScrubQuota ti bytes mended poisoned yielded keys s) := by
  cases hon : s.scrubOn ti with
  | false =>
    refine ⟨s, ?_, hs⟩
    simp [execScrubQuota, hon]
  | true =>
    obtain ⟨_, hexec, -⟩ := exec_scrubQuota bytes mended poisoned yielded keys hon
    obtain ⟨-, hmem, -⟩ := s.scrubbed_keeps ti mended.corrected keys
    exact ⟨_, hexec, by rw [← hmem] at hs; exact hs⟩

theorem execCheckerTest_kept (failed : List (Fin 256)) : Kept (execCheckerTest failed s) := by
  refine ⟨_, rfl, ?_⟩
  split
  · exact hs
  · exact foldl_wf _ _ _ hs fun s n h => s.checkerFails_wf n h

theorem execThermalLoopTick_kept (x : ThermIn) : Kept (execThermalLoopTick x s) := by
  refine ⟨_, rfl, ?_⟩
  dsimp only
  have htherm (t : State) (x : ThermIn) (ht : Memory.wf t.tiers.mem = true) : Memory.wf ((((t.checkTherm false false x.inA).checkTherm
      false true x.inB).checkTherm true false x.outA).checkTherm true true x.outB).tiers.mem = true :=
    State.checkTherm_wf _ _ _ _ (State.checkTherm_wf _ _ _ _ (State.checkTherm_wf _ _ _ _ (State.checkTherm_wf _ _ _ _ ht)))
  split
  · exact hs
  · simp [htherm _ _ hs]

end

end Sys2Proof.Machine
end

section
/-!
SUPPORT. Memory through every step: the groups of commands, one lemma per group.
-/
namespace Sys2Proof.Machine

/-- The groups of the commands, after their headings in Instr. -/
inductive Family where
  | program | running | tiers | fabrics | nvm | images | control | flash | twin | faults | power | board

/-- The group of a command. -/
def Instr.family : Instr → Family
  | .nop .. | .br .. | .call .. | .ret .. | .lcset .. | .lcseti .. | .blc .. | .jend .. | .add .. | .sub .. | .mul .. |
  .mulhu .. | .divu .. | .remu .. | .and .. | .or .. | .xor .. | .shl .. | .shr .. | .sra .. | .minu .. | .maxu .. |
  .mins .. | .maxs .. | .cmpeq .. | .cmpne .. | .cmpltu .. | .cmplts .. | .cmpgeu .. | .cmpges .. | .ldc .. | .lds .. |
  .sts .. | .rdstep .. | .rdlc .. | .slotw .. | .slotr .. | .dld .. | .dcpy .. | .dset .. | .dadv .. | .dget .. |
  .dnull .. | .move .. | .pref .. | .hint .. | .evict .. | .cvt .. | .imp .. | .platenDec .. | .sieveArm .. |
  .sieveEval .. | .sieveF .. | .galleyScan .. | .tallyTopk .. | .tallyTopkF .. | .tallyTopkM .. | .tallyTopkFm .. |
  .tallyArgmax .. | .tallyArgmaxF .. | .tallyHist .. | .tallySample .. | .tallySampleF .. | .cipherEnc .. |
  .cipherDec .. | .cipherHash .. | .fence .. | .fenceMv .. | .fenceFx .. | .waitAll .. | .waitAny .. | .signalSet .. |
  .signalClr .. | .stepI .. => .program
  | .asyncOperationComplete .. | .postedWriteResponse .. | .poisonedResponse .. | .commitPoint .. | .outputBankDrain ..
  | .stepGrant .. | .stepAbandonForDeadline .. | .executionResume .. | .waitBackstopExpiry .. | .jobWithdraw .. |
  .gangLaunch .. | .executionComplete .. => .running
  | .tlbWalkComplete .. | .faultRecordAnswer .. | .translationFaultTimeout .. | .migrationSwitch .. | .oldFrameFree .. |
  .deferredEvictionProceed .. | .tierAutoPromote .. | .tierAutoDemote .. | .tableEpochSwitch .. | .revocationComplete ..
  | .generationPagesDeallocate .. | .stockAppendResume .. | .stockAppendTimeout .. => .tiers
  | .icreq .. | .h2cData .. | .badPdu .. | .readyToTransferIssue .. | .associationEnd .. | .connect .. | .propertyGet ..
  | .propertySet .. | .disconnect .. | .authenticationSend .. | .authenticationReceive .. | .keepAlive .. | .identify ..
  | .getLogPage .. | .asynchronousEventRequest .. | .abort .. | .unsupportedCommand .. => .fabrics
  | .read .. | .write .. | .writeZeroes .. | .flush .. | .verify .. | .datasetManagement .. | .zoneAppend .. |
  .zoneManagementSend .. | .zoneManagementReceive .. | .namespaceManagement .. | .namespaceAttachment .. | .formatNvm ..
  | .sanitize .. => .nvm
  | .loadProgram .. | .programActivationManagement .. | .executeProgram .. | .memoryRangeSetManagement .. |
  .memoryRead .. | .memoryWrite .. | .ingestObject .. | .ingestObjectComplete .. | .firmwareImageDownload .. |
  .firmwareCommit .. => .images
  | .registerRead .. | .registerWrite .. | .stepBudgetWrite .. | .powerCapWrite .. | .scaleSlotWrite .. |
  .faultFirstClear .. | .faultStickyClear .. | .faultInjectionWrite .. | .traceControlWrite .. | .traceEnableWrite .. |
  .lampWrite .. | .phyStatClear .. | .pair .. | .pairTimeout .. | .unpair .. | .startResilvering .. |
  .returnDeclarerRoles .. | .handGroup .. | .clearPairRecords .. | .faultInject .. | .partitionTableUpdate .. |
  .hostBindingSet .. | .hostBindingGet .. | .allocate .. | .free .. | .tierHint .. | .tierEvict .. | .spillAreaSet .. |
  .spillAreaGet .. | .keyInstall .. | .keyClear .. | .timeSet .. | .timeGet .. | .soloWritePolicySet .. |
  .soloWritePolicyGet .. | .witnessSet .. | .witnessGet .. | .ptpMessage .. | .ptpMasterLoss .. => .control
  | .flashReadComplete .. | .partnerBlockFetch .. | .flashProgramComplete .. | .flashEraseComplete .. |
  .blockOpenEraseVerify .. | .pslcFold .. | .garbageCollection .. | .mapCheckpoint .. | .dieFailure .. |
  .dieGroupRetire .. | .holdupMeasurement .. | .powerLoss .. | .powerLossRestart .. | .bridgeBrownoutTrip .. |
  .namespacesReady .. | .bridgeReset .. | .bridgeResetComplete .. | .patrolRead .. | .readDisturbRefresh .. => .flash
  | .laneTraining .. | .laneErrorRetrain .. | .heartbeatSend .. | .heartbeatMiss .. | .witnessProbe .. |
  .witnessTimeout .. | .witnessAnswer .. | .failureAnnouncement .. | .linkReturn .. | .mirroredWriteReceive .. |
  .mirrorAcknowledgement .. | .allocationPageReceive .. | .finishNote .. | .finishNoteAck .. | .cancelNote .. |
  .stateEpochSend .. | .stateEpochAdopt .. | .resilverCopy .. | .twinCopy .. | .twinRefusal .. | .twinDigest .. |
  .twinPreemptNote .. => .twin
  | .faultReport .. | .latchedFaultHandle .. | .sramParityError .. | .dramEccError .. | .mergeBufferWriteback .. |
  .unitReset .. | .unitResetComplete .. | .targetUnitResetResponse .. | .staleReplyDiscard .. | .scrubQuota .. |
  .checkerTest .. => .faults
  | .limitMonitorCrossing .. | .hardwareCapStretch .. | .hardwareCapRelease .. | .powerLoopTick .. | .thermalLoopTick ..
  | .watchdogRestart .. | .watchdogExpiry .. | .auxPowerOn .. | .auxPowerLoss .. | .startUp .. | .bootTimeout .. |
  .pwrEnDeassert .. | .runningJobShutdownEnd .. | .pwrEnAssert .. | .majorSelfReset .. | .trialPass .. |
  .trialTimeout .. | .tracePointRecord .. => .power
  | .readNvmeMiDataStructure .. | .nvmSubsystemHealthStatusPoll .. | .controllerHealthStatusPoll .. |
  .configurationGet .. | .configurationSet .. | .vpdRead .. | .queueReset .. | .rootBinding .. | .hostSecret .. |
  .moduleReset .. | .moduleControlShutdown .. | .settingsStoreReset .. | .managementKey .. | .trumpReport .. |
  .faultNShort .. | .senseOpen .. | .contactResistanceLimit .. | .cageSupplyOvercurrent .. | .cageModuleInsert .. |
  .reverseFlow .. | .forwardFlowRestore .. | .thermistorFailure .. | .inputReversed .. | .sidebandCrossCheck .. |
  .linkDownLamp .. | .minorRemedyTimeout .. | .hostPortLinkChange .. | .epochAdoptionNotice .. => .board

section
variable {s : State} (hs : Memory.wf s.tiers.mem = true)
include hs

/-- Instructions of a program. -/
theorem exec_kept_of_program (i : Instr) (hi : Instr.family i = .program) : Kept (exec i s) := by
  cases i <;> cases hi
  case lds => exact execLds_kept hs ..
  all_goals exact ⟨_, rfl, by simp [hs]⟩

/-- Completions, commits and grants. -/
theorem exec_kept_of_running (i : Instr) (hi : Instr.family i = .running) : Kept (exec i s) := by
  cases i <;> cases hi
  case asyncOperationComplete => exact execAsyncOperationComplete_kept hs ..
  case postedWriteResponse => exact execPostedWriteResponse_kept hs ..
  case executionResume => exact execExecutionResume_kept hs ..
  case gangLaunch => exact execGangLaunch_kept hs ..
  case poisonedResponse | commitPoint | stepAbandonForDeadline | waitBackstopExpiry | jobWithdraw | executionComplete
     =>
    all_goals
      dsimp only [exec, execPoisonedResponse, execCommitPoint, execStepAbandonForDeadline, execWaitBackstopExpiry,
        execJobWithdraw, execExecutionComplete]
      repeat' split
      all_goals exact ⟨_, rfl, by simp [hs]⟩
  all_goals exact ⟨_, rfl, by simp [hs]⟩

/-- Translation, tiers, the partition table and the index. -/
theorem exec_kept_of_tiers (i : Instr) (hi : Instr.family i = .tiers) : Kept (exec i s) := by
  cases i <;> cases hi
  case faultRecordAnswer => exact execFaultRecordAnswer_kept hs ..
  case revocationComplete => exact execRevocationComplete_kept hs ..
  case tlbWalkComplete | translationFaultTimeout | migrationSwitch | oldFrameFree | deferredEvictionProceed |
     tierAutoPromote | tierAutoDemote | generationPagesDeallocate | stockAppendResume | stockAppendTimeout =>
    all_goals
      dsimp only [exec, execTlbWalkComplete, execTranslationFaultTimeout, execMigrationSwitch, execOldFrameFree,
        execDeferredEvictionProceed, execTierAutoPromote, execTierAutoDemote, execGenerationPagesDeallocate,
        execStockAppendResume, execStockAppendTimeout]
      repeat' split
      all_goals exact ⟨_, rfl, by simp [hs]⟩
  all_goals exact ⟨_, rfl, by simp [hs]⟩

/-- Transport, Fabrics and admin commands. -/
theorem exec_kept_of_fabrics (i : Instr) (hi : Instr.family i = .fabrics) : Kept (exec i s) := by
  cases i <;> cases hi
  case getLogPage => exact execGetLogPage_kept hs ..
  case h2cData | readyToTransferIssue | connect | propertyGet | propertySet | authenticationSend | identify |
     asynchronousEventRequest | abort =>
    all_goals
      dsimp only [exec, execH2cData, execReadyToTransferIssue, execConnect, execPropertyGet, execPropertySet,
        execAuthenticationSend, execIdentify, execAsynchronousEventRequest, execAbort]
      repeat' split
      all_goals exact ⟨_, rfl, by simp [hs]⟩
  all_goals exact ⟨_, rfl, by simp [hs]⟩

/-- NVM and zoned commands. -/
theorem exec_kept_of_nvm (i : Instr) (hi : Instr.family i = .nvm) : Kept (exec i s) := by
  cases i <;> cases hi
  case write => exact execWrite_kept hs ..
  case zoneAppend => exact execZoneAppend_kept hs ..
  case zoneManagementSend => exact execZoneManagementSend_kept hs ..
  case namespaceManagement | namespaceAttachment | formatNvm =>
    all_goals
      dsimp only [exec, execNamespaceManagement, execNamespaceAttachment, execFormatNvm]
      repeat' split
      all_goals exact ⟨_, rfl, by simp [hs]⟩
  all_goals exact ⟨_, rfl, by simp [hs]⟩

/-- Programs, local memory and firmware. -/
theorem exec_kept_of_images (i : Instr) (hi : Instr.family i = .images) : Kept (exec i s) := by
  cases i <;> cases hi
  case executeProgram => exact execExecuteProgram_kept hs ..
  case memoryWrite => exact execMemoryWrite_kept hs ..
  case programActivationManagement | ingestObject | ingestObjectComplete | firmwareCommit =>
    all_goals
      dsimp only [exec, execProgramActivationManagement, execIngestObject, execIngestObjectComplete,
        execFirmwareCommit]
      repeat' split
      all_goals exact ⟨_, rfl, by simp [hs]⟩
  all_goals exact ⟨_, rfl, by simp [hs]⟩

/-- Registers and the Laesk admin commands. -/
theorem exec_kept_of_control (i : Instr) (hi : Instr.family i = .control) : Kept (exec i s) := by
  cases i <;> cases hi
  case registerRead => exact execRegisterRead_kept hs ..
  case startResilvering => exact execStartResilvering_kept hs ..
  case faultInject => exact execFaultInject_kept hs ..
  case allocate => exact execAllocate_kept hs ..
  case tierHint => exact execTierHint_kept hs ..
  case tierEvict => exact execTierEvict_kept hs ..
  case pairTimeout | returnDeclarerRoles | free =>
    all_goals
      dsimp only [exec, execPairTimeout, execReturnDeclarerRoles, execFree]
      repeat' split
      all_goals exact ⟨_, rfl, by simp [hs]⟩
  all_goals exact ⟨_, rfl, by simp [hs]⟩

/-- The flash layer. -/
theorem exec_kept_of_flash (i : Instr) (hi : Instr.family i = .flash) : Kept (exec i s) := by
  cases i <;> cases hi
  case flashReadComplete | flashProgramComplete | flashEraseComplete | pslcFold | garbageCollection | dieFailure |
     dieGroupRetire | holdupMeasurement | bridgeBrownoutTrip =>
    all_goals
      dsimp only [exec, execFlashReadComplete, execFlashProgramComplete, execFlashEraseComplete, execPslcFold,
        execGarbageCollection, execDieFailure, execDieGroupRetire, execHoldupMeasurement, execBridgeBrownoutTrip]
      repeat' split
      all_goals exact ⟨_, rfl, by simp [hs]⟩
  all_goals exact ⟨_, rfl, by simp [hs]⟩

/-- The twin link. -/
theorem exec_kept_of_twin (i : Instr) (hi : Instr.family i = .twin) : Kept (exec i s) := by
  cases i <;> cases hi
  case heartbeatSend => exact execHeartbeatSend_kept hs ..
  case twinCopy => exact execTwinCopy_kept hs ..
  case twinPreemptNote => exact execTwinPreemptNote_kept hs ..
  case laneTraining | laneErrorRetrain | heartbeatMiss | witnessTimeout | witnessAnswer | failureAnnouncement |
     mirroredWriteReceive | mirrorAcknowledgement | allocationPageReceive | finishNote | finishNoteAck | twinRefusal |
     twinDigest =>
    all_goals
      dsimp only [exec, execLaneTraining, execLaneErrorRetrain, execHeartbeatMiss, execWitnessTimeout,
        execWitnessAnswer, execFailureAnnouncement, execMirroredWriteReceive, execMirrorAcknowledgement,
        execAllocationPageReceive, execFinishNote, execFinishNoteAck, execTwinRefusal, execTwinDigest]
      repeat' split
      all_goals exact ⟨_, rfl, by simp [hs]⟩
  all_goals exact ⟨_, rfl, by simp [hs]⟩

/-- Faults and scrubbing. -/
theorem exec_kept_of_faults (i : Instr) (hi : Instr.family i = .faults) : Kept (exec i s) := by
  cases i <;> cases hi
  case scrubQuota => exact execScrubQuota_kept hs ..
  case checkerTest => exact execCheckerTest_kept hs ..
  case faultReport | latchedFaultHandle | sramParityError | dramEccError | mergeBufferWriteback | unitReset |
     unitResetComplete | targetUnitResetResponse | staleReplyDiscard =>
    all_goals
      dsimp only [exec, execFaultReport, execLatchedFaultHandle, execSramParityError, execDramEccError,
        execMergeBufferWriteback, execUnitReset, execUnitResetComplete, execTargetUnitResetResponse,
        execStaleReplyDiscard]
      repeat' split
      all_goals exact ⟨_, rfl, by simp [hs]⟩

/-- Power and life cycle. -/
theorem exec_kept_of_power (i : Instr) (hi : Instr.family i = .power) : Kept (exec i s) := by
  cases i <;> cases hi
  case thermalLoopTick => exact execThermalLoopTick_kept hs ..
  case limitMonitorCrossing | hardwareCapStretch | watchdogExpiry | auxPowerLoss | startUp | pwrEnDeassert |
     runningJobShutdownEnd | majorSelfReset | trialPass | trialTimeout =>
    all_goals
      dsimp only [exec, execLimitMonitorCrossing, execHardwareCapStretch, execWatchdogExpiry, execAuxPowerLoss,
        execStartUp, execPwrEnDeassert, execRunningJobShutdownEnd, execMajorSelfReset, execTrialPass,
        execTrialTimeout]
      repeat' split
      all_goals exact ⟨_, rfl, by simp [hs]⟩
  all_goals exact ⟨_, rfl, by simp [hs]⟩

/-- Management and the physical parts. -/
theorem exec_kept_of_board (i : Instr) (hi : Instr.family i = .board) : Kept (exec i s) := by
  cases i <;> cases hi
  case epochAdoptionNotice => exact execEpochAdoptionNotice_kept hs ..
  case configurationGet | moduleReset | moduleControlShutdown | faultNShort | senseOpen | cageSupplyOvercurrent |
     reverseFlow | thermistorFailure | inputReversed | sidebandCrossCheck | minorRemedyTimeout =>
    all_goals
      dsimp only [exec, execConfigurationGet, execModuleReset, execModuleControlShutdown, execFaultNShort,
        execSenseOpen, execCageSupplyOvercurrent, execReverseFlow, execThermistorFailure, execInputReversed,
        execSidebandCrossCheck, execMinorRemedyTimeout]
      repeat' split
      all_goals exact ⟨_, rfl, by simp [hs]⟩
  all_goals exact ⟨_, rfl, by simp [hs]⟩

/-- Every command has a next state, and its memory is canonical. -/
theorem exec_kept (i : Instr) : Kept (exec i s) := by
  cases hi : Instr.family i with
  | program => exact exec_kept_of_program hs i hi
  | running => exact exec_kept_of_running hs i hi
  | tiers => exact exec_kept_of_tiers hs i hi
  | fabrics => exact exec_kept_of_fabrics hs i hi
  | nvm => exact exec_kept_of_nvm hs i hi
  | images => exact exec_kept_of_images hs i hi
  | control => exact exec_kept_of_control hs i hi
  | flash => exact exec_kept_of_flash hs i hi
  | twin => exact exec_kept_of_twin hs i hi
  | faults => exact exec_kept_of_faults hs i hi
  | power => exact exec_kept_of_power hs i hi
  | board => exact exec_kept_of_board hs i hi

end

end Sys2Proof.Machine
end

section
/-!
CERTIFICATE of O60: every step has a next state, and memory keeps its canonical form.
-/
open Sys2Proof Sys2Proof.Machine

/-- Settles O60: a step of an idle module leaves memory alone, and every command keeps its form. -/
theorem memoryKept : Obligations.MemoryKept := by
  unfold Obligations.MemoryKept
  intro s hs
  unfold step
  split
  next c rest _ => exact exec_kept (s := { s with pending := rest }) hs c
  next => exact ⟨idle s, rfl, by rwa [idle_mem]⟩
end

section
/-!
SUPPORT. How a command arrives: the prologues of the commands of a host and of the management paths.
-/
namespace Sys2Proof.Machine

section
variable {s : State} {h : Hdr} {k : Ctrl} {c : Fin 64}

/-- A command that arrives goes on under its context. -/
theorem State.arriveAny_arrives (ha : Arrives s h c) (f : Fin 64 → State) : s.arriveAny h f = f c := by
  obtain ⟨hfree, hserve, -, hpath⟩ := ha
  unfold State.arriveAny
  cases hp : h.path with
  | ctrl n =>
    rw [hp] at hpath
    obtain ⟨k, hk, rfl⟩ := hpath
    simp [hk, hserve, hfree]
  | i3c | mgmtPort =>
    rw [hp] at hpath
    obtain ⟨rfl, hup, hopen, hlim⟩ := hpath
    simp [hup, hopen, hlim, hserve, hfree]

/-- On an enabled context a tunnelled command passes. -/
theorem State.commandAny_arrives (ha : Arrives s h c) (f : Fin 64 → State) : s.commandAny h f = f c := by
  rw [State.commandAny, State.arriveAny_arrives ha, if_pos ha.2.2.1]

theorem State.rootAny_arrives (ha : Arrives s h c) (hr : s.isRoot h = true) (f : State) : s.rootAny h f = f := by
  rw [State.rootAny, State.arriveAny_arrives ha, if_pos hr]

/-- A host's command that the module takes goes on under its controller's context. -/
theorem State.arrive_serving (hk : OnHost s h k) (hserve : s.serving = true) (hfree : s.outstanding h = false) (f : Fin 64 → State) :
    s.arrive h f = f k.ctx := by
  simp [State.arrive, State.arriveAny, hk.1, hk.2, hserve, hfree]

theorem State.arrive_onHost (hk : OnHost s h k) (ha : Arrives s h k.ctx) (f : Fin 64 → State) : s.arrive h f = f k.ctx :=
  State.arrive_serving hk ha.2.1 ha.1 f

theorem State.command_onHost (hk : OnHost s h k) (ha : Arrives s h k.ctx) (f : Fin 64 → State) : s.command h f = f k.ctx := by
  rw [State.command, State.arrive_onHost hk ha, if_pos ha.2.2.1]

theorem State.rootCmd_onHost (hk : OnHost s h k) (ha : Arrives s h k.ctx) (hr : s.isRoot h = true) (f : State) : s.rootCmd h f = f := by
  rw [State.rootCmd, State.arrive_onHost hk ha, if_pos hr]

theorem State.rsCmd_onHost (hk : OnHost s h k) (ha : Arrives s h k.ctx) (hr : s.isRoot h = true) (n : Nat) (f : State) :
    s.rsCmd h n f = f := by
  rw [State.rsCmd, State.arrive_onHost hk ha, if_pos hr]

/-- The identity of an outstanding command is refused, whatever the command is. -/
theorem State.arriveAny_conflict (hk : OnHost s h k) (hserve : s.serving = true) (hout : s.outstanding h = true) (f : Fin 64 → State) :
    s.arriveAny h f = s.conflict h := by
  simp [State.arriveAny, hk.1, hk.2, hserve, hout]

/-- A controller that the module knows keeps its path. -/
theorem State.live_onHost (hk : OnHost s h k) : s.live h = true := by
  obtain ⟨hpath, hfind⟩ := hk
  simp only [State.live, hpath, List.any_eq_true]
  exact ⟨k, List.mem_of_find?_eq_some hfind, by simp⟩

end

/-! ## Completions -/

section
variable {s : State} {h : Hdr}

/-- Where the path stands and no Queue Reset discards it, a completion is posted at the end of the queue. -/
theorem State.post_cq_of_live (hl : s.live h = true) (hd : h ∉ s.host.miDrop) (sct sc : Nat) (a b : W32) :
    (s.post h sct sc a b).host.cq = s.host.cq ++ [{ hdr := h, sct, sc, dw0 := a, dw1 := b }] := by
  simp [State.post_cq, hl, hd]

theorem State.ok_cq_of_live (hl : s.live h = true) (hd : h ∉ s.host.miDrop) :
    (s.ok h).host.cq = s.host.cq ++ [{ hdr := h, sct := 0, sc := 0, dw0 := 0, dw1 := 0 }] := State.post_cq_of_live hl hd ..

end

end Sys2Proof.Machine
end

section
/-!
CERTIFICATE of O1, O25, O30 and O59: the step, completions, identities in use and the state at reset.
-/
open Sys2Proof Sys2Proof.Machine

/-- Settles O1: step is exec of the front of the queue by definition. -/
theorem stepRunsFront : Obligations.StepRunsFront := by
  unfold Obligations.StepRunsFront
  refine ⟨fun _ _ _ => rfl, fun s hs => ?_⟩
  unfold step
  split
  next c rest h => rw [hs] at h; cases h
  next => rfl

/-- Settles O25: whether an entry is posted is one test, and the rest is the frame of a record update. -/
theorem completionFrame : Obligations.CompletionFrame := by
  unfold Obligations.CompletionFrame
  intro s h sct sc a b
  refine ⟨fun hl hd => State.post_cq_of_live hl hd .., fun hdead => ?_, State.post_cmds .., rfl, rfl⟩
  rcases hdead with hl | hd
  · simp [State.post_cq, hl]
  · simp [State.post_cq, hd]

/-- Settles O30: each of the commands begins with the test of its identity. -/
theorem identityConflict : Obligations.IdentityConflict := by
  unfold Obligations.IdentityConflict
  intro s h k nsid lba n bs hk hserve hout i hi
  have hconf := State.arriveAny_conflict hk hserve hout
  simp only [List.mem_cons, List.not_mem_nil, or_false] at hi
  rcases hi with rfl | rfl | rfl | rfl | rfl | rfl | rfl | rfl | rfl | rfl
  all_goals
    simp only [exec, execRead, execWrite, execWriteZeroes, execFlush, execVerify, execIdentify, execKeepAlive, execZoneAppend,
      execMemoryRead, execSanitize, State.startRead, State.io, State.ioWrite, State.command, State.commandAny, State.arrive, hconf]
    rfl

/-- Settles O59: each field is read off the reset state. -/
theorem resetState : Obligations.ResetState := by
  unfold Obligations.ResetState
  refine ⟨rfl, rfl, rfl, rfl, rfl, rfl, rfl, rfl, rfl, rfl, rfl, rfl, rfl, rfl, rfl, rfl, rfl, rfl, rfl, rfl, rfl, rfl, rfl, rfl, rfl,
    rfl, fun c => ?_, rfl, rfl⟩
  exact Vector.getElem_replicate c.isLt
end

section
/-!
SUPPORT. Executions under updates that keep their identifiers, and how free compositors take queued ones.
-/
namespace Sys2Proof.Machine

/-- Every execution changed alike. -/
def State.recast (s : State) (f : Exec → Exec) : State :=
  { s with sched := { s.sched with execs := s.sched.execs.map f } }

/-- A change of the executions whose identifier is in a list. -/
def Exec.among (ids : List Nat) (f : Exec → Exec) (x : Exec) : Exec := if x.id ∈ ids then f x else x

theorem State.recast_recast (s : State) (f g : Exec → Exec) : (s.recast f).recast g = s.recast (g ∘ f) := by
  simp [State.recast]

theorem State.recast_id (s : State) : s.recast id = s := by simp [State.recast]

/-- Updates of some executions, one after the other, are one change of them all. -/
theorem State.foldl_modEx {G : Nat → Exec → Exec} (hid : ∀ n x, (G n x).id = x.id) (hidem : ∀ n x, G n (G n x) = G n x)
    (ids : List Nat) (s : State) : ids.foldl (fun s i => s.modEx i (G s.now)) s = s.recast (Exec.among ids (G s.now)) := by
  induction ids generalizing s with
  | nil =>
    have : Exec.among [] (G s.now) = id := funext fun x => if_neg List.not_mem_nil
    rw [this, State.recast_id]
    rfl
  | cons i ids ih =>
    rw [List.foldl_cons, ih]
    show (s.recast fun x => if x.id = i then G s.now x else x).recast _ = _
    rw [State.recast_recast]
    congr 1
    funext x
    simp only [Function.comp, Exec.among, List.mem_cons]
    by_cases hi : x.id = i
    · simp [hi, hid, hidem]
    · simp [hi]

theorem State.recast_ex? {s : State} {f : Exec → Exec} (hf : ∀ x, (f x).id = x.id) (n : Nat) : (s.recast f).ex? n = (s.ex? n).map f := by
  simp only [State.ex?, State.recast, List.find?_map, Function.comp_def, hf]

theorem Exec.among_id {f : Exec → Exec} (hf : ∀ x, (f x).id = x.id) (ids : List Nat) (x : Exec) : (Exec.among ids f x).id = x.id := by
  unfold Exec.among
  split
  · exact hf x
  · rfl

/-- What takes an execution to a compositor. -/
def Exec.toComp (c : Fin 16) (now : Nat) (x : Exec) : Exec := { x with phase := .waitGrant, comp := some c, waitSince := now }

/-- A compositor that is filled takes the crew of a queued execution, or nothing happens. -/
theorem State.fillComp_eq (s : State) (c : Fin 16) :
    s.fillComp c = s ∨ ∃ e ∈ s.sched.execs, e.phase = .queued ∧ s.fillComp c = s.recast (Exec.among (s.crew e) (Exec.toComp c s.now)) := by
  have hmem (l : List Exec) (e : Exec) (h : s.earliest l = some e) : e ∈ l := by
    induction l generalizing e with
    | nil => cases h
    | cons x t ih =>
      rw [State.earliest] at h
      split at h
      · cases h; exact .head _
      next m hm =>
        obtain rfl := Option.some.inj h
        split
        · exact .tail _ (ih m hm)
        · exact .head _
  unfold State.fillComp
  split
  · exact .inl rfl
  split
  next e he =>
    split
    next hq =>
      refine .inr ⟨e, (List.mem_filter.mp (hmem _ e he)).1, hq, ?_⟩
      exact State.foldl_modEx (G := fun now => Exec.toComp c now) (fun _ _ => rfl) (fun _ _ => rfl) ..
    · exact .inl rfl
  · exact .inl rfl

/-- Filling compositors changes executions only, each to wait for a grant on a compositor. -/
theorem State.fillComps_eq (s : State) :
    ∃ f : Exec → Exec, s.fillComps = s.recast f ∧ ∀ x, f x = x ∨ ∃ c, f x = Exec.toComp c s.now x := by
  refine List.foldlRecOn (motive := fun t : State => ∃ f : Exec → Exec, t = s.recast f ∧ ∀ x, f x = x ∨ ∃ c, f x = Exec.toComp c s.now x)
    _ _ ⟨id, s.recast_id.symm, fun _ => .inl rfl⟩ ?_
  rintro t ⟨f, rfl, hf⟩ c -
  rcases (s.recast f).fillComp_eq c with heq | ⟨e, -, -, heq⟩
  · exact ⟨f, heq, hf⟩
  · refine ⟨_, heq.trans (State.recast_recast ..), fun x => ?_⟩
    simp only [Function.comp, Exec.among]
    split
    · rcases hf x with h | ⟨c', h⟩
      all_goals rw [h]; exact .inr ⟨c, rfl⟩
    · exact hf x

theorem State.fillComps_host (s : State) : s.fillComps.host = s.host := by
  obtain ⟨f, h, -⟩ := s.fillComps_eq
  rw [h]
  rfl

theorem State.fillComps_sched (s : State) : s.fillComps.sched = { s.sched with execs := s.fillComps.sched.execs } := by
  obtain ⟨f, h, -⟩ := s.fillComps_eq
  rw [h]
  rfl

/-- An execution that some compositor takes is found under its identifier as it was, or waiting for a grant. -/
theorem State.fillComps_ex? (s : State) (n : Nat) :
    ∃ f : Exec → Exec, s.fillComps.ex? n = (s.ex? n).map f ∧ ∀ x, f x = x ∨ ∃ c, f x = Exec.toComp c s.now x := by
  obtain ⟨f, h, hf⟩ := s.fillComps_eq
  refine ⟨f, ?_, hf⟩
  rw [h, State.recast_ex? fun x => ?_]
  rcases hf x with hx | ⟨c, hx⟩
  · rw [hx]
  · rw [hx]; rfl

/-- The execution e is the only one under its identifier. -/
def Lone (s : State) (e : Exec) : Prop := s.ex? e.id = some e ∧ ∀ x ∈ s.sched.execs, x.id = e.id → x = e

/-- A single execution that is not queued stays as it is while compositors are filled. -/
theorem Lone.fillComps {s : State} {e : Exec} (h : Lone s e) (hg : e.gang = none) (hq : e.phase ≠ .queued) : Lone s.fillComps e := by
  refine List.foldlRecOn (motive := fun t : State => Lone t e) _ _ h ?_
  rintro t ⟨hex, hone⟩ c -
  rcases t.fillComp_eq c with heq | ⟨x, hx, hxq, heq⟩
  · rw [heq]; exact ⟨hex, hone⟩
  have hout : e.id ∉ t.crew x := by
    unfold State.crew
    split
    · intro hm
      rw [List.mem_singleton] at hm
      exact hq (hone x hx hm.symm ▸ hxq)
    next g _ =>
      intro hm
      obtain ⟨m, hm, hid⟩ := List.mem_map.mp hm
      obtain ⟨hmem, hmg⟩ := List.mem_filter.mp hm
      rw [hone m hmem hid, hg] at hmg
      cases hmg
  have hsame : Exec.among (t.crew x) (Exec.toComp c t.now) e = e := if_neg hout
  rw [heq]
  constructor
  · rw [State.recast_ex? (Exec.among_id (f := Exec.toComp c t.now) (fun _ => rfl) _), hex, Option.map_some, hsame]
  · intro y hy hid
    obtain ⟨z, hz, rfl⟩ := List.mem_map.mp hy
    rw [Exec.among_id (f := Exec.toComp c t.now) fun _ => rfl] at hid
    rw [hone z hz hid, hsame]

/-- An update of a single execution leaves it single. -/
theorem Lone.modEx {s : State} {e : Exec} (h : Lone s e) {f : Exec → Exec} (hf : ∀ x, (f x).id = x.id) : Lone (s.modEx e.id f) (f e) := by
  obtain ⟨hex, hone⟩ := h
  refine ⟨?_, fun x hx hid => ?_⟩
  · rw [hf]
    exact State.ex?_modEx hex hf
  · obtain ⟨y, hy, rfl⟩ := List.mem_map.mp hx
    by_cases hy' : y.id = e.id
    · rw [if_pos hy', hone y hy hy']
    · rw [if_neg hy', hf] at hid
      exact absurd hid hy'

/-- What a crew of one is when it has left its compositor and its step. -/
def Exec.pushedOff (e : Exec) (now : Nat) : Exec := { e.abandon with waitSince := now, phase := .preempted, comp := none }

/-- A single execution leaves its compositor without its step. -/
theorem Lone.pushOff {s : State} {e : Exec} (h : Lone s e) (hg : e.gang = none) : Lone (s.pushOff e) (e.pushedOff s.now) := by
  have habandon : Lone (s.abandon1 e.id) { e.abandon with waitSince := s.now } :=
    Lone.modEx h (f := fun e => { e.abandon with waitSince := s.now }) fun _ => rfl
  have hleave := Lone.modEx habandon (f := fun x => { x with phase := .preempted, comp := none }) fun _ => rfl
  have hcrew : s.crew e = [e.id] := by rw [State.crew, hg]
  rw [State.pushOff, hcrew]
  exact Lone.fillComps hleave hg nofun

/-- Of the scheduler's counts nothing changes when a crew leaves its compositor. -/
theorem State.pushOff_counts (s : State) (e : Exec) :
    (s.pushOff e).sched.abandoned = s.sched.abandoned ∧ (s.pushOff e).sched.withdrawn = s.sched.withdrawn := by
  have hfold := List.foldlRecOn (motive := fun t : State => t.sched.abandoned = s.sched.abandoned ∧ t.sched.withdrawn = s.sched.withdrawn)
    (s.crew e) (fun s i => (s.abandon1 i).modEx i fun x => { x with phase := .preempted, comp := none }) ⟨rfl, rfl⟩
    fun t ht _ _ => ht
  rw [State.pushOff, State.fillComps_sched]
  exact hfold

end Sys2Proof.Machine
end

section
/-!
CERTIFICATE of O20: resumption, and steps abandoned or withdrawn.
-/
open Sys2Proof Sys2Proof.Machine

/-- Settles O20: a crew of one is the only execution under its identifier through each update. -/
theorem preemptionAndResumption : Obligations.PreemptionAndResumption := by
  unfold Obligations.PreemptionAndResumption
  refine ⟨fun s e c hex hg hph hlate hbusy hoos hreset => ?_, fun s w e d r hw hd hway hg hex hone => ?_, fun s e hex hone hlong hvic hg => ?_⟩
  · have hexec : exec (.executionResume e.id c) s = execExecutionResume e.id c s := rfl
    have hcrew : s.crew e = [e.id] := by rw [State.crew, hg]
    simp only [Gives, hexec, execExecutionResume, hex, hph, hlate, hbusy, hoos, hreset, hcrew]
    refine ⟨_, rfl, ?_, rfl, rfl⟩
    exact State.ex?_modEx hex fun _ => rfl
  · have hexec : exec .stepAbandonForDeadline s = execStepAbandonForDeadline s := rfl
    let s' : State := { s with sched := { s.sched with abandoned := satAdd 65535 s.sched.abandoned 1 } }
    have hlone : Lone s' e := ⟨hex, hone⟩
    obtain ⟨habandoned, hwithdrawn⟩ := s'.pushOff_counts e
    refine ⟨s'.pushOff e, ?_, habandoned, hwithdrawn, _, (hlone.pushOff hg).1, rfl, rfl, rfl, rfl, rfl, rfl, rfl⟩
    simp only [hexec, execStepAbandonForDeadline, hw, hd, hway]
    rfl
  · have hexec : exec (.waitBackstopExpiry e.id) s = execWaitBackstopExpiry e.id s := rfl
    let s' : State := { s with sched := { s.sched with withdrawn := satAdd 65535 s.sched.withdrawn 1 } }
    have hlone : Lone s' e := ⟨hex, hone⟩
    obtain ⟨habandoned, hwithdrawn⟩ := s'.pushOff_counts e
    refine ⟨s'.pushOff e, ?_, hwithdrawn, habandoned, _, (hlone.pushOff hg).1, rfl, rfl, rfl, rfl, rfl⟩
    simp only [hexec, execWaitBackstopExpiry, hex, hlong, hvic]
    rfl
end

section
/-!
SUPPORT. The end of a job, and the launch of a gang.
-/
namespace Sys2Proof.Machine

theorem State.orphan_host (s : State) (e : Exec) : (s.orphan e).host = s.host := by
  unfold State.orphan
  split <;> rfl

/-- An execution that ends is gone, and the host's side is as before. -/
theorem State.dropExec_host (s : State) (e : Exec) : (s.dropExec e).host = s.host := State.fillComps_host _

theorem State.dropExec_ex? (s : State) (e : Exec) : (s.dropExec e).ex? e.id = none := by
  unfold State.dropExec
  dsimp only
  obtain ⟨f, hf, -⟩ := State.fillComps_ex? _ e.id
  rw [hf, Option.map_eq_none_iff, State.ex?, List.find?_eq_none]
  intro x hx
  simpa using (List.mem_filter.mp hx).2

/-- What an execution leaves for its completion, when no object command is queued at it. -/
theorem State.endExecAt_eq (s : State) (t : Nat) (e : Exec) (o : JobEnd) (hobjs : e.objs = []) (hcopy : e.copy = false) :
    ∃ u : State, s.endExecAt t e o = u.jobDoneAt t e.hdr e.ctx e.deadline o ∧ u.host = s.host ∧ u.ex? e.id = none := by
  have hend : s.endObjs e o = s := by simp only [State.endObjs, hobjs, List.foldl_nil]
  have hleft : (if o = .success then s else s.orphan e).host = s.host := by
    split
    · rfl
    · exact s.orphan_host e
  unfold State.endExecAt
  rw [hend, hcopy]
  refine ⟨_, rfl, ?_, State.dropExec_ex? _ e⟩
  rw [State.dropExec_host]
  generalize (if o = .success then s else s.orphan e) = u at *
  (repeat' split) <;> exact hleft

/-- No outcome of a job touches the executions. -/
theorem State.jobDoneAt_execs (s : State) (t : Nat) (h : Hdr) (ctx : Fin 64) (dl : Nat) (o : JobEnd) :
    (s.jobDoneAt t h ctx dl o).sched.execs = s.sched.execs := by
  cases o with
  | success => rw [State.jobDoneAt]; split <;> rfl
  | _ => rfl

/-- Whatever its outcome, a job's command is no longer outstanding. -/
theorem State.jobDoneAt_cmds (s : State) (t : Nat) (h : Hdr) (ctx : Fin 64) (dl : Nat) (o : JobEnd) :
    (s.jobDoneAt t h ctx dl o).host.cmds = s.host.cmds.filter fun x => !(x.hdr == h) := by
  cases o with
  | success => rw [State.jobDoneAt]; split <;> rfl
  | _ => rfl

theorem isLate_iff (now dl : Nat) : isLate now dl = true ↔ dl ≠ 0 ∧ dl < now := by simp [isLate]

section
variable {s : State} {h : Hdr} (hl : s.live h = true) (hd : h ∉ s.host.miDrop) (t : Nat) (ctx : Fin 64) (dl : Nat)
include hl hd

theorem State.jobDoneAt_success_cq (hon : isLate t dl = false) :
    (s.jobDoneAt t h ctx dl .success).host.cq = s.host.cq ++ [{ hdr := h, sct := 0, sc := 0, dw0 := 0, dw1 := 0 }] := by
  simp only [State.jobDoneAt, hon]
  exact State.post_cq_of_live hl hd ..

theorem State.jobDoneAt_late_cq (hlate : isLate t dl = true) :
    (s.jobDoneAt t h ctx dl .success).host.cq = s.host.cq ++ [{ hdr := h, sct := 0, sc := 0, dw0 := 1, dw1 := lateUs t dl }] := by
  simp only [State.jobDoneAt, hlate]
  exact State.post_cq_of_live hl hd ..

end

theorem mem_insertFirst {α : Type} {lt : α → α → Bool} {x y : α} {l : List α} (h : y ∈ sortBy.insertFirst lt x l) : y = x ∨ y ∈ l := by
  induction l with
  | nil => exact .inl (List.mem_singleton.mp h)
  | cons z t ih =>
    rw [sortBy.insertFirst] at h
    split at h
    · rcases List.mem_cons.mp h with rfl | h
      · exact .inr (.head _)
      · exact (ih h).imp_right (.tail _)
    · exact List.mem_cons.mp h

theorem mem_of_mem_sortBy {α : Type} {lt : α → α → Bool} {y : α} {l : List α} (h : y ∈ sortBy lt l) : y ∈ l := by
  induction l with
  | nil => exact h
  | cons x t ih =>
    rcases mem_insertFirst h with rfl | h
    · exact .head _
    · exact .tail _ (ih h)

theorem mem_of_mem_takeBatches {fill n : Nat} {l : List Exec} {e : Exec} (h : e ∈ takeBatches fill n l) : e ∈ l := by
  induction l generalizing n with
  | nil => exact h
  | cons x t ih =>
    rw [takeBatches] at h
    split at h
    · rcases List.mem_cons.mp h with rfl | h
      · exact .head _
      · exact .tail _ (ih h)
    · exact .tail _ (ih h)

/-- A launch takes members of its gang. -/
theorem State.launchOf_gang {s : State} {g : Gang} {e : Exec} (h : e ∈ s.launchOf g) : e ∈ s.sched.execs ∧ e.gang = some g.id := by
  have hmem : e ∈ s.gangMembers g.id := by
    unfold State.launchOf at h
    split at h
    · exact mem_of_mem_sortBy (mem_of_mem_takeBatches h)
    · exact h
  simpa [State.gangMembers] using hmem

/-- The members of a gang that a launch leaves. -/
def State.leftBy (s : State) (g : Gang) (ms : List Exec) : List Exec :=
  (s.gangMembers g.id).filter fun e => !(ms.any fun m => decide (m.id = e.id))

theorem State.mem_leftBy {s : State} {g : Gang} {ms : List Exec} {e : Exec} :
    e ∈ s.leftBy g ms ↔ e ∈ s.sched.execs ∧ e.gang = some g.id ∧ ∀ m ∈ ms, m.id ≠ e.id := by
  simp [State.leftBy, State.gangMembers, and_comm]

/-- What a launch leaves goes to the gang with the next number, and is otherwise as it was. -/
theorem State.leaveBehind_eq (s : State) (g : Gang) (ms : List Exec) :
    ∃ gangs n, s.leaveBehind g ms = { s.recast (Exec.among ((s.leftBy g ms).map (·.id)) fun x => { x with gang := some s.sched.nextGang })
        with sched := { (s.recast (Exec.among ((s.leftBy g ms).map (·.id)) fun x => { x with gang := some s.sched.nextGang })).sched
          with gangs, nextGang := n } }
      ∧ (s.leftBy g ms ≠ [] → ∃ x ∈ gangs, x.id = s.sched.nextGang ∧ x.launched = false) := by
  by_cases hrest : s.leftBy g ms = []
  · refine ⟨s.sched.gangs, s.sched.nextGang, ?_, fun h => absurd hrest h⟩
    have hnone : Exec.among [] (fun x => { x with gang := some s.sched.nextGang }) = id := funext fun x => if_neg List.not_mem_nil
    rw [hrest, List.map_nil, hnone, State.recast_id, State.leaveBehind]
    exact if_pos hrest
  · have hfold := State.foldl_modEx (G := fun _ x => { x with gang := some s.sched.nextGang }) (fun _ _ => rfl) (fun _ _ => rfl)
      ((s.leftBy g ms).map (·.id)) s
    rw [List.foldl_map] at hfold
    rw [← hfold]
    refine ⟨_, _, if_neg hrest, fun _ => ⟨_, List.mem_append_right _ (List.mem_singleton_self _), rfl, rfl⟩⟩

end Sys2Proof.Machine
end

section
/-!
CERTIFICATE of O18: the status with which a job ends.
-/
open Sys2Proof Sys2Proof.Machine

/-- Settles O18: a job end is counted and then answered, and only success looks at the deadline. -/
theorem jobStatus : Obligations.JobStatus := by
  unfold Obligations.JobStatus
  intro s e t o hobjs hcopy hl hd
  obtain ⟨u, hend, hhost, hgone⟩ := s.endExecAt_eq t e o hobjs hcopy
  have hmem := s.endExecAt_mem t e o
  have hul : u.live e.hdr = true := by rw [← hl]; simp only [State.live, hhost]
  rw [← hhost] at hd
  dsimp only
  rw [hend] at hmem ⊢
  rw [← hhost]
  refine ⟨?_, ?_, ?_, ?_, ?_, ?_, ?_, fun x hx => ?_, hmem⟩
  · rintro rfl hon
    exact State.jobDoneAt_success_cq hul hd _ _ _ (Bool.eq_false_iff.mpr fun h => hon ((isLate_iff _ _).mp h))
  · rintro rfl hlate
    exact State.jobDoneAt_late_cq hul hd _ _ _ ((isLate_iff _ _).mpr hlate)
  · rintro sc a b rfl
    exact State.post_cq_of_live hul hd ..
  · rintro b rfl
    exact State.post_cq_of_live hul hd ..
  · rintro rfl
    exact State.post_cq_of_live hul hd ..
  · rintro rfl
    exact State.post_cq_of_live hul hd ..
  · rw [← hgone]
    exact State.ex?_congr (State.jobDoneAt_execs ..) _
  · rw [State.jobDoneAt_cmds] at hx
    simpa using (List.mem_filter.mp hx).2
end

section
/-!
CERTIFICATE of O17: drains, the ends of executions, withdrawals and launches.
-/
open Sys2Proof Sys2Proof.Machine

/-- An idle job that keeps no objects has none to withdraw. -/
theorem withdrawObjs_of_no_objs {s : State} {e : Exec} (h : e.objs = []) : s.withdrawObjs e = s := by
  simp only [State.withdrawObjs, h, List.filter_nil, List.foldl_nil]

/-- A launch: those that it takes wait for a compositor, the others in a gang that has not launched. -/
theorem gangLaunch_gives {s : State} {g : Gang} (hfind : s.sched.gangs.find? (fun x => x.id == g.id) = some g) (hnew : g.launched = false)
    (hnext : s.sched.nextGang ≠ g.id) (hready : s.gangReady g = true) :
    Gives (.gangLaunch g.id) s fun t => (∀ x ∈ t.sched.gangs, x.id = g.id → x.launched = true)
      ∧ (∀ e ∈ s.launchOf g, s.ex? e.id = some e → ∃ e', t.ex? e.id = some e' ∧ (e'.phase = .queued ∨ e'.phase = .waitGrant))
      ∧ (∀ e, s.ex? e.id = some e → e.gang = some g.id → (∀ m ∈ s.launchOf g, m.id ≠ e.id) →
          ∃ e' x, t.ex? e.id = some e' ∧ x ∈ t.sched.gangs ∧ e'.gang = some x.id ∧ x.id = s.sched.nextGang ∧ x.launched = false)
      ∧ t.tiers = s.tiers ∧ t.host = s.host := by
  have hexec : exec (.gangLaunch g.id) s = execGangLaunch g.id s := rfl
  obtain ⟨gangs, n, hleave, hrest⟩ := s.leaveBehind_eq g (s.launchOf g)
  let move : Exec → Exec := fun x => { x with gang := some s.sched.nextGang }
  let join : Exec → Exec := Exec.among ((s.leftBy g (s.launchOf g)).map (·.id)) move
  have hjoin (x : Exec) : (join x).id = x.id := Exec.among_id (f := move) (fun _ => rfl) _ _
  let u : State := { s.recast join with sched := { (s.recast join).sched with
    gangs := mapWhere (fun x => x.id == g.id) (fun x => { x with launched := true }) gangs, nextGang := n } }
  let queue : Exec → Exec := fun x => { x with phase := .queued }
  let ids := (u.gangMembers g.id).map (·.id)
  have hfold := State.foldl_modEx (G := fun _ => queue) (fun _ _ => rfl) (fun _ _ => rfl) ids u
  rw [List.foldl_map] at hfold
  obtain ⟨fill, hfill, hcomp⟩ := State.fillComps_eq (u.recast (Exec.among ids queue))
  have hfillid (x : Exec) : (fill x).id = x.id := by rcases hcomp x with h | ⟨c, h⟩ <;> rw [h]; rfl
  have hgangs : (u.recast (Exec.among ids queue)).fillComps.sched.gangs = u.sched.gangs := by rw [hfill]; rfl
  have hfind? (e : Exec) (he : s.ex? e.id = some e) :
      (u.recast (Exec.among ids queue)).fillComps.ex? e.id = some (fill (Exec.among ids queue (join e))) := by
    have hu : u.ex? e.id = some (join e) := by
      have := State.recast_ex? (s := s) hjoin e.id
      rw [he] at this
      exact this
    rw [hfill, State.recast_ex? hfillid, State.recast_ex? (Exec.among_id (f := queue) (fun _ => rfl) _), hu]
    rfl
  refine ⟨(u.recast (Exec.among ids queue)).fillComps, ?_, ?_, ?_, ?_, ?_, State.fillComps_host _⟩
  · simp only [hexec, execGangLaunch, hfind, hnew, hready, hleave]
    rw [← hfold]
    rfl
  · intro x hx hid
    rw [hgangs] at hx
    obtain ⟨y, hy, rfl⟩ := List.mem_map.mp hx
    split
    · rfl
    next hne =>
      rw [if_neg hne] at hid
      exact absurd (beq_iff_eq.mpr hid) hne
  · intro e he hex
    refine ⟨_, hfind? e hex, ?_⟩
    obtain ⟨hmem, hgang⟩ := State.launchOf_gang he
    have hstay : join e = e := by
      refine if_neg fun hin => ?_
      obtain ⟨x, hx, hid⟩ := List.mem_map.mp hin
      exact (State.mem_leftBy.mp hx).2.2 e he hid.symm
    have hin : e.id ∈ ids := by
      refine List.mem_map.mpr ⟨e, ?_, rfl⟩
      refine List.mem_filter.mpr ⟨List.mem_map.mpr ⟨e, hmem, hstay⟩, ?_⟩
      rw [hgang]
      exact beq_self_eq_true _
    have hqueue : Exec.among ids queue e = queue e := if_pos hin
    rw [hstay, hqueue]
    rcases hcomp (queue e) with h | ⟨c, h⟩
    all_goals rw [h]
    · exact .inl rfl
    · exact .inr rfl
  · intro e hex hgang hleft
    have hmem : e ∈ s.leftBy g (s.launchOf g) := State.mem_leftBy.mpr ⟨List.mem_of_find?_eq_some hex, hgang, hleft⟩
    obtain ⟨x, hx, hid, hwait⟩ := hrest (List.ne_nil_of_mem hmem)
    have hne : ¬(x.id == g.id) = true := by
      rw [beq_iff_eq, hid]
      exact hnext
    refine ⟨_, x, hfind? e hex, ?_, ?_, hid, hwait⟩
    · rw [hgangs]
      exact List.mem_map.mpr ⟨x, hx, if_neg hne⟩
    · have hjoined : join e = { e with gang := some s.sched.nextGang } := if_pos (List.mem_map.mpr ⟨e, hmem, rfl⟩)
      have hqueued (y : Exec) : (Exec.among ids queue y).gang = y.gang := by unfold Exec.among; split <;> rfl
      have hfilled (y : Exec) : (fill y).gang = y.gang := by rcases hcomp y with h | ⟨c, h⟩ <;> rw [h]; rfl
      rw [hfilled, hqueued, hjoined, hid]
  · rw [hfill]
    rfl

/-- Settles O17: the last completion, the withdrawal and the launch, each by the frame of what they change. -/
theorem executionEnds : Obligations.ExecutionEnds := by
  unfold Obligations.ExecutionEnds
  refine ⟨⟨fun s n => ?_, ?_, ?_⟩, ?_, fun s g => gangLaunch_gives⟩
  · refine ⟨_, rfl, fun d => ?_, fun k x hx => ?_, rfl⟩
    · simp [Fabric.drained]
    · obtain ⟨⟨k', y⟩, hy, heq⟩ := List.mem_map.mp hx
      obtain ⟨rfl, rfl⟩ := Prod.mk.inj heq
      refine ⟨fun b hb => ?_, y, hy, rfl, fun b hb => ?_⟩
      · simpa using (List.mem_filter.mp hb).2
      · simp [hb]
  · intro s e hex hph hdrain hns hobjs hpair
    have hexec : exec (.executionComplete e.id) s = execExecutionComplete e.id s := rfl
    have hdrain' : (s.fab.draining.any fun d => decide (d.1 = e.id)) = false := by simpa using hdrain
    have hobjs' : (e.objs.any fun o => !o.waits.isEmpty) = false := by simpa using hobjs
    simp only [hexec, execExecutionComplete, hex, hph, hdrain', hns, hobjs', hpair]
    rfl
  · intro s e hex hph hdrain hns hobjs hpair htwin hsent
    have hexec : exec (.executionComplete e.id) s = execExecutionComplete e.id s := rfl
    have hdrain' : (s.fab.draining.any fun d => decide (d.1 = e.id)) = false := by simpa using hdrain
    have hobjs' : (e.objs.any fun o => !o.waits.isEmpty) = false := by simpa using hobjs
    simp only [Gives, hexec, execExecutionComplete, hex, hph, hdrain', hns, hobjs', hpair, htwin, hsent]
    exact ⟨_, rfl, State.ex?_setEx hex rfl, rfl, _, rfl, _, rfl⟩
  · intro s e hex hidle hlate hobjs
    have hexec : exec (.jobWithdraw e.id) s = execJobWithdraw e.id s := rfl
    simp only [hexec, execJobWithdraw, hex, withdrawObjs_of_no_objs hobjs, hidle, hlate]
    rfl
end

section
/-!
SUPPORT. The partition table through what goes on with it.
-/
namespace Sys2Proof.Machine

/-- What each update of a list leaves alone, all of them do. -/
theorem foldl_keeps {α β : Type} (p : State → β) {f : State → α → State} (hf : ∀ s a, p (f s a) = p s) (l : List α) (s : State) :
    p (l.foldl f s) = p s :=
  List.foldlRecOn (motive := fun t : State => p t = p s) l f rfl fun t ht a _ => (hf t a).trans ht

/-- A change of the control state that waits for its epoch leaves the partition table alone. -/
theorem State.okAfterEpoch_part (s : State) (h : Hdr) (body : Body) (dw0 dw1 : W32) : (s.okAfterEpoch h body dw0 dw1).part = s.part := by
  unfold State.okAfterEpoch
  dsimp only
  split <;> rfl

theorem State.abandon_part (s : State) (e : Exec) : (s.abandon e).part = s.part :=
  List.foldlRecOn (motive := fun t : State => t.part = s.part) (s.crew e) _ rfl fun _ h _ _ => h

/-- A new epoch is in force, and the entries are as they were. -/
theorem State.applyTable_part (s : State) (n : Nat) : (s.applyTable n).part = { s.part with epoch := n } :=
  List.foldlRecOn (motive := fun t : State => t.part = { s.part with epoch := n }) _ _ rfl fun t h e _ => (t.abandon_part e).trans h

theorem State.payOwed_part (s : State) : s.payOwed.part = s.part := by
  unfold State.payOwed
  (repeat' split) <;> rfl

/-- A job's end sends no PDU. -/
theorem State.jobDoneAt_pdus (s : State) (t : Nat) (h : Hdr) (ctx : Fin 64) (dl : Nat) (o : JobEnd) :
    (s.jobDoneAt t h ctx dl o).host.pdus = s.host.pdus := by
  cases o with
  | success => rw [State.jobDoneAt]; split <;> rfl
  | _ => rfl

/-- Updating an index that stands changes the elements of its number. -/
theorem State.modIndex_eq {s : State} {n : Nat} (h : s.indexes.any (fun x => x.nsid == n) = true) (f : Index → Index) :
    s.modIndex n f = { s with indexes := mapWhere (fun x => x.nsid == n) f s.indexes } := if_pos h

end Sys2Proof.Machine
end

section
/-!
CERTIFICATE of O23, O37, O24 and O21: table epochs, the registers of a new execution, indexes and translation.
-/
open Sys2Proof Sys2Proof.Machine

/-- Settles O23: an update changes one entry, and the epoch steps that it abandons are executions only. -/
theorem tableEpochs : Obligations.TableEpochs := by
  unfold Obligations.TableEpochs
  refine ⟨fun s n ctx entry hnext => ?_, fun s hnext hold => ?_, fun s hbusy => ?_⟩
  · have hpart : s.switchTable.part = { s.part with entries := s.part.entries.set ctx entry, next := none, epoch := n } := by
      simp only [State.switchTable, hnext]
      refine (foldl_keeps State.part (fun t o => ?_) _ _).trans ?_
      · exact State.okAfterEpoch_part ..
      · exact State.applyTable_part ..
    refine ⟨s.switchTable, rfl, ?_, ?_, ?_, fun c hc => ?_⟩
    all_goals rw [hpart]
    · simp
    · have : ctx.val ≠ c.val := fun h => hc (Fin.ext h.symm)
      simp [this]
  · have hexec : exec .revocationComplete s = execRevocationComplete s := rfl
    simp only [Gives, hexec, execRevocationComplete, hnext, hold]
    refine ⟨_, rfl, ?_⟩
    rw [if_neg (by simp)]
    rw [foldl_keeps State.part, State.payOwed_part]
    · exact ⟨rfl, rfl, rfl⟩
    intro t r
    split
    · exact State.okAfterEpoch_part ..
    · rfl
  · have hexec : exec .revocationComplete s = execRevocationComplete s := rfl
    simp only [hexec, execRevocationComplete, hbusy, if_true]

/-- An element of a vector after another one was set. -/
theorem getElem_vset {α : Type} {n : Nat} (v : Vector α n) (i : Nat) (x : α) {j : Nat} (hj : j < n) :
    (vset v i x)[j] = if i = j then x else v[j] := by
  simp [vset, Vector.getElem_setIfInBounds]

/-- Loading a list into consecutive elements. -/
theorem getElem_load (as : List W64) (k : Nat) (v : Vector W64 64) {j : Nat} (hj : j < 64) :
    ((as.zipIdx k).foldl (fun v a => vset v (a.2 + 1) a.1) v)[j] = if k < j then as.getD (j - k - 1) v[j] else v[j] := by
  induction as generalizing k v with
  | nil => simp
  | cons a as ih =>
    rw [List.zipIdx_cons, List.foldl_cons, ih]
    simp only [getElem_vset]
    by_cases hk : k < j
    · by_cases hk' : k + 1 = j
      · simp [← hk']
      · have hlt : k + 1 < j := by omega
        have hsub : j - k - 1 = (j - (k + 1) - 1) + 1 := by omega
        simp [hk, hk', hlt, hsub]
    · have hne : ¬k + 1 = j := by omega
      have hnlt : ¬k + 1 < j := by omega
      simp [hk, hne, hnlt]

/-- Settles O37: of the registers that a start loads, each is written once. -/
theorem startRegisters : Obligations.StartRegisters := by
  unfold Obligations.StartRegisters
  intro s h c i id dl params twin copy
  have hreg (r : Fin 64) (hr : 0 < r.val) (h61 : r.val < 61) :
      (s.newExec h c i id params dl twin copy).reg r = (argsOf params).getD (r.val - 1) 0 := by
    have hne : r ≠ 0 := Fin.pos_iff_ne_zero.mp hr
    have h1 : ¬61 = r.val := by omega
    have h2 : ¬62 = r.val := by omega
    have h3 : ¬63 = r.val := by omega
    simp only [State.newExec, Exec.reg, hne, if_false, startRegs, Fin.getElem_fin, getElem_vset, h1, h2, h3, getElem_load, hr, if_true,
      Nat.sub_zero, Vector.getElem_replicate]
    rfl
  refine ⟨?_, ?_, ?_, rfl, fun r h1 h16 => ?_, fun r h17 h60 => ?_, rfl, rfl, rfl, rfl, rfl⟩
  · simp [State.newExec, Exec.reg, startRegs, getElem_vset]
  · simp [State.newExec, Exec.reg, startRegs, getElem_vset]
  · simp [State.newExec, Exec.reg, startRegs, getElem_vset]
  · rw [hreg r (by omega) (by omega)]
    have hlt : r.val - 1 < 16 := by omega
    have hargc : r.val - 1 < argc params ↔ r.val ≤ (params.getD 8 0).toNat := by unfold argc; omega
    simp [argsOf, upto, hlt, hargc]
  · rw [hreg r (by omega) (by omega)]
    have hlen : (argsOf params).length ≤ r.val - 1 := by
      simp only [argsOf, upto, List.length_map, List.length_range]
      omega
    exact List.getD_eq_default _ _ hlen

/-- Settles O24: each event is one update of its index or its execution, then of what the host hears. -/
theorem indexEvents : Obligations.IndexEvents := by
  unfold Obligations.IndexEvents
  refine ⟨fun s x g root hx hold hsnap hheld => ?_, fun s x g hx hold hg => ?_, fun s x w r e o hx hwait hobj hroom => ?_,
    fun s x w e o hx hwait hobj hlate hl hd => ?_, fun s e o hex ho hwaits hl hd hlate => ?_⟩
  · have hexec : exec (.generationPagesDeallocate x.nsid g) s = execGenerationPagesDeallocate x.nsid g s := rfl
    have hbusy : (s.sched.execs.any fun e => e.index == some x.nsid && e.snap.map (·.1) == some g) = false := by
      simpa using hsnap
    have hunheld : (s.twin.unacked.any fun u => decide (u.group = s.groupOf x.nsid)) = false := by simpa using hheld
    simp only [hexec, execGenerationPagesDeallocate, hx, hold, hbusy, hunheld]
    rw [if_neg (by simp)]
    cases x.old.find? (fun q => q.1 == g + 1) <;> rfl
  · have hexec : exec (.generationPagesDeallocate x.nsid g) s = execGenerationPagesDeallocate x.nsid g s := rfl
    simp only [hexec, execGenerationPagesDeallocate, hx, hold]
    rw [if_pos hg]
  · have hexec : exec (.stockAppendResume x.nsid) s = execStockAppendResume x.nsid s := rfl
    simp only [hexec, execStockAppendResume, hx, hwait, hobj, hroom, if_true]
  · have hexec : exec (.stockAppendTimeout x.nsid) s = execStockAppendTimeout x.nsid s := rfl
    have hany : s.indexes.any (fun y => y.nsid == x.nsid) = true :=
      List.any_eq_true.mpr ⟨x, List.mem_of_find?_eq_some hx, beq_self_eq_true _⟩
    have hfind : (x.waiting.filterMap fun w => (s.waitingObj w).map fun p => (w, p.1, p.2)).find? (fun q => isLate s.now q.2.2.deadline)
        = some (w, e, o) := by
      simp [hwait, hobj, hlate]
    simp only [Gives, hexec, execStockAppendTimeout, hx, hfind]
    rw [State.modIndex_eq (by exact hany)]
    refine ⟨_, rfl, ⟨_, State.post_cq_of_live hl hd ..⟩, fun y hy hid => ?_⟩
    obtain ⟨z, -, rfl⟩ := List.mem_map.mp hy
    split
    · simp
    next hne =>
      rw [if_neg hne] at hid
      exact absurd (beq_iff_eq.mpr hid) hne
  · have hexec : exec (.ingestObjectComplete e.id o.obj) s = execIngestObjectComplete e.id o.obj s := rfl
    simp only [Gives, hexec, execIngestObjectComplete, hex, ho, hwaits, if_true]
    let drop : Exec → Exec := fun x => { x with objs := x.objs.filter fun y => !(y.hdr == o.hdr) }
    refine ⟨_, rfl, ?_, ?_, drop e, ?_, fun q hq => ?_⟩
    · exact State.jobDoneAt_pdus ..
    · exact State.jobDoneAt_success_cq (s := (s.modEx e.id drop).send (.c2hData o.hdr o.result)) hl hd _ _ _ hlate
    · exact (State.ex?_congr (State.jobDoneAt_execs ..) _).trans (State.ex?_modEx hex fun _ => rfl)
    · simpa using (List.mem_filter.mp hq).2

/-- A Memory Read of the management controller's path, outstanding since it met a page without a frame. -/
def faultedCmd : Hdr := { path := .i3c, sq := 0, cid := 0 }

/-- The fault record of that command, on the second page, raised at time 0. -/
def hostFault : FaultRec :=
  { id := 0, ctx := 0, mover := .host 0, chan := 0, va := 65536, wr := false, exec := 0, step := 0, op := 0, compEpoch := 0, at_ := 0,
    host := some faultedCmd }

/-- The module 20 µs later, without an answer. -/
def unansweredFault : State :=
  { now := 20000
    tiers := { faults := [hostFault] }
    host := { cmds := [{ hdr := faultedCmd, body := .other, wait := .flash }] } }

/-- Refutes O21: the completion of a host command whose fault gets no answer has bits 47:16 of the address in DW0 and bits 55:48
in DW1 (R435), as the model answers; the statement has the two words the other way around. For an access to the second page DW0 is
1 and not 0. -/
theorem not_translation : ¬ Obligations.Translation := by
  unfold Obligations.Translation
  rintro ⟨-, -, hanswers, -⟩
  obtain ⟨-, -, -, -, -, hhost, -⟩ := hanswers unansweredFault hostFault rfl
  have hstated := hhost faultedCmd rfl rfl (Nat.le_refl 20000)
  have hexec : exec (.translationFaultTimeout hostFault.id) unansweredFault = execTranslationFaultTimeout hostFault.id unansweredFault := rfl
  have hfind : unansweredFault.tiers.faults.find? (fun x => x.id == hostFault.id) = some hostFault := rfl
  have hnow : ¬unansweredFault.now < hostFault.at_ + 20000 := by decide
  have hown : hostFault.host = some faultedCmd := rfl
  have hout : (unansweredFault.dequeue [hostFault]).outstanding faultedCmd = true := rfl
  simp only [hexec, execTranslationFaultTimeout, hfind, hnow, if_false, State.refuseFault, hown, hout, if_true,
    Host.Outcome.next.injEq] at hstated
  have hcq := congrArg (fun t : State => t.host.cq.map (·.dw0)) hstated
  exact absurd hcq (by decide)
end

section
/-!
SUPPORT. Connections, and the fields that the end of an association leaves to the controllers that stand.
-/
namespace Sys2Proof.Machine

/-- A command of a controller that arrives is that of a controller of its context. -/
theorem onHost_of_arrives {s : State} {h : Hdr} {c : Fin 64} {n : Nat} (ha : Arrives s h c) (hp : h.path = .ctrl n) :
    ∃ k, OnHost s h k ∧ k.ctx = c ∧ k.id = n := by
  obtain ⟨-, -, -, hpath⟩ := ha
  rw [hp] at hpath
  obtain ⟨k, hk, hctx⟩ := hpath
  have hid : k.id = n := by simpa using List.find?_some hk
  exact ⟨k, ⟨by rw [hp, hid], by rw [hid]; exact hk⟩, hctx, hid⟩

theorem State.command_arrives {s : State} {h : Hdr} {c : Fin 64} {n : Nat} (ha : Arrives s h c) (hp : h.path = .ctrl n)
    (f : Fin 64 → State) : s.command h f = f c := by
  obtain ⟨k, hk, rfl, -⟩ := onHost_of_arrives ha hp
  exact State.command_onHost hk ha f

/-- The controller of a host's command. -/
theorem hdrCtrl_onHost {s : State} {h : Hdr} {k : Ctrl} (hk : OnHost s h k) : hdrCtrl h = k.id := by
  simp [hdrCtrl, hk.1]

/-- One piece of data that fills the one pending request takes it away. -/
theorem takeR2t_whole (off len : Nat) : takeR2t off len [(off, len)] = [] := by simp [takeR2t]

end Sys2Proof.Machine
end

section
/-!
CERTIFICATE of O26 to O29: connections, Connect, the Fabrics commands and the admin commands.
-/
open Sys2Proof Sys2Proof.Machine

/-- Settles O26: each event is one branch of the transport's definition. -/
theorem connections : Obligations.Connections := by
  unfold Obligations.Connections
  refine ⟨fun s n port hpda maxr2t hd dd tls hserve hport hnew hhpda htls => ?_, fun s n port pfv hpda maxr2t hd dd tls hserve hport hnew hbad => ?_,
    fun s k hk hplain => ?_, fun s n => ⟨s.endAssoc n, rfl, ?_⟩, fun s k o len hk hcar ho hpos hmax hr2t hdone => ?_,
    fun s o ho hserve hleft hroom hbuf => ?_⟩
  · have hexec : exec (.icreq n port 0 hpda maxr2t hd dd tls) s = execIcreq n port 0 hpda maxr2t hd dd tls s := rfl
    have hgood : ¬((0 : Nat) ≠ 0 ∨ 31 < hpda ∨ (s.host.tlsOnly[port] = true ∧ (!tls) = true)) := by
      rintro (h | h | ⟨h, h'⟩)
      · exact h rfl
      · omega
      · simp [htls h] at h'
    simp only [hexec, execIcreq, hserve, hport, hnew]
    rw [if_neg (by simp), if_neg hgood]
  · have hexec : exec (.icreq n port pfv hpda maxr2t hd dd tls) s = execIcreq n port pfv hpda maxr2t hd dd tls s := rfl
    simp only [hexec, execIcreq, hserve, hport, hnew]
    rw [if_neg (by simp), if_pos (by simpa using hbad)]
  · have hexec : exec (.badPdu k.id) s = execBadPdu k.id s := rfl
    simp only [hexec, execBadPdu, State.dropConn, hk, hplain]
    rfl
  · refine ⟨fun k hk => ?_, fun q hq => ?_, fun k hk => ?_, fun x hx => ?_, fun h hh => ?_⟩
    · simpa using (List.mem_filter.mp hk).2
    · simpa using (List.mem_filter.mp hq).2
    · simpa using (List.mem_filter.mp hk).2
    · obtain ⟨y, -, rfl⟩ := List.mem_map.mp hx
      simp
    · simpa using (List.mem_filter.mp hh).2
  · have hexec : exec (.h2cData k.id o.hdr o.got len true) s = execH2cData k.id o.hdr o.got len true s := rfl
    have hgood : ¬((!k.carries o.hdr) = true ∨ len = 0 ∨ maxH2c < len
        ∨ (!o.r2ts.any fun r => decide (r.1 = o.got) && decide (len ≤ r.2)) = true) := by
      have hne : len ≠ 0 := Nat.pos_iff_ne_zero.mp hpos
      simp [hcar, hr2t, hne, maxH2c, hmax]
    simp only [hexec, execH2cData, hk, ho]
    rw [if_neg hgood, hr2t, takeR2t_whole, hdone]
    simp
  · have hexec : exec (.readyToTransferIssue o.hdr) s = execReadyToTransferIssue o.hdr s := rfl
    have hsome : o.nextR2t = min 1048576 (o.total - o.asked) := rfl
    have hnext : ¬(o.nextR2t = 0 ∨ s.maxR2t o.hdr ≤ o.r2ts.length) := by omega
    have htotal : ¬o.total = 0 := by omega
    have hbuffer : ¬(o.body.isBlocks && !s.bufferRoom o.nextR2t) = true := by
      rw [hsome]
      simpa using hbuf
    simp only [hexec, execReadyToTransferIssue, ho, hserve, htotal, if_false, if_neg hnext, if_neg hbuffer]
    rfl

/-- Settles O27: Connect answers by the binding that it finds. -/
theorem connects : Obligations.Connects := by
  unfold Obligations.Connects
  refine ⟨fun s k cid sqsize kato n nqn ctx hk hserve hplain hbound hen hpos hmax hlow hhigh hfree => ?_,
    fun s k x cid sqsize kato qid ctx hk hserve hplain hbound hen hpos hmax hqpos hqmax hx hnew hsum => ?_,
    fun s k cid cntlid qid sqsize kato nqn hk hserve hplain hbound => ?_⟩
  · have hexec : exec (.connect k.id cid nqn 0xFFFF 0 sqsize kato) s = execConnect k.id cid nqn 0xFFFF 0 sqsize kato s := rfl
    have hsize : ¬(sqsize = 0 ∨ Config.maxQueue ≤ sqsize) := by
      have : Config.maxQueue = 4096 := rfl
      omega
    have hkato : ¬((0xFFFF : Nat) ≠ 0xFFFF ∨ kato < 1000 ∨ 120000 < kato) := by omega
    simp only [Gives, hexec, execConnect, hk, hserve, hplain, hbound, hen, hfree, if_neg hsize, if_neg hkato]
    exact ⟨_, rfl, ⟨_, rfl, rfl, rfl, rfl, rfl, rfl⟩, ⟨_, rfl, rfl, rfl, rfl⟩, rfl⟩
  · have hexec : exec (.connect k.id cid x.nqn x.id qid sqsize kato) s = execConnect k.id cid x.nqn x.id qid sqsize kato s := rfl
    have hsize : ¬(sqsize = 0 ∨ Config.maxQueue ≤ sqsize) := by
      have : Config.maxQueue = 4096 := rfl
      omega
    have hadmin : ¬qid = 0 := by omega
    have hgood : ¬(x.nqn ≠ x.nqn ∨ 128 < qid ∨ (s.host.queues.any fun q => decide (q.cntlid = x.id) && decide (q.qid = qid)) = true
        ∨ Config.maxQueueSum < s.queueSum + sqsize + 1) := by
      have hlimit : Config.maxQueueSum = 262144 := rfl
      have hfree : (s.host.queues.any fun q => decide (q.cntlid = x.id) && decide (q.qid = qid)) = false := by simpa using hnew
      rw [hlimit, hfree]
      simp only [ne_eq, not_true_eq_false, Bool.false_eq_true, false_or]
      omega
    simp only [Gives, hexec, execConnect, hk, hserve, hplain, hbound, hen, hx, if_neg hsize, if_neg hadmin, if_neg hgood]
    exact ⟨_, rfl, ⟨_, rfl, rfl, rfl, rfl⟩, rfl⟩
  · have hexec : exec (.connect k.id cid nqn cntlid qid sqsize kato) s = execConnect k.id cid nqn cntlid qid sqsize kato s := rfl
    simp only [Gives, hexec, execConnect, hk, hserve, hplain, hbound]
    exact ⟨_, rfl, rfl, rfl, _, rfl, by simp⟩

/-- Settles O28: each command is one branch, answered where its controller lives. -/
theorem fabricsCommands : Obligations.FabricsCommands := by
  unfold Obligations.FabricsCommands
  intro s h k hk hserve hfree
  have harrive := State.arrive_serving hk hserve hfree
  have hctrl : s.ctrl? (hdrCtrl h) = some k := by rw [hdrCtrl_onHost hk]; exact hk.2
  refine ⟨?_, fun v hv => ?_, ?_, fun x hx hnqn => ?_, fun last => ?_, ?_, ?_⟩
  · have hexec : exec (.propertyGet h 0x14) s = execPropertyGet h 0x14 s := rfl
    have hlow : (k.cc.setWidth 64).setWidth 32 = k.cc := by simp
    have hhigh : ((k.cc.setWidth 64) >>> 32).setWidth 32 = 0#32 := by
      apply BitVec.eq_of_toNat_eq
      have := k.cc.isLt
      simp [Nat.shiftRight_eq_div_pow]
      omega
    simp [hexec, execPropertyGet, harrive, hctrl, hhigh]
  · have hexec : exec (.propertySet h 0x14 v) s = execPropertySet h 0x14 v s := rfl
    have hstays : (k.cc.getLsbD 0 && !(v.getLsbD 0)) = false := by
      rcases hv with h | h
      · simp only [h, Bool.false_and]
      · simp only [h, Bool.not_true, Bool.and_false]
    simp only [hexec, execPropertySet, harrive, hctrl, hstays]
    rfl
  · have hexec : exec (.disconnect h) s = execDisconnect h s := rfl
    rw [hexec, execDisconnect, harrive, hdrCtrl_onHost hk]
  · have hexec : exec (.authenticationSend h true true) s = execAuthenticationSend h true true s := rfl
    have hknown : (s.host.secrets.any fun x => x.nqn == k.nqn) = true := List.any_eq_true.mpr ⟨x, hx, by simp [hnqn]⟩
    simp [hexec, execAuthenticationSend, harrive, hctrl, hknown]
  · have hexec : exec (.authenticationSend h last false) s = execAuthenticationSend h last false s := rfl
    simp [hexec, execAuthenticationSend, harrive, hctrl]
  · have hexec : exec (.authenticationReceive h) s = execAuthenticationReceive h s := rfl
    rw [hexec, execAuthenticationReceive, harrive, hdrCtrl_onHost hk]
  · have hexec : exec (.keepAlive h) s = execKeepAlive h s := rfl
    rw [hexec, execKeepAlive, harrive, hdrCtrl_onHost hk]

/-- Settles O29: each command is one branch, answered or kept among the outstanding ones. -/
theorem adminCommands : Obligations.AdminCommands := by
  unfold Obligations.AdminCommands
  intro s h c ha
  have hany := State.commandAny_arrives ha
  refine ⟨fun cns nsid f hf => ?_, fun page lsp off len p hp hal hoff hpos hlen hmax => ?_, fun n hpath hnone => ?_, fun n a hpath hone => ?_,
    fun n sq cid o hpath ho hcatch => ?_, fun n sq cid hpath ho => ?_, fun opc => ?_⟩
  · have hexec : exec (.identify h cns nsid) s = execIdentify h cns nsid s := rfl
    simp only [hexec, execIdentify, hany, hf]
    rfl
  · have hexec : exec (.getLogPage h page lsp off len) s = execGetLogPage h page lsp off len s := rfl
    have hgood : ¬(off % 4 ≠ 0 ∨ p.len ≤ off ∨ len = 0 ∨ len % 4 ≠ 0 ∨ Config.mdts < len) := by
      have : Config.mdts = 8388608 := rfl
      omega
    simp only [hexec, execGetLogPage, hany, hp, if_neg hgood]
  · have hexec : exec (.asynchronousEventRequest h) s = execAsynchronousEventRequest h s := rfl
    simp only [hexec, execAsynchronousEventRequest, State.command_arrives ha hpath, hnone, List.find?_nil]
  · have hexec : exec (.asynchronousEventRequest h) s = execAsynchronousEventRequest h s := rfl
    have hctrl : hdrCtrl h = n := by simp [hdrCtrl, hpath]
    simp [hexec, execAsynchronousEventRequest, State.command_arrives ha hpath, hone, hctrl]
  · have hexec : exec (.abort h sq cid) s = execAbort h sq cid s := rfl
    simp only [hexec, execAbort, State.command_arrives ha hpath, ho, hcatch, if_true]
  · have hexec : exec (.abort h sq cid) s = execAbort h sq cid s := rfl
    simp only [hexec, execAbort, State.command_arrives ha hpath, ho]
  · have hexec : exec (.unsupportedCommand h opc) s = execUnsupportedCommand h opc s := rfl
    rw [hexec, execUnsupportedCommand, State.arriveAny_arrives ha]
    rfl
end

section
/-!
SUPPORT. Namespace commands, and what a held write leaves beside the write buffer.
-/
namespace Sys2Proof.Machine

/-! ## Commands on a namespace that the context may use -/

section
variable {s : State} {h : Hdr} {k : Ctrl} {n : Ns} (hk : OnHost s h k) (ha : Arrives s h k.ctx) (hready : s.nsReady = true)
  (hns : s.ns? n.nsid = some n) (hana : (s.group n.group).ana = .optimized)
include hk ha hready hns hana

theorem State.io_read (hrd : s.nsRd k.ctx n.nsid = true) (f : Ns → State) : s.io h n.nsid false f = f n := by
  simp [State.io, State.command_onHost hk ha, hready, hns, hrd, hana]

theorem State.ioWrite_onHost (hwr : s.nsWr k.ctx n.nsid = true) (hno : s.noWrites n = false) (f : Ns → State) :
    s.ioWrite h n.nsid f = f n := by
  simp [State.ioWrite, State.io, State.command_onHost hk ha, hready, hns, hwr, hana, hno]

end

/-- A transfer within the namespace and within MDTS goes on. -/
theorem State.ranged_within {s : State} {n : Ns} {lba k : Nat} {moves : Bool} (h : Hdr) (hin : lba + k ≤ n.blocks)
    (hsize : moves = true → 0 < k ∧ n.bytes k ≤ 8388608) (f : State) : s.ranged h n lba k moves f = f := by
  have hmdts : Config.mdts = 8388608 := rfl
  have hgood : ¬(moves = true ∧ (k = 0 ∨ Config.mdts < n.bytes k)) := by
    rintro ⟨hm, hbad⟩
    obtain ⟨hpos, hle⟩ := hsize hm
    omega
  rw [State.ranged, if_neg (Nat.not_lt.mpr hin), if_neg hgood]

/-- Data in the capsule runs at once when the write buffer has room. -/
theorem State.takeData_capsule {s : State} {bytes : Nat} (h : Hdr) (body : Body) (hsize : bytes ≤ 8192) (hroom : s.bufferRoom bytes = true)
    (run : State) : s.takeData h bytes body run = run := by
  have hcap : ¬Config.inCapsule < bytes := Nat.not_lt.mpr hsize
  rw [State.takeData, if_neg hcap, if_pos hroom]

/-- A write that its zone and the protection information allow is given out. -/
theorem State.runWrite_good {s : State} {n : Ns} {lba : Nat} {bs : List PBlk} (h : Hdr) (hns : s.ns? n.nsid = some n)
    (hzone : n.zoneFault lba bs.length = none) (hpi : n.check lba bs = none) (dw0 dw1 : W32) :
    s.runWrite h n.nsid lba bs dw0 dw1 = s.giveOut h { group := 0, seq := 0, nsid := n.nsid, lba, blocks := bs } dw0 dw1 := by
  simp only [State.runWrite, hns, hzone, hpi]

/-- A namespace without metadata checks nothing. -/
theorem Ns.check_plain {n : Ns} (h : n.pit = none) (lba : Nat) (bs : List PBlk) : n.check lba bs = none := by
  simp only [Ns.check, h]

/-- A conventional namespace has no zone that a write could miss. -/
theorem Ns.zoneFault_plain {n : Ns} (h : n.zoned = false) (lba k : Nat) : n.zoneFault lba k = none := by
  simp only [Ns.zoneFault, h]
  rfl

/-! ## What a held write leaves alone -/

/-- What a write into the buffer leaves alone: whatever a block reads as but for the buffer, the completions, tiers and partition. -/
def State.besideBuffer (s : State) :=
  (s.free, s.tiers, s.part, s.host.cq, s.host.ctrls, s.host.miDrop, s.host.blks, s.flash.wthru, s.host.nss.map fun n => (n.nsid, n.pit))

theorem State.program_besideBuffer (s : State) (pslc gc : Bool) (entries : List (Nat × Option Loc)) (seqs : List Nat) :
    (s.program pslc gc entries seqs).besideBuffer = s.besideBuffer ∧ (s.program pslc gc entries seqs).flash.dirty = s.flash.dirty := by
  unfold State.program
  dsimp only
  split <;> exact ⟨rfl, rfl⟩

/-- Gathering starts programs only. -/
theorem State.gather_besideBuffer (s : State) : s.gather.besideBuffer = s.besideBuffer ∧ s.gather.flash.dirty = s.flash.dirty := by
  refine List.foldlRecOn (motive := fun t : State => t.besideBuffer = s.besideBuffer ∧ t.flash.dirty = s.flash.dirty) _ _ ⟨rfl, rfl⟩ ?_
  rintro t ⟨hside, hdirty⟩ st -
  dsimp only
  split
  · obtain ⟨hside', hdirty'⟩ := t.program_besideBuffer _ _ _ _
    exact ⟨hside'.trans hside, hdirty'.trans hdirty⟩
  · exact ⟨hside, hdirty⟩

/-- Moving a write pointer touches neither identifier nor format of a namespace. -/
theorem State.advance_besideBuffer (s : State) (nsid lba n : Nat) :
    (s.advance nsid lba n).besideBuffer = s.besideBuffer ∧ (s.advance nsid lba n).flash.dirty = s.flash.dirty := by
  refine ⟨?_, rfl⟩
  simp only [State.besideBuffer, State.advance, State.modNs, mapWhere, List.map_map]
  congr 8
  refine List.map_congr_left fun x _ => ?_
  simp only [Function.comp]
  split
  · split <;> rfl
  · rfl

theorem State.publish_besideBuffer (s : State) (nsid lba : Nat) (b : PBlk) :
    (s.publish nsid lba b).besideBuffer = s.besideBuffer ∧ (s.publish nsid lba b).flash.dirty = s.flash.dirty := by
  unfold State.publish State.modIndex
  split
  · split <;> exact ⟨rfl, rfl⟩
  · exact ⟨rfl, rfl⟩

theorem State.hold1_besideBuffer (s : State) (nsid lba : Nat) (b : PBlk) : (s.hold1 nsid lba b).besideBuffer = s.besideBuffer :=
  (s.publish_besideBuffer nsid lba b).1

theorem State.holdAll_besideBuffer (s : State) (nsid lba : Nat) (bs : List PBlk) :
    (s.holdAll nsid lba bs).besideBuffer = s.besideBuffer := by
  induction bs generalizing s lba with
  | nil => rfl
  | cons b bs ih => exact (ih ..).trans (s.hold1_besideBuffer ..)

theorem State.hold_besideBuffer (s : State) (nsid lba : Nat) (bs : List PBlk) :
    (s.hold nsid lba bs).besideBuffer = s.besideBuffer ∧ (s.hold nsid lba bs).flash.dirty = (s.holdAll nsid lba bs).flash.dirty := by
  obtain ⟨hgather, hdirty⟩ := ((s.holdAll nsid lba bs).advance nsid lba bs.length).gather_besideBuffer
  obtain ⟨hadvance, hdirty'⟩ := (s.holdAll nsid lba bs).advance_besideBuffer nsid lba bs.length
  exact ⟨hgather.trans (hadvance.trans (s.holdAll_besideBuffer ..)), hdirty.trans hdirty'⟩

/-! ## Blocks -/

/-- A block reads the same where the buffer and what lies beside it are the same. -/
theorem State.blk_congr {s t : State} {m l : Nat} (hside : t.besideBuffer = s.besideBuffer)
    (hdirty : t.flash.dirty.find? (fun d => decide (d.key = blkKey m l)) = s.flash.dirty.find? (fun d => decide (d.key = blkKey m l))) :
    t.blk m l = s.blk m l := by
  simp only [State.besideBuffer, Prod.mk.injEq] at hside
  obtain ⟨hfree, -, -, -, -, -, hblks, -, hnss⟩ := hside
  have hpi : (t.host.nss.any fun n => decide (n.nsid = m) && n.pit.isSome) = s.host.nss.any fun n => decide (n.nsid = m) && n.pit.isSome := by
    have := congrArg (fun l : List (Nat × Option ProtType) => l.any fun q => decide (q.1 = m) && q.2.isSome) hnss
    simpa only [List.any_map, Function.comp_def] using this
  simp only [State.blk, hdirty, hblks, hfree, hpi]

/-- Keys of blocks tell namespaces and addresses apart. -/
theorem blkKey_inj {m n k l : Nat} (hk : k < 2 ^ 64) (hl : l < 2 ^ 64) : blkKey m k = blkKey n l ↔ m = n ∧ k = l := by
  simp only [blkKey]
  omega

theorem find?_key_replaced (ds : List Dirty) (d : Dirty) (k : Nat) :
    ((ds.filter fun x => x.key != d.key) ++ [d]).find? (fun x => decide (x.key = k))
      = if k = d.key then some d else ds.find? fun x => decide (x.key = k) := by
  rw [List.find?_append, List.find?_filter]
  by_cases hk : k = d.key
  · subst hk
    have hnone : (fun x : Dirty => decide ((x.key != d.key) = true ∧ decide (x.key = d.key) = true)) = fun _ => false := by
      funext x
      by_cases hx : x.key = d.key <;> simp [hx]
    rw [hnone, List.find?_eq_none.mpr fun _ _ => Bool.false_ne_true, if_pos rfl]
    simp
  · have hsame : (fun x : Dirty => decide ((x.key != d.key) = true ∧ decide (x.key = k) = true)) = fun x => decide (x.key = k) := by
      funext x
      by_cases hx : x.key = k <;> simp [hx, hk]
    have hne : ¬d.key = k := fun h => hk h.symm
    rw [hsame, if_neg hk, List.find?_singleton]
    simp [hne]

/-- One held block is what it reads as, and no other block changes. -/
theorem State.blk_hold1 {s : State} {nsid lba : Nat} (b : PBlk) {m l : Nat} (hlba : lba < 2 ^ 64) (hl : l < 2 ^ 64) :
    (s.hold1 nsid lba b).blk m l = if m = nsid ∧ l = lba then b else s.blk m l := by
  obtain ⟨hpub, hdirty⟩ := s.publish_besideBuffer nsid lba b
  have hfind (k : Nat) : (s.hold1 nsid lba b).flash.dirty.find? (fun d => decide (d.key = k))
      = if k = blkKey nsid lba then some { key := blkKey nsid lba, seq := (s.publish nsid lba b).flash.seq, blk := b }
        else s.flash.dirty.find? fun d => decide (d.key = k) := by
    rw [← hdirty]
    exact find?_key_replaced _ { key := blkKey nsid lba, seq := (s.publish nsid lba b).flash.seq, blk := b } k
  by_cases h : m = nsid ∧ l = lba
  · obtain ⟨rfl, rfl⟩ := h
    simp [State.blk, hfind]
  · have hne : ¬blkKey m l = blkKey nsid lba := by rwa [blkKey_inj hl hlba]
    rw [if_neg h]
    exact State.blk_congr (s.hold1_besideBuffer nsid lba b) ((hfind _).trans (if_neg hne))

/-- Held consecutive blocks are what they read as, and no other block changes. -/
theorem State.blk_holdAll (s : State) (nsid lba : Nat) (bs : List PBlk) {m l : Nat} (hlba : lba + bs.length ≤ 2 ^ 64) (hl : l < 2 ^ 64) :
    (s.holdAll nsid lba bs).blk m l = if m = nsid ∧ lba ≤ l then bs.getD (l - lba) (s.blk m l) else s.blk m l := by
  induction bs generalizing s lba with
  | nil => simp [State.holdAll]
  | cons b bs ih =>
    rw [List.length_cons] at hlba
    rw [State.holdAll, ih _ _ (by omega), State.blk_hold1 b (by omega) hl]
    by_cases hm : m = nsid
    · rcases Nat.lt_trichotomy l lba with hlt | rfl | hgt
      · have h1 : ¬lba + 1 ≤ l := by omega
        have h2 : ¬lba ≤ l := by omega
        have h3 : ¬l = lba := by omega
        simp [h1, h2, h3]
      · simp [hm]
      · have h1 : lba + 1 ≤ l := hgt
        have h2 : lba ≤ l := by omega
        have h3 : ¬l = lba := by omega
        have hsub : l - lba = (l - (lba + 1)) + 1 := by omega
        simp [hm, h1, h2, h3, hsub]
    · simp [hm]

/-- Blocks without protection information stand in a namespace without metadata as they came. -/
theorem Ns.keep_plain {n : Ns} (hpit : n.pit = none) (lba : Nat) {bs : List PBlk} (hbs : ∀ b ∈ bs, b.pi = none) : n.keep lba bs = bs := by
  have hsame : bs.zipIdx.map (fun b => ({ b.1 with pi := none } : PBlk)) = bs.zipIdx.map Prod.fst :=
    List.map_congr_left fun b hb => by
      obtain ⟨b, i⟩ := b
      have := hbs b (List.fst_mem_of_mem_zipIdx hb)
      cases b
      simp_all
  simp only [Ns.keep, hpit]
  rw [hsame, List.zipIdx_map_fst]

theorem State.modGroup_flash (s : State) (g : Nat) (f : Group → Group) :
    (s.modGroup g f).besideBuffer = s.besideBuffer ∧ (s.modGroup g f).flash = s.flash := by
  unfold State.modGroup
  split <;> exact ⟨rfl, rfl⟩

theorem State.markChanged_flash (s : State) (w : MirWrite) : (s.markChanged w).besideBuffer = s.besideBuffer ∧ (s.markChanged w).flash = s.flash := by
  unfold State.markChanged
  split
  · exact State.modGroup_flash ..
  · exact ⟨rfl, rfl⟩

/-- A write without a partner is held at once; of what lies beside the buffer nothing changes. -/
theorem State.writeOut_alone {s : State} (hpair : s.paired = false) {n : Ns} {lba : Nat} {bs : List PBlk} (hns : s.ns? n.nsid = some n)
    (hpit : n.pit = none) (hbs : ∀ b ∈ bs, b.pi = none) (h : Option Hdr) (e : Option Nat) :
    ∃ t u : State, s.writeOut { group := 0, seq := 0, nsid := n.nsid, lba, blocks := bs } h e = (t, none)
      ∧ u.besideBuffer = s.besideBuffer ∧ u.flash = s.flash
      ∧ t.besideBuffer = s.besideBuffer ∧ t.flash.dirty = (u.holdAll n.nsid lba bs).flash.dirty := by
  have hkept : s.kept { group := 0, seq := 0, nsid := n.nsid, lba, blocks := bs } = { group := 0, seq := 0, nsid := n.nsid, lba, blocks := bs } := by
    simp only [State.kept, hns, Ns.keep_plain hpit lba hbs]
  let u := s.modGroup (s.groupOf n.nsid) fun x => { x with seq := x.seq + 1 }
  obtain ⟨hside, hflash⟩ := s.modGroup_flash (s.groupOf n.nsid) fun x => { x with seq := x.seq + 1 }
  obtain ⟨hhold, hdirty⟩ := u.hold_besideBuffer n.nsid lba bs
  obtain ⟨hmark, hmarkf⟩ := (u.hold n.nsid lba bs).markChanged_flash { group := 0, seq := 0, nsid := n.nsid, lba, blocks := bs }
  refine ⟨_, u, ?_, hside, hflash, hmark.trans (hhold.trans hside), (congrArg Flash.dirty hmarkf).trans hdirty⟩
  unfold State.writeOut
  rw [hkept, hpair]
  rfl

end Sys2Proof.Machine
end

section
/-!
CERTIFICATE of O31, O32 and O33: the NVM and the zoned commands, and that a block reads as it was last written.
-/
open Sys2Proof Sys2Proof.Machine

/-- Settles O31: each command passes its checks on a namespace that the context may use and is given out. -/
theorem nvmCommands : Obligations.NvmCommands := by
  unfold Obligations.NvmCommands
  intro s h k n hk ha hready hns hana
  have hwrite := State.ioWrite_onHost hk ha hready hns hana
  have hread := State.io_read hk ha hready hns hana
  refine ⟨fun lba nlb hrd hin hpos hsize hflash hpi => ?_, fun lba nlb hrd hin hflash hpi => ?_,
    fun lba bs hwr hno hin hbs hsize hroom hzone hpi => ?_, fun lba nlb hwr hno hin hpit hzoned => ?_, ?_, fun lba m hwr hno hin => ?_⟩
  · have hexec : exec (.read h n.nsid lba nlb) s = execRead h n.nsid lba nlb s := rfl
    rw [hexec, execRead, State.startRead, hread hrd, State.ranged_within h hin fun _ => ⟨hpos, hsize⟩, hflash]
    have hns' : ({ s with free := s.free + 1 } : State).ns? n.nsid = some n := hns
    simp only [State.finishRead, hns', upto, hpi]
    rfl
  · have hexec : exec (.verify h n.nsid lba nlb) s = execVerify h n.nsid lba nlb s := rfl
    rw [hexec, execVerify, State.startRead, hread hrd, State.ranged_within (moves := false) h hin (fun h => nomatch h), hflash]
    have hns' : ({ s with free := s.free + 1 } : State).ns? n.nsid = some n := hns
    simp only [State.finishRead, hns', upto, hpi]
    rfl
  · have hexec : exec (.write h n.nsid lba bs) s = execWrite h n.nsid lba bs s := rfl
    have hpos : 0 < bs.length := List.length_pos_iff.mpr hbs
    rw [hexec, execWrite, hwrite hwr hno, State.ranged_within h hin fun _ => ⟨hpos, by omega⟩, State.takeData_capsule h _ hsize hroom,
      State.runWrite_good h hns hzone hpi]
  · have hexec : exec (.writeZeroes h n.nsid lba nlb) s = execWriteZeroes h n.nsid lba nlb s := rfl
    rw [hexec, execWriteZeroes, hwrite hwr hno, State.ranged_within (moves := false) h hin (fun h => nomatch h),
      State.runWrite_good h hns (Ns.zoneFault_plain hzoned ..) (Ns.check_plain hpit ..)]
    simp only [zeroBlk, hpit, Option.map_none]
    rfl
  · have hexec : exec (.flush h) s = execFlush h s := rfl
    rw [hexec, execFlush, State.command_onHost hk ha, hready]
    rfl
  · have hexec : exec (.datasetManagement h n.nsid [(lba, m)] true false) s = execDatasetManagement h n.nsid [(lba, m)] true false s := rfl
    rw [hexec, execDatasetManagement, hwrite hwr hno]
    simp [State.giveOutAll, Nat.not_lt.mpr hin]

/-- Settles O32: the buffer holds the newest copy of each block. -/
theorem writeThenRead : Obligations.WriteThenRead := by
  unfold Obligations.WriteThenRead
  intro s h n lba bs dw0 dw1 hpair hns hpit hbs hin hmax hthru hl hd
  obtain ⟨t, u, hout, huside, huflash, hside, hdirty⟩ := State.writeOut_alone hpair (lba := lba) hns hpit hbs (some h) none
  have hparts := hside
  simp only [State.besideBuffer, Prod.mk.injEq] at hparts
  obtain ⟨-, htiers, hpart, hcq, hctrls, hdrop, -, hwthru, -⟩ := hparts
  have hdone : t.unprogrammed n.nsid lba bs.length = false := by
    rw [State.unprogrammed, hwthru, hthru]
    rfl
  have hgive : s.giveOut h { group := 0, seq := 0, nsid := n.nsid, lba, blocks := bs } dw0 dw1 = t.okDw h dw0 dw1 := by
    simp only [State.giveOut, hout, hdone]
    rfl
  have hblk (m l : Nat) (hl : l < 2 ^ 64) : (t.okDw h dw0 dw1).blk m l
      = if m = n.nsid ∧ lba ≤ l then bs.getD (l - lba) (s.blk m l) else s.blk m l := by
    have hlba : lba + bs.length ≤ 2 ^ 64 := by omega
    calc (t.okDw h dw0 dw1).blk m l
      _ = t.blk m l := rfl
      _ = (u.holdAll n.nsid lba bs).blk m l :=
        State.blk_congr (hside.trans ((u.holdAll_besideBuffer n.nsid lba bs).trans huside).symm) (by rw [hdirty])
      _ = if m = n.nsid ∧ lba ≤ l then bs.getD (l - lba) (u.blk m l) else u.blk m l := State.blk_holdAll u n.nsid lba bs hlba hl
      _ = _ := by rw [State.blk_congr huside (by rw [huflash])]
  dsimp only
  rw [hgive]
  refine ⟨fun j hj => ?_, fun m l hlt hout => ?_, ?_, htiers, hpart⟩
  · rw [hblk _ _ (by omega), if_pos ⟨rfl, Nat.le_add_right ..⟩, Nat.add_sub_cancel_left]
    simp [hj]
  · rw [hblk _ _ (by omega)]
    split
    next hin' =>
      have hlen : bs.length ≤ l - lba := by omega
      simp [hlen]
    next => rfl
  · have hlive : t.live h = true := by rw [← hl]; simp only [State.live, hctrls]
    rw [← hdrop] at hd
    rw [← hcq]
    exact State.post_cq_of_live hlive hd ..

/-- Settles O33: a zone moves at its write pointer, and every other write is refused by the zone's check. -/
theorem zonedCommands : Obligations.ZonedCommands := by
  unfold Obligations.ZonedCommands
  intro s h k n hk ha hready hns hana hzoned
  have hwrite := State.ioWrite_onHost hk ha hready hns hana
  have hread := State.io_read hk ha hready hns hana
  refine ⟨fun z bs hwr hno hpos hmax hpit hin hroom hzone hwp => ?_, fun z act hwr hno hin hstep hact => ?_, fun hrd hpos => ?_,
    fun lba bs hwr hno hin hbs hsize hroom hfull hoff => ?_⟩
  · have hexec : exec (.zoneAppend h n.nsid (z * 524288) bs) s = execZoneAppend h n.nsid (z * 524288) bs s := rfl
    have hbytes : n.bytes bs.length = 4096 * bs.length := by simp [Ns.bytes, hpit, Nat.mul_comm]
    have hgood : ¬(z * 524288 % Config.zoneBlocks ≠ 0 ∨ bs = [] ∨ 256 < bs.length) := by
      rintro (h | h | h)
      · exact h (Nat.mul_mod_left z 524288)
      · rw [h] at hpos
        cases hpos
      · omega
    have hz : z * 524288 / Config.zoneBlocks = z := Nat.mul_div_cancel z (by decide)
    have hrun : s.runAppend h n.nsid (z * 524288) bs
        = s.runWrite h n.nsid (z * 524288 + (n.zone z).wp) bs (BitVec.ofNat 32 (z * 524288 + (n.zone z).wp))
            (BitVec.ofNat 32 ((z * 524288 + (n.zone z).wp) / 2 ^ 32)) := by
      simp only [State.runAppend, hns, hz]
    rw [hexec, execZoneAppend, hwrite hwr hno, hzoned, if_neg (by simp), if_neg hgood, State.ranged_within h hin fun _ => ⟨hpos, by omega⟩,
      State.takeData_capsule h _ (by omega) (by rw [hbytes]; exact hroom), hrun, State.runWrite_good h hns hzone (Ns.check_plain hpit ..)]
  · have hexec : exec (.zoneManagementSend h n.nsid (z * 524288) act false) s = execZoneManagementSend h n.nsid (z * 524288) act false s := rfl
    have hact' : ¬(act = .offline ∨ act = .setExt) := by
      rintro (rfl | rfl) <;> cases hstep
    have hal : ¬z * 524288 % Config.zoneBlocks ≠ 0 := fun h => h (Nat.mul_mod_left z 524288)
    have hz : z * 524288 / Config.zoneBlocks = z := Nat.mul_div_cancel z (by decide)
    rw [hexec, execZoneManagementSend, hwrite hwr hno]
    simp only [hzoned, hal, hz, hact', hact, hstep, Nat.not_le.mpr hin, if_false, Bool.not_true, Bool.false_eq_true, false_and]
  · have hexec : exec (.zoneManagementReceive h n.nsid 0) s = execZoneManagementReceive h n.nsid 0 s := rfl
    have hzb : Config.zoneBlocks = 524288 := rfl
    rw [hexec, execZoneManagementReceive, hread hrd]
    simp only [hzoned, Nat.not_le.mpr hpos, if_false, Bool.not_true, Bool.false_eq_true, hzb, upto, Nat.zero_div, Nat.sub_zero, Nat.zero_add,
      List.map_id', List.length_range]
    rfl
  · have hexec : exec (.write h n.nsid lba bs) s = execWrite h n.nsid lba bs s := rfl
    have hpos : 0 < bs.length := List.length_pos_iff.mpr hbs
    have hmiss : n.zoneFault lba bs.length = some 0xBC := by
      have hzb : Config.zoneBlocks = 524288 := rfl
      simp only [Ns.zoneFault, hzoned, hzb, hfull, if_false, if_pos hoff]
      rfl
    rw [hexec, execWrite, hwrite hwr hno, State.ranged_within h hin fun _ => ⟨hpos, by omega⟩, State.takeData_capsule h _ hsize hroom]
    simp only [State.runWrite, hns, hmiss]
end

section
/-!
SUPPORT. The control state without a partner: namespaces and images.
-/
namespace Sys2Proof.Machine

/-- Without a partner a change of the control state completes at once. -/
theorem State.okAfterEpoch_alone {s : State} (hpair : s.paired = false) (h : Hdr) (body : Body) (dw0 dw1 : W32) :
    s.okAfterEpoch h body dw0 dw1 = s.touchControl.okDw h dw0 dw1 := by
  have : s.touchControl.paired = false := hpair
  simp only [State.okAfterEpoch, this]
  rfl

theorem State.rootCtx_onHost {s : State} {h : Hdr} {k : Ctrl} (hk : OnHost s h k) (ha : Arrives s h k.ctx) (hctx : k.ctx = 0) (f : State) :
    s.rootCtx h f = f := by
  rw [State.rootCtx, State.arrive_onHost hk ha, if_pos hctx]

/-- A completion that is posted after work that leaves the host's side alone. -/
theorem State.post_cq_of_host {s t : State} {h : Hdr} (ht : t.host = s.host) (hl : s.live h = true) (hd : h ∉ s.host.miDrop)
    (sct sc : Nat) (a b : W32) : (t.post h sct sc a b).host.cq = s.host.cq ++ [{ hdr := h, sct, sc, dw0 := a, dw1 := b }] := by
  rw [← ht] at hd ⊢
  exact State.post_cq_of_live (by rw [← hl]; simp only [State.live, ht]) hd ..

/-- The first element that an update finds is the updated one. -/
theorem find?_mapWhere {α : Type} {p : α → Bool} {f : α → α} (hf : ∀ x, p x = true → p (f x) = true) {l : List α} {a : α} (h : l.find? p = some a) :
    (mapWhere p f l).find? p = some (f a) := by
  have hp (x : α) : p (if p x = true then f x else x) = p x := by
    split
    next hx => rw [hf x hx, hx]
    next => rfl
  simp only [mapWhere, List.find?_map, Function.comp_def, hp, h, Option.map_some]
  rw [if_pos (List.find?_some h)]

theorem State.ns?_modNs {s : State} {n : Nat} {x : Ns} {f : Ns → Ns} (h : s.ns? n = some x) (hf : ∀ y, (f y).nsid = y.nsid) :
    (s.modNs n f).ns? n = some (f x) :=
  find?_mapWhere (fun y hy => by rw [hf]; exact hy) h

/-- A key that a filter turns away is not listed. -/
theorem assocGet_filter_none {α : Type} {p : Nat → Bool} {k : Nat} (hk : p k = false) (l : List (Nat × α)) :
    assocGet k (l.filter fun x => p x.1) = none := by
  induction l with
  | nil => rfl
  | cons x l ih =>
    obtain ⟨j, v⟩ := x
    rw [List.filter_cons]
    split
    next hj =>
      have hne : ¬k = j := by
        rintro rfl
        rw [hk] at hj
        cases hj
      rw [assocGet, if_neg hne, ih]
    next => exact ih

/-- No block of a wiped namespace has a place in the map. -/
theorem State.wipe_map (s : State) (n : Ns) {l : Nat} (hl : l < n.blocks) : assocGet (blkKey n.nsid l) (s.wipe n).flash.map = none := by
  have hout : (decide (blkKey n.nsid l < blkKey n.nsid 0) || decide (blkKey n.nsid 0 + n.blocks ≤ blkKey n.nsid l)) = false := by
    rw [Bool.or_eq_false_iff, decide_eq_false_iff_not, decide_eq_false_iff_not]
    unfold blkKey
    omega
  exact assocGet_filter_none (p := fun k => decide (k < blkKey n.nsid 0) || decide (blkKey n.nsid 0 + n.blocks ≤ k)) hout s.flash.map

theorem State.wipe_ns? {s : State} {n : Nat} {x y : Ns} (h : s.ns? n = some x) (hn : y.nsid = n) :
    (s.wipe y).ns? n = some { x with zones := [] } := by
  subst hn
  have h' : (State.dealloc { s with indexes := s.indexes.filter fun x => x.nsid != y.nsid } y.nsid 0 y.blocks).ns? y.nsid = some x := h
  exact State.ns?_modNs h' fun _ => rfl

theorem State.rekey_ns? {s : State} {n : Nat} {x y : Ns} (h : s.ns? n = some x) (hn : y.nsid = n) :
    (s.rekey y).ns? n = some { x with zones := [], mediaKey := s.host.nextKey } := by
  have hwipe := State.wipe_ns? h hn
  subst hn
  exact State.ns?_modNs (s := { s.wipe y with free := (s.wipe y).free + 1, host := { (s.wipe y).host with nextKey := (s.wipe y).host.nextKey + 1 } })
    hwipe fun _ => rfl

/-- Bytes put one after the other from an address on. -/
theorem assocGet_load (data : List Byte) (off i : Nat) (m : List (Nat × Byte)) (k : Nat) :
    assocGet k ((data.zipIdx i).foldl (fun m b => assocPut (off + b.2) b.1 m) m)
      = if off + i ≤ k ∧ k < off + i + data.length then data[k - (off + i)]? else assocGet k m := by
  induction data generalizing i m with
  | nil =>
    have : ¬(off + i ≤ k ∧ k < off + i) := by omega
    simp [this]
  | cons b t ih =>
    rw [List.zipIdx_cons, List.foldl_cons, ih, assocGet_put, List.length_cons]
    rcases Nat.lt_trichotomy k (off + i) with hlt | rfl | hgt
    · have h1 : ¬off + (i + 1) ≤ k := by omega
      have h2 : ¬off + i ≤ k := by omega
      have h3 : ¬k = off + i := by omega
      simp [h1, h2, h3]
    · simp
    · have h1 : off + (i + 1) ≤ k := hgt
      have h2 : off + i ≤ k := by omega
      have h3 : ¬k = off + i := by omega
      have h4 : k - (off + i) = k - (off + (i + 1)) + 1 := by omega
      have h5 : k < off + (i + 1) + t.length ↔ k < off + i + (t.length + 1) := by omega
      simp [h1, h2, h3, h4, h5]

theorem assocGet_loaded (data : List Byte) (off : Nat) (m : List (Nat × Byte)) {j : Nat} (hj : j < data.length) :
    assocGet (off + j) (data.zipIdx.foldl (fun m b => assocPut (off + b.2) b.1 m) m) = some data[j] := by
  rw [assocGet_load, if_pos ⟨Nat.le_add_right .., by omega⟩]
  simp [hj]

/-! ## Images -/

/-- A further image. -/
def State.withImage (s : State) (i : Image) : State := { s with sched := { s.sched with images := s.sched.images ++ [i] } }

/-- The image with i's identifier replaced. -/
def State.putImage (s : State) (i : Image) : State :=
  { s with sched := { s.sched with images := mapWhere (fun x => x.prog == i.prog) (fun _ => i) s.sched.images } }

theorem State.withImage_image? {s : State} (i : Image) (h : s.image? i.prog = none) : (s.withImage i).image? i.prog = some i := by
  simp only [State.image?, State.withImage, List.find?_append] at h ⊢
  simp [h]

theorem State.putImage_image? {s : State} {i j : Image} {p : Nat} (h : s.image? p = some i) (hj : j.prog = p) :
    (s.putImage j).image? p = some j := by
  subst hj
  exact find?_mapWhere (p := fun x : Image => x.prog == j.prog) (f := fun _ => j) (fun _ _ => beq_self_eq_true _) h

/-- What an image is once a piece of it has arrived. -/
def Image.withPiece (i : Image) (off : Nat) (data : List Byte) : Image :=
  { i with bytes := data.zipIdx.foldl (fun m b => assocPut (off + b.2) b.1 m) i.bytes, received := i.received + data.length }

/-- A piece that is not the last is kept. -/
theorem State.runLoad_piece {s : State} {prog off total : Nat} {data : List Byte} {i : Image} {h : Hdr} (hi : s.image? prog = some i)
    (hpair : s.paired = false) (hmore : off + data.length ≠ total) :
    s.runLoad h prog off total data = (s.putImage (i.withPiece off data)).touchControl.okDw h 0 0 := by
  have hprog : i.prog = prog := by simpa using List.find?_some hi
  subst hprog
  have hpair' : (s.putImage (i.withPiece off data)).paired = false := hpair
  simp only [State.runLoad, hi, if_neg hmore]
  rw [← State.okAfterEpoch_alone hpair' h .other 0 0]
  rfl

/-- What an image is once the verifier has passed it. -/
def Image.passed (i : Image) (grade : Grade) : Image :=
  { i with verified := true, times := i.stepTimes grade, estimate := ((i.stepTimes grade).map (·.2)).foldl max 0, sum := i.wholeRun grade }

/-- The last piece has the image verified or refused. -/
theorem State.runLoad_last {s : State} {prog off total : Nat} {data : List Byte} {i : Image} {h : Hdr} (hi : s.image? prog = some i)
    (hpair : s.paired = false) (hlast : off + data.length = total) :
    (∃ code at_, s.runLoad h prog off total data = ((s.putImage (i.withPiece off data)).dropImage prog).laesk h 0x87 code at_)
    ∨ ∃ j : Image, j.prog = prog ∧ j.verified = true ∧ j.owner = i.owner
      ∧ s.runLoad h prog off total data = ((s.putImage (i.withPiece off data)).putImage j).touchControl.okDw h 0 0 := by
  have hprog : i.prog = prog := by simpa using List.find?_some hi
  subst hprog
  simp only [State.runLoad, hi, if_pos hlast]
  split
  · exact .inl ⟨_, _, rfl⟩
  · have hpair' : ((s.putImage (i.withPiece off data)).putImage ((i.withPiece off data).passed s.ident.grade)).paired = false := hpair
    refine .inr ⟨(i.withPiece off data).passed s.ident.grade, rfl, rfl, rfl, ?_⟩
    rw [← State.okAfterEpoch_alone hpair' h .other 0 0]
    rfl

theorem State.dropImage_image? (s : State) (p : Nat) : (s.dropImage p).image? p = none := by
  simp only [State.image?, State.dropImage, List.find?_eq_none]
  intro x hx
  simpa using (List.mem_filter.mp hx).2

end Sys2Proof.Machine
end

section
/-!
CERTIFICATE of O34 and O35: namespaces and images.
-/
open Sys2Proof Sys2Proof.Machine

/-- Settles O34: a module without a partner completes at once what changes its namespaces. -/
theorem namespaceCommands : Obligations.NamespaceCommands := by
  unfold Obligations.NamespaceCommands
  intro s h k hk ha hpair
  refine ⟨fun group blocks id hctx hg hg' hb hid hroom => ?_, fun n hctx hn hone => ?_, fun n cntlid hctx hns hcntl hnew => ?_,
    fun n ses hnamed hns hses hwr hno => ?_, fun hwr => ?_⟩
  · have hexec : exec (.namespaceManagement h true 0 group blocks false none) s
      = execNamespaceManagement h true 0 group blocks false none s := rfl
    have hgood : ¬(group = 0 ∨ 64 < group ∨ blocks = 0 ∨ (false = true ∧ blocks % Config.zoneBlocks ≠ 0)) := by
      rintro (h | h | h | ⟨h, -⟩)
      · omega
      · omega
      · omega
      · cases h
    have hroom' : ¬Config.userBlocks < s.nsBlocks + 262144 * s.tiers.spillGib + blocks := Nat.not_lt.mpr hroom
    have hpair' : (s.createNs id group blocks false none).paired = false := by
      rw [← hpair]
      unfold State.createNs State.modGroup
      dsimp only
      split <;> rfl
    constructor
    · rw [hexec, execNamespaceManagement, State.rootCtx_onHost hk ha hctx, if_pos rfl, if_neg hgood]
      simp only [hid, if_neg hroom', State.okAfterEpoch_alone hpair']
    · unfold State.createNs State.modGroup
      dsimp only
      split <;> rfl
  · have hexec : exec (.namespaceManagement h false n.nsid 0 0 false none) s = execNamespaceManagement h false n.nsid 0 0 false none s := rfl
    have hnamed : s.nsNamed n.nsid = [n] := (if_neg hn).trans hone
    have hpair' : (s.deleteNs n).paired = false := hpair
    refine ⟨(s.deleteNs n).okAfterEpoch h .other 0 0, ?_, ?_⟩
    · rw [hexec, execNamespaceManagement, State.rootCtx_onHost hk ha hctx, hnamed]
      rfl
    · rw [State.okAfterEpoch_alone hpair']
      intro x hx
      simpa using (List.mem_filter.mp hx).2
  · have hexec : exec (.namespaceAttachment h n.nsid cntlid true) s = execNamespaceAttachment h n.nsid cntlid true s := rfl
    have hctrl : (s.ctrl? cntlid).isNone = false := by
      rw [Option.isNone_eq_false_iff]
      exact hcntl
    have hfree : n.attached.contains cntlid = false := by simpa using hnew
    simp only [Gives, hexec, execNamespaceAttachment, State.rootCtx_onHost hk ha hctx, hns, hctrl, hfree]
    refine ⟨_, rfl, { n with attached := n.attached ++ [cntlid] }, ?_, rfl⟩
    rw [State.okAfterEpoch_alone (by exact hpair)]
    exact State.ns?_modNs (f := fun x => { x with attached := x.attached ++ [cntlid] }) hns fun _ => rfl
  · have hexec : exec (.formatNvm h n.nsid ses) s = execFormatNvm h n.nsid ses s := rfl
    simp only [Gives, hexec, execFormatNvm, State.command_onHost hk ha, hnamed, if_neg (Nat.not_lt.mpr hses), List.all_cons, List.all_nil, hwr,
      List.any_cons, List.any_nil, hno]
    refine ⟨_, rfl, ?_⟩
    have hdone (t : State) (ht : t.paired = false) : (t.okAfterEpoch h .other 0 0).ns? n.nsid = t.ns? n.nsid
        ∧ (t.okAfterEpoch h .other 0 0).flash = t.flash := by
      rw [State.okAfterEpoch_alone ht]
      exact ⟨rfl, rfl⟩
    by_cases h2 : ses = 2
    · obtain ⟨hfind, hflash⟩ := hdone (s.rekey n) hpair
      simp only [List.foldl_cons, List.foldl_nil, h2, if_true, Bool.and_self, Bool.or_self, Bool.not_true, Bool.false_eq_true, if_false]
      refine ⟨_, hfind.trans (State.rekey_ns? hns rfl), rfl, rfl, rfl, fun l hl => ?_⟩
      rw [hflash]
      exact s.wipe_map n hl
    · obtain ⟨hfind, hflash⟩ := hdone (s.wipe n) hpair
      simp only [List.foldl_cons, List.foldl_nil, h2, if_false, Bool.and_self, Bool.or_self, Bool.not_true, Bool.false_eq_true]
      refine ⟨_, hfind.trans (State.wipe_ns? hns rfl), rfl, rfl, rfl, fun l hl => ?_⟩
      rw [hflash]
      exact s.wipe_map n hl
  · have hexec : exec (.sanitize h 4) s = execSanitize h 4 s := rfl
    have hall : (s.host.nss.all fun n => s.nsWr k.ctx n.nsid) = true := List.all_eq_true.mpr hwr
    have hpair' : (s.host.nss.foldl State.rekey s).paired = false := (foldl_keeps State.paired (f := State.rekey) (fun _ _ => rfl) _ _).trans hpair
    rw [hexec, execSanitize, State.command_onHost hk ha, hall, State.okAfterEpoch_alone hpair']
    rfl

/-- Settles O35: a piece extends its image, and the last one is followed by the verifier's answer. -/
theorem programImages : Obligations.ProgramImages := by
  unfold Obligations.ProgramImages
  refine ⟨fun s h k prog off total data hk ha hready hpair hl hd hnone hdata hsize hin htotal hmax hroom => ?_,
    fun s h k i hk ha hready hpair hi hown => ⟨fun sel hsel => ?_, fun hidle => ?_, fun ⟨e, he, hprog⟩ => ?_⟩⟩
  · have hexec : exec (.loadProgram h prog off total data) s = execLoadProgram h prog off total data s := rfl
    have hrun : exec (.loadProgram h prog off total data) s = .next ((s.withImage { prog, owner := k.ctx, total }).runLoad h prog off total data) := by
      have hgood : ¬(Config.mdts < data.length ∨ data = [] ∨ total < off + data.length) := by
        have : Config.mdts = 8388608 := rfl
        rintro (h | h | h)
        · omega
        · exact hdata h
        · omega
      have hfits : ¬16777216 < off + data.length := by omega
      have hmany : ¬((none : Option Image).isNone = true ∧ 1024 ≤ s.sched.images.length) := fun h => absurd h.2 (Nat.not_le.mpr hmax)
      have hcap : ¬Config.inCapsule < data.length := Nat.not_lt.mpr hsize
      simp only [hexec, execLoadProgram, State.command_onHost hk ha, hready, hnone, if_neg hgood, if_neg hfits, if_neg hmany,
        if_neg (Nat.not_lt.mpr hroom), if_neg hcap]
      rfl
    have hfind := State.withImage_image? { prog, owner := k.ctx, total } hnone
    have hkeep (t : State) (sct sc : Nat) (a b : W32) : (t.post h sct sc a b).image? prog = t.image? prog := rfl
    refine ⟨fun hmore => ⟨_, hrun, ?_⟩, fun hlast => ⟨_, hrun, ?_⟩⟩
    · let i : Image := { prog, owner := k.ctx, total }
      let t := ((s.withImage i).putImage (i.withPiece off data)).touchControl
      have hone : t.image? prog = some (i.withPiece off data) := State.putImage_image? hfind rfl
      have hcq := State.post_cq_of_host (s := s) (t := t) rfl hl hd 0 0 0 0
      rw [State.runLoad_piece hfind hpair (Nat.ne_of_lt hmore)]
      exact ⟨⟨_, (hkeep t ..).trans hone, rfl, rfl, Nat.zero_add _, rfl, fun j hj => assocGet_loaded data off [] hj⟩, hcq, rfl⟩
    · rcases State.runLoad_last (h := h) hfind hpair hlast with ⟨code, at_, hrefused⟩ | ⟨j, hj, hverified, howner, hpassed⟩
      · rw [hrefused]
        exact .inr ⟨State.dropImage_image? .., _, _, State.post_cq_of_host rfl hl hd ..⟩
      · let i : Image := { prog, owner := k.ctx, total }
        let t := (((s.withImage i).putImage (i.withPiece off data)).putImage j).touchControl
        have hone : t.image? prog = some j := State.putImage_image? (State.putImage_image? hfind rfl) hj
        have hcq := State.post_cq_of_host (s := s) (t := t) rfl hl hd 0 0 0 0
        rw [hpassed]
        exact .inl ⟨j, (hkeep t ..).trans hone, hverified, howner, hcq⟩
  · have hexec : exec (.programActivationManagement h i.prog sel) s = execProgramActivationManagement h i.prog sel s := rfl
    have hright : ¬(k.ctx ≠ 0 ∧ i.owner ≠ k.ctx) := fun ⟨h1, h2⟩ => hown.elim h1 h2
    have hsel2 : ¬sel = 2 := by omega
    have hsel3 : ¬2 < sel := by omega
    simp only [Gives, hexec, execProgramActivationManagement, State.command_onHost hk ha, hready, hi, if_neg hright, hsel2, hsel3]
    refine ⟨_, rfl, ?_⟩
    simp only [Bool.not_true, Bool.false_eq_true, if_false]
    rw [State.okAfterEpoch_alone (by exact hpair)]
    exact ⟨find?_mapWhere (p := fun x : Image => x.prog == i.prog) (f := fun x => { x with active := decide (sel = 1) }) (fun _ h => h) hi, rfl⟩
  · have hexec : exec (.programActivationManagement h i.prog 2) s = execProgramActivationManagement h i.prog 2 s := rfl
    have hright : ¬(k.ctx ≠ 0 ∧ i.owner ≠ k.ctx) := fun ⟨h1, h2⟩ => hown.elim h1 h2
    have hunused : (s.sched.execs.any fun e => decide (e.image = i.prog)) = false := by simpa using hidle
    have hpair' : (s.dropImage i.prog).paired = false := hpair
    rw [hexec, execProgramActivationManagement, State.command_onHost hk ha]
    simp only [hready, hi, if_neg hright, hunused, State.okAfterEpoch_alone hpair']
    rfl
  · have hexec : exec (.programActivationManagement h i.prog 2) s = execProgramActivationManagement h i.prog 2 s := rfl
    have hright : ¬(k.ctx ≠ 0 ∧ i.owner ≠ k.ctx) := fun ⟨h1, h2⟩ => hown.elim h1 h2
    have hused : (s.sched.execs.any fun e => decide (e.image = i.prog)) = true := List.any_eq_true.mpr ⟨e, he, by simpa using hprog⟩
    rw [hexec, execProgramActivationManagement, State.command_onHost hk ha]
    simp only [hready, hi, if_neg hright, hused]
    rfl
end

section
/-!
SUPPORT. A context's memory under updates that leave every allocation where it is.
-/
namespace Sys2Proof.Machine

/-- Every allocation changed alike. -/
def State.respan (s : State) (g : Alloc → Alloc) : State := { s with tiers := { s.tiers with allocs := s.tiers.allocs.map g } }

/-- An update leaves an allocation's place, length and context. -/
def InPlace (g : Alloc → Alloc) : Prop := ∀ a, (g a).id = a.id ∧ (g a).ctx = a.ctx ∧ (g a).pages = a.pages

theorem InPlace.id : InPlace id := fun _ => ⟨rfl, rfl, rfl⟩

/-- The allocation that a page of memory lies in, after an update of it. -/
def PageAt.map (g : Alloc → Alloc) : PageAt → PageAt
  | .mem a i rd wr => .mem (g a) i rd wr
  | x => x

/-- A page lies where it lay, in the updated allocation. -/
theorem State.pageAt_respan {s : State} {g : Alloc → Alloc} (hg : InPlace g) (c : Fin 64) (p : Nat) :
    (s.respan g).pageAt c p = (s.pageAt c p).map g := by
  have hat : (s.respan g).allocAt p = (s.allocAt p).map g := by
    have hp (a : Alloc) : (decide ((g a).id ≤ p) && decide (p < (g a).id + (g a).pages)) = (decide (a.id ≤ p) && decide (p < a.id + a.pages)) := by
      obtain ⟨hid, -, hpages⟩ := hg a
      rw [hid, hpages]
    simp only [State.allocAt, State.respan, List.find?_map, Function.comp_def, hp]
  have hgrant (a : Alloc) : (s.respan g).grantOf c (g a) = s.grantOf c a := by
    obtain ⟨hid, hctx, -⟩ := hg a
    simp only [State.grantOf, hid, hctx]
    rfl
  have hmaps : (s.respan g).tiers.nsMaps = s.tiers.nsMaps := rfl
  unfold State.pageAt
  rw [hmaps, hat]
  cases s.tiers.nsMaps.find? fun m => decide (m.1 = c) && decide (m.2.1 ≤ p) && decide (p < m.2.1 + m.2.2.2.2) with
  | some m => rfl
  | none =>
    cases s.allocAt p with
    | none => rfl
    | some a =>
      obtain ⟨hid, hctx, -⟩ := hg a
      simp only [Option.map_some, hgrant, hid, hctx]
      (repeat' split) <;> rfl

/-- An update of one allocation by its identifier. -/
theorem State.modAlloc_eq_respan (s : State) (id : Nat) (f : Alloc → Alloc) :
    s.modAlloc id f = s.respan fun a => if (a.id == id) = true then f a else a := rfl

theorem inPlace_ite {f : Alloc → Alloc} (hf : InPlace f) (id : Nat) : InPlace fun a => if (a.id == id) = true then f a else a := by
  intro a
  dsimp only
  split
  · exact hf a
  · exact ⟨rfl, rfl, rfl⟩

/-- The key of a byte does not depend on what is known of its page. -/
theorem byteKey_inPlace {g : Alloc → Alloc} (hg : InPlace g) (a : Alloc) (i off : Nat) : byteKey (g a) i off = byteKey a i off := by
  obtain ⟨hid, hctx, -⟩ := hg a
  simp only [byteKey, pageKey, hid, hctx]

/-- A zero frame leaves its allocation in place. -/
theorem State.mapZero_respan (s : State) (a : Alloc) (i : Nat) (t : Tier) : ∃ g, InPlace g ∧ s.mapZero a i t = s.respan g := by
  refine ⟨_, inPlace_ite (fun b => ?_) a.id, s.modAlloc_eq_respan a.id _⟩
  refine List.foldlRecOn (motive := fun x : Alloc => x.id = b.id ∧ x.ctx = b.ctx ∧ x.pages = b.pages) _ _ ⟨rfl, rfl, rfl⟩ ?_
  exact fun x hx j _ => hx

theorem State.touch_respan (s : State) (a i : Nat) : ∃ g, InPlace g ∧ s.touch a i = s.respan g :=
  ⟨_, inPlace_ite (f := fun a => a.setPage i { a.page i with lastUse := s.now }) (fun _ => ⟨rfl, rfl, rfl⟩) a, s.modAlloc_eq_respan a _⟩

theorem pagesIn_one (va : Nat) : pagesIn va 1 = [va / 65536] := by
  simp [pagesIn, upto]

theorem State.ctxTouch_one {s : State} {c : Fin 64} {va : Nat} {a : Alloc} {i : Nat} {rd wr : Bool}
    (h : s.pageAt c (va / 65536) = .mem a i rd wr) : s.ctxTouch c va 1 = s.touch a.id i := by
  simp only [State.ctxTouch, pagesIn_one, List.foldl_cons, List.foldl_nil, h]

/-- A byte written to a context's memory: the allocations stay in place, and one byte of memory is put. -/
theorem State.ctxWrite_byte {s : State} {c : Fin 64} {va : Nat} {b : Byte} {a : Alloc} {i : Nat} {rd wr : Bool}
    (h : s.pageAt c (va / 65536) = .mem a i rd wr) :
    ∃ g poison, InPlace g ∧ s.ctxWrite c va [b]
      = State.respan { s with tiers := { s.tiers with mem := memPut s.tiers.mem (byteKey a i (va % 65536)) b, poison } } g := by
  have hzero : ∃ g, InPlace g ∧ (if (a.page i).zod then s.mapZero a i (a.page i).tier else s) = s.respan g := by
    split
    · exact s.mapZero_respan ..
    · exact ⟨id, InPlace.id, by simp [State.respan]⟩
  obtain ⟨g, hg, hzero⟩ := hzero
  have hpage : (s.respan g).pageAt c (va / 65536) = .mem (g a) i rd wr := by rw [State.pageAt_respan hg, h]; rfl
  let u (poison : List Nat) : State := { s.respan g with tiers := { (s.respan g).tiers with
    mem := memPut s.tiers.mem (byteKey a i (va % 65536)) b, poison } }
  have hwrite : ∃ poison, s.ctxWrite c va [b] = (u poison).ctxTouch c va 1 := by
    unfold State.ctxWrite
    simp only [List.length_singleton, pagesIn_one, List.foldl_cons, List.foldl_nil, h, hzero, List.zipIdx_cons, List.zipIdx_nil,
      List.filterMap_cons, List.filterMap_nil, Nat.add_zero, hpage, Option.map_some, byteKey_inPlace hg]
    exact ⟨_, rfl⟩
  obtain ⟨poison, hwrite⟩ := hwrite
  obtain ⟨g', hg', htouch⟩ := (u poison).touch_respan (g a).id i
  have hone : (u poison).ctxTouch c va 1 = (u poison).touch (g a).id i := State.ctxTouch_one (s := u poison) hpage
  refine ⟨g' ∘ g, poison, fun x => ?_, ?_⟩
  · obtain ⟨h1, h2, h3⟩ := hg x
    obtain ⟨h1', h2', h3'⟩ := hg' (g x)
    exact ⟨h1'.trans h1, h2'.trans h2, h3'.trans h3⟩
  · rw [hwrite, hone, htouch]
    simp [u, State.respan]

/-- A write of a context's memory does not reach the pair. -/
theorem State.ctxWrite_twin (s : State) (c : Fin 64) (va : Nat) (bs : List Byte) : (s.ctxWrite c va bs).twin = s.twin := by
  unfold State.ctxWrite State.ctxTouch
  refine (foldl_keeps State.twin (fun t p => ?_) _ _).trans (foldl_keeps State.twin (fun t p => ?_) _ _)
  · split <;> rfl
  · split
    · split <;> rfl
    · rfl

end Sys2Proof.Machine
end

section
/-!
CERTIFICATE of O38 to O40: local memory, object commands and allocations.
-/
open Sys2Proof Sys2Proof.Machine

/-- Every page of a range that a read succeeds on may be read, and the read gives its bytes. -/
theorem ctxRead_ok {s : State} {c : Fin 64} {va n : Nat} {bs : List Byte} (h : s.ctxRead c va n = .ok bs) :
    (∀ p ∈ pagesIn va n, ∃ w, s.slmPage c p = some (true, w)) ∧ bs = (List.range n).map fun j => s.ctxByte c (va + j) := by
  unfold State.ctxRead at h
  split at h
  · cases h
  next hnone =>
    refine ⟨fun p hp => ?_, (Except.ok.inj h).symm⟩
    have := List.find?_eq_none.mp hnone p hp
    split at this
    next w hw => exact ⟨w, hw⟩
    next => exact absurd rfl this

section
variable {s : State} {h : Hdr} {c : Fin 64} {va : Nat} {data : List Byte}
  (hpages : ∀ p ∈ pagesIn va data.length, ∃ r, s.slmPage c p = some (r, true))
include hpages

theorem pages_mapped : ¬((pagesIn va data.length).any fun p => (s.slmPage c p).isNone) = true := by
  intro hany
  obtain ⟨p, hp, hbad⟩ := List.any_eq_true.mp hany
  obtain ⟨r, hr⟩ := hpages p hp
  simp [hr] at hbad

/-- A Memory Write to pages that may be written and have their frames, on a module without a partner. -/
theorem runMemWrite_alone (hfault : s.ctxFault c va data.length true = none) (hpair : s.paired = false) :
    s.runMemWrite h c va data = (s.ctxWrite c va data).ok h := by
  have hpair' : (s.ctxWrite c va data).paired = false := by
    rw [State.paired, State.ctxWrite_twin]
    exact hpair
  unfold State.runMemWrite
  rw [if_neg (pages_mapped hpages), if_neg, hfault]
  · simp only [hpair']
    rfl
  · intro hany
    obtain ⟨p, hp, hbad⟩ := List.any_eq_true.mp hany
    obtain ⟨r, hr⟩ := hpages p hp
    simp [hr] at hbad

/-- A Memory Write that meets a page without a frame leaves a fault record. -/
theorem runMemWrite_fault {p : Nat} (hfault : s.ctxFault c va data.length true = some p) :
    s.runMemWrite h c va data = s.hostFault h c p true (.memWrite c va data) := by
  unfold State.runMemWrite
  rw [if_neg (pages_mapped hpages), if_neg, hfault]
  intro hany
  obtain ⟨p, hp, hbad⟩ := List.any_eq_true.mp hany
  obtain ⟨r, hr⟩ := hpages p hp
  simp [hr] at hbad

end

/-- A Memory Write to pages that may be written, with its data in the capsule, is run. -/
theorem exec_memoryWrite {s : State} {h : Hdr} {k : Ctrl} {addr : W64} {data : List Byte} (hk : OnHost s h k) (ha : Arrives s h k.ctx)
    (hready : s.nsReady = true) (hdata : data ≠ []) (hsize : data.length ≤ 8192)
    (hpages : ∀ p ∈ pagesIn addr.toNat data.length, ∃ r, s.slmPage k.ctx p = some (r, true)) :
    exec (.memoryWrite h addr data) s = .next (s.runMemWrite h k.ctx addr.toNat data) := by
  have hexec : exec (.memoryWrite h addr data) s = execMemoryWrite h addr data s := rfl
  have hgood : ¬(data = [] ∨ Config.mdts < data.length) := by
    have : Config.mdts = 8388608 := rfl
    rintro (h | h)
    · exact hdata h
    · omega
  have hcap : ¬Config.inCapsule < data.length := Nat.not_lt.mpr hsize
  rw [hexec, execMemoryWrite, State.command_onHost hk ha, hready]
  dsimp only
  rw [if_neg (by simp), if_neg hgood, if_neg (pages_mapped hpages), if_neg, if_neg hcap]
  intro hany
  obtain ⟨p, hp, hbad⟩ := List.any_eq_true.mp hany
  obtain ⟨r, hr⟩ := hpages p hp
  simp [hr] at hbad

/-- Settles O38: a context's bytes are written and read through the places of its pages. -/
theorem localMemory : Obligations.LocalMemory := by
  unfold Obligations.LocalMemory
  refine ⟨fun s h k hk ha hready hpair => ⟨fun addr len bs hpos hmax hread hfault hpoison => ?_, fun addr data hdata hsize hpages hfault => ?_,
    fun addr data p hdata hsize hpages hfault => ?_, fun create => ?_⟩, fun s c va b a rd wr hwf hpage hin => ?_⟩
  · have hexec : exec (.memoryRead h addr len) s = execMemoryRead h addr len s := rfl
    obtain ⟨hpages, hbs⟩ := ctxRead_ok hread
    have hgood : ¬(len = 0 ∨ Config.mdts < len) := by
      have : Config.mdts = 8388608 := rfl
      omega
    have hmapped : ((pagesIn addr.toNat len).any fun p => (s.slmPage k.ctx p).isNone) = false := by
      rw [List.any_eq_false]
      intro p hp
      obtain ⟨w, hw⟩ := hpages p hp
      simp [hw]
    refine ⟨?_, hbs⟩
    simp only [hexec, execMemoryRead, State.command_onHost hk ha, hready, if_neg hgood, State.runMemRead, hmapped, hread, hfault, hpoison]
    rfl
  · rw [exec_memoryWrite hk ha hready hdata hsize hpages, runMemWrite_alone hpages hfault hpair]
  · refine ⟨_, exec_memoryWrite hk ha hready hdata hsize hpages, ?_⟩
    rw [runMemWrite_fault hpages hfault]
    exact ⟨⟨_, rfl, rfl, rfl, rfl, rfl, rfl⟩, ⟨_, List.mem_append_right _ (List.mem_singleton_self _), rfl, rfl⟩, rfl, rfl⟩
  · have hexec : exec (.memoryRangeSetManagement h create) s = execMemoryRangeSetManagement h create s := rfl
    rw [hexec, execMemoryRangeSetManagement, State.command_onHost hk ha, hready]
    rfl
  · obtain ⟨g, poison, hg, hwrite⟩ := State.ctxWrite_byte (b := b) hpage
    have hmem : (s.ctxWrite c va [b]).tiers.mem = memPut s.tiers.mem (byteKey a (va / 65536 - a.id) (va % 65536)) b := by rw [hwrite]; rfl
    have hplace : (s.ctxWrite c va [b]).pageAt c (va / 65536) = .mem (g a) (va / 65536 - a.id) rd wr := by
      rw [hwrite, State.pageAt_respan hg]
      exact congrArg (PageAt.map g) hpage
    refine ⟨?_, fun key hkey => ?_, ?_⟩
    · simp only [State.ctxByte, hplace, hmem, byteKey_inPlace hg, memGet_put _ _ _ _ hwf, if_true]
    · rw [hmem, memGet_put _ _ _ _ hwf, if_neg hkey]
    · rw [hmem]
      exact Memory.wf_put _ _ _ hwf

/-- One bit of a word, as a field and as a bit. -/
theorem bitsOf_one_iff {w : Nat} (x : BitVec w) (k : Nat) : bitsOf x.toNat k k = 1 ↔ x.getLsbD k = true := by
  rw [bitsOf, BitVec.getLsbD, Nat.testBit_eq_decide_div_mod_eq, decide_eq_true_iff]
  simp

/-- Settles O39: an admitted object is appended to its execution's queue and run. -/
theorem ingestObject : Obligations.IngestObject := by
  unfold Obligations.IngestObject
  intro s h k n e obj lba deadline cdw12 cdw13 data hk ha hready hns hwr hana hno hobj hkind hslm hcount hdata hsize hin hfind
  dsimp only
  intro hadmit
  have hexec : exec (.ingestObject h n.nsid obj lba cdw12 cdw13 deadline data) s
    = execIngestObject h n.nsid obj lba cdw12 cdw13 deadline data s := rfl
  have hslm' : ¬bitsOf cdw12.toNat 27 27 = 1 := by
    rw [bitsOf_one_iff, hslm]
    exact Bool.false_ne_true
  have hdefer : decide (bitsOf cdw12.toNat 26 26 = 1) = cdw12.getLsbD 26 := by
    rw [Bool.eq_iff_iff, decide_eq_true_iff, bitsOf_one_iff]
  have hgood : ¬(obj = BitVec.allOnes 64 ∨ bitsOf cdw12.toNat 25 24 = 3 ∨ data.length = 0 ∨ Config.mdts < data.length
      ∨ data.length ≠ data.length ∨ (false = true ∧ data.length ≠ 16)) := by
    have hmdts : Config.mdts = 8388608 := rfl
    rintro (h | h | h | h | h | ⟨h, -⟩)
    · exact hobj h
    · exact hkind h
    · exact hdata (List.length_eq_zero_iff.mp h)
    · omega
    · exact h rfl
    · cases h
  have hroom : ¬n.blocks < lba.toNat + (data.length + 4095) / 4096 := by omega
  have hcap : ¬Config.inCapsule < data.length := Nat.not_lt.mpr hsize
  have hcounted := State.ioWrite_onHost (s := s.countFailed k.ctx) hk ha hready hns hana hwr hno
  rw [hexec, execIngestObject, State.arrive_onHost hk ha, hcounted]
  simp only [hcount, hslm', decide_false, if_neg hgood, hfind, hdefer, hadmit, if_neg hcap]
  simp only [Bool.not_false, true_and, if_neg hroom]

/-- A tier request on pages that the context reaches goes on. -/
theorem tierReq_takes {s : State} {h : Hdr} {c : Fin 64} {a : Alloc} {first pages : Nat} (ha : Arrives s h c) (hfind : s.alloc? a.id = some a)
    (hctx : a.ctx = c ∨ s.grantOf c a ≠ (false, false)) (hfree : a.freed = false) (hfirst : first < a.pages) (hpages : first + pages ≤ a.pages)
    (f : Fin 64 → Alloc → State) : s.tierReq h a.id first pages f = f c a := by
  have hgood : ¬((a.ctx ≠ c ∧ s.grantOf c a = (false, false)) ∨ a.freed = true ∨ a.pages ≤ first ∨ a.pages < first + pages) := by
    rintro (⟨h1, h2⟩ | h | h | h)
    · exact hctx.elim h1 fun h => h h2
    · rw [hfree] at h
      cases h
    · omega
    · omega
  rw [State.tierReq, State.commandAny_arrives ha]
  simp only [hfind, if_neg hgood]

/-- Settles O40: a module without a partner completes at once what changes its allocations. -/
theorem allocations : Obligations.Allocations := by
  unfold Obligations.Allocations
  intro s h c ha hpair
  have hany := State.commandAny_arrives ha
  refine ⟨fun pages zod hpos hroom => ?_, fun size flags hsize => ?_, fun a hfind hctx hfree => ?_,
    fun a first pages code x hfind hctx hfree hfirst hpages hcode => ?_, fun a first pages code x hfind hctx hfree hfirst hpages hcode hx => ?_⟩
  · have hexec : exec (.allocate h (pages * 65536) (if zod then 9 else 1)) s = execAllocate h (pages * 65536) (if zod then 9 else 1) s := rfl
    have hsize : ¬(pages * 65536 = 0 ∨ pages * 65536 % 65536 ≠ 0) := by omega
    have hpages : pages * 65536 / 65536 = pages := Nat.mul_div_cancel pages (by decide)
    have hflags (z : Bool) : homeTier (bitsOf (if z then (9 : W32) else 1).toNat 1 0) = .t2
        ∧ decide (bitsOf (if z then (9 : W32) else 1).toNat 3 3 = 1) = z ∧ hintOf (bitsOf (if z then (9 : W32) else 1).toNat 8 6) = some .clear
        ∧ decide (bitsOf (if z then (9 : W32) else 1).toNat 2 2 = 1) = false ∧ decide (bitsOf (if z then (9 : W32) else 1).toNat 4 4 = 1) = false
        ∧ decide (bitsOf (if z then (9 : W32) else 1).toNat 5 5 = 1) = false := by
      cases z <;> decide
    obtain ⟨hhome, hzod, hhint, hpin, hlarge, hhuge⟩ := hflags zod
    have hmade : (s.newAlloc c pages .t2 false zod false false).1.paired = false := hpair
    have hid : (s.newAlloc c pages .t2 false zod false false).2 = s.tiers.nextAlloc := by simp [State.newAlloc]
    refine ⟨(s.newAlloc c pages .t2 false zod false false).1.touchControl.okDw h (BitVec.ofNat 32 s.tiers.nextAlloc)
      (BitVec.ofNat 32 (s.tiers.nextAlloc / 2 ^ 32)), ?_, ⟨_, rfl, rfl, rfl, rfl, rfl, rfl, hid, rfl⟩, rfl, rfl⟩
    rw [hexec, execAllocate, hany]
    simp only [if_neg hsize, hpages, hhome, hzod, hhint, hpin, hlarge, hhuge, hroom, if_true]
    split <;> rw [State.okAfterEpoch_alone hmade, hid]
  · have hexec : exec (.allocate h size flags) s = execAllocate h size flags s := rfl
    rw [hexec, execAllocate, hany]
    dsimp only
    rw [if_pos (Or.inr hsize)]
    rfl
  · have hexec : exec (.free h a.id) s = execFree h a.id s := rfl
    have hgood : ¬(a.ctx ≠ c ∨ a.freed = true) := by
      rintro (h | h)
      · exact h hctx
      · rw [hfree] at h
        cases h
    have hdone (t : State) : t.evictsDone.paired = t.paired ∧ t.evictsDone.tiers = t.tiers := by
      refine ⟨foldl_keeps State.paired (fun t o => ?_) _ _, foldl_keeps State.tiers (fun t o => ?_) _ _⟩
      all_goals
        dsimp only
        split <;> rfl
    obtain ⟨hpair', htiers⟩ := hdone (s.freeAlloc a)
    refine ⟨((s.freeAlloc a).evictsDone).okAfterEpoch h .other 0 0, ?_, ?_⟩
    · rw [hexec, execFree, hany]
      simp only [hfind, if_neg hgood]
    · rw [State.okAfterEpoch_alone (hpair'.trans hpair)]
      have hkeep : ((s.freeAlloc a).evictsDone.touchControl.okDw h 0 0).tiers = (s.freeAlloc a).tiers := htiers
      have hfreed : (s.freeAlloc a).alloc? a.id = some { a with freed := true } :=
        State.alloc?_modAlloc (f := fun x => { x with freed := true }) hfind fun _ => rfl
      unfold State.alloc? at hfreed ⊢
      dsimp only
      rw [hkeep]
      refine ⟨hfreed, s.freeAlloc_mem a, fun m hm => ?_, fun d hd => ?_⟩
      · rcases List.mem_append.mp hm with hm | hm
        all_goals simpa using (List.mem_filter.mp hm).2
      · simpa using (List.mem_filter.mp hd).2
  · have hexec : exec (.tierHint h a.id first pages code) s = execTierHint h a.id first pages code s := rfl
    have hpair' : (s.setHint a (a.range first pages) x (.host c)).paired = false := by
      unfold State.setHint
      dsimp only
      split
      · obtain ⟨_, _, hwork⟩ := State.promote_tierWork { s with tiers := { s.tiers with
          hints := (a.range first pages).foldl (fun hs i => clearHints hs a.id i 1 (.host c)) s.tiers.hints
            ++ if x = .clear then [] else (a.range first pages).map fun i => { alloc := a.id, first := i, pages := 1, code := x, issuer := .host c } } }
          a (a.range first pages) .t1 none (some .hot)
        rw [hwork]
        exact hpair
      · exact hpair
    rw [hexec, execTierHint, tierReq_takes ha hfind hctx hfree hfirst hpages]
    simp only [hcode, State.okAfterEpoch_alone hpair']
  · have hexec : exec (.tierEvict h a.id first pages code) s = execTierEvict h a.id first pages code s := rfl
    dsimp only
    generalize hr : s.evict a (a.range first pages) x none (some h) none = r
    have hrun : exec (.tierEvict h a.id first pages code) s = .next (if 0 < r.2 then r.1.laesk h 0x8B (BitVec.ofNat 32 r.2) 0
        else if (r.1.tiers.migs ++ r.1.tiers.queue).any (fun m => m.host == some h) then
          r.1.waitFor { hdr := h, body := .evictWait s.tiers.nextMig, wait := .evict }
        else r.1.ok h) := by
      rw [hexec, execTierEvict, tierReq_takes ha hfind hctx hfree hfirst hpages, hcode]
      cases x with
      | t0 => exact absurd rfl hx
      | t1 | t2 | t3 => simp only [hr]
    rw [hrun]
    refine ⟨fun hall hnone => ?_, fun hall hsome => ?_, fun hleft => ?_⟩
    · have hany : ((r.1.tiers.migs ++ r.1.tiers.queue).any fun m => m.host == some h) = false := by
        rw [List.any_eq_false]
        intro m hm
        simpa using hnone m hm
      rw [hall, hany]
      rfl
    · obtain ⟨m, hm, hhost⟩ := hsome
      have hany : ((r.1.tiers.migs ++ r.1.tiers.queue).any fun m => m.host == some h) = true :=
        List.any_eq_true.mpr ⟨m, hm, beq_iff_eq.mpr hhost⟩
      rw [hall, hany]
      rfl
    · rw [if_pos hleft]
end

section
/-!
CERTIFICATE of O41 and O43 to O46: settings, the partition table, firmware images and registers.
-/
open Sys2Proof Sys2Proof.Machine

/-- Settles O41: root passes every check, and a module without a partner completes at once. -/
theorem settingsCommands : Obligations.SettingsCommands := by
  unfold Obligations.SettingsCommands
  intro s h c ha hr hpair
  have hroot := State.rootAny_arrives ha hr
  refine ⟨fun nqn ctx hlen hctx => ⟨?_, ?_⟩, fun ctx => ?_, fun gib hmax hused hroom => ?_, ?_, fun slot key htls hhalves => ?_, fun slot => ?_,
    fun domain transport hd ht => ?_, ?_, ?_, ?_, ?_, fun data hlen => ?_, ?_⟩
  · have hexec : exec (.hostBindingSet h nqn ctx) s = execHostBindingSet h nqn ctx s := rfl
    have hgood : ¬(256 < nqn.length ∨ (ctx = 0 ∧ hostPath h = true)) := by
      rintro (h | ⟨h1, h2⟩)
      · omega
      · rcases hctx with hctx | hctx
        · exact hctx h1
        · rw [h2] at hctx
          cases hctx
    have hpair' : (s.bindNqn nqn ctx).paired = false := hpair
    rw [hexec, execHostBindingSet, hroot, if_neg hgood, State.okAfterEpoch_alone hpair']
  · have hnone : (s.host.bind.filter fun b => !(b.1 == nqn)).find? (fun b => b.1 == nqn) = none := by simp
    simp [State.bindNqn, State.bound, List.find?_append, hnone]
  · have hexec : exec (.hostBindingGet h ctx) s = execHostBindingGet h ctx s := rfl
    rw [hexec, execHostBindingGet, hroot]
  · have hexec : exec (.spillAreaSet h gib) s = execSpillAreaSet h gib s := rfl
    have hfits : ¬(gib * 16384 < s.usedPages .t3 ∨ Config.userBlocks < s.nsBlocks + 262144 * gib) := by
      have : Config.userBlocks = 917 * 2 ^ 28 := rfl
      omega
    rw [hexec, execSpillAreaSet, hroot, if_neg (Nat.not_lt.mpr hmax), if_neg hfits, State.okAfterEpoch_alone (by exact hpair)]
  · have hexec : exec (.spillAreaGet h) s = execSpillAreaGet h s := rfl
    rw [hexec, execSpillAreaGet, hroot]
  · have hexec : exec (.keyInstall h slot key) s = execKeyInstall h slot key s := rfl
    rw [hexec, execKeyInstall, hroot, htls, if_neg (by simp), if_neg hhalves, State.okAfterEpoch_alone (by exact hpair)]
  · have hexec : exec (.keyClear h slot) s = execKeyClear h slot s := rfl
    rw [hexec, execKeyClear, hroot, State.okAfterEpoch_alone (by exact hpair)]
  · have hexec : exec (.timeSet h domain transport) s = execTimeSet h domain transport s := rfl
    have hgood : ¬(127 < domain ∨ 2 < transport) := by omega
    rw [hexec, execTimeSet, hroot, if_neg hgood, State.okAfterEpoch_alone (by exact hpair)]
  · have hexec : exec (.timeGet h) s = execTimeGet h s := rfl
    rw [hexec, execTimeGet, hroot]
  · have hexec : exec (.soloWritePolicySet h true) s = execSoloWritePolicySet h true s := rfl
    rw [hexec, execSoloWritePolicySet, hroot]
    dsimp only
    rw [if_pos rfl, State.okAfterEpoch_alone (by exact hpair)]
  · have hexec : exec (.soloWritePolicySet h false) s = execSoloWritePolicySet h false s := rfl
    let t : State := { s with twin := { s.twin with refuse := false } }
    have hpair' : t.endPolicyWait.paired = false := hpair
    have hrun : exec (.soloWritePolicySet h false) s = .next (t.endPolicyWait.touchControl.okDw h 0 0) := by
      rw [hexec, execSoloWritePolicySet, hroot, ← State.okAfterEpoch_alone hpair' h .other 0 0]
      rfl
    refine ⟨_, hrun, rfl, fun e he => ?_⟩
    obtain ⟨x, -, rfl⟩ := List.mem_map.mp he
    split
    · exact nofun
    · assumption
  · have hexec : exec (.soloWritePolicyGet h) s = execSoloWritePolicyGet h s := rfl
    rw [hexec, execSoloWritePolicyGet, hroot]
  · have hexec : exec (.witnessSet h data) s = execWitnessSet h data s := rfl
    rw [hexec, execWitnessSet, hroot, if_neg (not_not_intro hlen), State.okAfterEpoch_alone (by exact hpair)]
  · have hexec : exec (.witnessGet h) s = execWitnessGet h s := rfl
    rw [hexec, execWitnessGet, hroot]

/-- Settles O43: an update waits for its revocations, and an injection is a record update. -/
theorem partitionAndInjection : Obligations.PartitionAndInjection := by
  unfold Obligations.PartitionAndInjection
  intro s h k hk ha hr
  have hroot := State.rsCmd_onHost hk ha hr
  refine ⟨fun ctx entry hctx hres hnext => ?_, fun ctx entry hbad => ?_, fun src mask count hpos hmax hunit => ?_⟩
  · have hexec : exec (.partitionTableUpdate h ctx entry) s = execPartitionTableUpdate h ctx entry s := rfl
    have hgood : ¬(ctx = 0 ∨ reservedSet entry.toNat = true) := by
      rintro (h | h)
      · exact hctx h
      · rw [hres] at h
        cases h
    have hswitch : s.switchTable = s := by simp only [State.switchTable, hnext]
    rw [Gives, hexec, execPartitionTableUpdate, hroot, if_neg hgood, hswitch]
    exact ⟨_, rfl, rfl, rfl, ⟨_, List.mem_append_right _ (List.mem_singleton_self _), rfl, rfl⟩, rfl⟩
  · have hexec : exec (.partitionTableUpdate h ctx entry) s = execPartitionTableUpdate h ctx entry s := rfl
    rw [hexec, execPartitionTableUpdate, hroot, if_pos hbad]
    rfl
  · have hexec : exec (.faultInject h src mask count) s = execFaultInject h src mask count s := rfl
    have hgood : ¬(count = 0 ∨ 255 < count) := by omega
    have hmod : count % 256 = count := Nat.mod_eq_of_lt (by omega)
    rw [hexec, execFaultInject, hroot, if_neg hgood, hunit]
    simp only [State.putInj, hmod]

/-- Settles O44: a piece extends the image, and a commit puts it into the slot that is not running. -/
theorem firmwareCommands : Obligations.FirmwareCommands := by
  unfold Obligations.FirmwareCommands
  intro s h c ha hr
  have hroot := State.rootAny_arrives ha hr
  refine ⟨fun off len img hpos hlen hoff hmax => ?_, fun img htrial hrun himg hsigned hmajor => ?_, fun action slot htrial => ?_⟩
  · have hexec : exec (.firmwareImageDownload h off len img) s = execFirmwareImageDownload h off len img s := rfl
    have hgood : ¬(len = 0 ∨ len % 4 ≠ 0 ∨ off % 4 ≠ 0 ∨ Config.mdts < len) := by
      have : Config.mdts = 8388608 := rfl
      omega
    rw [hexec, execFirmwareImageDownload, hroot, if_neg hgood]
  · have hexec : exec (.firmwareCommit h 1 2) s = execFirmwareCommit h 1 2 s := rfl
    have hrun' : exec (.firmwareCommit h 1 2) s = .next ((s.stage (s.fw.putSlot true img) true true).ok h) := by
      rw [hexec, execFirmwareCommit, hroot]
      simp [htrial, hrun, himg, hsigned, hmajor]
    exact ⟨_, hrun', rfl, rfl, rfl, hrun, rfl, rfl⟩
  · have hexec : exec (.firmwareCommit h action slot) s = execFirmwareCommit h action slot s := rfl
    rw [hexec, execFirmwareCommit, hroot, htrial]
    rfl

/-- A refused register write leaves an entry in the log ring at most. -/
theorem logRefused_log (s : State) (h : Hdr) (r : RegSel) :
    ∃ log logSeq, s.logRefused h r = { s with host := { s.host with log, logSeq } } := by
  unfold State.logRefused State.refuseRs State.log
  (repeat' split) <;> exact ⟨_, _, rfl⟩

/-- Settles O45: a write without root is refused before any register is reached. -/
theorem registerReads : Obligations.RegisterReads := by
  unfold Obligations.RegisterReads
  refine ⟨fun s h c r v ha hread => ?_, fun s h k r v hk ha hr => ?_⟩
  · have hexec : exec (.registerRead h r) s = execRegisterRead h r s := rfl
    rw [hexec, execRegisterRead, State.commandAny_arrives ha, hread]
  · have hexec : exec (.registerWrite h r v) s = execRegisterWrite h r v s := rfl
    rw [Gives, hexec, execRegisterWrite, State.writeReg, State.arriveAny_arrives ha, hr]
    obtain ⟨log, logSeq, hlog⟩ := logRefused_log s h r
    rw [hlog]
    exact ⟨_, rfl, rfl, rfl, rfl, rfl, rfl, rfl, rfl, rfl⟩

/-- Settles O46: each register is one branch of the write. -/
theorem registerWrites : Obligations.RegisterWrites := by
  unfold Obligations.RegisterWrites
  intro s h v ha hr
  have hwrite (r : RegSel) (x : W64) (hx : s.readReg h 0 r = .ok x) : s.writeReg h r v = (s.putReg h r v).ok h := by
    rw [State.writeReg, State.arriveAny_arrives ha, hr, hx]
    rfl
  have hbits (hi : Nat) : bitsOf v.toNat hi 0 = v.toNat % 2 ^ (hi + 1) := by simp [bitsOf]
  refine ⟨fun r x hx => ?_, fun hlow hhigh => ?_, fun hout => ?_, fun hlow hhigh => ?_, fun hout => ?_, fun slot qual e he => ?_,
    fun hv => ?_, fun hv => ?_, fun n => ?_, fun src => ?_, ?_, fun n => ?_, ?_, ?_⟩
  · exact congrArg Host.Outcome.next (hwrite r x hx)
  · have hin : ¬(v.toNat % 1024 < 50 ∨ 1000 < v.toNat % 1024) := by omega
    have hput : s.putBudget v.toNat = ({ s with sched := { s.sched with budget := v.toNat % 1024 } }).touchControl := by
      simp only [State.putBudget, hbits]
      exact if_neg hin
    refine congrArg Host.Outcome.next ((hwrite (sel 3 0) _ rfl).trans (congrArg (State.ok · h) hput))
  · have hput : s.putBudget v.toNat = s.log .budgetIgnored (v.toNat % 1024) 0 := by
      simp only [State.putBudget, hbits]
      exact if_pos hout
    refine congrArg Host.Outcome.next ((hwrite (sel 3 0) _ rfl).trans (congrArg (State.ok · h) hput))
  · have hin : ¬(v.toNat % 8192 < 1500 ∨ 4000 < v.toNat % 8192) := by omega
    have hput : s.putCap v.toNat = ({ s with pwr := { s.pwr with capNext := v.toNat % 8192 } }).touchControl := by
      simp only [State.putCap, hbits]
      exact if_neg hin
    refine congrArg Host.Outcome.next ((hwrite (sel 0x0E 0) _ rfl).trans (congrArg (State.ok · h) hput))
  · have hput : s.putCap v.toNat = s.log .capIgnored (v.toNat % 8192) 0 := by
      simp only [State.putCap, hbits]
      exact if_pos hout
    refine congrArg Host.Outcome.next ((hwrite (sel 0x0E 0) _ rfl).trans (congrArg (State.ok · h) hput))
  · let r : RegSel := { block := 2, index := slot.val, qual, addr := 0 }
    have hread : s.readReg h 0 r = .ok ((e.slotsC.toList[slot.val]?).getD {}).word := by
      have hslot : slot.val < 64 := slot.isLt
      simp [State.readReg, State.coreRegs, State.execReg, r, he]
    have hput : s.putReg h r v = s.putSlot e.id slot.val v := by simp [State.putReg, r, he]
    refine congrArg Host.Outcome.next ((hwrite r _ hread).trans (congrArg (State.ok · h) hput))
  · have hput : s.putFirst v = { s with flt := { s.flt with first := none } } := if_pos hv
    refine congrArg Host.Outcome.next ((hwrite (sel 0x0D 0) _ rfl).trans (congrArg (State.ok · h) hput))
  · have hput : s.putFirst v = s := if_neg (by rw [hv]; exact Bool.false_ne_true)
    refine congrArg Host.Outcome.next ((hwrite (sel 0x0D 0) _ rfl).trans (congrArg (State.ok · h) hput))
  · have hn : n.val < 4 := n.isLt
    have hread : s.readReg h 0 (sel 0x0D (0x10 + n.val)) = .ok (stickyWord s.flt.sticky n.val) := by
      have h1 : ¬0x10 + n.val = 0 := by omega
      have h2 : ¬0x10 + n.val = 1 := by omega
      have h3 : 0x10 + n.val ≤ 0x13 := by omega
      simp [State.readReg, State.fltRegs, sel, plainReg, h2, h3]
    have hput : s.putReg h (sel 0x0D (0x10 + n.val)) v = s.putSticky n.val v := by
      have h3 : 0x10 + n.val ≤ 0x13 := by omega
      simp [State.putReg, sel, h3]
    refine ⟨_, congrArg Host.Outcome.next (hwrite _ _ hread), ?_⟩
    rw [hput]
    refine ⟨fun j hj => ?_, rfl, rfl⟩
    show (s.flt.sticky &&& ~~~(v.setWidth 256 <<< (64 * n.val))).getLsbD j = _
    simp only [BitVec.getLsbD_and, BitVec.getLsbD_not, BitVec.getLsbD_shiftLeft, BitVec.getLsbD_setWidth, hj, decide_true, Bool.true_and]
    congr 1
    by_cases hlow : j < 64 * n.val
    · have h1 : ¬64 * n.val ≤ j := by omega
      simp [hlow, h1]
    · have h1 : 64 * n.val ≤ j := by omega
      have h2 : j - 64 * n.val < 256 := by omega
      by_cases hhigh : j < 64 * n.val + 64
      · simp [hlow, h1, h2, hhigh]
      · have h3 : v.getLsbD (j - 64 * n.val) = false := BitVec.getLsbD_of_ge v _ (by omega)
        simp [hlow, h1, h2, hhigh, h3]
  · have hsrc : src.val < 256 := src.isLt
    have hread : s.readReg h 0 (sel 0x0D (0x100 + src.val)) = .ok (s.fltInj src.val) := by
      have h1 : ¬0x100 + src.val = 0 := by omega
      have h2 : ¬0x100 + src.val = 1 := by omega
      have h3 : ¬0x100 + src.val ≤ 0x13 := by omega
      have h4 : 0x100 + src.val ≤ 0x1FF := by omega
      simp [State.readReg, State.fltRegs, sel, plainReg, h2, h3, h4]
    have hput : s.putReg h (sel 0x0D (0x100 + src.val)) v
        = { s with flt := { s.flt with inj := assocPut src.val (BitVec.ofNat 8 (v.toNat % 256), v.toNat / 256 % 256) s.flt.inj } } := by
      have h3 : ¬0x100 + src.val ≤ 0x13 := by omega
      simp [State.putReg, sel, h3, State.putInj, bitsOf]
    exact congrArg Host.Outcome.next ((hwrite _ _ hread).trans (congrArg (State.ok · h) hput))
  · exact congrArg Host.Outcome.next (hwrite (sel 0x0F 1) _ rfl)
  · have hn : n.val < 8 := n.isLt
    have hread : ∃ x, s.readReg h 0 (sel 0x0F (0x10 + n.val)) = .ok x := by
      have h1 : ¬0x10 + n.val = 1 := by omega
      have h2 : 0x10 + n.val ≤ 0x17 := by omega
      simp [State.readReg, State.fwuRegs, sel, plainReg, h1, h2]
    obtain ⟨x, hread⟩ := hread
    have hput : s.putReg h (sel 0x0F (0x10 + n.val)) v = s.putTraceEn n.val v := by
      have h1 : ¬0x10 + n.val = 1 := by omega
      simp [State.putReg, sel, h1]
    refine ⟨_, congrArg Host.Outcome.next (hwrite _ _ hread), ?_⟩
    rw [hput]
    refine ⟨?_, fun m hm => ?_⟩
    · exact (getElem_vset s.trace.en n.val v n.isLt).trans (if_pos rfl)
    · exact (getElem_vset s.trace.en n.val v m.isLt).trans (if_neg fun h => hm (Fin.ext h.symm))
  · exact congrArg Host.Outcome.next (hwrite (sel 0x10 1) _ rfl)
  · refine ⟨_, congrArg Host.Outcome.next (hwrite (sel 0x10 0) _ rfl), fun j hj => ?_⟩
    show (s.phys.flags &&& ~~~((v >>> 8).setWidth 8)).getLsbD j = _
    simp [hj]
end

section
/-!
SUPPORT. Work of the dies: programs and erases that start, and what they leave alone.
-/
namespace Sys2Proof.Machine

/-- Operations of the dies have started, and superblocks have been opened or are being erased; nothing else has changed. -/
def DieWork (s t : State) : Prop :=
  ∃ sbs ops nextOp credit closeSeq pslcOrder bridges intents,
    t = { s with flash := { s.flash with sbs, ops, nextOp, credit, closeSeq, pslcOrder, bridges, intents } }

theorem DieWork.refl (s : State) : DieWork s s := ⟨_, _, _, _, _, _, _, _, rfl⟩

theorem DieWork.trans {s t u : State} (h : DieWork s t) (h' : DieWork t u) : DieWork s u := by
  obtain ⟨_, _, _, _, _, _, _, _, rfl⟩ := h
  obtain ⟨_, _, _, _, _, _, _, _, rfl⟩ := h'
  exact ⟨_, _, _, _, _, _, _, _, rfl⟩

theorem DieWork.foldl {α : Type} {f : State → α → State} (hf : ∀ s a, DieWork s (f s a)) (l : List α) (s : State) : DieWork s (l.foldl f s) :=
  List.foldlRecOn (motive := fun t : State => DieWork s t) l f (.refl s) fun t ht a _ => ht.trans (hf t a)

section
variable {s t : State} (h : DieWork s t)
include h

theorem DieWork.map : t.flash.map = s.flash.map := by obtain ⟨_, _, _, _, _, _, _, _, rfl⟩ := h; rfl
theorem DieWork.dirty : t.flash.dirty = s.flash.dirty := by obtain ⟨_, _, _, _, _, _, _, _, rfl⟩ := h; rfl
theorem DieWork.host : t.host = s.host := by obtain ⟨_, _, _, _, _, _, _, _, rfl⟩ := h; rfl
theorem DieWork.tiers : t.tiers = s.tiers := by obtain ⟨_, _, _, _, _, _, _, _, rfl⟩ := h; rfl

end

theorem State.program_dieWork (s : State) (pslc gc : Bool) (entries : List (Nat × Option Loc)) (seqs : List Nat) :
    DieWork s (s.program pslc gc entries seqs) := by
  unfold State.program
  dsimp only
  split
  · exact .refl s
  · exact ⟨_, _, _, _, _, _, _, _, rfl⟩

theorem State.gather_dieWork (s : State) : DieWork s s.gather := by
  refine DieWork.foldl (fun s st => ?_) _ s
  dsimp only
  split
  · exact s.program_dieWork ..
  · exact .refl s

theorem State.eraseBlock_dieWork (s : State) (sb : Nat) (ch : Fin 32) : DieWork s (s.eraseBlock sb ch) := ⟨_, _, _, _, _, _, _, _, rfl⟩

/-- Erases that start touch no superblock's record. -/
theorem State.eraseSome_dieWork (s : State) (sb : Nat) : DieWork s (s.eraseSome sb) ∧ (s.eraseSome sb).flash.sbs = s.flash.sbs := by
  refine List.foldlRecOn (motive := fun t : State => DieWork s t ∧ t.flash.sbs = s.flash.sbs) _ _ ⟨.refl s, rfl⟩ ?_
  rintro t ⟨hwork, hsbs⟩ c -
  dsimp only
  split
  · exact ⟨hwork, hsbs⟩
  · exact ⟨hwork.trans (t.eraseBlock_dieWork sb c), hsbs⟩

/-- The record of a superblock after its update. -/
theorem State.sb_modSb (s : State) (n : Nat) (f : Sb → Sb) : (s.modSb n f).sb n = f (s.sb n) := by
  simp only [State.sb, State.modSb, assocGet_put, if_true, Option.getD_some]

/-- A superblock that is to be erased is being erased, in the mode that it was used in. -/
theorem State.eraseSb_work (s : State) (sb : Nat) : DieWork s (s.eraseSb sb)
    ∧ ∃ p, ((s.eraseSb sb).sb sb).state = .erasing p ∧ ((∀ q, (s.sb sb).state ≠ .erasing q) → p = (s.sb sb).isPslc) := by
  unfold State.eraseSb
  split
  next q hq =>
    obtain ⟨hwork, hsbs⟩ := s.eraseSome_dieWork sb
    have hsb : (s.eraseSome sb).sb sb = s.sb sb := by simp only [State.sb, hsbs]
    exact ⟨hwork, q, by rw [hsb, hq], fun h => absurd hq (h q)⟩
  next hnot =>
    let u := s.modSb sb fun x => { x with state := .erasing x.isPslc, erased := 0 }
    obtain ⟨hwork, hsbs⟩ := u.eraseSome_dieWork sb
    have hsb : (u.eraseSome sb).sb sb = u.sb sb := by simp only [State.sb, hsbs]
    have hu : DieWork s u := ⟨_, _, _, _, _, _, _, _, rfl⟩
    exact ⟨hu.trans hwork, (s.sb sb).isPslc, by rw [hsb, State.sb_modSb], fun _ => rfl⟩

theorem State.move_dieWork (s : State) (sb : Nat) (gc : Bool) : DieWork s (s.move sb gc) := by
  unfold State.move
  split
  · exact .refl s
  · exact s.program_dieWork ..

theorem State.collect_dieWork (s : State) (sb : Nat) : DieWork s (s.collect sb) := by
  unfold State.collect
  split
  · exact s.move_dieWork ..
  · split
    · exact (s.eraseSb_work sb).1
    · exact .refl s

/-- A superblock without valid blocks has none to move. -/
theorem State.toMove_of_empty {s : State} {sb : Nat} (h : s.validIn sb = []) : s.toMove sb = [] := by
  simp only [State.toMove, h, List.filter_nil, List.take_nil]

/-- Completing writes that waited for a program leaves the flash layer and the blocks alone. -/
theorem State.wroteThrough_keeps (s : State) (keys : List Nat) : (s.wroteThrough keys).flash = s.flash ∧ (s.wroteThrough keys).host.blks = s.host.blks :=
  ⟨foldl_keeps (f := fun (s : State) (o : OutCmd) => s.okDw o.hdr o.dw0 o.dw1) State.flash (fun _ _ => rfl) _ _,
    foldl_keeps (f := fun (s : State) (o : OutCmd) => s.okDw o.hdr o.dw0 o.dw1) (fun t => t.host.blks) (fun _ _ => rfl) _ _⟩

/-- The last erase of a superblock that held QLC data makes it free, with its count one more. -/
theorem State.eraseDone_last {s : State} {id sb j : Nat} {ch : Fin 32} {u : BitVec 16}
    (hall : (s.sb sb).erased ||| BitVec.twoPow 32 ch.val = BitVec.allOnes 32) (hst : (s.sb sb).state = .erasing false) :
    let t := s.eraseDone (.erase id sb ch j u)
    t.sb sb = { s.sb sb with state := .free, nextStripe := 0, reads := [], erased := 0, refresh := false, eraseQ := (s.sb sb).eraseQ + 1 }
      ∧ t.flash.map = s.flash.map
      ∧ t.flash.stamps = (s.flash.stamps.filter fun i => !(decide (i.sb = sb) && i.chan == ch))
          ++ [{ sb, chan := ch, count := (s.sb sb).eraseQ + (s.sb sb).eraseP + 1, jseq := j }] := by
  have hqlc : (s.sb sb).isPslc = false := by rw [Sb.isPslc, hst]
  dsimp only [State.eraseDone]
  rw [if_pos hall, hqlc]
  refine ⟨?_, rfl, rfl⟩
  simp only [State.sb, State.modSb, assocGet_put, if_true, Option.getD_some, Bool.false_eq_true, if_false]

/-- A discarded reply is a Note. -/
theorem State.staleReply_keeps (s : State) : s.staleReply.flash = s.flash ∧ s.staleReply.host.blks = s.host.blks := by
  obtain ⟨_, _, _, h⟩ := State.report_note { s with units := { s.units with stale := s.units.stale + 1 } } (src := 0xA9) (ev := 3) 0 none rfl
  rw [State.staleReply, h]
  exact ⟨rfl, rfl⟩

/-- One more read of each of several blocks. -/
theorem Sb.readOnce_fold (chs : List Nat) (hnodup : chs.Nodup) (x : Sb) (ch : Nat) :
    assocGet ch (chs.foldl Sb.readOnce x).reads = if ch ∈ chs then some ((assocGet ch x.reads).getD 0 + 1) else assocGet ch x.reads := by
  induction chs generalizing x with
  | nil => simp
  | cons c cs ih =>
    obtain ⟨hc, hcs⟩ := List.nodup_cons.mp hnodup
    rw [List.foldl_cons, ih hcs]
    simp only [Sb.readOnce, assocGet_put, List.mem_cons]
    by_cases h : ch = c
    · subst h
      simp [hc]
    · simp [h]

/-- Entries of the write buffer that all hold one block's data put that data in its place. -/
theorem assocGet_putBlocks {key : Nat} {b : PBlk} (l : List Dirty) (hl : ∀ x ∈ l, x.key = key ∧ x.blk = b) (m : List (Nat × PBlk))
    (h : l ≠ [] ∨ assocGet key m = some b) : assocGet key (l.foldl (fun m x => assocPut x.key x.blk m) m) = some b := by
  induction l generalizing m with
  | nil => exact h.resolve_left fun hne => hne rfl
  | cons x l ih =>
    obtain ⟨hkey, hblk⟩ := hl x List.mem_cons_self
    refine ih (fun y hy => hl y (List.mem_cons_of_mem x hy)) _ (.inr ?_)
    dsimp only
    rw [hkey, hblk, assocGet_put, if_pos rfl]

/-- A verified program of one block whose data is in the write buffer. -/
theorem State.programDone_one {s : State} {id sb st key q : Nat} {u : BitVec 16} {d : Dirty} (hd : d ∈ s.flash.dirty) (hkey : d.key = key) (hseq : d.seq = q)
    (hone : ∀ x ∈ s.flash.dirty, x.seq = q → x = d) :
    let t := s.programDone (.program id sb st [(key, none)] [q] u) true
    assocGet key t.flash.map = some { sb, stripe := st, slot := 0 } ∧ t.flash.dirty = s.flash.dirty.filter (fun x => x.seq ≠ q)
      ∧ assocGet key t.host.blks = some d.blk := by
  have hany : (s.flash.dirty.any fun x => decide (x.key = key) && decide (x.seq = q)) = true :=
    List.any_eq_true.mpr ⟨d, hd, by simp [hkey, hseq]⟩
  have hdone : ∀ x ∈ s.flash.dirty.filter fun x => [q].contains x.seq, x.key = key ∧ x.blk = d.blk := by
    intro x hx
    obtain ⟨hmem, hq⟩ := List.mem_filter.mp hx
    obtain rfl := hone x hmem (by simpa using hq)
    exact ⟨hkey, rfl⟩
  have hsome : s.flash.dirty.filter (fun x => [q].contains x.seq) ≠ [] :=
    List.ne_nil_of_mem (List.mem_filter.mpr ⟨hd, by simp [hseq]⟩)
  dsimp only [State.programDone]
  rw [if_neg (by decide), (State.wroteThrough_keeps _ _).1, (State.wroteThrough_keeps _ _).2]
  refine ⟨?_, ?_, assocGet_putBlocks _ hdone _ (.inl hsome)⟩
  · simp [hany, assocGet_put]
  · refine List.filter_congr fun x _ => ?_
    simp

end Sys2Proof.Machine
end

section
/-!
CERTIFICATE of O48: programs, erases and the other work of the flash layer.
-/
open Sys2Proof Sys2Proof.Machine

/-- A verified program of one block from the write buffer. -/
theorem flashProgramComplete_gives {s : State} {id sb st key q : Nat} {d : Dirty}
    (hop : s.flash.ops.find? (fun o => o.id = id) = some (.program id sb st [(key, none)] [q] (s.bridgeEpoch sb))) (hd : d ∈ s.flash.dirty)
    (hkey : d.key = key) (hseq : d.seq = q) (hone : ∀ x ∈ s.flash.dirty, x.seq = q → x = d) :
    Gives (.flashProgramComplete id true) s fun t => assocGet key t.flash.map = some { sb, stripe := st, slot := 0 }
      ∧ assocGet key t.host.blks = some d.blk ∧ t.flash.dirty = s.flash.dirty.filter (fun x => x.seq ≠ q) := by
  have hexec : exec (.flashProgramComplete id true) s = execFlashProgramComplete id true s := rfl
  rw [Gives, hexec, execFlashProgramComplete, hop]
  refine ⟨_, rfl, ?_⟩
  dsimp only
  rw [if_pos rfl]
  obtain ⟨hmap, hdirty, hblks⟩ := s.programDone_one hd hkey hseq hone (id := id) (sb := sb) (st := st) (u := s.bridgeEpoch sb)
  have hwork := (s.programDone (.program id sb st [(key, none)] [q] (s.bridgeEpoch sb)) true).gather_dieWork
  exact ⟨by rw [hwork.map, hmap], by rw [hwork.host, hblks], by rw [hwork.dirty, hdirty]⟩

/-- With no erase and no refresh to go on with, a victim is collected while free superblocks are short. -/
theorem execGarbageCollection_quiet {s : State} (hquiet : ∀ x ∈ s.flash.sbs, x.2.refresh = false ∧ ∀ p, x.2.state ≠ .erasing p) :
    (2048 ≤ s.freeSbs → execGarbageCollection s = .next s)
    ∧ ∀ n, s.freeSbs < 2048 → s.gcVictim = some n → execGarbageCollection s = .next (s.collect n) := by
  unfold execGarbageCollection
  split
  next x hfind =>
    obtain ⟨_, hnot⟩ := hquiet x (List.mem_of_find?_eq_some hfind)
    have hgoes := List.find?_some hfind
    split at hgoes
    next p hp => exact absurd hp (hnot p)
    next => cases hgoes
  next =>
    split
    next x hfind =>
      have hgoes := List.find?_some hfind
      simp [(hquiet x (List.mem_of_find?_eq_some hfind)).1] at hgoes
    next =>
      refine ⟨fun hfree => by rw [if_neg (by omega)], fun n hfree hvictim => ?_⟩
      rw [if_pos hfree, hvictim]

/-- Settles O48, each event by what it starts on the dies and the frame of such work. -/
theorem flashWork : Obligations.FlashWork := by
  unfold Obligations.FlashWork
  intro s
  refine ⟨fun id sb st key q d => flashProgramComplete_gives, fun id sb st en sq u hop hu ok => ?_, fun id sb ch j u hop hu => ?_, fun id => ?_,
    fun id sb ch j hop her hst => ?_, fun sb ch e96 hsb hst hidle hhalf => ?_, fun sb ch e96 hhalf => ?_, fun g n hstart hhead hst hempty => ?_,
    fun g hstart => ?_, ?_, fun hquiet hfree => ?_, fun n hquiet hfree hvictim hempty => ?_, ?_, fun sb stripe retries pct hst hin hbusy hread => ?_,
    fun sb ch hst hreads => ?_⟩
  · have hexec : exec (.flashProgramComplete id ok) s = execFlashProgramComplete id ok s := rfl
    simp only [hexec, execFlashProgramComplete, hop, if_neg hu]
  · have hexec : exec (.flashEraseComplete id) s = execFlashEraseComplete id s := rfl
    simp only [hexec, execFlashEraseComplete, hop]
    exact congrArg Host.Outcome.next (if_neg hu)
  · have hexec : exec (.flashProgramComplete id false) s = execFlashProgramComplete id false s := rfl
    rw [Gives, hexec, execFlashProgramComplete]
    refine ⟨_, rfl, ?_⟩
    split
    next id sb st en sq u _ =>
      split
      · have hdone := ((s.programDone (.program id sb st en sq u) false)).gather_dieWork
        exact ⟨hdone.map, hdone.dirty, by rw [hdone.host]; rfl⟩
      · obtain ⟨hflash, hblks⟩ := s.staleReply_keeps
        exact ⟨by rw [hflash], by rw [hflash], hblks⟩
    next => exact ⟨rfl, rfl, rfl⟩
  · have hexec : exec (.flashEraseComplete id) s = execFlashEraseComplete id s := rfl
    obtain ⟨hsb, hmap, hstamps⟩ := State.eraseDone_last (id := id) (j := j) (u := s.bridgeEpoch sb) her hst
    rw [Gives, hexec, execFlashEraseComplete, hop]
    refine ⟨_, congrArg Host.Outcome.next (if_pos rfl), ?_⟩
    rw [hsb, hmap, hstamps]
    exact ⟨rfl, rfl, rfl, rfl, rfl, rfl, _, List.mem_append_right _ (List.mem_singleton_self _), rfl, rfl, rfl⟩
  · have hexec : exec (.blockOpenEraseVerify sb ch e96) s = execBlockOpenEraseVerify sb ch e96 s := rfl
    have hgood : ¬(Config.superblocks ≤ sb ∨ (s.sb sb).state ≠ .free ∨ s.erasingIn sb = true) := by
      rintro (h | h | h)
      · omega
      · exact h hst
      · rw [hidle] at h
        cases h
    rw [Gives, hexec, execBlockOpenEraseVerify, if_neg hgood, if_pos hhalf]
    refine ⟨_, rfl, ?_, ⟨_, rfl, _, List.mem_append_right _ (List.mem_singleton_self _), rfl, rfl, rfl⟩, rfl⟩
    exact congrArg Sb.state (s.sb_modSb sb fun x => { x with state := .erasing false, erased := ~~~(BitVec.twoPow 32 ch.val) })
  · have hexec : exec (.blockOpenEraseVerify sb ch e96) s = execBlockOpenEraseVerify sb ch e96 s := rfl
    simp only [hexec, execBlockOpenEraseVerify, hhalf, Bool.false_eq_true, if_false, ite_self]
  · have hexec : exec (.pslcFold g) s = execPslcFold g s := rfl
    have hfirst : s.flash.pslcOrder.find? (fun n => (s.toMove n) != [] || ((s.sb n).state == .pslc && (s.validIn n).isEmpty)) = some n := by
      obtain ⟨rest, hrest⟩ := List.head?_eq_some_iff.mp hhead
      rw [hrest, List.find?_cons_of_pos]
      simp [hst, hempty]
    have hpslc : (s.sb n).isPslc = true := by rw [Sb.isPslc, hst]
    rw [Gives, hexec, execPslcFold, hstart, hfirst]
    obtain ⟨hwork, p, hp, hmode⟩ := s.eraseSb_work n
    refine ⟨s.eraseSb n, ?_, ?_, hwork.map, hwork.host⟩
    · simp [State.toMove_of_empty hempty]
    · rw [hp, hmode (by simp [hst]), hpslc]
  · have hexec : exec (.pslcFold g) s = execPslcFold g s := rfl
    simp only [hexec, execPslcFold, hstart]
    rfl
  · have hexec : exec .garbageCollection s = execGarbageCollection s := rfl
    have hwork : ∃ t, exec .garbageCollection s = .next t ∧ DieWork s t := by
      refine ⟨_, hexec, ?_⟩
      split
      · exact (s.eraseSome_dieWork _).1
      split
      · exact s.collect_dieWork _
      split
      · split
        · exact s.collect_dieWork _
        · exact .refl s
      · exact .refl s
    obtain ⟨t, ht, hwork⟩ := hwork
    exact ⟨t, ht, hwork.map, hwork.dirty, hwork.host, hwork.tiers⟩
  · have hexec : exec .garbageCollection s = execGarbageCollection s := rfl
    rw [hexec, (execGarbageCollection_quiet hquiet).1 hfree]
  · have hexec : exec .garbageCollection s = execGarbageCollection s := rfl
    obtain ⟨_, p, hp, _⟩ := s.eraseSb_work n
    rw [Gives, hexec, (execGarbageCollection_quiet hquiet).2 n hfree hvictim]
    refine ⟨_, rfl, p, ?_⟩
    rw [State.collect, if_neg (not_not.mpr (State.toMove_of_empty hempty)), hempty, if_pos List.isEmpty_nil, hp]
  · refine ⟨_, rfl, rfl, rfl, rfl, rfl, fun i => ?_⟩
    simp
  · have hexec : exec (.patrolRead sb stripe retries pct) s = execPatrolRead sb stripe retries pct s := rfl
    rw [Gives, hexec, execPatrolRead]
    dsimp only
    rw [if_neg (by simp [hst, hin, hbusy, hread])]
    refine ⟨_, rfl, ?_, ?_, rfl, rfl⟩
    · simp only [State.sb, State.modSb, assocGet_put, if_true, Option.getD_some, Bool.or_eq_true, decide_eq_true_eq]
    · simp only [State.sb, State.modSb, assocGet_put, if_true, Option.getD_some]
      exact fun ch hch => (Sb.readOnce_fold (upto 32) List.nodup_range _ ch).trans (if_pos (List.mem_range.mpr hch))
  · have hexec : exec (.readDisturbRefresh sb ch) s = execReadDisturbRefresh sb ch s := rfl
    have hqlc : (s.sb sb).isPslc = false := by rw [Sb.isPslc, hst]
    rw [Gives, hexec, execReadDisturbRefresh]
    dsimp only
    rw [hqlc, if_pos (by simpa using hreads)]
    exact ⟨_, rfl, congrArg Sb.refresh (s.sb_modSb sb _), rfl⟩
end

section
/-!
SUPPORT. The end of service and the flush (R461, R531, R532): what of the module they do not touch, and what the response to a
grave fault leaves.
-/
namespace Sys2Proof.Machine

/-- The parts of the module that the end of service and the flush leave alone. -/
structure Board where
  now : Nat
  ident : Ident
  life : Life
  fw : Firmware
  pwr : Power
  phys : Phys
  ptp : Ptp
  flt : Collector
  bridges : Vector Bridge 16
  cages : Vector Cable 4
  units : Units

def State.board (s : State) : Board :=
  { now := s.now, ident := s.ident, life := s.life, fw := s.fw, pwr := s.pwr, phys := s.phys, ptp := s.ptp, flt := s.flt,
    bridges := s.flash.bridges, cages := s.twin.cages, units := s.units }

section
variable {s : State} {b : Board} (h : s.board = b)
include h

theorem State.now_of_board : s.now = b.now := by rw [← h]; rfl
theorem State.life_of_board : s.life = b.life := by rw [← h]; rfl
theorem State.fw_of_board : s.fw = b.fw := by rw [← h]; rfl
theorem State.pwr_of_board : s.pwr = b.pwr := by rw [← h]; rfl
theorem State.phys_of_board : s.phys = b.phys := by rw [← h]; rfl
theorem State.flt_of_board : s.flt = b.flt := by rw [← h]; rfl
theorem State.bridges_of_board : s.flash.bridges = b.bridges := by rw [← h]; rfl
theorem State.cages_of_board : s.twin.cages = b.cages := by rw [← h]; rfl
theorem State.units_of_board : s.units = b.units := by rw [← h]; rfl

end

/-- A condition between two operations that both keep what p shows. -/
theorem ite_keeps {β : Type} (p : State → β) {c : Prop} [Decidable c] {a b : State} {x : β} (ha : p a = x) (hb : p b = x) :
    p (if c then a else b) = x := by
  split
  · exact ha
  · exact hb

/-! ## Executions, jobs and associations end -/

/-- The pair as this module has it, without what it has sent. -/
def State.bond (s : State) : Twin := { s.twin with out := [] }

/-- The parts of the module that the end of service leaves alone: the board, the flash and the pair. -/
def State.desk (s : State) : Board × Flash × Twin := (s.board, s.flash, s.bond)

theorem State.jobDoneAt_desk (s : State) (t : Nat) (h : Hdr) (ctx : Fin 64) (dl : Nat) (o : JobEnd) :
    (s.jobDoneAt t h ctx dl o).desk = s.desk := by
  cases o with
  | success => exact ite_keeps State.desk rfl rfl
  | _ => rfl

theorem State.endObjs_desk (s : State) (e : Exec) (o : JobEnd) : (s.endObjs e o).desk = s.desk := by
  refine foldl_keeps State.desk (fun s x => ?_) _ s
  exact ite_keeps State.desk ((s.send (.c2hData x.hdr x.result)).jobDoneAt_desk ..) (s.jobDoneAt_desk ..)

theorem State.fillComp_desk (s : State) (c : Fin 16) : (s.fillComp c).desk = s.desk := by
  refine ite_keeps State.desk rfl ?_
  split
  · refine ite_keeps State.desk (foldl_keeps State.desk (fun s i => ?_) _ s) rfl
    rfl
  · rfl

theorem State.fillComps_desk (s : State) : s.fillComps.desk = s.desk := foldl_keeps State.desk fillComp_desk _ s

theorem State.dropExec_desk (s : State) (e : Exec) : (s.dropExec e).desk = s.desk := fillComps_desk _

theorem State.endExecAt_desk (s : State) (t : Nat) (e : Exec) (o : JobEnd) : (s.endExecAt t e o).desk = s.desk :=
  calc (s.endExecAt t e o).desk
    _ = _ := ite_keeps State.desk rfl (jobDoneAt_desk ..)
    _ = _ := dropExec_desk ..
    _ = _ := ite_keeps State.desk rfl rfl
    _ = _ := ite_keeps State.desk rfl rfl
    _ = _ := ite_keeps State.desk rfl (ite_keeps State.desk rfl rfl)
    _ = s.desk := endObjs_desk ..

theorem State.caught_desk (s : State) (o : OutCmd) (how : JobEnd) : (s.caught o how).desk = s.desk := by
  unfold State.caught
  dsimp only
  split
  · split
    · exact endExecAt_desk ..
    · exact ite_keeps State.desk rfl rfl
  · split
    · exact jobDoneAt_desk ..
    · exact ite_keeps State.desk rfl rfl
  · exact ite_keeps State.desk rfl rfl
  · exact ite_keeps State.desk rfl rfl

theorem State.endAssoc_desk (s : State) (n : Nat) : (s.endAssoc n).desk = s.desk := by
  refine Eq.trans (b := State.desk (List.foldl _ s _)) rfl (foldl_keeps State.desk (fun s o => ?_) _ s)
  exact ite_keeps State.desk (ite_keeps State.desk (caught_desk ..) rfl) rfl

theorem State.endAllAssocs_desk (s : State) : s.endAllAssocs.desk = s.desk := foldl_keeps State.desk endAssoc_desk _ s

theorem State.stopService_desk (s : State) : s.stopService.desk = s.desk := by
  refine (foldl_keeps State.desk (fun s e => ?_) _ _).trans s.endAllAssocs_desk
  split
  · exact dropExec_desk ..
  · rfl

theorem State.endAllAssocs_board (s : State) : s.endAllAssocs.board = s.board := congrArg Prod.fst s.endAllAssocs_desk

theorem State.stopService_board (s : State) : s.stopService.board = s.board := congrArg Prod.fst s.stopService_desk

/-! ## The flush -/

theorem State.program_board (s : State) (pslc gc : Bool) (entries : List (Nat × Option Loc)) (seqs : List Nat) :
    (s.program pslc gc entries seqs).board = s.board := by
  unfold State.program
  dsimp only
  split <;> rfl

theorem State.gather_board (s : State) : s.gather.board = s.board :=
  foldl_keeps State.board (fun _ _ => ite_keeps State.board (program_board ..) rfl) _ s

theorem State.wroteThrough_board (s : State) (keys : List Nat) : (s.wroteThrough keys).board = s.board :=
  foldl_keeps (f := fun (s : State) (o : OutCmd) => s.okDw o.hdr o.dw0 o.dw1) State.board (fun _ _ => rfl) _ _

theorem State.programDone_board (s : State) (op : DieOp) (verified : Bool) : (s.programDone op verified).board = s.board := by
  cases op with
  | erase => rfl
  | program => exact ite_keeps State.board rfl (wroteThrough_board ..)

theorem State.programsDone_board (s : State) : s.programsDone.board = s.board :=
  foldl_keeps State.board (fun s o => s.programDone_board o true) _ s

theorem flushRounds_board (n : Nat) (s : State) : (flushRounds n s).board = s.board := by
  induction n generalizing s with
  | zero => rfl
  | succ n ih => exact (ih _).trans ((State.programsDone_board _).trans s.gather_board)

/-- The flush is a phase of its own (R461). -/
theorem State.flushAll_board (s : State) : s.flushAll.board = { s.board with life := { s.life with phase := .flushing } } :=
  (flushRounds_board ..).trans (programsDone_board _)

/-! ## Power down and module reset (R577, R579) -/

theorem State.loseRoles_board (s : State) : s.loseRoles.board = s.board := ite_keeps State.board rfl rfl

theorem State.dropVolatile_board (s : State) : s.dropVolatile.board = s.board := s.endAllAssocs_board

/-- The module once every switched domain has lost what it held, before the domains go. -/
def State.emptied (s : State) : State := s.loseRoles.dropVolatile.loseDirty

theorem State.emptied_board (s : State) : s.emptied.board = s.board := (dropVolatile_board _).trans s.loseRoles_board

/-- A loss of the switched domains takes the dirty data and the programs under way from the flash (R466). -/
theorem State.powerDown_flash (s : State) : s.powerDown.flash.dirty = [] ∧ s.powerDown.flash.journal = s.flash.journal := by
  have hroles : s.loseRoles.flash = s.flash := ite_keeps State.flash rfl rfl
  have hassocs : s.loseRoles.endAllAssocs.flash = s.loseRoles.flash := congrArg (·.2.1) s.loseRoles.endAllAssocs_desk
  have hjournal : s.powerDown.flash.journal = s.loseRoles.endAllAssocs.flash.journal := rfl
  exact ⟨rfl, by rw [hjournal, hassocs, hroles]⟩

/-- What is left of a trial is told by the board. -/
def Board.trialNs (b : Board) : Nat :=
  if b.fw.inTrial then
    (if b.life.phase == .firmwareUp || b.life.phase == .inService || b.life.phase == .cleanShutdown then b.fw.trialLeft - (b.now - b.life.fwUpAt)
    else b.fw.trialLeft)
  else 0

theorem State.trialNs_eq (s : State) : s.trialNs = s.board.trialNs := rfl

/-- What a loss of the switched domains leaves (R577, R579). -/
def Board.down (b : Board) : Board :=
  { b with
    life := { b.life with dom := b.life.dom.lower, fallAfter := false }
    fw := { b.fw with trialLeft := b.trialNs }
    bridges := b.bridges.map fun x => { x with up := false, resetting := false }
    cages := b.cages.map fun c => { c with lanes := 0, missed := 0, consec := 0, retrains := 0 }
    units := { b.units with resetting := [], stale := 0 }
    ptp := { b.ptp with locked := false, ever := false, ports := Vector.replicate 4 false }
    pwr := { b.pwr with rung := 0, lowTicks := 0, stretches := 0, keep16 := 16, loopRed := 0, coolMax := 4000, p1 := 0, p100 := 0, effW := b.pwr.capNext } }

theorem State.powerDown_board (s : State) : s.powerDown.board = s.board.down := by
  have hdown : s.powerDown.board = s.emptied.board.down := rfl
  rw [hdown, emptied_board]

/-- One unit epoch more. -/
def Units.raise (x : Units) (u : Nat) : Units := { x with epochs := assocPut u ((assocGet u x.epochs).getD 0 + 1) x.epochs }

theorem State.raiseAll_eq (s : State) : s.raiseAll = { s with units := (upto unitCount).foldl Units.raise s.units } := by
  have hfold (us : List Nat) (s : State) : us.foldl State.raiseEpoch s = { s with units := us.foldl Units.raise s.units } := by
    induction us generalizing s with
    | nil => rfl
    | cons u us ih => exact ih (s.raiseEpoch u)
  exact hfold _ s

theorem State.raiseAll_board (s : State) : s.raiseAll.board = { s.board with units := (upto unitCount).foldl Units.raise s.board.units } := by
  rw [raiseAll_eq]
  rfl

/-- The domains that a module may start with (R574). -/
def Life.mayStart (l : Life) : Bool := l.dom.ao && l.aoReady && l.in48Ok && l.pwrEn

theorem State.mayStart574_eq (s : State) : s.mayStart574 = s.life.mayStart := rfl

/-- A module stands at the start of its start-up sequence, or waits for what it needs to start (R574, R579, R582). -/
def Board.restart (b : Board) : Board :=
  { b with
    life := { b.life with phase := if b.life.mayStart then .startReady else .standby, bootAt := b.now, held := false }
    fw := b.fw.enterTrial
    flt := { b.flt with active := none, latched := [], faultN := false } }

/-- What a module reset leaves (R579). -/
def Board.reset (b : Board) : Board := Board.restart { b.down with units := (upto unitCount).foldl Units.raise b.down.units }

theorem State.moduleReset_board (s : State) : s.moduleReset.board = s.board.reset := by
  have hreset : s.moduleReset.board = s.powerDown.raiseAll.board.restart := by
    unfold State.moduleReset
    generalize s.powerDown.raiseAll = t
    rfl
  rw [hreset, raiseAll_board, powerDown_board, Board.reset]

/-- A fallback is a module reset that also changes the firmware's slots and the settings (R582, R586). -/
theorem State.fallBack_board (s : State) : ∃ pwr ptp, s.fallBack.board = { s.board.reset with
    pwr, ptp
    fw := { s.board.reset.fw with trial := none, inTrial := false, trialLeft := 0, incompat := false, fellBack := true, oldRecord := none } } := by
  rw [← moduleReset_board, State.fallBack]
  generalize s.moduleReset = t
  dsimp only
  split
  · exact ⟨_, _, rfl⟩
  · exact ⟨_, _, rfl⟩

/-! ## Responses to grave faults (R531, R532, R582, R593) -/

/-- The module after the response to a Major fault, unless its firmware is on trial. -/
def State.majorStopped (s : State) : State :=
  let s := ({ s with flt := { s.flt with faultN := true } }).bootFailed
  let s := s.announce.stopService.flushAll.saveMap
  let s := s.log .majorSaved 0 0
  let s := { s with
    fw := { s.fw with majorSinceBoot := true }
    life := { s.life with phase := .majorOut, cleanEnd := false, responseEnd := s.now } }
  s.loseRoles

/-- The module serves or may come to serve, so that a Major fault has something to stop. -/
def LifePhase.stoppable (p : LifePhase) : Bool :=
  p == .powerLost || p == .startReady || p == .firmwareUp || p == .inService || p == .cleanShutdown

theorem State.majorResponse_eq (s : State) : s.majorResponse
    = if s.life.phase.stoppable then (if s.majorStopped.fw.inTrial then s.majorStopped.fallBack else s.majorStopped) else s := by
  unfold State.majorResponse State.majorStopped
  split
  case h_7 hoff hstandby htrump hout hmajor hflushing =>
    have hstop : s.life.phase.stoppable = true := by
      cases h : s.life.phase <;> simp_all [LifePhase.stoppable]
    rw [if_pos hstop]
  all_goals
    next h => rw [h, if_neg (by decide)]

/-- A boot under way that fails is counted at its slot. -/
theorem State.bootFailed_board (s : State) : ∃ failsA failsB, s.bootFailed.board = { s.board with fw := { s.fw with failsA, failsB } } := by
  unfold State.bootFailed
  split
  · dsimp only
    split
    · exact ⟨_, _, rfl⟩
    · exact ⟨_, _, rfl⟩
  · exact ⟨_, _, rfl⟩

/-- What the response to a Major fault leaves besides (R531, R582). -/
def Board.majorOut (b : Board) : Board :=
  { b with
    life := { b.life with phase := .majorOut, cleanEnd := false, responseEnd := b.now }
    fw := { b.fw with majorSinceBoot := true }
    flt := { b.flt with saved := { first := b.flt.first, sticky := b.flt.sticky, map := b.flt.map, latched := b.flt.latched.length } } }

theorem State.majorStopped_board (s : State) : ∃ failsA failsB saved, s.majorStopped.board = { s.board with
    life := { s.life with phase := .majorOut, cleanEnd := false, responseEnd := s.now }
    fw := { s.fw with failsA, failsB, majorSinceBoot := true }
    flt := { s.flt with faultN := true, saved } } := by
  obtain ⟨failsA, failsB, hboot⟩ := State.bootFailed_board { s with flt := { s.flt with faultN := true } }
  have hstop (t : State) : t.announce.stopService.flushAll.board = { t.board with life := { t.life with phase := .flushing } } := by
    rw [State.flushAll_board]
    have hserved : t.announce.stopService.board = t.board := (State.stopService_board _).trans (ite_keeps State.board rfl rfl)
    have hlife : t.announce.stopService.life = t.life := congrArg Board.life hserved
    rw [hserved, hlife]
  have hend : s.majorStopped.board = ({ s with flt := { s.flt with faultN := true } }).bootFailed.announce.stopService.flushAll.board.majorOut := by
    refine (State.loseRoles_board _).trans ?_
    generalize State.flushAll _ = t
    rfl
  rw [hend, hstop]
  have hlife := congrArg Board.life hboot
  generalize State.bootFailed _ = t at hboot hlife
  have hlife' : t.life = s.life := hlife
  rw [hboot, hlife']
  exact ⟨_, _, _, rfl⟩

/-- The module in the Trump response before its power goes. -/
theorem State.trumpStopped_board (s : State) (src : Fin 256) : ∃ failsA failsB phase, (s.trumpStopped src).board = { s.board with
    life := { s.life with phase }
    fw := { s.fw with failsA, failsB }
    flt := { s.flt with faultN := true } } := by
  obtain ⟨failsA, failsB, hboot⟩ := State.bootFailed_board { s with flt := { s.flt with faultN := true } }
  have hstopped (t : State) : (if t.life.phase = .majorOut then t else t.announce.stopService).board = t.board :=
    ite_keeps State.board rfl ((State.stopService_board _).trans (ite_keeps State.board rfl rfl))
  have hlife (t : State) : (if t.life.phase = .majorOut then t else t.announce.stopService).life = t.life := congrArg Board.life (hstopped t)
  have hboot' : (State.bootFailed { s with flt := { s.flt with faultN := true } }).life = s.life := congrArg Board.life hboot
  unfold State.trumpStopped
  dsimp only
  split
  · exact ⟨failsA, failsB, s.life.phase, (hstopped _).trans hboot⟩
  · refine ⟨failsA, failsB, .flushing, ?_⟩
    rw [State.flushAll_board, hstopped, hlife, hboot', hboot]
    rfl

/-- What the Trump response leaves of a module that has stopped: it is off (R531). -/
def Board.trumpOut (b : Board) : Board := { b.down with life := { b.down.life with phase := .trump, cleanEnd := false } }

theorem State.trumpResponse_board (s : State) (src : Fin 256) (hon : s.life.phase ≠ .off) : ∃ failsA failsB phase saved,
    (s.trumpResponse src).board = Board.trumpOut { s.board with
      life := { s.life with phase }
      fw := { s.fw with failsA, failsB }
      flt := { s.flt with faultN := true, saved } } := by
  obtain ⟨failsA, failsB, phase, hstopped⟩ := s.trumpStopped_board src
  have hdown := (s.trumpStopped src).saveMap.powerDown_board
  have hout : (s.trumpResponse src).board = (s.trumpStopped src).saveMap.board.trumpOut := by
    rw [State.trumpResponse_eq, if_neg hon]
    generalize (s.trumpStopped src).saveMap = t at hdown ⊢
    unfold Board.trumpOut
    rw [← hdown]
    rfl
  have hsaved (t : State) : ∃ saved, t.saveMap.board = { t.board with flt := { t.flt with saved } } := ⟨_, rfl⟩
  obtain ⟨saved, hsave⟩ := hsaved (s.trumpStopped src)
  have hflt : (s.trumpStopped src).flt = { s.flt with faultN := true } := congrArg Board.flt hstopped
  refine ⟨failsA, failsB, phase, saved, ?_⟩
  rw [hout, hsave, hflt, hstopped]

/-! ## What outlasts a grave fault -/

/-- What neither a response to a fault nor a loss of the switched domains changes, and resets that do not begin with them. -/
structure Board.Outlasts (b b' : Board) : Prop where
  now : b'.now = b.now
  phys : b'.phys = b.phys
  in48 : b'.life.in48Ok = b.life.in48Ok
  aux : b'.life.auxOk = b.life.auxOk
  pin : b'.life.pwrEn = b.life.pwrEn
  bod : ∀ i : Fin 16, (b'.bridges[i]).bod = (b.bridges[i]).bod
  awake : ∀ i : Fin 16, (b.bridges[i]).resetting = false → (b'.bridges[i]).resetting = false
  whole : ∀ u ∉ b.units.resetting, u ∉ b'.units.resetting
  dark : ∀ g : Fin 4, (b.cages[g]).lanes = 0 → (b'.cages[g]).lanes = 0

theorem Board.Outlasts.refl (b : Board) : b.Outlasts b := ⟨rfl, rfl, rfl, rfl, rfl, fun _ => rfl, fun _ h => h, fun _ h => h, fun _ h => h⟩

theorem Board.Outlasts.trans {a b c : Board} (h : a.Outlasts b) (h' : b.Outlasts c) : a.Outlasts c :=
  ⟨h'.now.trans h.now, h'.phys.trans h.phys, h'.in48.trans h.in48, h'.aux.trans h.aux, h'.pin.trans h.pin,
    fun i => (h'.bod i).trans (h.bod i), fun i hi => h'.awake i (h.awake i hi), fun u hu => h'.whole u (h.whole u hu),
    fun g hg => h'.dark g (h.dark g hg)⟩

theorem Board.outlasts_down (b : Board) : b.Outlasts b.down :=
  ⟨rfl, rfl, rfl, rfl, rfl, fun _ => by simp [Board.down], fun _ _ => by simp [Board.down], fun _ _ => List.not_mem_nil,
    fun _ _ => by simp [Board.down]⟩

theorem Units.raise_resetting (us : List Nat) (x : Units) : (us.foldl Units.raise x).resetting = x.resetting := by
  induction us generalizing x with
  | nil => rfl
  | cons u us ih => exact ih (x.raise u)

theorem Board.outlasts_reset (b : Board) : b.Outlasts b.reset := by
  have hdown := b.outlasts_down
  exact ⟨hdown.now, hdown.phys, hdown.in48, hdown.aux, hdown.pin, hdown.bod, hdown.awake,
    fun u hu => by rw [Board.reset, Board.restart, Units.raise_resetting]; exact hdown.whole u hu, hdown.dark⟩

theorem Board.outlasts_of_firmware (b : Board) (phase : LifePhase) (cleanEnd : Bool) (responseEnd : Nat) (fw : Firmware) (flt : Collector) (ptp : Ptp)
    (pwr : Power) : b.Outlasts { b with life := { b.life with phase, cleanEnd, responseEnd }, fw, flt, ptp, pwr } :=
  ⟨rfl, rfl, rfl, rfl, rfl, fun _ => rfl, fun _ h => h, fun _ h => h, fun _ h => h⟩

theorem State.fallBack_outlasts (s : State) : s.board.Outlasts s.fallBack.board := by
  obtain ⟨pwr, ptp, h⟩ := s.fallBack_board
  rw [h]
  exact s.board.outlasts_reset.trans (Board.outlasts_of_firmware _ _ _ _ _ _ _ _)

theorem State.majorResponse_outlasts (s : State) : s.board.Outlasts s.majorResponse.board := by
  obtain ⟨failsA, failsB, saved, hstopped⟩ := s.majorStopped_board
  have hout : s.board.Outlasts s.majorStopped.board := by
    rw [hstopped]
    exact Board.outlasts_of_firmware _ _ _ _ _ _ _ _
  rw [State.majorResponse_eq]
  split
  · split
    · exact hout.trans s.majorStopped.fallBack_outlasts
    · exact hout
  · exact .refl _

theorem State.trumpResponse_outlasts (s : State) (src : Fin 256) : s.board.Outlasts (s.trumpResponse src).board := by
  by_cases hoff : s.life.phase = .off
  · rw [State.trumpResponse_eq, if_pos hoff]
    exact .refl _
  · obtain ⟨failsA, failsB, phase, saved, h⟩ := s.trumpResponse_board src hoff
    rw [h]
    exact ((Board.outlasts_of_firmware s.board phase s.life.cleanEnd s.life.responseEnd _ _ s.ptp s.pwr).trans (Board.outlasts_down _)).trans
      (Board.outlasts_of_firmware _ _ _ _ _ _ _ _)

/-! ## Reports (R528 to R539) -/

/-- The handler of a fault that is no Note stops the module or, for a Minor fault, starts its remedy. -/
theorem State.begin_cases (s : State) {f : ActiveFault} (hnote : f.cls ≠ .note) : ∃ flt,
    s.begin f = State.majorResponse { s with flt } ∨ (∃ src, s.begin f = State.trumpResponse { s with flt } src)
      ∨ f.cls = .minor ∧ s.begin f = State.remedy { s with flt } f := by
  unfold State.begin
  split
  case h_1 h => exact absurd h hnote
  case h_2 h =>
    split
    · exact ⟨_, .inl rfl⟩
    · exact ⟨_, .inr (.inr ⟨h, rfl⟩)⟩
  case h_3 => exact ⟨_, .inl rfl⟩
  case h_4 => exact ⟨_, .inr (.inl ⟨_, rfl⟩)⟩

/-- A fault that is no Note is handled or latched. -/
theorem State.meet_cases (s : State) {f : ActiveFault} (hnote : f.cls ≠ .note) : ∃ flt,
    s.meet f = { s with flt } ∨ s.meet f = State.majorResponse { s with flt } ∨ (∃ src, s.meet f = State.trumpResponse { s with flt } src)
      ∨ f.cls = .minor ∧ s.meet f = State.remedy { s with flt } f := by
  have hbegin : ∃ flt, s.begin f = { s with flt } ∨ s.begin f = State.majorResponse { s with flt }
      ∨ (∃ src, s.begin f = State.trumpResponse { s with flt } src) ∨ f.cls = .minor ∧ s.begin f = State.remedy { s with flt } f := by
    obtain ⟨flt, h⟩ := s.begin_cases hnote
    exact ⟨flt, .inr h⟩
  unfold State.meet
  split
  · exact hbegin
  split
  · obtain ⟨flt, h | ⟨src, h⟩ | ⟨h, _⟩⟩ := s.escalate.begin_cases (f := { f with cls := .trump }) (by simp)
    · exact ⟨flt, .inr (.inl h)⟩
    · exact ⟨flt, .inr (.inr (.inl ⟨src, h⟩))⟩
    · cases h
  split
  · exact hbegin
  split
  · obtain ⟨flt, h | ⟨src, h⟩ | ⟨h, _⟩⟩ := s.escalate.begin_cases (f := { f with cls := .major }) (by simp)
    · exact ⟨flt, .inr (.inl h)⟩
    · exact ⟨flt, .inr (.inr (.inl ⟨src, h⟩))⟩
    · cases h
  · unfold State.latch
    split
    · exact ⟨_, .inl rfl⟩
    · exact ⟨_, .inl rfl⟩

section
variable (s : State) {src : Fin 256} {ev : Nat} (whr : BitVec 24)

/-- The remedy of a Minor report alone. -/
theorem State.remedy_alone {r : Report} {since : Nat} (h : faultClass r.src r.event = some .minor) :
    s.remedy { rep := r, cls := .minor, since } = s.remedy1 r := by
  have hminor : Report.isMinor r = true := by rw [Report.isMinor, h]; rfl
  simp only [State.remedy, List.filter_cons, hminor, if_true, List.filter_nil, List.foldl_cons, List.foldl_nil]

/-- A Major report is latched or stops the module. -/
theorem State.report_major (h : faultClass src ev = some .major) : ∃ flt health,
    s.report src ev whr none = { s with flt, health } ∨ s.report src ev whr none = State.majorResponse { s with flt, health }
      ∨ ∃ by_, s.report src ev whr none = State.trumpResponse { s with flt, health } by_ := by
  rw [State.report_eq, State.sampled_classed s h, State.collected, State.recordFirst_eq]
  obtain ⟨flt, h | h | h | ⟨h, _⟩⟩ := State.meet_cases _ (f := { rep := _, cls := .major, since := _ }) (by simp)
  · exact ⟨flt, _, .inl h⟩
  · exact ⟨flt, _, .inr (.inl h)⟩
  · exact ⟨flt, _, .inr (.inr h)⟩
  · cases h

theorem State.report_major_outlasts (h : faultClass src ev = some .major) : s.board.Outlasts (s.report src ev whr none).board := by
  have hcollect (flt : Collector) (health : Health) : s.board.Outlasts (State.board { s with flt, health }) :=
    Board.outlasts_of_firmware s.board s.life.phase s.life.cleanEnd s.life.responseEnd s.fw flt s.ptp s.pwr
  obtain ⟨flt, health, h | h | ⟨by_, h⟩⟩ := s.report_major whr h
  · rw [h]
    exact hcollect ..
  · rw [h]
    exact (hcollect ..).trans (State.majorResponse_outlasts _)
  · rw [h]
    exact (hcollect ..).trans (State.trumpResponse_outlasts _ _)

/-- A report of a unit beyond the tiles, in no step. -/
def unitReport (src : Fin 256) (ev : Nat) (whr : BitVec 24) : Report := { src, event := ev, whr, inj := false, exec := none, spareLeft := true }

/-- A Minor report of a unit beyond the tiles is latched, or its remedy starts, or it stops the module. -/
theorem State.report_minor (h : faultClass src ev = some .minor) (htile : 0x0F < src.val) : ∃ flt health,
    s.report src ev whr none = { s with flt, health } ∨ s.report src ev whr none = State.majorResponse { s with flt, health }
      ∨ (∃ by_, s.report src ev whr none = State.trumpResponse { s with flt, health } by_)
      ∨ s.report src ev whr none = State.remedy1 { s with flt, health } (unitReport src ev whr) := by
  rw [State.report_eq, State.sampled_classed s h, State.collected, if_pos rfl, State.minorHits_idle _ rfl htile, State.recordFirst_eq]
  obtain ⟨flt, h' | h' | ⟨by_, h'⟩ | ⟨_, h'⟩⟩ := State.meet_cases _ (f := { rep := _, cls := .minor, since := _ }) (by simp)
  · exact ⟨flt, _, .inl h'⟩
  · exact ⟨flt, _, .inr (.inl h')⟩
  · exact ⟨flt, _, .inr (.inr (.inl ⟨by_, h'⟩))⟩
  · exact ⟨flt, _, .inr (.inr (.inr (h'.trans (State.remedy_alone _ h))))⟩

/-- With no fault in progress and no Minor report within the last second, the remedy of a Minor report starts at once. -/
theorem State.report_calm_remedy (hcalm : Calm s) (h : faultClass src ev = some .minor) (hsrc : 0x1F < src.val) : ∃ flt,
    s.report src ev whr none = State.remedy1 { s with flt, health := s.health.count .minor } (unitReport src ev whr) := by
  obtain ⟨hactive, hminors⟩ := hcalm
  have hcollected : s.collected (unitReport src ev whr) .minor
      = ((s.record1 (unitReport src ev whr) .minor).recordFirst (unitReport src ev whr, .minor)).minorHits [unitReport src ev whr] := rfl
  rw [State.minorHits_idle _ rfl (show 0x0F < src.val by omega), State.recordFirst_eq] at hcollected
  have hidle : (s.collected (unitReport src ev whr) .minor).flt.active = none := by rw [hcollected]; exact hactive
  have hcomp : compOf src = none := if_neg (by omega)
  have hspare : (s.collected (unitReport src ev whr) .minor).noRetrySpare (unitReport src ev whr) = false := by
    simp [State.noRetrySpare, unitReport, hcomp]
  have hstorm : (s.collected (unitReport src ev whr) .minor).stormy src = false := by
    rw [hcollected]
    simp [State.stormy, State.record1, hminors, unitReport]
  rw [State.report_eq, ← unitReport, State.sampled_classed s (r := unitReport src ev whr) h, State.meet, hidle]
  simp only [State.begin, hspare, List.any_cons, List.any_nil]
  rw [if_neg (by simpa [unitReport] using hstorm), State.remedy_alone _ (r := unitReport src ev whr) h, hcollected]
  exact ⟨_, rfl⟩

end

end Sys2Proof.Machine
end

section
/-!
SUPPORT. Reports of the flash and of its bridges (R449, R468, R525).
-/
namespace Sys2Proof.Machine

theorem flashSrc_val (d : Die) : (flashSrc d).val = 0x90 + d.bridge.val := Nat.mod_eq_of_lt (by omega)

theorem faultClass_flashSrc (d : Die) : faultClass (flashSrc d) 2 = some .minor ∧ faultClass (flashSrc d) 3 = some .minor := by
  have hsrc : ∀ b : Fin 16, faultClass (Fin.ofNat 256 (0x90 + b.val)) 2 = some .minor ∧ faultClass (Fin.ofNat 256 (0x90 + b.val)) 3 = some .minor := by
    decide
  exact hsrc d.bridge

/-- The number of a bridge as a source. -/
theorem bridgeSrc_val (b : Fin 16) : (Fin.ofNat 256 (0x80 + b.val)).val = 0x80 + b.val := Nat.mod_eq_of_lt (by omega)

theorem faultClass_bridge : ∀ b : Fin 16, faultClass (Fin.ofNat 256 (0x80 + b.val)) 1 = some .minor
    ∧ faultClass (Fin.ofNat 256 (0x80 + b.val)) 3 = some .major ∧ faultClass (Fin.ofNat 256 (0x80 + b.val)) 4 = some .major := by
  decide

/-- A Minor report of a bridge or its dies has a remedy at its own unit only. -/
theorem State.remedy1_flash (s : State) (d : Die) {ev : Nat} (whr : BitVec 24) : s.remedy1 (unitReport (flashSrc d) ev whr)
    = if ev = 3 then s.failDie { bridge := d.bridge, chan := Fin.ofNat 32 (bitsOf whr.toNat 4 0), pos := Fin.ofNat 8 (bitsOf whr.toNat 7 5) } else s := by
  have hval := flashSrc_val d
  have hb := d.bridge.isLt
  have hbridge : Fin.ofNat 16 (0x90 + d.bridge.val - 0x90) = d.bridge := Fin.ext (by simp)
  unfold State.remedy1 unitReport
  dsimp only
  rw [hval, if_neg (by omega), if_neg (by omega), if_neg (by omega), if_neg (by omega), if_pos (by omega), hbridge]
  simp

theorem State.remedy1_bridge (s : State) (b : Fin 16) (whr : BitVec 24) :
    s.remedy1 (unitReport (Fin.ofNat 256 (0x80 + b.val)) 1 whr) = s.startBridgeReset b := by
  have hval := bridgeSrc_val b
  have hb := b.isLt
  have hbridge : Fin.ofNat 16 (0x80 + b.val - 0x80) = b := Fin.ext (by simp)
  unfold State.remedy1 unitReport
  dsimp only
  rw [hval, if_neg (by omega), if_neg (by omega), if_neg (by omega), if_pos (by omega), hbridge]
  simp

theorem State.report_note_flash (s : State) {src : Fin 256} {ev : Nat} (whr : BitVec 24) (x : Option Nat) (h : faultClass src ev = some .note) :
    (s.report src ev whr x).flash = s.flash := by
  obtain ⟨_, _, _, hrep⟩ := s.report_note whr x h
  rw [hrep]

/-- A bridge that is back at work stays so while data is gathered, and where the time that its reset took is reported. -/
theorem State.gatherReport_bridge {s : State} (b : Fin 16) (slow : Prop) [Decidable slow] (hawake : (s.flash.bridges[b]).resetting = false)
    (hwhole : ResetUnit.bridge b ∉ s.units.resetting) :
    let t := if slow then s.gather.report (Fin.ofNat 256 (0x80 + b.val)) 3 0 none else s.gather
    (t.flash.bridges[b]).resetting = false ∧ ResetUnit.bridge b ∉ t.units.resetting := by
  have hawake' : (s.gather.board.bridges[b]).resetting = false := by rw [s.gather_board]; exact hawake
  have hwhole' : ResetUnit.bridge b ∉ s.gather.board.units.resetting := by rw [s.gather_board]; exact hwhole
  dsimp only
  split
  · have hout := s.gather.report_major_outlasts 0 (faultClass_bridge b).2.1
    exact ⟨hout.awake b hawake', hout.whole _ hwhole'⟩
  · exact ⟨hawake', hwhole'⟩

/-- Work of the dies leaves what the hold-up store can flush. -/
theorem DieWork.holdup {s t : State} (h : DieWork s t) : t.flash.wthru = s.flash.wthru ∧ t.flash.limitMib = s.flash.limitMib := by
  obtain ⟨_, _, _, _, _, _, _, _, rfl⟩ := h
  exact ⟨rfl, rfl⟩

/-- The location field names the channel and the position of its die (R560). -/
theorem dieWhere_fields (d : Die) : bitsOf (dieWhere d).toNat 4 0 = d.chan.val ∧ bitsOf (dieWhere d).toNat 7 5 = d.pos.val := by
  have hc := d.chan.isLt
  have hp := d.pos.isLt
  have hval : (dieWhere d).toNat = d.chan.val + 32 * d.pos.val := by
    rw [dieWhere, BitVec.toNat_ofNat]
    omega
  rw [hval, bitsOf, bitsOf]
  norm_num
  omega

end Sys2Proof.Machine
end

section
/-!
CERTIFICATE of O49: reads, lost data, die failures, brown-out and bridge resets.
-/
open Sys2Proof Sys2Proof.Machine

/-- Settles O49: a report in a calm module is its remedy, and what a grave report leaves alone outlasts it. -/
theorem flashTrouble : Obligations.FlashTrouble := by
  unfold Obligations.FlashTrouble
  intro s d
  refine ⟨fun h o nsid lba nlb left send l f ho hbody hleft loc hloc hdie hclean => ?_,
    fun h o nsid lba nlb left send l f ho hbody hl loc hloc hdie hcalm hguard hlive hdrop => ?_, fun nsid lba hp hsome => ?_,
    fun hcalm hret hfail => ?_, fun g hrel hnone => ?_, fun pct mib => ?_, fun b hin => ?_, fun b hin => ?_, fun b hcalm hphase hres => ?_,
    fun b done hres => ?_⟩
  · have hexec : exec (.flashReadComplete (.host h) nsid l d f) s = execFlashReadComplete (.host h) nsid l d f s := rfl
    subst hleft
    have hrun : exec (.flashReadComplete (.host h) nsid l d f) s
        = .next ((s.modSb loc.sb fun x => x.readOnce d.chan.val).readTo (.host h) nsid l .clean) := by
      rw [hexec]
      unfold execFlashReadComplete
      dsimp only
      rw [hloc]
      dsimp only
      rw [hdie, hclean]
      rfl
    rw [hrun]
    simp [State.readTo, State.modSb, ho, hbody]
  · have hexec : exec (.flashReadComplete (.host h) nsid l d f) s = execFlashReadComplete (.host h) nsid l d f s := rfl
    have hlost : s.ladder d f = .lost := by simp [State.ladder, hguard]
    let u : State := { s.modSb loc.sb fun x => x.readFor d.chan.val .lost with health := s.health.readEnd s.now .lost }
    have hrun : exec (.flashReadComplete (.host h) nsid l d f) s
        = .next ((u.report (flashSrc d) 2 (dieWhere d) none).readTo (.host h) nsid l .lost) := by
      rw [hexec]
      unfold execFlashReadComplete
      dsimp only
      rw [hloc]
      dsimp only
      rw [hdie, hlost]
      rfl
    obtain ⟨flt, hrep⟩ := State.report_calm_remedy u (dieWhere d) hcalm (faultClass_flashSrc d).1 (by rw [flashSrc_val]; omega)
    rw [State.remedy1_flash, if_neg (by decide)] at hrep
    have hsticky := u.report_sticky (dieWhere d) none (faultClass_flashSrc d).1 (flashSrc_val d)
    rw [hrep] at hsticky
    have hu : (u.report (flashSrc d) 2 (dieWhere d) none).readTo (.host h) nsid l .lost
        = State.post { u with flt, health := u.health.count .minor } h 2 0x81 0 0 := by
      rw [hrep]
      simp [State.readTo, u, State.modSb, ho, hbody, hl]
    refine ⟨_, hrun, ?_⟩
    rw [hu]
    exact ⟨State.post_cq_of_host rfl hlive hdrop .., rfl, hsticky⟩
  · have hexec : exec (.partnerBlockFetch nsid lba) s = execPartnerBlockFetch nsid lba s := rfl
    rw [Gives, hexec, execPartnerBlockFetch]
    refine ⟨_, rfl, ?_⟩
    simp [hp, hsome, State.toPeer]
  · have hexec : exec (.dieFailure d) s = execDieFailure d s := rfl
    have hnone : ¬∃ x ∈ s.flash.failed, x.1 = 8 * d.bridge.val + d.pos.val := fun ⟨x, hx, h⟩ => hfail x hx h
    obtain ⟨hchan, hpos⟩ := dieWhere_fields d
    obtain ⟨flt, hrep⟩ := s.report_calm_remedy (dieWhere d) hcalm (faultClass_flashSrc d).2 (by rw [flashSrc_val]; omega)
    rw [State.remedy1_flash, if_pos rfl, hchan, hpos] at hrep
    have hsticky := s.report_sticky (dieWhere d) none (faultClass_flashSrc d).2 (flashSrc_val d)
    have hgood : ¬((s.flash.retired.contains (8 * d.bridge.val + d.pos.val)) ∨ (s.flash.failed.contains (8 * d.bridge.val + d.pos.val, d)) = true) := by
      rintro (h | h)
      · exact hret (by simpa using h)
      · exact hfail _ (by simpa using h) rfl
    have hrel : s.relocating (8 * d.bridge.val + d.pos.val) = false := by
      simpa [State.relocating] using fun x hx => absurd rfl (hfail _ hx)
    rw [Gives, hexec, execDieFailure]
    refine ⟨_, rfl, ?_⟩
    dsimp only
    rw [if_neg hgood, hrel, if_neg (by decide)]
    refine ⟨?_, ?_, hsticky, ?_⟩
    · rw [hrep]
      simp [State.failDie]
    · rw [hrep, State.busyLimit, if_pos]
      simp [State.failDie]
    · rw [hrep]
      rfl
  · have hexec : exec (.dieGroupRetire g) s = execDieGroupRetire g s := rfl
    have hleft : s.flash.map.filter (fun m => decide (groupOfSb m.2.sb = g.val)) = [] :=
      List.filter_eq_nil_iff.mpr fun m hm => by simpa using hnone m hm
    rw [Gives, hexec, execDieGroupRetire]
    dsimp only
    rw [hrel, if_neg (by decide), hleft, if_pos rfl]
    exact ⟨_, rfl, rfl, fun o ho => by simpa using (List.mem_filter.mp ho).2⟩
  · have hexec : exec (.holdupMeasurement pct mib) s = execHoldupMeasurement pct mib s := rfl
    rw [Gives, hexec, execHoldupMeasurement]
    refine ⟨_, rfl, ?_⟩
    dsimp only
    obtain ⟨hthru, hlimit⟩ := (State.gather_dieWork _).holdup
    have hflash (u : State) : (if decide (pct < 50) = true then u.report 0xE9 1 0 none else u).flash = u.flash :=
      ite_keeps State.flash (u.report_note_flash 0 none rfl) rfl
    rw [hthru, hlimit, hflash]
    simp
  · have hexec : exec (.bridgeBrownoutTrip b) s = execBridgeBrownoutTrip b s := rfl
    rw [Gives, hexec, execBridgeBrownoutTrip]
    refine ⟨_, rfl, ?_⟩
    dsimp only
    rw [if_pos hin]
    exact ⟨((State.report_major_outlasts _ 0 (faultClass_bridge b).2.2).bod b).trans (congrArg Bridge.bod (vmod_get ..)),
      State.report_sticky _ 0 none (faultClass_bridge b).2.2 (bridgeSrc_val b)⟩
  · have hexec : exec (.bridgeBrownoutTrip b) s = execBridgeBrownoutTrip b s := rfl
    rw [Gives, hexec, execBridgeBrownoutTrip]
    refine ⟨_, rfl, ?_⟩
    dsimp only
    rw [if_neg (by simp [hin])]
    exact ⟨congrArg Bridge.bod (vmod_get ..), rfl⟩
  · have hexec : exec (.bridgeReset b true) s = execBridgeReset b true s := rfl
    obtain ⟨flt, hrep⟩ := s.report_calm_remedy 0 hcalm (faultClass_bridge b).1 (by rw [bridgeSrc_val]; omega)
    rw [State.remedy1_bridge] at hrep
    rw [Gives, hexec, execBridgeReset, if_pos rfl, hrep, State.startBridgeReset, if_neg (by
      rintro (h | h)
      · exact hphase h
      · exact absurd (h.symm.trans hres) (by decide))]
    refine ⟨_, rfl, congrArg Bridge.resetting (vmod_get ..), congrArg Bridge.resets (vmod_get ..), ?_, rfl⟩
    simp [State.raiseEpoch, State.unitEpoch, unitCode, assocGet_put]
  · have hexec : exec (.bridgeResetComplete b done) s = execBridgeResetComplete b done s := rfl
    rw [Gives, hexec, execBridgeResetComplete, State.bridgeBack]
    refine ⟨_, rfl, ?_⟩
    dsimp only
    rw [hres, if_neg (by decide)]
    refine State.gatherReport_bridge b _ ?_ ?_
    · exact congrArg Bridge.resetting (vmod_get ..)
    · simp
end

section
/-!
SUPPORT. The power domains come on and go in their order (R33, R575).
-/
namespace Sys2Proof.Machine

theorem Dom.mem_all (x : Dom) : x ∈ Dom.all := by
  cases x <;> simp [Dom.all]

theorem Dom.not_mem_needs (x : Dom) : x ∉ x.needs := by
  cases x <;> simp [Dom.needs]

theorem Domains.put_on (d : Domains) (v : Bool) (x y : Dom) : (d.put v x).on y = if y = x then v else d.on y := by
  cases x with
  | b n =>
    cases y with
    | b m =>
      have heq : (Dom.b m = Dom.b n) ↔ n.val = m.val := by
        rw [Dom.b.injEq, Fin.ext_iff, eq_comm]
      simp only [heq]
      cases v with
      | true =>
        change (d.b ||| BitVec.twoPow 16 n.val).getLsbD m.val = _
        rw [BitVec.getLsbD_or, BitVec.getLsbD_twoPow]
        by_cases h : n.val = m.val <;> simp [h, Domains.on, n.isLt]
      | false =>
        change (d.b &&& ~~~(BitVec.twoPow 16 n.val)).getLsbD m.val = _
        rw [BitVec.getLsbD_and, BitVec.getLsbD_not, BitVec.getLsbD_twoPow]
        by_cases h : n.val = m.val <;> simp [h, Domains.on, m.isLt]
    | _ => rfl
  | _ => cases y <;> rfl

theorem Domains.put_ao (d : Domains) (v : Bool) (x : Dom) : (d.put v x).ao = d.ao := by
  cases x <;> rfl

theorem Domains.turnOn_ao (d : Domains) (x : Dom) : (d.turnOn x).ao = d.ao := by
  unfold Domains.turnOn
  split
  · exact d.put_ao ..
  · rfl

theorem Domains.turnOff_ao (d : Domains) (x : Dom) : (d.turnOff x).ao = d.ao := by
  unfold Domains.turnOff
  split
  · rfl
  · exact d.put_ao ..

theorem Domains.raise_ao (d : Domains) : d.raise.ao = d.ao :=
  List.foldlRecOn (motive := fun t : Domains => t.ao = d.ao) _ _ rfl fun t ht x _ => (t.turnOn_ao x).trans ht

theorem Domains.lower_ao (d : Domains) : d.lower.ao = d.ao :=
  List.foldlRecOn (motive := fun t : Domains => t.ao = d.ao) _ _ rfl fun t ht x _ => (t.turnOff_ao x).trans ht

/-- Domains that go in an order in which nothing that is still to go needs what has gone: all are off. -/
theorem Domains.foldl_turnOff (l : List Dom) (horder : l.Pairwise fun x y => x ∉ y.needs) (d : Domains) (hoff : ∀ y ∉ l, d.on y = false) (y : Dom) :
    (l.foldl Domains.turnOff d).on y = false := by
  induction l generalizing d with
  | nil => exact hoff y List.not_mem_nil
  | cons x l ih =>
    obtain ⟨hx, hl⟩ := List.pairwise_cons.mp horder
    have hfree : ¬(Dom.all.any fun y => y.needs.contains x && d.on y) = true := by
      simp only [List.any_eq_true, Bool.and_eq_true, List.contains_iff_mem, not_exists, not_and]
      rintro z - hneeds hon
      have hz : z ∈ x :: l := by_contra fun h => absurd hon (by simp [hoff z h])
      obtain h | h := List.mem_cons.mp hz
      · subst h
        exact z.not_mem_needs hneeds
      · exact hx z h hneeds
    refine ih hl _ fun z hz => ?_
    rw [Domains.turnOff, if_neg hfree, Domains.put_on]
    split
    · rfl
    · next hne => exact hoff z (by simp [hne, hz])

/-- Domains that come on in an order in which nothing needs what is still to come: all are on. -/
theorem Domains.foldl_turnOn (l : List Dom) (horder : l.Pairwise fun x y => y ∉ x.needs) (d : Domains) (hao : d.ao = true)
    (hon : ∀ y ∉ l, d.on y = true) (y : Dom) : (l.foldl Domains.turnOn d).on y = true := by
  induction l generalizing d with
  | nil => exact hon y List.not_mem_nil
  | cons x l ih =>
    obtain ⟨hx, hl⟩ := List.pairwise_cons.mp horder
    have hneeds : x.needs.all d.on = true := by
      refine List.all_eq_true.mpr fun z hz => hon z fun h => ?_
      obtain h | h := List.mem_cons.mp h
      · subst h
        exact z.not_mem_needs hz
      · exact hx z h hz
    refine ih hl _ ((d.turnOn_ao x).trans hao) fun z hz => ?_
    rw [Domains.turnOn, if_pos (by simp [hao, hneeds]), Domains.put_on]
    split
    · rfl
    · next hne => exact hon z (by simp [hne, hz])

theorem Domains.lower_off (d : Domains) (y : Dom) : d.lower.on y = false :=
  Domains.foldl_turnOff _ (by decide) d (fun z hz => absurd (List.mem_reverse.mpr z.mem_all) hz) y

theorem Domains.raise_on (d : Domains) (hao : d.ao = true) (y : Dom) : d.raise.on y = true :=
  Domains.foldl_turnOn _ (by decide) d hao (fun z hz => absurd z.mem_all hz) y

end Sys2Proof.Machine
end

section
/-!
SUPPORT. Loss of power, start-up and shutdown (R461, R531, R564, R575 to R586).
-/
namespace Sys2Proof.Machine

/-- A Note changes nothing of the board but the collector. -/
theorem State.report_note_board (s : State) {src : Fin 256} {ev : Nat} (whr : BitVec 24) (x : Option Nat) (h : faultClass src ev = some .note) :
    ∃ flt, (s.report src ev whr x).board = { s.board with flt } := by
  obtain ⟨flt, _, _, hrep⟩ := s.report_note whr x h
  rw [hrep]
  exact ⟨flt, rfl⟩

theorem State.report_note_life (s : State) {src : Fin 256} {ev : Nat} (whr : BitVec 24) (x : Option Nat) (h : faultClass src ev = some .note) :
    (s.report src ev whr x).life = s.life := by
  obtain ⟨_, hboard⟩ := s.report_note_board whr x h
  exact State.life_of_board hboard

/-- A module that has lost its power after the response to a fault keeps its inputs (R461). -/
theorem State.flushed_down {b : Board} {r : State} (hout : b.Outlasts r.board) : r.flushAll.powerDown.life.in48Ok = b.life.in48Ok
    ∧ r.flushAll.powerDown.life.auxOk = b.life.auxOk ∧ r.flushAll.powerDown.life.dom.cc = false := by
  have hdown : r.flushAll.powerDown.life = r.flushAll.board.down.life := State.life_of_board r.flushAll.powerDown_board
  rw [hdown, r.flushAll_board]
  exact ⟨hout.in48, hout.aux, r.life.dom.lower_off .cc⟩

/-- A loss of the 48 V input takes the module down; the inputs and what it feeds stay as they were (R461). -/
theorem State.losePower_life (s : State) : s.losePower.life.phase = .powerLost ∧ s.losePower.life.in48Ok = s.life.in48Ok
    ∧ s.losePower.life.auxOk = s.life.auxOk ∧ s.losePower.life.dom.cc = false ∧ s.losePower.flash.dirty = [] := by
  have hout := State.report_major_outlasts { s with life := { s.life with dom := s.life.dom.shed }, fw := s.fw.spoil } (src := 0xE8) (ev := 1) 0 rfl
  unfold State.losePower
  dsimp only
  generalize State.report _ 0xE8 1 0 none = r at hout ⊢
  obtain ⟨hin, haux, hcc⟩ := State.flushed_down hout
  have hdirty := r.flushAll.powerDown_flash.1
  generalize r.flushAll.powerDown = t at *
  exact ⟨rfl, hin, haux, hcc, hdirty⟩

/-- With the auxiliary input in range PD_AO outlasts a loss of the 48 V input (R564). -/
theorem State.lose48_powered (s : State) (hpow : s.isPowered = true) (haux : s.life.auxOk = true) :
    s.lose48 = State.losePower { s with life := { s.life with in48Ok := false } } := by
  have haux' : (State.losePower { s with life := { s.life with in48Ok := false } }).life.auxOk = true := (State.losePower_life _).2.2.1.trans haux
  have hpow' : State.isPowered { s with life := { s.life with in48Ok := false } } = true := hpow
  unfold State.lose48
  dsimp only
  rw [if_pos hpow']
  generalize State.losePower _ = r at haux' ⊢
  exact if_pos (.inl haux')

/-- A clean shutdown begins: the groups go to the partner (R577). -/
theorem State.beginShutdown_keeps (s : State) (byPin : Bool) :
    (s.beginShutdown byPin).life = { s.life with phase := .cleanShutdown, shutAt := s.now, shutByPin := byPin }
      ∧ (s.beginShutdown byPin).fw = s.fw ∧ (s.beginShutdown byPin).sched = s.sched := by
  let u : State := { s with life := { s.life with phase := .cleanShutdown, shutAt := s.now, shutByPin := byPin } }
  have hover (t : State) (g : Nat) : (t.handOver g).life = t.life ∧ (t.handOver g).fw = t.fw ∧ (t.handOver g).sched = t.sched := by
    unfold State.handOver State.modGroup
    split
    · exact ⟨rfl, rfl, rfl⟩
    · exact ⟨rfl, rfl, rfl⟩
  change (if u.paired then u.ours.foldl State.handOver u else u).life = u.life ∧ (if u.paired then u.ours.foldl State.handOver u else u).fw = u.fw
    ∧ (if u.paired then u.ours.foldl State.handOver u else u).sched = u.sched
  split
  · refine List.foldlRecOn (motive := fun t : State => t.life = u.life ∧ t.fw = u.fw ∧ t.sched = u.sched) _ _ ⟨rfl, rfl, rfl⟩ fun t ht g _ => ?_
    obtain ⟨hlife, hfw, hsched⟩ := ht
    obtain ⟨hlife', hfw', hsched'⟩ := hover t g
    exact ⟨hlife'.trans hlife, hfw'.trans hfw, hsched'.trans hsched⟩
  · exact ⟨rfl, rfl, rfl⟩

theorem Board.mayStart_down (b : Board) : b.down.life.mayStart = b.life.mayStart := by
  simp [Life.mayStart, Board.down, Domains.lower_ao]

/-- What a module reset leaves of the life of the module (R579). -/
theorem State.moduleReset_life (s : State) (hmay : s.mayStart574 = true) : s.moduleReset.life.phase = .startReady ∧ s.moduleReset.life.dom.cc = false
    ∧ s.moduleReset.life.selfResets = s.life.selfResets ∧ s.moduleReset.flt.active = none ∧ s.moduleReset.flt.faultN = false
    ∧ s.moduleReset.now = s.now := by
  have hmay' : s.board.down.life.mayStart = true := by rw [Board.mayStart_down, ← hmay]; rfl
  have hlife : s.moduleReset.life = s.board.reset.life := State.life_of_board s.moduleReset_board
  have hnow : s.moduleReset.now = s.now := State.now_of_board s.moduleReset_board
  rw [hlife, hnow]
  exact ⟨if_pos hmay', s.life.dom.lower_off .cc, rfl, rfl, rfl, rfl⟩

/-- A fallback leaves the committed slot and no trial, and the module starts where it may (R582, R586). -/
theorem State.fallBack_firmware (s : State) (hmay : s.mayStart574 = true) : s.fallBack.life.phase = .startReady ∧ s.fallBack.fw.trial = none
    ∧ s.fallBack.fw.inTrial = false ∧ s.fallBack.fw.fellBack = true ∧ s.fallBack.fw.committed = s.fw.committed := by
  obtain ⟨pwr, ptp, hboard⟩ := s.fallBack_board
  have hlife : s.fallBack.life = s.moduleReset.life := (State.life_of_board hboard).trans (State.life_of_board s.moduleReset_board).symm
  have henter (f : Firmware) : f.enterTrial.committed = f.committed := by
    unfold Firmware.enterTrial
    split <;> rfl
  rw [hlife, State.fw_of_board hboard]
  exact ⟨(s.moduleReset_life hmay).1, rfl, rfl, rfl, henter _⟩

/-- A boot that fails is counted at the slot that it was of (R581). -/
theorem State.bootFailed_counts {s : State} (hphase : s.life.phase = .startReady) :
    s.bootFailed.fw.failsA = (if s.bootSlot then s.fw.failsA else s.fw.failsA + 1)
      ∧ s.bootFailed.fw.failsB = (if s.bootSlot then s.fw.failsB + 1 else s.fw.failsB) := by
  rw [State.bootFailed, if_pos hphase]
  cases s.bootSlot
  · exact ⟨rfl, rfl⟩
  · exact ⟨rfl, rfl⟩

theorem State.endTrial_counts (s : State) : s.endTrial.fw.failsA = s.fw.failsA ∧ s.endTrial.fw.failsB = s.fw.failsB := by
  unfold State.endTrial
  dsimp only
  split
  · exact ⟨rfl, rfl⟩
  · exact ⟨rfl, rfl⟩

/-- A boot is of its slot, and touches no power (R583, R584). -/
theorem State.boot_keeps (s : State) (b : Bool) :
    (s.boot b).life = s.life ∧ (s.boot b).now = s.now ∧ (s.boot b).fw.running = b ∧ (s.boot b).fw.majorSinceBoot = false := by
  have hstore : s.loadStore.life = s.life ∧ s.loadStore.now = s.now := by
    unfold State.loadStore
    split
    · exact ⟨rfl, rfl⟩
    · exact ⟨rfl, rfl⟩
  obtain ⟨hlife, hnow⟩ := hstore
  unfold State.boot
  generalize s.loadStore = r at *
  dsimp only
  split
  · split
    · unfold State.beginTrial
      dsimp only
      split
      · split
        · exact ⟨hlife, hnow, rfl, rfl⟩
        · exact ⟨hlife, hnow, rfl, rfl⟩
      · exact ⟨hlife, hnow, rfl, rfl⟩
    · unfold State.endTrial
      dsimp only
      split
      · exact ⟨hlife, hnow, rfl, rfl⟩
      · exact ⟨hlife, hnow, rfl, rfl⟩
  · exact ⟨hlife, hnow, rfl, rfl⟩

/-- With no checker that fails, firmware comes up (R575). -/
theorem State.startTests_none {s : State} (hphase : s.life.phase ≠ .majorOut) (hmajor : s.fw.majorSinceBoot = false) :
    s.startTests [] = { s.firmwareUp with fw := { s.firmwareUp.fw with checkersOk := true } } :=
  (if_neg hphase).trans (if_neg (by simp [hmajor]))

theorem State.firmwareUp_running (s : State) : s.firmwareUp.fw.running = s.fw.running := by
  have hslot (a b : Firmware) (ha : a.running = s.fw.running) (hb : b.running = s.fw.running) :
      (if s.fw.running = true then a else b).running = s.fw.running := by
    split
    · exact ha
    · exact hb
  exact hslot { s.fw with failsB := 0 } { s.fw with failsA := 0 } rfl rfl

/-- What a clean shutdown that begins a fallback leaves (R586). -/
theorem State.endShutdown_fallBack (s : State) (hfall : s.life.fallAfter = true) (hmay : s.mayStart574 = true) :
    s.endShutdown.life.phase = .startReady ∧ s.endShutdown.fw.trial = none ∧ s.endShutdown.fw.inTrial = false ∧ s.endShutdown.fw.fellBack = true
      ∧ s.endShutdown.fw.committed = s.fw.committed := by
  have hlife := State.life_of_board s.flushAll_board
  have hfw : s.flushAll.fw = s.fw := State.fw_of_board s.flushAll_board
  unfold State.endShutdown
  dsimp only
  generalize s.flushAll = r at *
  rw [if_pos (by rw [hlife]; exact hfall), ← hfw]
  refine State.fallBack_firmware _ ?_
  simp only [State.mayStart574, hlife]
  exact hmay

/-- What another clean shutdown leaves while PWR_EN is deasserted (R577, R578). -/
theorem State.endShutdown_standby (s : State) (hfall : s.life.fallAfter = false) (hen : s.life.pwrEn = false) :
    s.endShutdown.life.phase = .standby ∧ s.endShutdown.life.cleanEnd = true ∧ s.endShutdown.life.dom.cc = false ∧ s.endShutdown.flash.journal = 0
      ∧ s.endShutdown.flash.dirty = [] := by
  have hlife := State.life_of_board s.flushAll_board
  unfold State.endShutdown
  dsimp only
  generalize s.flushAll = r at *
  rw [if_neg (by rw [hlife]; simp [hfall])]
  have hdown := State.life_of_board (State.powerDown_board { r with flash := { r.flash with journal := 0 } })
  obtain ⟨hdirty, hjournal⟩ := State.powerDown_flash { r with flash := { r.flash with journal := 0 } }
  generalize State.powerDown _ = q at *
  have hpin : q.life.pwrEn = false := by
    rw [hdown]
    exact (congrArg Life.pwrEn hlife).trans hen
  rw [State.tryStart, if_neg (by simp [State.mayStart574, hpin])]
  refine ⟨rfl, rfl, ?_, hjournal, hdirty⟩
  change q.life.dom.on .cc = false
  rw [hdown]
  exact r.life.dom.lower_off .cc

/-- With no job and no handover left, a shutdown ends, whether or not the time for jobs is over (R577). -/
theorem State.shutdownOver_done {s : State} (hexecs : s.sched.execs = []) (hhands : s.handsOver = false) : s.shutdownOver = s.endShutdown :=
  if_pos ⟨hexecs, by rw [hhands]; rfl⟩

theorem State.stopJobs_idle {s : State} (hexecs : s.sched.execs = []) : s.stopJobs = { s with host := { s.host with stopJobs := true } } := by
  simp [State.stopJobs, hexecs]

end Sys2Proof.Machine
end

section
/-!
CERTIFICATE of O50: inputs, recovery, start-up, shutdown, module reset and firmware trials.
-/
open Sys2Proof Sys2Proof.Machine

/-- Settles O50, each event by what its response, its flush or its loss of power leaves of the board. -/
theorem lifeCycle : Obligations.LifeCycle := by
  unfold Obligations.LifeCycle
  intro s
  refine ⟨fun hphase haux => ?_, fun hphase haux => ?_, fun hphase hao hready hen hheld => ?_, fun hphase => ?_, fun hphase => ?_,
    fun slot ok hphase hao hin => ?_, fun hao hin => ?_, fun hao hin => ?_, fun b a bb hphase hmay hboot => ?_, fun fs cs a bb hphase hmay hboot => ?_,
    fun hphase htime => ?_, fun htime => ?_, fun hphase hi3c => ?_, fun hi3c => ?_, fun hphase hexecs hhands hfall hmay => ?_,
    fun hphase hexecs hhands hfall hen => ?_, fun hphase htime hexecs => ?_, fun hphase hen hao hready hin hheld => ?_,
    fun hphase htime hfew hmay => ?_, fun hphase htime hmany hrecent => ?_, fun b htrial hin hrun hleft hhealthy => ?_,
    fun hin hphase hleft hexecs => ?_, fun hin hphase hleft hexecs hpaired hmay => ?_⟩
  · have hexec : exec .powerLoss s = execPowerLoss s := rfl
    have hpow : s.isPowered = true := by rw [State.isPowered, hphase]
    obtain ⟨hlost, hin48, -, hcc, hdirty⟩ := State.losePower_life { s with life := { s.life with in48Ok := false } }
    rw [Gives, hexec, execPowerLoss, s.lose48_powered hpow haux]
    generalize State.losePower _ = r at hlost hin48 hcc hdirty
    exact ⟨r, rfl, hlost, hin48, hcc, hdirty⟩
  · have hexec : exec .powerLoss s = execPowerLoss s := rfl
    rw [hexec, execPowerLoss, State.lose48]
    simp [State.isPowered, hphase, haux]
  · have hexec : exec .powerLossRestart s = execPowerLossRestart s := rfl
    rw [Gives, hexec, execPowerLossRestart]
    refine ⟨_, rfl, ?_⟩
    simp [hao, State.tryStart, State.mayStart574, hphase, hready, hen, hheld, State.atStart, State.clearFaults]
  · have hexec : exec .namespacesReady s = execNamespacesReady s := rfl
    rw [Gives, hexec, execNamespacesReady, if_neg (not_not.mpr hphase)]
    exact ⟨_, rfl, rfl⟩
  · have hexec : exec .namespacesReady s = execNamespacesReady s := rfl
    rw [hexec, execNamespacesReady, if_pos hphase]
  · have hexec : exec (.auxPowerOn slot ok) s = execAuxPowerOn slot ok s := rfl
    rw [Gives, hexec, execAuxPowerOn]
    refine ⟨_, rfl, ?_⟩
    simp [hao, State.aoStart, hphase, State.tryStart, State.mayStart574, hin]
  · have hexec : exec .auxPowerLoss s = execAuxPowerLoss s := rfl
    rw [Gives, hexec, execAuxPowerLoss]
    dsimp only
    rw [if_neg (by simp [hao]), if_pos hin]
    refine ⟨_, rfl, ?_, ?_, ?_, State.report_sticky _ 0 none (c := .note) rfl rfl⟩
    · rw [State.report_note_life (src := 0xCA) (ev := 2) _ 0 none rfl]
    · rw [State.report_note_life (src := 0xCA) (ev := 2) _ 0 none rfl]
    · rw [State.report_note_life (src := 0xCA) (ev := 2) _ 0 none rfl]
  · have hexec : exec .auxPowerLoss s = execAuxPowerLoss s := rfl
    rw [Gives, hexec, execAuxPowerLoss]
    dsimp only
    rw [hao, hin, if_neg (by decide), if_neg (by decide)]
    exact ⟨_, rfl, rfl⟩
  · have hexec : exec (.startUp [] [] a bb) s = execStartUp [] [] a bb s := rfl
    rw [Gives, hexec, execStartUp, if_neg (by simp [hphase, hmay]), hboot]
    obtain ⟨hlife, hnow, hrun, hmajor⟩ := s.boot_keeps b
    have hao : s.life.dom.ao = true := by
      simp only [State.mayStart574, Bool.and_eq_true] at hmay
      exact hmay.1.1.1
    have hnot : ((s.boot b).bringUp []).life.phase ≠ .majorOut := by
      change (s.boot b).life.phase ≠ _
      rw [hlife, hphase]
      decide
    have hfilter : ([] : List (Fin 256)).filter (fun n => decide (n.val ≤ 0xB7)) = [] := rfl
    dsimp only
    rw [hfilter, State.startTests_none hnot (by exact hmajor)]
    refine ⟨_, rfl, rfl, fun d => ?_, ?_, ?_, hnow⟩
    · change (s.boot b).life.dom.raise.on d = true
      rw [hlife]
      exact Domains.raise_on _ hao d
    · change (s.boot b).life.dom.raise.ao = true
      rw [hlife, Domains.raise_ao, hao]
    · exact (State.firmwareUp_running _).trans hrun
  · have hexec : exec (.startUp fs cs a bb) s = execStartUp fs cs a bb s := rfl
    rw [Gives, hexec, execStartUp, if_neg (by simp [hphase, hmay]), hboot]
    exact ⟨_, rfl, rfl, rfl⟩
  · have hexec : exec .bootTimeout s = execBootTimeout s := rfl
    rw [Gives, hexec, execBootTimeout, if_neg (by simp [hphase, htime])]
    obtain ⟨hA, hB⟩ := State.bootFailed_counts hphase
    generalize s.bootFailed = r at *
    refine ⟨_, rfl, ?_⟩
    dsimp only
    split
    · exact ⟨hA, hB⟩
    · have hend (c : Prop) [Decidable c] : (if c then r.endTrial else r).fw.failsA = r.fw.failsA ∧ (if c then r.endTrial else r).fw.failsB = r.fw.failsB := by
        split
        · exact r.endTrial_counts
        · exact ⟨rfl, rfl⟩
      exact ⟨(hend _).1.trans hA, (hend _).2.trans hB⟩
  · have hexec : exec .bootTimeout s = execBootTimeout s := rfl
    rw [hexec, execBootTimeout, if_pos (.inr htime)]
  · have hexec : exec .pwrEnDeassert s = execPwrEnDeassert s := rfl
    rw [Gives, hexec, execPwrEnDeassert, if_neg (by simp [hi3c])]
    dsimp only
    rw [hphase]
    dsimp only
    refine ⟨_, rfl, ?_⟩
    rw [(State.beginShutdown_keeps _ true).1]
    exact ⟨rfl, rfl, rfl⟩
  · have hexec : exec .pwrEnDeassert s = execPwrEnDeassert s := rfl
    rw [hexec, execPwrEnDeassert, if_pos hi3c]
  · have hexec : exec .runningJobShutdownEnd s = execRunningJobShutdownEnd s := rfl
    rw [Gives, hexec, execRunningJobShutdownEnd, if_neg (not_not.mpr hphase)]
    refine ⟨_, rfl, ?_⟩
    split
    · rw [State.stopJobs_idle hexecs, State.shutdownOver_done (by exact hexecs) (by exact hhands)]
      exact State.endShutdown_fallBack _ hfall hmay
    · rw [State.shutdownOver_done hexecs hhands]
      exact s.endShutdown_fallBack hfall hmay
  · have hexec : exec .runningJobShutdownEnd s = execRunningJobShutdownEnd s := rfl
    rw [Gives, hexec, execRunningJobShutdownEnd, if_neg (not_not.mpr hphase)]
    refine ⟨_, rfl, ?_⟩
    split
    · rw [State.stopJobs_idle hexecs, State.shutdownOver_done (by exact hexecs) (by exact hhands)]
      exact State.endShutdown_standby _ hfall hen
    · rw [State.shutdownOver_done hexecs hhands]
      exact s.endShutdown_standby hfall hen
  · have hexec : exec .runningJobShutdownEnd s = execRunningJobShutdownEnd s := rfl
    rw [hexec, execRunningJobShutdownEnd, if_neg (not_not.mpr hphase), if_neg (by omega), State.shutdownOver, if_neg (fun h => hexecs h.1)]
  · have hexec : exec .pwrEnAssert s = execPwrEnAssert s := rfl
    rw [Gives, hexec, execPwrEnAssert, State.raiseEn]
    refine ⟨_, rfl, ?_⟩
    simp [hen, hphase, State.tryStart, State.mayStart574, hao, hready, hin, hheld, State.atStart, State.clearFaults]
  · have hexec : exec .majorSelfReset s = execMajorSelfReset s := rfl
    obtain ⟨hstart, -, -, hactive, hfault, hnow⟩ := s.moduleReset_life hmay
    have hrecent : ¬3 ≤ (s.life.selfResets.filter fun t => decide (s.now < t + 3600000000000)).length :=
      fun h => absurd (h.trans (List.length_filter_le ..)) (by omega)
    rw [Gives, hexec, execMajorSelfReset, if_neg (by simp [hphase, htime])]
    dsimp only
    rw [if_neg hrecent]
    generalize s.moduleReset = r at *
    exact ⟨_, rfl, hstart, List.mem_append_right _ (by simp [hnow]), hactive, hfault⟩
  · have hexec : exec .majorSelfReset s = execMajorSelfReset s := rfl
    have hall : s.life.selfResets.filter (fun t => decide (s.now < t + 3600000000000)) = s.life.selfResets :=
      List.filter_eq_self.mpr fun t ht => decide_eq_true (hrecent t ht)
    rw [Gives, hexec, execMajorSelfReset, if_neg (by simp [hphase, htime])]
    dsimp only
    rw [hall, if_pos hmany]
    exact ⟨_, rfl, rfl⟩
  · have hexec : exec .trialPass s = execTrialPass s := rfl
    rw [Gives, hexec, execTrialPass, htrial]
    dsimp only
    rw [if_pos ⟨hin, hrun, hleft, hhealthy⟩]
    exact ⟨_, rfl, rfl, rfl, rfl, rfl⟩
  · have hexec : exec .trialTimeout s = execTrialTimeout s := rfl
    obtain ⟨hlife, hfw, hsched⟩ := s.beginShutdown_keeps false
    rw [Gives, hexec, execTrialTimeout, if_pos ⟨hin, .inr hphase, hleft⟩]
    dsimp only
    generalize s.beginShutdown false = r at *
    rw [State.shutdownOver, if_neg (by simp [hsched, hexecs])]
    exact ⟨_, rfl, by rw [hlife], rfl, by rw [hlife], hfw⟩
  · have hexec : exec .trialTimeout s = execTrialTimeout s := rfl
    obtain ⟨hlife, hfw, hsched⟩ := s.beginShutdown_keeps false
    have halone : s.beginShutdown false = { s with life := { s.life with phase := .cleanShutdown, shutAt := s.now, shutByPin := false } } :=
      if_neg (by
        change ¬s.paired = true
        simp [hpaired])
    rw [Gives, hexec, execTrialTimeout, if_pos ⟨hin, .inr hphase, hleft⟩, halone]
    dsimp only
    have hhands : s.handsOver = false := by rw [State.handsOver, hpaired, Bool.false_and]
    rw [State.shutdownOver_done (by exact hexecs) (by exact hhands)]
    refine ⟨_, rfl, ?_⟩
    obtain ⟨hstart, htrial, hover, hback, hcommitted⟩ := State.endShutdown_fallBack
      { s with life := { s.life with phase := .cleanShutdown, shutAt := s.now, shutByPin := false, fallAfter := true } } rfl hmay
    exact ⟨htrial, hover, hback, hcommitted, hstart⟩
end

section
/-!
SUPPORT. The groups of the pair, and what the module settles when its partner is gone (R493, R502 to R504).
-/
namespace Sys2Proof.Machine

/-! ## Groups -/

theorem State.group_out (s : State) {n : Nat} (h : ¬(1 ≤ n ∧ n ≤ 64)) : s.group n = {} := by
  unfold State.group
  split
  · rfl
  · rw [List.getElem?_eq_none (by simp; omega), Option.getD_none]

theorem State.group_of_groups {s t : State} (h : t.twin.groups = s.twin.groups) (n : Nat) : t.group n = s.group n := by
  simp only [State.group, h]

/-- Every group after an update of all. -/
theorem State.group_map {s t : State} {f : Group → Group} (h : t.twin.groups = s.twin.groups.map f) (n : Nat) :
    t.group n = if 1 ≤ n ∧ n ≤ 64 then f (s.group n) else {} := by
  split
  next hn =>
    have hlt : n - 1 < 64 := by omega
    simp [State.group, h, show n ≠ 0 by omega, hlt]
  next hn => exact t.group_out hn

/-- Every group after an update of one. -/
theorem State.group_modGroup (s : State) (g : Nat) (f : Group → Group) (n : Nat) :
    (s.modGroup g f).group n = if n = g ∧ 1 ≤ n ∧ n ≤ 64 then f (s.group n) else s.group n := by
  unfold State.modGroup
  by_cases hg : g = 0
  · rw [if_pos hg, if_neg (by omega)]
  rw [if_neg hg]
  by_cases hn : 1 ≤ n ∧ n ≤ 64
  · have hn0 : n ≠ 0 := by omega
    have hlt : n - 1 < 64 := by omega
    have hgroup : State.group { s with twin := { s.twin with groups := vmod s.twin.groups (g - 1) f } } n
        = (vmod s.twin.groups (g - 1) f).toList.getD (n - 1) {} := by
      simp [State.group, hn0]
    have hold : s.group n = s.twin.groups.toList.getD (n - 1) {} := by simp [State.group, hn0]
    rw [hgroup, hold]
    by_cases hng : n = g
    · subst hng
      rw [vmod_getD _ hlt, if_pos ⟨rfl, hn⟩]
    · have hne : ¬g - 1 = n - 1 := by omega
      rw [if_neg (by tauto)]
      by_cases hlast : g - 1 < 64
      · simp [vmod, vset, hlast, hne]
      · simp [vmod, hlast]
  · rw [if_neg (by omega), State.group_out _ hn, State.group_out _ hn]

theorem State.modGroup_twin (s : State) (g : Nat) (f : Group → Group) :
    (s.modGroup g f).twin = { s.twin with groups := (s.modGroup g f).twin.groups } := by
  unfold State.modGroup
  split
  · rfl
  · rfl

/-! ## A write of the pair -/

theorem State.holdAll_twin (s : State) (nsid lba : Nat) (bs : List PBlk) : (s.holdAll nsid lba bs).twin = s.twin := by
  induction bs generalizing s lba with
  | nil => rfl
  | cons b bs ih =>
    refine (ih ..).trans (ite_keeps State.twin ?_ rfl)
    exact ite_keeps State.twin rfl rfl

theorem DieWork.twin {s t : State} (h : DieWork s t) : t.twin = s.twin := by
  obtain ⟨_, _, _, _, _, _, _, _, rfl⟩ := h
  rfl

theorem State.zoneApply_twin (s : State) (nsid z : Nat) (act : ZoneAct) : (s.zoneApply nsid z act).twin = s.twin := by
  cases act <;> rfl

/-- What a write does on this module is no matter of the pair's. -/
theorem State.applyWrite_twin (s : State) (w : MirWrite) : (s.applyWrite w).twin = s.twin := by
  unfold State.applyWrite
  split
  · exact (State.gather_dieWork _).twin.trans (s.holdAll_twin ..)
  · rfl
  · exact (State.gather_dieWork _).twin.trans (s.zoneApply_twin ..)
  · rfl

/-! ## The partner is gone -/

/-- A group as it stands once nothing waits for the partner: its change map may have grown, and a handover may have ended. -/
structure Group.Settles (g g' : Group) : Prop where
  role : g'.role = g.role
  synced : g'.synced = g.synced
  homeHere : g'.homeHere = g.homeHere
  readOnly : g'.readOnly = g.readOnly
  ana : g'.ana = g.ana ∨ g'.ana = .optimized

theorem Group.Settles.refl (g : Group) : g.Settles g := ⟨rfl, rfl, rfl, rfl, .inl rfl⟩

theorem Group.Settles.trans {a b c : Group} (h : a.Settles b) (h' : b.Settles c) : a.Settles c :=
  ⟨h'.role.trans h.role, h'.synced.trans h.synced, h'.homeHere.trans h.homeHere, h'.readOnly.trans h.readOnly,
    h'.ana.elim (fun hc => h.ana.imp (hc.trans ·) (hc.trans ·)) .inr⟩

/-- Of the pair only its groups have changed, and they have settled. -/
structure Settled (s t : State) : Prop where
  twin : t.twin = { s.twin with groups := t.twin.groups }
  group : ∀ n, (s.group n).Settles (t.group n)

theorem Settled.of_twin {s t : State} (h : t.twin = s.twin) : Settled s t :=
  ⟨by rw [h], fun n => by rw [State.group_of_groups (congrArg Twin.groups h)]; exact .refl _⟩

theorem Settled.trans {s t u : State} (h : Settled s t) (h' : Settled t u) : Settled s u :=
  ⟨by rw [h'.twin, h.twin], fun n => (h.group n).trans (h'.group n)⟩

theorem Settled.foldl {α : Type} {f : State → α → State} (hf : ∀ s a, Settled s (f s a)) (l : List α) (s : State) : Settled s (l.foldl f s) :=
  List.foldlRecOn (motive := fun t : State => Settled s t) l f (.of_twin rfl) fun t ht a _ => ht.trans (hf t a)

theorem State.markChanged_settled (s : State) (w : MirWrite) : Settled s (s.markChanged w) := by
  unfold State.markChanged
  split
  · refine ⟨s.modGroup_twin .., fun n => ?_⟩
    · rw [State.group_modGroup]
      split
      · exact ⟨rfl, rfl, rfl, rfl, .inl rfl⟩
      · exact .refl _
  · exact .of_twin rfl

theorem State.soloWrite_settled (s : State) (u : Unacked) : Settled s (s.soloWrite u) := by
  have happly (t : State) (w : MirWrite) : Settled t ((t.applyWrite w).markChanged w) :=
    (Settled.of_twin (t.applyWrite_twin w)).trans (State.markChanged_settled _ w)
  have hanswer (t : State) (refuse : Bool) (os : List OutCmd) :
      Settled t (os.foldl (fun s o => if refuse then s.post o.hdr 0 0x20 0 0 else s.heldBoth o) t) := by
    refine Settled.foldl (fun s o => .of_twin ?_) os t
    exact ite_keeps State.twin rfl (ite_keeps State.twin rfl rfl)
  have hunawait (t : State) : Settled t (t.unawait u.group u.seq) := .of_twin rfl
  unfold State.soloWrite
  dsimp only
  cases u.w with
  | none => exact (hunawait s).trans (hanswer ..)
  | some w =>
    have hwrite (now : Prop) [Decidable now] : Settled s (if now then (s.applyWrite w).markChanged w else s.markChanged w) := by
      split
      · exact happly s w
      · exact s.markChanged_settled w
    exact ((hwrite _).trans (hunawait _)).trans (hanswer ..)

theorem State.keepHanding_settled (s : State) : Settled s s.keepHanding := by
  let u : State := { s with twin := { s.twin with
    groups := s.twin.groups.map fun g => if g.handing then { g with handing := false, handEp := none, ana := .optimized } else g } }
  have hkept : Settled s u := by
    refine ⟨rfl, fun n => ?_⟩
    rw [State.group_map (s := s) (t := u) rfl]
    by_cases hn : 1 ≤ n ∧ n ≤ 64
    · rw [if_pos hn]
      split
      · exact ⟨rfl, rfl, rfl, rfl, .inr rfl⟩
      · exact .refl _
    · rw [if_neg hn, s.group_out hn]
      exact .refl _
  have hanswer (os : List OutCmd) : Settled u (os.foldl (fun s o => s.badSeq o.hdr) u) := by
    refine Settled.foldl (fun t o => ?_) os u
    exact .of_twin rfl
  exact hkept.trans (hanswer _)

theorem State.withoutPartner_settled (s : State) :
    Settled { s with twin := { s.twin with unacked := [], epFlight := none, checkAt := none, owed := none } } s.withoutPartner := by
  have hepochs (t : State) : Settled t t.soloEpochs := by
    refine Settled.foldl (fun t o => ?_) _ t
    exact .of_twin rfl
  exact ((Settled.foldl State.soloWrite_settled _ _).trans (hepochs _)).trans (State.keepHanding_settled _)

end Sys2Proof.Machine
end

section
/-!
SUPPORT. Takeover (R499 to R501).
-/
namespace Sys2Proof.Machine

/-- The count of takeovers stands, and every group has at most settled. -/
structure Carried (s t : State) : Prop where
  takeovers : t.twin.takeovers = s.twin.takeovers
  group : ∀ n, (s.group n).Settles (t.group n)

theorem Carried.trans {s t u : State} (h : Carried s t) (h' : Carried t u) : Carried s u :=
  ⟨h'.takeovers.trans h.takeovers, fun n => (h.group n).trans (h'.group n)⟩

theorem Settled.carried {s t : State} (h : Settled s t) : Carried s t := ⟨by rw [h.twin], h.group⟩

theorem Carried.of_bond {s t : State} (h : t.bond = s.bond) : Carried s t := by
  have htakeovers : t.bond.takeovers = s.bond.takeovers := by rw [h]
  have hgroups : t.bond.groups = s.bond.groups := by rw [h]
  exact ⟨htakeovers, fun n => by rw [State.group_of_groups hgroups]; exact .refl _⟩

theorem State.takeWrites_carried (s : State) : Carried s s.takeWrites := by
  have hwrite (t : State) (w : MirWrite) (f : Group → Group) (hf : ∀ g : Group, g.Settles (f g)) :
      Settled t ((t.applyWrite w).modGroup w.group f) := by
    refine (Settled.of_twin (t.applyWrite_twin w)).trans ⟨State.modGroup_twin .., fun n => ?_⟩
    rw [State.group_modGroup]
    split
    · exact hf _
    · exact .refl _
  have hwrites (ws : List MirWrite) :
      Settled s (ws.foldl (fun s w => (s.applyWrite w).modGroup w.group fun g => { g with seq := max g.seq w.seq }) s) := by
    refine Settled.foldl (fun t w => ?_) ws s
    exact hwrite t w _ fun g => ⟨rfl, rfl, rfl, rfl, .inl rfl⟩
  have hdone (t : State) : Carried t { t with twin := { t.twin with waiting := [] } } := ⟨rfl, fun n => .refl _⟩
  exact (hwrites _).carried.trans (hdone _)

theorem State.putStaging_twin (s : State) (g : Staging) : (s.putStaging g).twin = s.twin := by
  refine foldl_keeps State.twin (fun s p => ?_) _ s
  unfold State.putPage
  dsimp only
  split
  · exact ite_keeps State.twin rfl rfl
  · rfl

theorem State.takeJobs_carried (s : State) : Carried s s.takeJobs := by
  have hput (gs : List Staging) : (gs.foldl State.putStaging s).twin = s.twin := foldl_keeps State.twin State.putStaging_twin gs s
  have hkept : (s.takeJobs.twin.takeovers, s.takeJobs.twin.groups) = (s.twin.takeovers, s.twin.groups) := by
    have hsame := congrArg (fun x : Twin => (x.takeovers, x.groups)) (hput ((s.twin.staging.filter Staging.isWhole).filter fun g => !g.applied))
    unfold State.takeJobs
    refine ite_keeps (fun t => (t.twin.takeovers, t.twin.groups)) hsame ?_
    exact (State.aer_keeps (fun t => (t.twin.takeovers, t.twin.groups)) (fun _ _ => rfl) _ _).trans hsame
  obtain ⟨htakeovers, hgroups⟩ := Prod.mk.inj hkept
  exact ⟨htakeovers, fun n => by rw [State.group_of_groups hgroups]; exact .refl _⟩

theorem State.takeTwins_carried (s : State) : Carried s s.takeTwins := by
  refine .of_bond (foldl_keeps State.bond (fun s i => ?_) _ s)
  split
  · next e _ => exact ite_keeps State.bond (congrArg (·.2.2) (s.dropExec_desk e)) (congrArg (·.2.2) (s.endExecAt_desk _ e _))
  · rfl

theorem State.takeGroups_group {s : State} {g : Nat} (hrole : (s.group g).role = .dummy) (hsynced : (s.group g).synced = true) :
    (s.takeGroups.group g).role = .declarer ∧ (s.takeGroups.group g).ana = .optimized := by
  have hgroups : s.takeGroups.twin.groups = s.twin.groups.map fun g =>
      if g.role = .dummy ∧ g.synced then { g with role := .declarer, ana := .optimized }
      else if g.role = .dummy then { g with ana := .inaccessible }
      else g := congrArg Twin.groups (State.aer_twin ..)
  have hin : 1 ≤ g ∧ g ≤ 64 := by
    by_contra h
    rw [s.group_out h] at hrole
    cases hrole
  rw [State.group_map hgroups, if_pos hin, if_pos ⟨hrole, hsynced⟩]
  exact ⟨rfl, rfl⟩

theorem State.takeGroups_takeovers (s : State) : s.takeGroups.twin.takeovers = s.twin.takeovers :=
  State.aer_keeps (fun t => t.twin.takeovers) (fun _ _ => rfl) _ _

theorem State.pairTo_twin (s : State) (st : PairSt) : ∃ since, (s.pairTo st).twin = { s.twin with st, since } := by
  unfold State.pairTo
  split
  next h => exact ⟨s.twin.since, by rw [← h]⟩
  next => exact ⟨s.now, State.aer_twin ..⟩

/-- What is left of a takeover once the groups are here (R499). -/
def State.survive (s : State) : State :=
  let s := ({ s with twin := { s.twin with takeovers := satAdd 65535 s.twin.takeovers 1 } }).log .takeover 0 0
  (s.pairTo .soloSurvivor).withoutPartner

theorem State.takeover_eq (s : State) : s.takeover = s.takeWrites.takeJobs.takeTwins.takeGroups.survive := rfl

/-- A pair state that the module enters without its partner. -/
theorem State.leavePair (s : State) (st : PairSt) : ((s.pairTo st).withoutPartner).twin.st = st ∧ ((s.pairTo st).withoutPartner).twin.unacked = []
    ∧ ((s.pairTo st).withoutPartner).twin.checkAt = none ∧ Carried s (s.pairTo st).withoutPartner
    ∧ ((s.pairTo st).withoutPartner).twin.cages = s.twin.cages := by
  obtain ⟨since, hpair⟩ := s.pairTo_twin st
  obtain ⟨htwin, hgroup⟩ := (s.pairTo st).withoutPartner_settled
  have hfrom (n : Nat) : (s.pairTo st).group n = s.group n := State.group_of_groups (by rw [hpair]) n
  rw [htwin, hpair]
  refine ⟨rfl, rfl, rfl, ⟨?_, fun n => ?_⟩, rfl⟩
  · rw [htwin, hpair]
  · rw [← hfrom]
    exact hgroup n

theorem State.survive_pair (s : State) : s.survive.twin.st = .soloSurvivor ∧ s.survive.twin.unacked = []
    ∧ s.survive.twin.takeovers = min 65535 (s.twin.takeovers + 1) ∧ ∀ n, (s.group n).Settles (s.survive.group n) := by
  obtain ⟨hst, hunacked, -, hcarried, -⟩ := State.leavePair
    (State.log { s with twin := { s.twin with takeovers := satAdd 65535 s.twin.takeovers 1 } } .takeover 0 0) .soloSurvivor
  exact ⟨hst, hunacked, hcarried.takeovers, hcarried.group⟩

theorem State.takeover_pair (s : State) : s.takeover.twin.st = .soloSurvivor ∧ s.takeover.twin.unacked = []
    ∧ s.takeover.twin.takeovers = min 65535 (s.twin.takeovers + 1)
    ∧ ∀ g, (s.group g).role = .dummy → (s.group g).synced = true → (s.takeover.group g).role = .declarer ∧ (s.takeover.group g).ana = .optimized := by
  have hcarried := (s.takeWrites_carried.trans (State.takeJobs_carried _)).trans (State.takeTwins_carried _)
  rw [State.takeover_eq]
  generalize s.takeWrites.takeJobs.takeTwins = u at *
  obtain ⟨hst, hunacked, htakeovers, hsettles⟩ := u.takeGroups.survive_pair
  refine ⟨hst, hunacked, ?_, fun g hrole hsynced => ?_⟩
  · rw [htakeovers, State.takeGroups_takeovers, hcarried.takeovers]
  · obtain ⟨hdeclarer, hana⟩ := State.takeGroups_group ((hcarried.group g).role.trans hrole) ((hcarried.group g).synced.trans hsynced)
    exact ⟨(hsettles g).role.trans hdeclarer, (hsettles g).ana.elim (·.trans hana) id⟩

/-! ## Cages -/

theorem vmod_get_ne {α : Type} {n : Nat} (v : Vector α n) {i j : Fin n} (h : j ≠ i) (f : α → α) : (vmod v i f)[j] = v[j] := by
  have hne : ¬i.val = j.val := fun hij => h (Fin.ext hij.symm)
  simp [vmod, vset, hne]

theorem State.linkLost_cages (s : State) : s.linkLost.twin.cages = s.twin.cages := by
  unfold State.linkLost
  split
  · split
    · rfl
    · exact (s.leavePair .soloSplit).2.2.2.2
  · rfl

/-- A cable group that is down has no lane (R476). -/
theorem State.groupDown_lanes (s : State) (g : Fin 4) : ((s.groupDown g).twin.cages[g]).lanes = 0 := by
  unfold State.groupDown
  split
  next h => exact h
  next =>
    exact (congrArg (fun v : Vector Cable 4 => (v[g]).lanes) (State.linkLost_cages _)).trans (congrArg Cable.lanes (vmod_get ..))

theorem faultClass_cable : ∀ g : Fin 4, faultClass (cableSrc g) 1 = some .note ∧ (cableSrc g).val = 0xB4 + g.val := by
  decide

theorem faultClass_cable_down : ∀ g : Fin 4, faultClass (cableSrc g) 2 = some .minor := by
  decide

theorem State.toPeer_fold {α : Type} (f : α → TwinMsg) (l : List α) (s : State) :
    (l.foldl (fun s a => s.toPeer (f a)) s).twin.out = s.twin.out ++ l.map f := by
  induction l generalizing s with
  | nil => simp
  | cons a l ih =>
    rw [List.foldl_cons, ih]
    simp [State.toPeer]

theorem State.remedy1_cable (s : State) (g : Fin 4) (whr : BitVec 24) : s.remedy1 (unitReport (cableSrc g) 2 whr) = s.groupDown g := by
  have hval := (faultClass_cable g).2
  have hg := g.isLt
  have hcable : Fin.ofNat 4 (0xB4 + g.val - 0xB4) = g := Fin.ext (by simp)
  unfold State.remedy1 unitReport
  dsimp only
  rw [hval, if_neg (by omega), if_neg (by omega), if_neg (by omega), if_neg (by omega), if_neg (by omega), if_neg (by omega), if_pos (by omega), hcable]

/-- A cable group that fails has no lane, whatever the response to its report does. -/
theorem State.groupFails_lanes (s : State) (g : Fin 4) : ((s.groupFails g).twin.cages[g]).lanes = 0 := by
  have hdown := s.groupDown_lanes g
  have hdark (flt : Collector) (health : Health) : ((State.board { s.groupDown g with flt, health }).cages[g]).lanes = 0 := hdown
  obtain ⟨flt, health, h | h | ⟨by_, h⟩ | h⟩ := (s.groupDown g).report_minor 0 (faultClass_cable_down g) (by rw [(faultClass_cable g).2]; omega)
  all_goals rw [State.groupFails, h]
  · exact hdown
  · exact (State.majorResponse_outlasts _).dark g (hdark flt health)
  · exact (State.trumpResponse_outlasts _ _).dark g (hdark flt health)
  · rw [State.remedy1_cable]
    exact State.groupDown_lanes _ g

/-- A heartbeat that a cable group misses (R495). -/
def Cable.miss (c : Cable) (now : Nat) : Cable :=
  { c with missed := satAdd 65535 c.missed 1, consec := if now ≤ c.lastMiss + 3000 then c.consec + 1 else 1, lastMiss := now }

theorem exec_heartbeatMiss {s : State} {cage : Fin 4} (hup : (s.twin.cages[cage]).isUp = true) :
    (s.modCage cage fun c => c.miss s.now).twin.cages[cage] = (s.twin.cages[cage]).miss s.now
    ∧ exec (.heartbeatMiss cage) s
      = .next (if 4 ≤ (if s.now ≤ (s.twin.cages[cage]).lastMiss + 3000 then (s.twin.cages[cage]).consec + 1 else 1)
        then (s.modCage cage fun c => c.miss s.now).groupFails cage else s.modCage cage fun c => c.miss s.now) := by
  have hcage : (s.modCage cage fun c => c.miss s.now).twin.cages[cage] = (s.twin.cages[cage]).miss s.now := vmod_get ..
  refine ⟨hcage, ?_⟩
  have hfirst : ¬(!(s.twin.cages[cage]).isUp) = true := by rw [hup]; decide
  have hexec : exec (.heartbeatMiss cage) s = .next (if 4 ≤ ((s.modCage cage fun c => c.miss s.now).twin.cages[cage]).consec
      then (s.modCage cage fun c => c.miss s.now).groupFails cage else s.modCage cage fun c => c.miss s.now) :=
    congrArg Host.Outcome.next (if_neg hfirst)
  rw [hexec, hcage]
  rfl

/-! ## Both declare a group (R505) -/

/-- A group that both modules declare. -/
def State.markConflict (s : State) (g : Nat) : State := s.modGroup g fun x => { x with role := .conflict, readOnly := decide (s.twin.rank = 1) }

theorem State.markConflict_fold (l : List Nat) (s : State) {g : Nat} (hin : 1 ≤ g ∧ g ≤ 64)
    (h : g ∈ l ∨ (s.group g).role = .conflict ∧ (s.group g).readOnly = decide (s.twin.rank = 1)) :
    ((l.foldl State.markConflict s).group g).role = .conflict ∧ ((l.foldl State.markConflict s).group g).readOnly = decide (s.twin.rank = 1) := by
  induction l generalizing s with
  | nil => exact h.resolve_left List.not_mem_nil
  | cons x l ih =>
    have hrank : (s.markConflict x).twin.rank = s.twin.rank := by rw [State.markConflict, State.modGroup_twin]
    rw [List.foldl_cons, ← hrank]
    refine ih _ ?_
    rw [hrank, State.markConflict, State.group_modGroup]
    by_cases hx : g = x
    · exact .inr (by rw [if_pos ⟨hx, hin⟩]; exact ⟨rfl, rfl⟩)
    · rw [if_neg (by tauto)]
      exact h.imp_left fun hmem => (List.mem_cons.mp hmem).resolve_left hx

/-- A cage of the link has power. -/
theorem trainable {s : State} {cage : Fin 4} (htl : s.life.dom.tl = true) (hon : (s.phys.twin[cage]).supplyOff = false) :
    ¬((!s.life.dom.tl) = true ∨ (s.phys.twin[cage]).supplyOff = true) := by
  rintro (h | h)
  · simp [htl] at h
  · exact absurd (h.symm.trans hon) (by decide)

end Sys2Proof.Machine
end

section
/-!
CERTIFICATE of O52: lane training, heartbeats, the witness, takeover and the return of the link.
-/
open Sys2Proof Sys2Proof.Machine

/-- Settles O52, with takeover as a chain of steps that carry the groups. -/
theorem twinLink : Obligations.TwinLink := by
  unfold Obligations.TwinLink
  intro s
  refine ⟨fun cage lane p htl hon hother hpeer => ?_, fun cage lane p htl hon hown => ?_, fun cage lane hlane hheld hleft => ?_, fun htl hcc => ?_,
    fun cage hup hfew => ?_, fun cage hup hthree hlast => ?_, fun addr hcc hhn => ?_, fun t0 hcheck htime hlink hpaired => ?_,
    fun t0 hcheck htime hlink => ?_, fun hpaired => ?_, fun gs hlink hsolo hnone => ?_, fun gs g0 hlink hsolo hmem hrole => ?_⟩
  · have hexec : exec (.laneTraining cage lane (some p)) s = execLaneTraining cage lane (some p) s := rfl
    have hgood : ¬(p.serial = s.ident.serial ∨ (s.twin.peerSerial ≠ [] ∧ p.serial ≠ s.twin.peerSerial)) := by
      rintro (h | ⟨_, h⟩)
      · exact hother h
      · exact h hpeer.symm
    rw [Gives, hexec, execLaneTraining, if_neg (trainable htl hon)]
    rw [if_neg hgood]
    refine ⟨_, rfl, ?_⟩
    have hcages : (s.laneUp cage lane p).twin.cages = vmod s.twin.cages cage fun c => { c with
        lanes := c.lanes ||| BitVec.twoPow 8 lane.val, peer := p.cage, held := false, consec := 0
        crossed := (c.crossed && c.lanes != 0) || (p.lane != lane || p.inverted) } := by
      exact ite_keeps (fun t => t.twin.cages) rfl rfl
    rw [hcages]
    refine ⟨?_, ?_, ?_, fun c hc => vmod_get_ne _ hc _⟩
    · exact congrArg Cable.lanes (vmod_get ..)
    · exact congrArg Cable.peer (vmod_get ..)
    · exact congrArg Cable.held (vmod_get ..)
  · have hexec : exec (.laneTraining cage lane (some p)) s = execLaneTraining cage lane (some p) s := rfl
    rw [Gives, hexec, execLaneTraining, if_neg (trainable htl hon)]
    rw [if_pos (.inl hown)]
    refine ⟨_, rfl, ?_, ?_⟩
    · exact congrArg Cable.held (vmod_get ..)
    · exact (congrArg Cable.lanes (vmod_get ..)).trans (s.groupDown_lanes cage)
  · have hexec : exec (.laneErrorRetrain cage lane) s = execLaneErrorRetrain cage lane s := rfl
    let u := s.modCage cage fun c => { c with lanes := c.lanes &&& ~~~(BitVec.twoPow 8 lane.val), retrains := satAdd 65535 c.retrains 1 }
    have hcage : u.twin.cages[cage] = { s.twin.cages[cage] with
        lanes := (s.twin.cages[cage]).lanes &&& ~~~(BitVec.twoPow 8 lane.val), retrains := satAdd 65535 (s.twin.cages[cage]).retrains 1 } := vmod_get ..
    have hup : (u.twin.cages[cage]).isUp = true := by
      rw [hcage]
      change (decide (4 ≤ popcount 8 ((s.twin.cages[cage]).lanes &&& ~~~(BitVec.twoPow 8 lane.val)).toNat) && !(s.twin.cages[cage]).held) = true
      rw [decide_eq_true hleft, hheld]
      rfl
    have hrun : exec (.laneErrorRetrain cage lane) s = .next (u.report (cableSrc cage) 1 0 none) := by
      have hfirst : ¬(!(s.twin.cages[cage]).lanes.getLsbD lane.val) = true := by rw [hlane]; decide
      have hsecond : ¬((s.twin.cages[cage]).isUp = true ∧ (!(u.twin.cages[cage]).isUp) = true) := by
        rintro ⟨_, h⟩
        rw [hup] at h
        cases h
      exact congrArg Host.Outcome.next ((if_neg hfirst).trans (if_neg hsecond))
    obtain ⟨hnote, hval⟩ := faultClass_cable cage
    obtain ⟨_, _, _, hrep⟩ := u.report_note 0 none hnote
    have hsticky := u.report_sticky 0 none hnote hval
    refine ⟨_, hrun, ?_, ?_, hsticky, ?_⟩
    · rw [hrep]
      exact congrArg Cable.lanes hcage
    · rw [hrep]
      exact congrArg Cable.retrains hcage
    · rw [hrep]
      rfl
  · have hexec : exec .heartbeatSend s = execHeartbeatSend s := rfl
    rw [Gives, hexec, execHeartbeatSend, if_pos ⟨htl, hcc⟩]
    exact ⟨_, rfl, State.toPeer_fold ..⟩
  · obtain ⟨hcage, hrun⟩ := exec_heartbeatMiss hup
    have hfew' : ¬4 ≤ (if s.now ≤ (s.twin.cages[cage]).lastMiss + 3000 then (s.twin.cages[cage]).consec + 1 else 1) := by
      split <;> omega
    rw [if_neg hfew'] at hrun
    exact ⟨_, hrun, by rw [hcage]; rfl, by rw [hcage]; rfl⟩
  · obtain ⟨_, hrun⟩ := exec_heartbeatMiss hup
    rw [if_pos hlast, hthree, if_pos (le_refl 4)] at hrun
    refine ⟨_, hrun, State.groupFails_lanes _ cage, ?_⟩
    exact State.report_sticky _ 0 none (faultClass_cable_down cage) (faultClass_cable cage).2
  · have hexec : exec (.witnessProbe addr) s = execWitnessProbe addr s := rfl
    rw [Gives, hexec, execWitnessProbe, if_pos ⟨hcc, hhn⟩]
    exact ⟨_, rfl, rfl⟩
  · have hexec : exec .witnessTimeout s = execWitnessTimeout s := rfl
    rw [Gives, hexec, execWitnessTimeout, hcheck]
    dsimp only
    rw [if_pos ⟨htime, by simp [hlink], hpaired⟩]
    exact ⟨_, rfl, s.takeover_pair⟩
  · have hexec : exec .witnessAnswer s = execWitnessAnswer s := rfl
    rw [Gives, hexec, execWitnessAnswer, hcheck]
    dsimp only
    rw [if_pos ⟨htime, by simp [hlink]⟩]
    obtain ⟨hst, hunacked, hcheck', hcarried, -⟩ := s.leavePair .soloSplit
    exact ⟨_, rfl, hst, hunacked, hcheck', hcarried.takeovers⟩
  · have hexec : exec .failureAnnouncement s = execFailureAnnouncement s := rfl
    obtain ⟨hst, -, -, hgroups⟩ := s.takeover_pair
    rw [Gives, hexec, execFailureAnnouncement, if_pos hpaired]
    exact ⟨_, rfl, hst, fun g hd hs => (hgroups g hd hs).1⟩
  · have hexec : exec (.linkReturn gs) s = execLinkReturn gs s := rfl
    have hboth : gs.filter (fun g => (s.group g).role == .declarer) = [] :=
      List.filter_eq_nil_iff.mpr fun g hg => by simpa using hnone g hg
    rw [Gives, hexec, execLinkReturn, if_neg (by simp [hlink, hsolo]), hboth]
    dsimp only
    rw [if_pos rfl]
    obtain ⟨since, hpair⟩ := s.pairTo_twin .soloSplit
    exact ⟨_, rfl, by rw [hpair], by rw [hpair]⟩
  · have hexec : exec (.linkReturn gs) s = execLinkReturn gs s := rfl
    have hboth : gs.filter (fun g => (s.group g).role == .declarer) ≠ [] :=
      List.ne_nil_of_mem (List.mem_filter.mpr ⟨hmem, by simp [hrole]⟩)
    rw [Gives, hexec, execLinkReturn, if_neg (by simp [hlink, hsolo])]
    dsimp only
    rw [if_neg hboth]
    obtain ⟨since, hpair⟩ := State.pairTo_twin ((gs.filter fun g => (s.group g).role == .declarer).foldl State.markConflict s) .conflict
    refine ⟨_, rfl, congrArg Twin.st hpair, fun g hg hdecl => ?_⟩
    have hin : 1 ≤ g ∧ g ≤ 64 := by
      by_contra h
      rw [s.group_out h] at hdecl
      cases hdecl
    obtain ⟨hrole', hro⟩ := State.markConflict_fold (gs.filter fun g => (s.group g).role == .declarer) s hin
      (.inl (List.mem_filter.mpr ⟨hg, by simp [hdecl]⟩))
    generalize hmarked : (gs.filter fun g => (s.group g).role == .declarer).foldl State.markConflict s = u at *
    have hsame : (u.pairTo .conflict).group g = u.group g := State.group_of_groups (by rw [hpair]) g
    subst hmarked
    refine ⟨(congrArg Group.role hsame).trans hrole', ?_⟩
    have hro' := (congrArg Group.readOnly hsame).trans hro
    exact (iff_of_eq (congrArg (· = true) hro')).trans decide_eq_true_iff
end

section
/-!
SUPPORT. Commands that are answered together, events that are told, and the procedures of the pair (R502, R506 to R510).
-/
namespace Sys2Proof.Machine

/-! ## Answers -/

/-- Commands that are answered one after the other are no longer outstanding. -/
theorem mem_cmds_foldl {f : State → OutCmd → State} (hf : ∀ s o, (f s o).host.cmds = s.host.cmds.filter fun x => !(x.hdr == o.hdr))
    (os : List OutCmd) (s : State) {x : OutCmd} (hx : x ∈ (os.foldl f s).host.cmds) : x ∈ s.host.cmds ∧ ∀ o ∈ os, x.hdr ≠ o.hdr := by
  induction os generalizing s with
  | nil => exact ⟨hx, fun o ho => absurd ho List.not_mem_nil⟩
  | cons o os ih =>
    obtain ⟨hmem, hrest⟩ := ih _ hx
    rw [hf, List.mem_filter] at hmem
    obtain ⟨hmem, hne⟩ := hmem
    exact ⟨hmem, List.forall_mem_cons.mpr ⟨by simpa using hne, hrest⟩⟩

/-- Once those that wait for something are answered, none waits for it. -/
theorem State.not_waiting_of_answered {s : State} {f : State → OutCmd → State} {p : WaitOn → Bool}
    (hf : ∀ s o, (f s o).host.cmds = s.host.cmds.filter fun x => !(x.hdr == o.hdr)) {x : OutCmd}
    (hx : x ∈ ((s.waitingOn p).foldl f s).host.cmds) : p x.wait = false := by
  obtain ⟨hmem, hne⟩ := mem_cmds_foldl hf _ _ hx
  by_contra hp
  exact hne x (List.mem_filter.mpr ⟨hmem, by simpa using hp⟩) rfl

/-! ## Events -/

/-- Only asynchronous events have been told or queued. -/
def Told (s t : State) : Prop := ∃ aerReqs aers aerQueue, t.host = { s.host with aerReqs, aers, aerQueue }

theorem State.aer_told (s : State) (a : Aer) : Told s (s.aer a) := by
  refine List.foldlRecOn (motive := fun t : State => Told s t) _ _ ⟨_, _, _, rfl⟩ ?_
  rintro t ⟨_, _, _, ht⟩ k -
  split
  · exact ⟨_, _, _, by rw [ht]⟩
  · exact ⟨_, _, _, by rw [ht]⟩

theorem State.pairTo_told (s : State) (st : PairSt) : Told s (s.pairTo st) := by
  unfold State.pairTo
  split
  · exact ⟨_, _, _, rfl⟩
  · exact State.aer_told _ _

theorem Told.cq {s t : State} (h : Told s t) : t.host.cq = s.host.cq := by
  obtain ⟨_, _, _, hhost⟩ := h
  rw [hhost]

/-- A command is answered the same after events have been told. -/
theorem Told.ok_cq {s t : State} (ht : Told s t) {h : Hdr} (hl : s.live h = true) (hd : h ∉ s.host.miDrop) :
    (t.ok h).host.cq = s.host.cq ++ [{ hdr := h, sct := 0, sc := 0, dw0 := 0, dw1 := 0 }] := by
  obtain ⟨_, _, _, hhost⟩ := ht
  have hcq : t.host.cq = s.host.cq := by rw [hhost]
  have hl' : t.live h = true := by
    rw [← hl]
    simp only [State.live, hhost]
  rw [← hcq]
  exact State.ok_cq_of_live hl' (by rw [hhost]; exact hd)

/-! ## Groups one by one -/

/-- Groups that an operation reaches one by one all come to have a property that it gives. -/
theorem group_foldl {f : State → Nat → State} {P : Group → Prop} (hset : ∀ s g, 1 ≤ g ∧ g ≤ 64 → P ((f s g).group g))
    (hkeep : ∀ s g n, n ≠ g → (f s g).group n = s.group n) (l : List Nat) (s : State) {n : Nat} (hin : 1 ≤ n ∧ n ≤ 64)
    (h : n ∈ l ∨ P (s.group n)) : P ((l.foldl f s).group n) := by
  induction l generalizing s with
  | nil => exact h.resolve_left List.not_mem_nil
  | cons g l ih =>
    refine ih _ ?_
    by_cases hn : n = g
    · exact .inr (hn ▸ hset s g (hn ▸ hin))
    · rw [hkeep s g n hn]
      exact h.imp_left fun hmem => (List.mem_cons.mp hmem).resolve_left hn

theorem State.group_in {s : State} {n : Nat} {r : Role} (h : (s.group n).role = r) (hr : r ≠ .unused) : 1 ≤ n ∧ n ≤ 64 := by
  by_contra hout
  rw [s.group_out hout] at h
  exact hr h.symm

theorem State.group_handOver (s : State) (g n : Nat) :
    (s.handOver g).group n = if n = g ∧ 1 ≤ n ∧ n ≤ 64 then { s.group n with ana := .transition, handing := true, handEp := none } else s.group n :=
  s.group_modGroup g _ n

theorem State.handOver_host (s : State) (g : Nat) : (s.handOver g).host = s.host := by
  unfold State.handOver State.modGroup
  split <;> rfl

theorem State.handOver_fold {s : State} {l : List Nat} {n : Nat} (hin : 1 ≤ n ∧ n ≤ 64) (h : n ∈ l) :
    ((l.foldl State.handOver s).group n).handing = true ∧ ((l.foldl State.handOver s).group n).ana = .transition := by
  refine group_foldl (P := fun g : Group => g.handing = true ∧ g.ana = .transition) (fun t g hg => ?_) (fun t g m hm => ?_) l s hin (.inl h)
  · rw [State.group_handOver, if_pos ⟨rfl, hg⟩]
    exact ⟨rfl, rfl⟩
  · rw [State.group_handOver, if_neg (fun h => hm h.1)]

theorem State.mem_ours {s : State} {g : Nat} (h : g ∈ s.ours) : 1 ≤ g ∧ g ≤ 64 := by
  obtain ⟨hmem, -⟩ := List.mem_filter.mp h
  obtain ⟨i, hi, rfl⟩ := List.mem_map.mp hmem
  have hlt : i < 64 := List.mem_range.mp hi
  omega

/-- The copies of a group that are sent change neither the state of the pair nor its groups. -/
theorem State.sendGroup_keeps (s : State) (g : Nat) (all : Bool) : ((s.sendGroup g all).twin.st, (s.sendGroup g all).twin.memSeq, (s.sendGroup g all).twin.memRecv,
    (s.sendGroup g all).twin.groups, (s.sendGroup g all).host) = (s.twin.st, s.twin.memSeq, s.twin.memRecv, s.twin.groups, s.host) :=
  foldl_keeps (f := fun (s : State) (w : MirWrite) => s.toPeer (.resilver w))
    (fun t => (t.twin.st, t.twin.memSeq, t.twin.memRecv, t.twin.groups, t.host)) (fun _ _ => rfl) _ s

/-- What resilvering begins with (R508). -/
theorem State.resilver_begins (s : State) (all : Bool) : (s.resilver all).twin.st = .resilvering ∧ (s.resilver all).twin.memSeq = 0
    ∧ (s.resilver all).twin.memRecv = 0 ∧ Told s (s.resilver all)
    ∧ ∀ g, (s.group g).role = .dummy → ((s.resilver all).group g).synced = false ∧ ((s.resilver all).group g).ana = .inaccessible := by
  obtain ⟨since, htwin⟩ := s.pairTo_twin .resilvering
  have htold := s.pairTo_told .resilvering
  have hkept (u : State) (gs : List Nat) : (fun t : State => (t.twin.st, t.twin.memSeq, t.twin.memRecv, t.twin.groups, t.host))
      (gs.foldl (fun s g => if (s.group g).role = .declarer then s.sendGroup g all else s) u)
      = (u.twin.st, u.twin.memSeq, u.twin.memRecv, u.twin.groups, u.host) :=
    foldl_keeps (fun t : State => (t.twin.st, t.twin.memSeq, t.twin.memRecv, t.twin.groups, t.host))
      (fun s g => ite_keeps (fun t : State => (t.twin.st, t.twin.memSeq, t.twin.memRecv, t.twin.groups, t.host)) (s.sendGroup_keeps g all) rfl) gs u
  unfold State.resilver
  dsimp only
  generalize s.pairTo .resilvering = u at *
  have hsent := hkept { u with twin := { u.twin with
    groups := u.twin.groups.map fun g => if g.role = .dummy then { g with synced := false, ana := .inaccessible } else g
    memSeq := 0, memRecv := 0, waiting := [], applied := [], staging := [], resLeft := 0, resDone := 0, dirty := true } } ((upto 64).map (· + 1))
  generalize List.foldl _ _ _ = v at *
  simp only [Prod.mk.injEq] at hsent
  obtain ⟨hst, hseq, hrecv, hgroups, hhost⟩ := hsent
  refine ⟨hst.trans (congrArg Twin.st htwin), hseq, hrecv, ?_, fun g hg => ?_⟩
  · obtain ⟨_, _, _, h⟩ := htold
    exact ⟨_, _, _, hhost.trans h⟩
  · have hfrom : u.group g = s.group g := State.group_of_groups (by rw [htwin]) g
    rw [State.group_map hgroups, if_pos (State.group_in hg (by decide)), hfrom, if_pos hg]
    exact ⟨rfl, rfl⟩

/-! ## The end of a pairing (R507) -/

/-- Nothing is in the empty image for a module to adopt. -/
theorem State.adopt_noEpoch (s : State) :
    ((s.adopt noEpoch noEpoch).twin.st, (s.adopt noEpoch noEpoch).twin.kek, (s.adopt noEpoch noEpoch).twin.rank) = (s.twin.st, s.twin.kek, s.twin.rank) := by
  have htable (t : State) : t.adoptTable noEpoch = t := if_neg (Nat.not_lt_zero _)
  have hgroups (t : State) : t.adoptGroups noEpoch noEpoch = t := rfl
  have hsettings (t : State) : (t.adoptSettings noEpoch noEpoch).twin = t.twin := rfl
  unfold State.adopt
  dsimp only
  rw [htable, hgroups]
  exact ite_keeps (fun t => (t.twin.st, t.twin.kek, t.twin.rank)) rfl rfl

theorem State.pairDone_keeps (s : State) (good : Bool) : (s.pairDone good).twin = s.twin ∧ (s.pairDone good).host.nss = s.host.nss
    ∧ ∀ o ∈ (s.pairDone good).host.cmds, o.wait ≠ .pairing := by
  refine ⟨foldl_keeps State.twin (fun s o => ?_) _ s, foldl_keeps (fun t => t.host.nss) (fun s o => ?_) _ s, fun o ho => ?_⟩
  · exact ite_keeps State.twin rfl rfl
  · exact ite_keeps (fun t => t.host.nss) rfl rfl
  · have hwaits := State.not_waiting_of_answered (p := (· == .pairing)) (fun s o => ite_keeps (fun t => t.host.cmds) rfl rfl) ho
    simpa using hwaits

theorem State.pairFails_gives (s : State) : s.pairFails.twin.st = .unpaired ∧ s.pairFails.twin.peerSerial = [] ∧ s.pairFails.host.nss = s.host.nss
    ∧ ∀ o ∈ s.pairFails.host.cmds, o.wait ≠ .pairing := by
  obtain ⟨since, htwin⟩ := State.pairTo_twin { s with twin := { s.twin with peerSerial := [], pairAt := none, adopted := none } } .unpaired
  obtain ⟨_, _, _, hhost⟩ := State.pairTo_told { s with twin := { s.twin with peerSerial := [], pairAt := none, adopted := none } } .unpaired
  unfold State.pairFails
  dsimp only
  generalize State.pairTo _ .unpaired = u at *
  obtain ⟨hpair, hnss, hcmds⟩ := u.pairDone_keeps false
  rw [hpair, hnss, htwin, hhost]
  exact ⟨rfl, rfl, rfl, hcmds⟩

/-- Two modules without namespaces are paired at once. -/
theorem State.pairMade_empty {s : State} (hnss : s.host.nss = []) (hadopted : s.twin.adopted = none) :
    s.pairMade.twin.st = .paired ∧ s.pairMade.twin.kek = some s.free
      ∧ s.pairMade.twin.rank = (if serialLt s.ident.serial s.twin.peerSerial then 0 else 1) ∧ ∀ o ∈ s.pairMade.host.cmds, o.wait ≠ .pairing := by
  let u : State := { s with
    free := s.free + 1
    twin := { s.twin with
      rank := if serialLt s.ident.serial s.twin.peerSerial then 0 else 1, kek := some s.free, pairAt := none, adopted := none
      memSeq := 0, memRecv := 0, unacked := [], epFlight := none, dirty := true } }
  have hmade : s.pairMade = ((u.pairTo .paired).adopt noEpoch noEpoch).pairDone true := by
    unfold State.pairMade
    rw [hadopted]
    have hempty : (s.host.nss.isEmpty && noEpoch.nss.isEmpty) = true := by rw [hnss]; rfl
    dsimp only [Option.getD_none]
    rw [hempty]
    rfl
  obtain ⟨since, htwin⟩ := u.pairTo_twin .paired
  obtain ⟨hpair, -, hcmds⟩ := ((u.pairTo .paired).adopt noEpoch noEpoch).pairDone_keeps true
  have hadopt := (u.pairTo .paired).adopt_noEpoch
  rw [hmade, hpair]
  simp only [Prod.mk.injEq] at hadopt
  obtain ⟨hst, hkek, hrank⟩ := hadopt
  rw [hst, hkek, hrank, htwin]
  exact ⟨rfl, rfl, rfl, hcmds⟩

theorem State.deleteNs_twin (s : State) (n : Ns) : (s.deleteNs n).twin = s.twin := rfl

/-- A namespace that is left is one that was there, and not one of the deleted. -/
theorem State.mem_nss_deleteNs {ns : List Ns} {s : State} {x : Ns} (hx : x ∈ (ns.foldl State.deleteNs s).host.nss) :
    ∃ y ∈ s.host.nss, y.nsid = x.nsid ∧ y.group = x.group ∧ ∀ n ∈ ns, n.nsid ≠ x.nsid := by
  induction ns generalizing s with
  | nil => exact ⟨x, hx, rfl, rfl, fun n hn => absurd hn List.not_mem_nil⟩
  | cons n ns ih =>
    obtain ⟨y, hy, hid, hgroup, hrest⟩ := ih hx
    obtain ⟨hwiped, hne⟩ := List.mem_filter.mp hy
    obtain ⟨z, hz, hzy⟩ := List.mem_map.mp hwiped
    have hsame : z.nsid = y.nsid ∧ z.group = y.group := by
      rw [← hzy]
      split <;> exact ⟨rfl, rfl⟩
    refine ⟨z, hz, hsame.1.trans hid, hsame.2.trans hgroup, List.forall_mem_cons.mpr ⟨fun h => ?_, hrest⟩⟩
    simp [hid, h] at hne

end Sys2Proof.Machine
end

section
/-!
CERTIFICATE of O51: the Pair Control functions and the end of a pairing.
-/
open Sys2Proof Sys2Proof.Machine

/-- Settles O51, one lemma for each procedure of the pair. -/
theorem pairControl : Obligations.PairControl := by
  unfold Obligations.PairControl
  intro s h k hk ha hr hd
  have hl := State.live_onHost hk
  refine ⟨fun serial hlen hst => ?_, fun serial hst => ?_, fun t0 trained hst hat htime => ?_, fun hst hlink hnss hadopted => ?_, fun cdw11 hst => ?_,
    fun cdw11 hsolo hlink => ?_, fun hst hhome => ?_, fun g0 hst hours haway => ?_, fun cdw11 hst hours hsynced => ?_, fun n hn => ?_⟩
  · have hexec : exec (.pair h serial) s = execPair h serial s := rfl
    rw [Gives, hexec, execPair, State.rootCmd_onHost hk ha hr, if_neg (not_not.mpr hst), if_neg (not_not.mpr hlen)]
    obtain ⟨since, htwin⟩ := State.pairTo_twin { s.untrained with
      life := { s.untrained.life with dom := s.untrained.life.dom.turnOn .tl }
      twin := { s.untrained.twin with peerSerial := serial, pairAt := some s.untrained.now, adopted := none, epAdopted := 0 } } .training
    have htold := State.pairTo_told { s.untrained with
      life := { s.untrained.life with dom := s.untrained.life.dom.turnOn .tl }
      twin := { s.untrained.twin with peerSerial := serial, pairAt := some s.untrained.now, adopted := none, epAdopted := 0 } } .training
    refine ⟨_, rfl, ?_⟩
    dsimp only
    generalize State.pairTo _ .training = u at htwin htold
    exact ⟨congrArg Twin.st htwin, congrArg Twin.peerSerial htwin, congrArg Twin.pairAt htwin, ⟨_, List.mem_append_right _ (List.mem_singleton_self _), rfl, rfl⟩,
      htold.cq⟩
  · have hexec : exec (.pair h serial) s = execPair h serial s := rfl
    rw [hexec, execPair, State.rootCmd_onHost hk ha hr, if_pos hst]
    rfl
  · have hexec : exec (.pairTimeout false trained) s = execPairTimeout false trained s := rfl
    rw [Gives, hexec, execPairTimeout, if_neg (not_not.mpr hst), if_neg (by simp), hat]
    dsimp only
    rw [if_pos htime]
    exact ⟨_, rfl, s.pairFails_gives⟩
  · have hexec : exec (.pairTimeout true true) s = execPairTimeout true true s := rfl
    rw [Gives, hexec, execPairTimeout, if_neg (not_not.mpr hst), if_pos ⟨rfl, rfl, hlink⟩, if_neg (fun h => h.1 hnss)]
    exact ⟨_, rfl, State.pairMade_empty hnss hadopted⟩
  · have hexec : exec (.unpair h cdw11) s = execUnpair h cdw11 s := rfl
    rw [Gives, hexec, execUnpair, State.rootCmd_onHost hk ha hr, if_pos (.inl hst)]
    obtain ⟨hunpaired, hunacked, -, hcarried, -⟩ := s.leavePair .unpaired
    dsimp only
    generalize (s.pairTo .unpaired).withoutPartner = u at *
    have htwin : ((u.host.nss.filter fun n => (u.group n.group).role == .dummy).foldl State.deleteNs u).twin = u.twin :=
      foldl_keeps State.twin State.deleteNs_twin _ u
    have hnss {x : Ns} (hx : x ∈ ((u.host.nss.filter fun n => (u.group n.group).role == .dummy).foldl State.deleteNs u).host.nss) :
        (s.group x.group).role ≠ .dummy := by
      intro hdummy
      obtain ⟨y, hy, hid, hgroup, hrest⟩ := State.mem_nss_deleteNs hx
      refine hrest y (List.mem_filter.mpr ⟨hy, ?_⟩) hid
      rw [hgroup, (hcarried.group _).role, hdummy]
      rfl
    generalize (u.host.nss.filter fun n => (u.group n.group).role == .dummy).foldl State.deleteNs u = v at *
    have hgroup {t : State} (ht : t.twin.groups = v.twin.groups.map fun g =>
        if g.role = .declarer then { g with homeHere := true, synced := true, changed := [] } else ({} : Group)) (g : Nat) :
        t.group g = if 1 ≤ g ∧ g ≤ 64 then (if (u.group g).role = .declarer then { u.group g with homeHere := true, synced := true, changed := [] } else {})
          else {} := by
      rw [htwin] at ht
      exact State.group_map ht g
    refine ⟨_, rfl, ?_⟩
    refine ⟨(congrArg Twin.st htwin).trans hunpaired, rfl, rfl, (congrArg Twin.unacked htwin).trans hunacked, fun g hg => ?_, fun g hg => ?_,
      fun n hn => hnss hn⟩
    · have hg' := (hcarried.group g).role.trans hg
      rw [hgroup rfl, if_pos (State.group_in hg (by decide)), if_pos hg']
      exact ⟨hg', rfl⟩
    · have hg' : (u.group g).role ≠ .declarer := by rwa [(hcarried.group g).role]
      rw [hgroup rfl, if_neg hg', ite_self]
  · have hexec : exec (.startResilvering h cdw11) s = execStartResilvering h cdw11 s := rfl
    rw [Gives, hexec, execStartResilvering, State.rootCmd_onHost hk ha hr, if_pos ⟨hsolo, hlink⟩]
    obtain ⟨hresilvering, hsent, hreceived, htold, hgroups⟩ := s.resilver_begins false
    generalize s.resilver false = r at *
    refine ⟨_, rfl, ?_⟩
    exact ⟨hresilvering, hsent, hreceived, htold.ok_cq hl hd, hgroups⟩
  · have hexec : exec (.returnDeclarerRoles h) s = execReturnDeclarerRoles h s := rfl
    have hnone : s.ours.filter (fun g => !(s.group g).homeHere) = [] := List.filter_eq_nil_iff.mpr fun g hg => by simp [hhome g hg]
    rw [hexec, execReturnDeclarerRoles, State.rootCmd_onHost hk ha hr, if_neg (not_not.mpr hst), hnone]
  · have hexec : exec (.returnDeclarerRoles h) s = execReturnDeclarerRoles h s := rfl
    have hsome : g0 ∈ s.ours.filter fun g => !(s.group g).homeHere := List.mem_filter.mpr ⟨hours, by simp [haway]⟩
    have hrun : exec (.returnDeclarerRoles h) s
        = .next (((s.ours.filter fun g => !(s.group g).homeHere).foldl State.handOver s).waitFor { hdr := h, body := .other, wait := .handover }) := by
      rw [hexec, execReturnDeclarerRoles, State.rootCmd_onHost hk ha hr, if_neg (not_not.mpr hst)]
      split
      next hnone => simp [hnone] at hsome
      next => rfl
    have hcq : ((s.ours.filter fun g => !(s.group g).homeHere).foldl State.handOver s).host.cq = s.host.cq :=
      congrArg HostSt.cq (foldl_keeps State.host State.handOver_host _ s)
    refine ⟨_, hrun, hcq, ⟨_, List.mem_append_right _ (List.mem_singleton_self _), rfl, rfl⟩, fun g hg haway => ?_⟩
    exact State.handOver_fold (State.mem_ours hg) (List.mem_filter.mpr ⟨hg, by simp [haway]⟩)
  · have hexec : exec (.handGroup h cdw11) s = execHandGroup h cdw11 s := rfl
    have hin := State.mem_ours hours
    have hgood : ¬(s.twin.st ≠ .paired ∨ (!s.ours.contains (bitsOf cdw11.toNat 5 0)) = true ∨ (!(s.group (bitsOf cdw11.toNat 5 0)).synced) = true) := by
      simp [hst, hours, hsynced]
    have hrun : exec (.handGroup h cdw11) s
        = .next ((s.handOver (bitsOf cdw11.toNat 5 0)).waitFor { hdr := h, body := .other, wait := .handover }) := by
      rw [hexec, execHandGroup, State.rootCmd_onHost hk ha hr]
      dsimp only
      rw [if_neg (show ¬bitsOf cdw11.toNat 5 0 = 0 by omega), if_neg hgood]
    have hcq : (s.handOver (bitsOf cdw11.toNat 5 0)).host.cq = s.host.cq := congrArg HostSt.cq (s.handOver_host _)
    have hgroup (n : Nat) := s.group_handOver (bitsOf cdw11.toNat 5 0) n
    have hnamed := (hgroup _).trans (if_pos ⟨rfl, hin⟩)
    refine ⟨_, hrun, congrArg Group.handing hnamed, congrArg Group.ana hnamed, hcq,
      ⟨_, List.mem_append_right _ (List.mem_singleton_self _), rfl, rfl⟩, fun g hg => ?_⟩
    exact (hgroup g).trans (if_neg fun h => hg h.1)
  · have hexec : exec (.clearPairRecords h n) s = execClearPairRecords h n s := rfl
    have hdrop : s.twin.records.drop (min n (min recCap s.twin.records.length)) = s.twin.records.drop n := by
      have hcap : recCap = 1920 := rfl
      by_cases hall : s.twin.records.length ≤ n
      · rw [List.drop_of_length_le hall, List.drop_of_length_le (by omega)]
      · rw [show min n (min recCap s.twin.records.length) = n by omega]
    rw [Gives, hexec, execClearPairRecords, State.rootCmd_onHost hk ha hr]
    refine ⟨_, rfl, ?_⟩
    dsimp only
    rw [hdrop]
    split
    · refine ⟨congrArg Twin.records (State.aer_twin ..), ?_⟩
      exact Told.ok_cq (s := s) (State.aer_told { s with twin := { s.twin with records := s.twin.records.drop n } } _) hl hd
    · exact ⟨rfl, State.ok_cq_of_live hl hd⟩
end

section
/-!
SUPPORT. What the management controller has been answered, and the epochs of the units (R399, R547, R579).
-/
namespace Sys2Proof.Machine

/-! ## Answers on the management paths -/

/-- Nothing has been answered on a management path, and no further response is to be discarded. -/
def Unanswered (s t : State) : Prop := t.host.mi = s.host.mi ∧ ∀ h ∈ t.host.miDrop, h ∈ s.host.miDrop

theorem Unanswered.of_host {s t : State} (h : t.host = s.host) : Unanswered s t := by
  rw [Unanswered, h]
  exact ⟨rfl, fun _ hx => hx⟩

theorem Unanswered.refl (s : State) : Unanswered s s := .of_host rfl

theorem Unanswered.trans {s t u : State} (hst : Unanswered s t) (htu : Unanswered t u) : Unanswered s u :=
  ⟨htu.1.trans hst.1, fun h hx => hst.2 h (htu.2 h hx)⟩

theorem Unanswered.foldl {α : Type} {f : State → α → State} (hf : ∀ s a, Unanswered s (f s a)) (l : List α) (s : State) :
    Unanswered s (l.foldl f s) :=
  List.foldlRecOn (motive := fun t : State => Unanswered s t) l f (.refl s) fun t ht a _ => ht.trans (hf t a)

theorem Unanswered.ite {c : Prop} [Decidable c] {s t u : State} (ht : Unanswered s t) (hu : Unanswered s u) :
    Unanswered s (if c then t else u) := by
  split
  · exact ht
  · exact hu

theorem State.post_unanswered (s : State) (h : Hdr) (sct sc : Nat) (a b : W32) : Unanswered s (s.post h sct sc a b) :=
  ⟨rfl, fun _ hx => List.mem_of_mem_filter hx⟩

theorem State.jobDoneAt_unanswered (s : State) (t : Nat) (h : Hdr) (ctx : Fin 64) (dl : Nat) (o : JobEnd) :
    Unanswered s (s.jobDoneAt t h ctx dl o) := by
  have hcount : Unanswered s { s with sched := { s.sched with counts := vmod s.sched.counts ctx fun j => countJob j o (isLate t dl) } } :=
    .of_host rfl
  cases o with
  | success => exact hcount.trans (.ite (State.post_unanswered ..) (State.post_unanswered ..))
  | silent => exact ⟨rfl, fun _ hx => hx⟩
  | _ => exact hcount.trans (State.post_unanswered ..)

theorem State.endObjs_unanswered (s : State) (e : Exec) (o : JobEnd) : Unanswered s (s.endObjs e o) := by
  refine .foldl (fun s x => ?_) _ s
  have hsent : Unanswered s (s.send (.c2hData x.hdr x.result)) := ⟨rfl, fun _ hx => hx⟩
  exact .ite (hsent.trans (State.jobDoneAt_unanswered ..)) (State.jobDoneAt_unanswered ..)

theorem State.endExecAt_unanswered (s : State) (t : Nat) (e : Exec) (o : JobEnd) : Unanswered s (s.endExecAt t e o) := by
  unfold State.endExecAt
  dsimp only
  refine .trans ?_ (.ite (.refl _) (State.jobDoneAt_unanswered ..))
  refine .trans ?_ (.of_host (State.dropExec_host ..))
  refine .trans ?_ (.ite (.of_host rfl) (.refl _))
  refine .trans ?_ (.ite (.refl _) (.of_host rfl))
  exact (s.endObjs_unanswered e o).trans (.ite (.refl _) (.of_host (State.orphan_host ..)))

theorem State.caught_unanswered (s : State) (o : OutCmd) (how : JobEnd) : Unanswered s (s.caught o how) := by
  have hplain (t : State) : Unanswered t (if how = .silent then
      { t with host := { t.host with cmds := t.host.cmds.filter fun x => !(x.hdr == o.hdr) } } else t.post o.hdr 0 0x07 0 0) :=
    .ite ⟨rfl, fun _ hx => hx⟩ (State.post_unanswered ..)
  unfold State.caught
  dsimp only
  split
  · split
    · exact State.endExecAt_unanswered ..
    · exact hplain s
  · split
    · exact (Unanswered.of_host rfl).trans (State.jobDoneAt_unanswered ..)
    · exact hplain s
  · exact (Unanswered.of_host rfl).trans (hplain _)
  · exact hplain s

theorem State.endAssoc_unanswered (s : State) (n : Nat) : Unanswered s (s.endAssoc n) := by
  refine Unanswered.trans (t := List.foldl _ s _) (.foldl (fun s o => ?_) _ s) ⟨rfl, fun _ hx => hx⟩
  exact .ite (.ite (State.caught_unanswered ..) ⟨rfl, fun _ hx => hx⟩) (.refl s)

/-- A module reset answers no management command, not even the one that asked for it (R592). -/
theorem State.moduleReset_unanswered (s : State) : Unanswered s s.moduleReset := by
  have hroles : Unanswered s s.loseRoles := .ite (.of_host rfl) (.refl s)
  have hassocs : Unanswered s.loseRoles s.loseRoles.endAllAssocs := .foldl State.endAssoc_unanswered _ _
  have hraised : Unanswered s.powerDown s.powerDown.raiseAll := by
    rw [State.raiseAll_eq]
    exact .of_host rfl
  have hdown : Unanswered s.loseRoles.endAllAssocs s.powerDown := ⟨rfl, fun _ hx => hx⟩
  refine (hroles.trans (hassocs.trans (hdown.trans hraised))).trans ?_
  unfold State.moduleReset
  generalize s.powerDown.raiseAll = t
  exact .of_host rfl

theorem State.beginShutdown_unanswered (s : State) (byPin : Bool) : Unanswered s (s.beginShutdown byPin) := by
  have hover (u : State) (gs : List Nat) : (gs.foldl State.handOver u).host = u.host := foldl_keeps State.host State.handOver_host gs u
  exact .ite (.of_host (hover _ _)) (.of_host rfl)

/-! ## The epochs of the units -/

theorem Units.raise_epochs (us : List Nat) (hus : us.Nodup) (x : Units) (u : Nat) :
    (assocGet u (us.foldl Units.raise x).epochs).getD 0 = if u ∈ us then (assocGet u x.epochs).getD 0 + 1 else (assocGet u x.epochs).getD 0 := by
  induction us generalizing x with
  | nil => rfl
  | cons v us ih =>
    obtain ⟨hv, hus⟩ := List.nodup_cons.mp hus
    rw [List.foldl_cons, ih hus, Units.raise, assocGet_put]
    by_cases huv : u = v
    · subst huv
      simp [hv]
    · simp [huv]

theorem State.moduleReset_unitEpoch (s : State) {u : Nat} (hu : u < 136) : s.moduleReset.unitEpoch u = s.unitEpoch u + 1 := by
  have hunits : s.moduleReset.units = (upto unitCount).foldl Units.raise s.board.down.units := by
    rw [State.units_of_board s.moduleReset_board, Board.reset, Board.restart]
  have hmem : u ∈ upto unitCount := List.mem_range.mpr hu
  rw [State.unitEpoch, hunits, Units.raise_epochs (upto unitCount) List.nodup_range, if_pos hmem]
  rfl

theorem State.moduleReset_dirty (s : State) : s.moduleReset.flash.dirty = [] := by
  have hreset : s.moduleReset.flash = s.powerDown.raiseAll.flash := by
    unfold State.moduleReset
    generalize s.powerDown.raiseAll = t
    rfl
  rw [hreset, State.raiseAll_eq]
  exact s.powerDown_flash.1

/-! ## Commands of the management controller -/

section
variable {s : State} {h : Hdr}

theorem State.miCmd_of_manages (hm : Manages s h) (lim : Bool) (t : State) : s.miCmd h lim t = t := by
  obtain ⟨hpath, hup, hi3c, hlim, -⟩ := hm
  have hopen : s.pathOpen h = true := by simp [State.pathOpen, hpath, hi3c]
  simp [State.miCmd, hpath, hup, hopen, hlim]

theorem State.mi_of_kept (hd : h ∉ s.host.miDrop) (status : Nat) (data : List Nat) :
    s.mi h status data = { s with host := { s.host with mi := s.host.mi ++ [(h, status, data)] } } :=
  if_neg (by simpa using hd)

/-- After an operation that answers no management command, the answer of one is the next. -/
theorem Unanswered.mi {t : State} (ht : Unanswered s t) (hd : h ∉ s.host.miDrop) (status : Nat) (data : List Nat) :
    t.mi h status data = { t with host := { t.host with mi := s.host.mi ++ [(h, status, data)] } } := by
  rw [State.mi_of_kept (fun hx => hd (ht.2 h hx)), ht.1]

end

end Sys2Proof.Machine
end

section
/-!
CERTIFICATE. O57: the commands of the management controller (R591, R592).
-/
open Sys2Proof Sys2Proof.Machine

/-- Settles O57: a response on I3C follows what the command did; no operation of these answers another management command. -/
theorem managementCommands : Obligations.ManagementCommands := by
  unfold Obligations.ManagementCommands
  intro s h hm
  have hcmd := State.miCmd_of_manages hm
  obtain ⟨hpath, hup, hi3c, hlim, hd⟩ := hm
  refine ⟨?_, fun k hk => ?_, ?_, ?_, fun id v hget => ?_, fun id v => ?_, ?_, ?_, fun nqn secret hlen => ?_, fun nqn secret psk hlen => ?_,
    fun hclean hmay => ?_, fun hserv => ?_, fun hst => ?_, fun hst => ?_, fun key => ?_, ?_⟩
  · have hexec : exec (.readNvmeMiDataStructure h 2) s = execReadNvmeMiDataStructure h 2 s := rfl
    rw [hexec, execReadNvmeMiDataStructure, hcmd, if_pos rfl, State.mi_of_kept hd]
  · have hexec : exec (.readNvmeMiDataStructure h k) s = execReadNvmeMiDataStructure h k s := rfl
    rw [Gives, hexec, execReadNvmeMiDataStructure, hcmd, if_neg hk, State.miFree, State.mi_of_kept (by exact hd)]
    exact ⟨_, rfl, _, rfl⟩
  · have hexec : exec (.nvmSubsystemHealthStatusPoll h) s = execNvmSubsystemHealthStatusPoll h s := rfl
    rw [Gives, hexec, execNvmSubsystemHealthStatusPoll, hcmd, State.miFree, State.mi_of_kept (by exact hd)]
    exact ⟨_, rfl, _, rfl⟩
  · have hexec : exec (.controllerHealthStatusPoll h) s = execControllerHealthStatusPoll h s := rfl
    rw [Gives, hexec, execControllerHealthStatusPoll, hcmd, State.miFree, State.mi_of_kept (by exact hd)]
    exact ⟨_, rfl, _, rfl⟩
  · have hexec : exec (.configurationGet h id) s = execConfigurationGet h id s := rfl
    rw [Gives, hexec, execConfigurationGet, hcmd, hget]
    dsimp only
    rw [State.mi_of_kept hd]
    exact ⟨_, rfl, rfl⟩
  · have hexec : exec (.configurationSet h id v) s = execConfigurationSet h id v s := rfl
    rw [Gives, hexec, execConfigurationSet, hcmd, State.mi_of_kept (by exact hd)]
    exact ⟨_, rfl, by rw [assocGet_put, if_pos rfl], rfl⟩
  · have hexec : exec (.vpdRead h) s = execVpdRead h s := rfl
    rw [Gives, hexec, execVpdRead, hcmd, State.miFree, State.mi_of_kept (by exact hd)]
    exact ⟨_, rfl, _, rfl⟩
  · have hexec : exec (.queueReset h) s = execQueueReset h s := rfl
    rw [Gives, hexec, execQueueReset, hcmd]
    dsimp only
    rw [State.mi_of_kept (by simp [hd])]
    refine ⟨_, rfl, fun x hx hxp => ?_, rfl, fun o ho hop hne => ?_⟩
    · simp [List.mem_filter, hxp] at hx
    · rw [List.mem_dedup]
      refine List.mem_append_right _ (List.mem_filter.mpr ⟨List.mem_map_of_mem ho, ?_⟩)
      simp [hop, hne]
  · have hexec : exec (.rootBinding h nqn secret) s = execRootBinding h nqn secret s := rfl
    have hnone : (s.host.bind.filter fun b => !(b.1 == nqn)).find? (fun b => b.1 == nqn) = none := by simp
    have hbound : (s.bindNqn nqn 0).bound nqn = some 0 := by simp [State.bindNqn, State.bound, List.find?_append, hnone]
    rw [Gives, hexec, execRootBinding, hcmd, if_neg (Nat.not_lt.mpr hlen), State.mi_of_kept (by exact hd)]
    exact ⟨_, rfl, hbound, ⟨_, List.mem_append_right _ (List.mem_singleton_self _), rfl, rfl⟩, rfl⟩
  · have hexec : exec (.hostSecret h nqn secret psk) s = execHostSecret h nqn secret psk s := rfl
    rw [Gives, hexec, execHostSecret, hcmd, if_neg (Nat.not_lt.mpr hlen), State.mi_of_kept (by exact hd)]
    exact ⟨_, rfl, ⟨_, List.mem_append_right _ (List.mem_singleton_self _), rfl, rfl, rfl⟩, rfl⟩
  · have hexec : exec (.moduleReset h) s = execModuleReset h s := rfl
    have htrump : s.life.phase ≠ .trump := fun htrump => by simp [State.miLimited, htrump] at hlim
    rw [Gives, hexec, execModuleReset, hcmd, if_neg htrump, if_neg hclean, s.moduleReset_unanswered.mi hd]
    obtain ⟨hphase, hcc, -⟩ := s.moduleReset_life hmay
    have hepoch {u : Nat} (hu : u < 136) := s.moduleReset_unitEpoch hu
    have hdirty := s.moduleReset_dirty
    generalize s.moduleReset = r at *
    exact ⟨_, rfl, hphase, hcc, fun u hu => hepoch hu, hdirty, rfl⟩
  · have hexec : exec (.moduleControlShutdown h) s = execModuleControlShutdown h s := rfl
    rw [Gives, hexec, execModuleControlShutdown, hcmd, hserv]
    dsimp only
    rw [(s.beginShutdown_unanswered false).mi hd]
    obtain ⟨hlife, -⟩ := s.beginShutdown_keeps false
    generalize s.beginShutdown false = r at *
    refine ⟨_, rfl, ?_⟩
    rw [hlife]
    exact ⟨rfl, rfl, rfl, rfl⟩
  · have hexec : exec (.settingsStoreReset h) s = execSettingsStoreReset h s := rfl
    have htrump : s.life.phase ≠ .trump := fun htrump => by simp [State.miLimited, htrump] at hlim
    rw [Gives, hexec, execSettingsStoreReset, hcmd, if_neg htrump, if_neg (not_not.mpr hst), State.mi_of_kept (by exact hd)]
    exact ⟨_, rfl, rfl, rfl⟩
  · have hexec : exec (.settingsStoreReset h) s = execSettingsStoreReset h s := rfl
    have htrump : s.life.phase ≠ .trump := fun htrump => by simp [State.miLimited, htrump] at hlim
    rw [Gives, hexec, execSettingsStoreReset, hcmd, if_neg htrump, if_pos hst, State.mi_of_kept hd]
    exact ⟨_, rfl, rfl⟩
  · have hexec : exec (.managementKey h key) s = execManagementKey h key s := rfl
    rw [Gives, hexec, execManagementKey, hcmd, if_pos hpath, State.mi_of_kept (by exact hd)]
    exact ⟨_, rfl, rfl, rfl⟩
  · have hexec : exec (.trumpReport h) s = execTrumpReport h s := rfl
    rw [Gives, hexec, execTrumpReport, hcmd, State.mi_of_kept hd]
    exact ⟨_, rfl, rfl, rfl⟩
end

section
/-!
SUPPORT. A grave report that finds no other fault, and the loops of power and heat (R529, R531, R565 to R573, R610).
-/
namespace Sys2Proof.Machine

/-! ## Grave reports while no fault is handled -/

theorem State.collected_grave (s : State) (r : Report) {c : FClass} (hc : c ≠ .minor) : ∃ flt health,
    s.collected r c = { s with flt, health } ∧ flt.active = s.flt.active := by
  rw [State.collected, if_neg hc, State.recordFirst_eq]
  exact ⟨_, _, rfl, rfl⟩

theorem State.meet_idle {s : State} (hactive : s.flt.active = none) (f : ActiveFault) : s.meet f = s.begin f := by
  rw [State.meet, hactive]

section
variable {s : State} {src : Fin 256} {ev : Nat} (hactive : s.flt.active = none) (whr : BitVec 24)
include hactive

/-- The response to a Major report starts at once. -/
theorem State.report_major_idle (h : faultClass src ev = some .major) : ∃ flt health,
    s.report src ev whr none = State.majorResponse { s with flt, health } := by
  obtain ⟨flt, health, hcollected, hidle⟩ := s.collected_grave (unitReport src ev whr) (c := .major) (by decide)
  rw [State.report_eq, ← unitReport, State.sampled_classed s (r := unitReport src ev whr) h, hcollected, State.meet_idle (hidle.trans hactive)]
  exact ⟨_, _, rfl⟩

/-- The response to a Trump report starts at once. -/
theorem State.report_trump_idle (h : faultClass src ev = some .trump) : ∃ flt health,
    s.report src ev whr none = State.trumpResponse { s with flt, health } src := by
  obtain ⟨flt, health, hcollected, hidle⟩ := s.collected_grave (unitReport src ev whr) (c := .trump) (by decide)
  rw [State.report_eq, ← unitReport, State.sampled_classed s (r := unitReport src ev whr) h, hcollected, State.meet_idle (hidle.trans hactive)]
  exact ⟨_, _, rfl⟩

end

/-- A module in service, in no trial, goes out of service by the response to a Major fault (R531). -/
theorem State.majorResponse_serving {s : State} (hphase : s.life.phase = .inService) (htrial : s.fw.inTrial = false) :
    s.majorResponse.life.phase = .majorOut ∧ s.majorResponse.flt.faultN = true ∧ s.majorResponse.life.responseEnd = s.now
      ∧ s.majorResponse.flt.escalated = s.flt.escalated := by
  obtain ⟨failsA, failsB, saved, hstopped⟩ := s.majorStopped_board
  have hlife := State.life_of_board hstopped
  have hfw := State.fw_of_board hstopped
  have hflt := State.flt_of_board hstopped
  have hin : s.majorStopped.fw.inTrial = false := by rw [hfw]; exact htrial
  rw [State.majorResponse_eq, if_pos (by rw [hphase]; rfl), if_neg (by rw [hin]; decide), hlife, hflt]
  exact ⟨rfl, rfl, rfl, rfl⟩

/-- The Trump response leaves FAULT_N driven and no domain on (R531). -/
theorem State.trumpResponse_dark (s : State) (src : Fin 256) (hon : s.life.phase ≠ .off) : (s.trumpResponse src).life.phase = .trump
    ∧ (s.trumpResponse src).flt.faultN = true ∧ (s.trumpResponse src).life.dom.cs = false := by
  obtain ⟨failsA, failsB, phase, saved, hout⟩ := s.trumpResponse_board src hon
  rw [State.life_of_board hout, State.flt_of_board hout]
  exact ⟨rfl, rfl, s.life.dom.lower_off .cs⟩

/-! ## Limit monitors -/

theorem faultClass_monitor {src : Fin 256} (h : isMonitor src = true) :
    faultClass src 1 = some .note ∧ faultClass src 2 = some .note ∧ faultClass src 3 = some .trump := by
  obtain ⟨hlow, hhigh⟩ : 0xC8 ≤ src.val ∧ src.val ≤ 0xDF := by simpa [isMonitor] using h
  refine ⟨?_, ?_, ?_⟩ <;>
  · unfold faultClass
    dsimp only
    repeat rw [if_neg (by omega)]
    exact if_pos ⟨hlow, hhigh⟩

theorem State.report_note_pwr (s : State) {src : Fin 256} {ev : Nat} (whr : BitVec 24) (x : Option Nat) (h : faultClass src ev = some .note) :
    (s.report src ev whr x).pwr = s.pwr := by
  obtain ⟨_, hboard⟩ := s.report_note_board whr x h
  exact State.pwr_of_board hboard

/-! ## The power loop -/

theorem State.setRung_pwr (s : State) (r : Nat) : (s.setRung r).pwr = { s.pwr with rung := r } := ite_keeps State.pwr rfl rfl

/-- A tick of the ladder moves one rung at most, and down whenever the power is too high (R568). -/
theorem State.ladderTick_pwr (s : State) (p1 : Nat) : ∃ rung lowTicks, (s.ladderTick p1).pwr = { s.pwr with rung, lowTicks }
    ∧ rung ≤ s.pwr.rung + 1 ∧ s.pwr.rung ≤ rung + 1 ∧ (98 * s.pwr.effW < 100 * p1 → s.pwr.rung < 39 → rung = s.pwr.rung + 1) := by
  unfold State.ladderTick
  dsimp only
  split
  case isTrue hhigh =>
    split
    case isTrue hroom => exact ⟨_, _, State.setRung_pwr .., Nat.le_refl _, by omega, fun _ _ => rfl⟩
    case isFalse hroom => exact ⟨s.pwr.rung, 0, rfl, by omega, by omega, fun _ h => absurd h hroom⟩
  case isFalse hhigh =>
    split
    · split
      case isTrue hmove => exact ⟨_, _, State.setRung_pwr .., by omega, by omega, fun h _ => absurd h hhigh⟩
      case isFalse => exact ⟨s.pwr.rung, _, rfl, by omega, by omega, fun h _ => absurd h hhigh⟩
    · exact ⟨s.pwr.rung, 0, rfl, by omega, by omega, fun h _ => absurd h hhigh⟩

/-! ## The thermal loop -/

/-- Only the record of failed thermistors differs. -/
def Power.Sensed (p q : Power) : Prop :=
  ∃ inletFailA inletFailB outletFailA outletFailB, q = { p with inletFailA, inletFailB, outletFailA, outletFailB }

theorem Power.Sensed.trans {p q r : Power} (hpq : p.Sensed q) (hqr : q.Sensed r) : p.Sensed r := by
  obtain ⟨_, _, _, _, rfl⟩ := hpq
  obtain ⟨_, _, _, _, rfl⟩ := hqr
  exact ⟨_, _, _, _, rfl⟩

theorem State.mistake_pwr (s : State) (b : Nat) : (s.mistake b).pwr = s.pwr := (s.flagPhys b).report_note_pwr 0 none rfl

theorem State.loseTherm_sensed (s : State) (outlet second : Bool) : s.pwr.Sensed (s.loseTherm outlet second).pwr := by
  unfold State.loseTherm
  split
  · exact ⟨_, _, _, _, rfl⟩
  · dsimp only
    rw [State.mistake_pwr]
    cases outlet <;> cases second <;> exact ⟨_, _, _, _, rfl⟩

theorem State.checkTherm_sensed (s : State) (outlet second : Bool) (t : Int) : s.pwr.Sensed (s.checkTherm outlet second t).pwr := by
  unfold State.checkTherm
  split
  · exact ⟨_, _, _, _, rfl⟩
  · exact s.loseTherm_sensed outlet second

/-- A reverse flow that has not ended limits the coolant's power to 2,500 W (R609). -/
theorem State.coolLimit_reverse {s : State} (hrev : s.pwr.reverse = true) (inlet : Int) (flow : Nat) : s.coolLimit inlet flow ≤ 2500 := by
  unfold State.coolLimit
  dsimp only
  rw [if_pos hrev]
  omega

/-- A pass of the thermal loop lifts the limit of a reverse flow only once the flow is forward again (R609). -/
theorem State.liftReverse_pwr (s : State) : ∃ reverse fwdAt, s.liftReverse.pwr = { s.pwr with reverse, fwdAt }
    ∧ (s.pwr.reverse = true → s.pwr.fwdAt = none → reverse = true) := by
  unfold State.liftReverse
  split
  case isTrue h => exact ⟨_, _, rfl, fun _ hnone => by simp [hnone] at h⟩
  case isFalse => exact ⟨s.pwr.reverse, s.pwr.fwdAt, rfl, fun h _ => h⟩

end Sys2Proof.Machine
end

section
/-!
CERTIFICATE. O56: limit monitors, the hardware cap, the loops of power and heat, the watchdog and trace capture (R563 to R573, R588, R609).
-/
open Sys2Proof Sys2Proof.Machine

/-- Settles O56: Notes leave the power supervisor's state alone, and a grave report that finds no fault runs its response at once. -/
theorem powerLoops : Obligations.PowerLoops := by
  unfold Obligations.PowerLoops
  intro s
  refine ⟨fun src hmon hup => ?_, fun src hmon hup => ?_, fun src hmon hup hflow hactive => ?_, fun avg hpow havg hkeep => ?_, fun avg havg => ?_,
    fun avg hkeep havg htime => ?_, fun p1 p100 hserv => ?_, fun x hserv => ?_, fun hcc => ?_, fun hcc htime hactive hphase htrial => ?_,
    fun htime => ?_, fun p c hrun hen => ⟨?_, ?_⟩, fun p c x hrun => ?_⟩
  · have hexec : exec (.limitMonitorCrossing src .soft) s = execLimitMonitorCrossing src .soft s := rfl
    have hnote : faultClass src (if src = 0xC9 then 1 else 2) = some .note := by
      obtain ⟨hone, htwo, -⟩ := faultClass_monitor hmon
      split
      · exact hone
      · exact htwo
    rw [Gives, hexec, execLimitMonitorCrossing, if_neg (by simp [hmon, hup])]
    refine ⟨_, rfl, ?_, State.report_sticky _ _ _ hnote rfl⟩
    rw [State.report_note_pwr _ _ _ hnote]
  · have hexec : exec (.limitMonitorCrossing src .back) s = execLimitMonitorCrossing src .back s := rfl
    rw [hexec, execLimitMonitorCrossing, if_neg (by simp [hmon, hup])]
  · have hexec : exec (.limitMonitorCrossing src .fused) s = execLimitMonitorCrossing src .fused s := rfl
    have htrump := (faultClass_monitor hmon).2.2
    have hon : s.life.phase ≠ .off := fun h => by simp [State.miUp, h] at hup
    have hsticky := s.report_sticky 0 none htrump rfl
    rw [Gives, hexec, execLimitMonitorCrossing, if_neg (by simp [hmon, hup])]
    rw [if_neg fun h => hflow h.1]
    refine ⟨_, rfl, ?_⟩
    obtain ⟨flt, health, hrep⟩ := State.report_trump_idle hactive 0 htrump
    rw [hrep] at hsticky ⊢
    obtain ⟨hphase, hfault, hcs⟩ := State.trumpResponse_dark { s with flt, health } src hon
    exact ⟨hphase, hfault, hcs, hsticky⟩
  · have hexec : exec (.hardwareCapStretch avg) s = execHardwareCapStretch avg s := rfl
    rw [Gives, hexec, execHardwareCapStretch, if_neg (by simp [hpow, havg]), if_pos hkeep]
    refine ⟨_, rfl, ?_⟩
    unfold State.beginStretch
    dsimp only
    split
    case isTrue habove => exact ⟨rfl, rfl, rfl, fun h => absurd (h.symm.trans habove) (by decide)⟩
    case isFalse =>
      rw [State.report_note_pwr _ _ _ rfl]
      exact ⟨rfl, rfl, rfl, fun _ => State.report_sticky _ _ _ rfl rfl⟩
  · have hexec : exec (.hardwareCapStretch avg) s = execHardwareCapStretch avg s := rfl
    rw [hexec, execHardwareCapStretch, if_pos (.inr havg)]
  · have hexec : exec (.hardwareCapRelease avg) s = execHardwareCapRelease avg s := rfl
    rw [Gives, hexec, execHardwareCapRelease, if_pos ⟨hkeep, havg, htime⟩]
    exact ⟨_, rfl, rfl, rfl, rfl⟩
  · have hexec : exec (.powerLoopTick p1 p100) s = execPowerLoopTick p1 p100 s := rfl
    rw [Gives, hexec, execPowerLoopTick, if_neg (by simp [State.loopsRun, hserv])]
    dsimp only
    obtain ⟨rung, lowTicks, hpwr, hup, hdown, hmove⟩ := State.ladderTick_pwr { s with pwr := { s.pwr with
      capW := s.pwr.capNext, p1 := min 8191 p1, p100 := min 8191 p100
      effW := State.effCap { s with pwr := { s.pwr with capW := s.pwr.capNext, p1 := min 8191 p1, p100 := min 8191 p100 } } } } p1
    refine ⟨_, rfl, ?_⟩
    rw [hpwr]
    exact ⟨rfl, rfl, rfl, rfl, hup, hdown, hmove⟩
  · have hexec : exec (.thermalLoopTick x) s = execThermalLoopTick x s := rfl
    rw [Gives, hexec, execThermalLoopTick, if_neg (by simp [State.loopsRun, hserv])]
    have hsensed := (((s.checkTherm_sensed false false x.inA).trans (State.checkTherm_sensed _ false true x.inB)).trans
      (State.checkTherm_sensed _ true false x.outA)).trans (State.checkTherm_sensed _ true true x.outB)
    dsimp only
    generalize (((s.checkTherm false false x.inA).checkTherm false true x.inB).checkTherm true false x.outA).checkTherm true true x.outB = u at *
    obtain ⟨_, _, _, _, hu⟩ := hsensed
    obtain ⟨reverse, fwdAt, hlift, hstill⟩ := u.liftReverse_pwr
    generalize u.liftReverse = v at *
    have hcap : v.pwr.capW = s.pwr.capW := by rw [hlift, hu]
    refine ⟨_, rfl, rfl, rfl, rfl, hcap, rfl, fun hrev hfwd => State.coolLimit_reverse (s := v.countTemp x.hotC) ?_ _ _⟩
    have hrev' : v.pwr.reverse = reverse := by rw [hlift]
    exact hrev'.trans (hstill (by rw [hu]; exact hrev) (by rw [hu]; exact hfwd))
  · have hexec : exec .watchdogRestart s = execWatchdogRestart s := rfl
    rw [hexec, execWatchdogRestart, if_pos hcc]
  · have hexec : exec .watchdogExpiry s = execWatchdogExpiry s := rfl
    rw [Gives, hexec, execWatchdogExpiry, if_pos ⟨hcc, htime⟩]
    obtain ⟨flt, health, hrep⟩ := State.report_major_idle (src := 0xC5) (ev := 1) hactive 0 rfl
    rw [hrep]
    obtain ⟨hout, hfault, hend, -⟩ := State.majorResponse_serving (s := { s with flt, health }) hphase htrial
    exact ⟨_, rfl, hout, hfault, hend⟩
  · have hexec : exec .watchdogExpiry s = execWatchdogExpiry s := rfl
    rw [hexec, execWatchdogExpiry, if_neg (by omega)]
  · have hexec : exec (.tracePointRecord p c true) s = execTracePointRecord p c true s := rfl
    rw [Gives, hexec]
    unfold execTracePointRecord
    dsimp only
    rw [if_neg (by rw [hrun, hen]; decide), if_neg (by decide)]
    refine ⟨_, rfl, rfl, rfl, ?_⟩
    dsimp only
    rw [List.getLast?_drop, if_neg (by simp [traceCap]), List.getLast?_concat]
    exact ⟨_, rfl, rfl, rfl, rfl⟩
  · have hexec : exec (.tracePointRecord p c false) s = execTracePointRecord p c false s := rfl
    rw [Gives, hexec]
    unfold execTracePointRecord
    dsimp only
    rw [if_neg (by rw [hrun, hen]; decide), if_pos (by decide)]
    exact ⟨_, rfl, rfl, rfl⟩
  · have hexec : exec (.tracePointRecord p c x) s = execTracePointRecord p c x s := rfl
    rw [hexec]
    unfold execTracePointRecord
    dsimp only
    rw [if_pos (.inl (by simp [hrun]))]
end

section
/-!
SUPPORT. What the scheduler counts when a crew leaves its compositor.
-/
namespace Sys2Proof.Machine

/-- No step boundary is counted when a crew leaves its compositor. -/
theorem State.pushOff_boundary (s : State) (e : Exec) : (s.pushOff e).sched.boundary = s.sched.boundary := by
  have hfold := List.foldlRecOn (motive := fun t : State => t.sched.boundary = s.sched.boundary)
    (s.crew e) (fun s i => (s.abandon1 i).modEx i fun x => { x with phase := .preempted, comp := none }) rfl fun t ht _ _ => ht
  rw [State.pushOff, State.fillComps_sched]
  exact hfold

end Sys2Proof.Machine
end

section
/-!
CERTIFICATE of O54: twin copies, refusals, digests and pre-emption notes (R511 to R514).
-/
open Sys2Proof Sys2Proof.Machine

/-- Settles O54: each event is one branch of its definition; a pre-emption note pushes off a crew of one. -/
theorem twinVerify : Obligations.TwinVerify := by
  unfold Obligations.TwinVerify
  intro s
  refine ⟨fun x prog ctx params dl i t hpair hctx hnew hready himage hver hact htake => ?_, fun x prog ctx params dl hpair hctx hnew hready hnone => ?_,
    fun e sc dw0 dw1 hex htwin hcopy => ?_, fun e x step digest hex htwin hrun => ?_, fun e x step hex htwin hstep => ?_,
    fun e x hex hone htwin hrun hgang => ?_⟩
  · have hexec : exec (.twinCopy x prog ctx params dl) s = execTwinCopy x prog ctx params dl s := rfl
    rw [hexec]
    simp only [execTwinCopy, himage, htake]
    rw [if_neg (by simp [hpair, hctx, hnew]), if_neg (by simp [hready]), if_neg (by simp [hver, hact])]
  · have hexec : exec (.twinCopy x prog ctx params dl) s = execTwinCopy x prog ctx params dl s := rfl
    rw [hexec]
    simp only [execTwinCopy, hnone]
    rw [if_neg (by simp [hpair, hctx, hnew]), if_neg (by simp [hready])]
  · have hexec : exec (.twinRefusal e.id sc dw0 dw1) s = execTwinRefusal e.id sc dw0 dw1 s := rfl
    rw [hexec, execTwinRefusal, hex]
    dsimp only
    rw [if_pos (by simp [htwin, hcopy])]
  · have hexec : exec (.twinDigest x step digest) s = execTwinDigest x step digest s := rfl
    rw [hexec, execTwinDigest, hex]
    simp only [htwin, hrun]
    rfl
  · have hexec : exec (.twinPreemptNote x step) s = execTwinPreemptNote x step s := rfl
    rw [hexec, execTwinPreemptNote, hex]
    dsimp only
    rw [if_neg (by simp [htwin]; omega), if_pos hstep]
  · have hexec : exec (.twinPreemptNote x e.step) s = execTwinPreemptNote x e.step s := rfl
    have hid : e.id = twinId x := by simpa using List.find?_some hex
    have hlone : Lone s e := ⟨hid ▸ hex, hone⟩
    have hleft := (hlone.pushOff hgang).1
    rw [Gives, hexec, execTwinPreemptNote, hex]
    dsimp only
    rw [if_neg (by simp [htwin]), if_neg (Nat.lt_irrefl _), hrun]
    have hcount := s.pushOff_boundary e
    generalize s.pushOff e = r at *
    refine ⟨_, rfl, congrArg (satAdd 65535 · 1) hcount, _, hleft, rfl, rfl, rfl, rfl⟩
end

section
/-!
SUPPORT. What a cage keeps when its link goes down, and what a report about it does (R602 to R605).
-/
namespace Sys2Proof.Machine

/-! ## The partner is gone: the cages stay as they are -/

theorem State.applyWrite_phys (s : State) (w : MirWrite) : (s.applyWrite w).phys = s.phys := by
  have hgather (t : State) : t.gather.phys = t.phys := State.phys_of_board t.gather_board
  have hhold (nsid : Nat) (bs : List PBlk) (lba : Nat) (t : State) : (t.holdAll nsid lba bs).phys = t.phys := by
    induction bs generalizing t lba with
    | nil => rfl
    | cons b bs ih => exact (ih ..).trans (ite_keeps State.phys (ite_keeps State.phys rfl rfl) rfl)
  unfold State.applyWrite
  split
  · exact (hgather _).trans (hhold ..)
  · rfl
  next act _ =>
    refine (hgather _).trans ?_
    cases act <;> rfl
  · rfl

theorem State.soloWrite_phys (s : State) (u : Unacked) : (s.soloWrite u).phys = s.phys := by
  have hmark (t : State) (w : MirWrite) : (t.markChanged w).phys = t.phys := ite_keeps State.phys (ite_keeps State.phys rfl rfl) rfl
  have hanswer (t : State) (refuse : Bool) (os : List OutCmd) :
      (os.foldl (fun s o => if refuse then s.post o.hdr 0 0x20 0 0 else s.heldBoth o) t).phys = t.phys := by
    refine foldl_keeps State.phys (fun t o => ?_) os t
    exact ite_keeps State.phys rfl (ite_keeps State.phys rfl rfl)
  refine (hanswer ..).trans ?_
  cases hw : u.w with
  | none => rfl
  | some w => exact ite_keeps State.phys ((hmark _ w).trans (s.applyWrite_phys w)) (hmark s w)

theorem State.withoutPartner_phys (s : State) : s.withoutPartner.phys = s.phys := by
  refine (foldl_keeps (f := fun (s : State) (o : OutCmd) => s.badSeq o.hdr) State.phys (fun _ _ => rfl) _ _).trans ?_
  refine (foldl_keeps (f := fun (s : State) (o : OutCmd) => s.okDw o.hdr o.dw0 o.dw1) State.phys (fun _ _ => rfl) _ _).trans ?_
  exact foldl_keeps State.phys State.soloWrite_phys _ _

theorem State.linkLost_phys (s : State) : s.linkLost.phys = s.phys := by
  have hpair : (s.pairTo .soloSplit).phys = s.phys := ite_keeps State.phys rfl (State.aer_keeps State.phys (fun _ _ => rfl) _ _)
  exact ite_keeps State.phys (ite_keeps State.phys rfl ((State.withoutPartner_phys _).trans hpair)) rfl

/-! ## Cages -/

theorem State.cageSt_modCageSt (s : State) (tw : Bool) (cage : Fin 4) (f : CageSt → CageSt) :
    (s.modCageSt tw cage f).cageSt tw cage = f (s.cageSt tw cage) := by
  cases tw
  · exact vmod_get ..
  · exact vmod_get ..

/-- A cage keeps its supply and its lamp, and PHY_STAT the mistakes that were found. -/
structure SameCage (tw : Bool) (cage : Fin 4) (s t : State) : Prop where
  flags : t.phys.flags = s.phys.flags
  supplyOff : (t.cageSt tw cage).supplyOff = (s.cageSt tw cage).supplyOff
  amber : (t.cageSt tw cage).amber = (s.cageSt tw cage).amber

section
variable {tw : Bool} {cage : Fin 4}

theorem SameCage.of_phys {s t : State} (h : t.phys = s.phys) : SameCage tw cage s t := by
  have hcage : t.cageSt tw cage = s.cageSt tw cage := by rw [State.cageSt, h]; rfl
  exact ⟨by rw [h], by rw [hcage], by rw [hcage]⟩

theorem SameCage.trans {s t u : State} (h : SameCage tw cage s t) (h' : SameCage tw cage t u) : SameCage tw cage s u :=
  ⟨h'.flags.trans h.flags, h'.supplyOff.trans h.supplyOff, h'.amber.trans h.amber⟩

end

theorem State.portDown_phys (s : State) (p : Fin 4) : (s.portDown p).phys
    = { s.phys with host := vmod s.phys.host p fun c => { c with linkUp := false, downAt := if c.linkUp then s.now else c.downAt } } := by
  have hassocs (ids : List Nat) : (ids.foldl State.endAssoc s).board = s.board :=
    foldl_keeps State.board (fun t n => congrArg Prod.fst (t.endAssoc_desk n)) ids s
  have hphys := State.phys_of_board (hassocs ((s.host.conns.filter fun c => c.port == p).filterMap (·.cntlid)).dedup)
  have hnow := State.now_of_board (hassocs ((s.host.conns.filter fun c => c.port == p).filterMap (·.cntlid)).dedup)
  unfold State.portDown
  dsimp only
  generalize List.foldl _ s _ = t at *
  rw [hphys, hnow]
  rfl

/-- Only the link of a cage is lost when its port or its cable group goes down. -/
theorem State.cageDown_same (s : State) (tw : Bool) (cage : Fin 4) : SameCage tw cage s (s.cageDown tw cage) := by
  cases tw with
  | false =>
    have hphys := s.portDown_phys cage
    change SameCage false cage s (s.portDown cage)
    generalize s.portDown cage = t at *
    have hcage : t.cageSt false cage = { s.cageSt false cage with linkUp := false
                                                                  downAt := if (s.cageSt false cage).linkUp then s.now else (s.cageSt false cage).downAt } := by
      rw [State.cageSt, hphys]
      exact vmod_get ..
    exact ⟨by rw [hphys], by rw [hcage], by rw [hcage]⟩
  | true =>
    change SameCage true cage s (s.groupDown cage)
    unfold State.groupDown
    split
    · exact .of_phys rfl
    · dsimp only
      refine SameCage.trans ?_ (.of_phys (State.linkLost_phys _))
      have hcage := vmod_get s.phys.twin cage fun c => { c with linkUp := false, downAt := if c.linkUp then s.now else c.downAt }
      exact ⟨rfl, (congrArg CageSt.supplyOff hcage :), (congrArg CageSt.amber hcage :)⟩

theorem cageSource_class : ∀ (tw : Bool) (cage : Fin 4), faultClass (cageSource tw cage) 2 = some .minor
    ∧ (cageSource tw cage).val = (if tw then 0xB4 else 0xB0) + cage.val := by
  decide

theorem State.remedy1_cage (s : State) (tw : Bool) (cage : Fin 4) (whr : BitVec 24) :
    s.remedy1 (unitReport (cageSource tw cage) 2 whr) = s.cageDown tw cage := by
  cases tw with
  | true => exact s.remedy1_cable cage whr
  | false =>
    have hval : (cageSource false cage).val = 0xB0 + cage.val := (cageSource_class false cage).2
    have hcage := cage.isLt
    have hport : Fin.ofNat 4 (0xB0 + cage.val - 0xB0) = cage := Fin.ext (by simp)
    unfold State.remedy1 unitReport
    dsimp only
    rw [hval, if_neg (by omega), if_neg (by omega), if_neg (by omega), if_neg (by omega), if_neg (by omega), if_pos (by omega), hport]
    rfl

/-- Whatever the response to the report of a cage's fault, the cage keeps its supply and its lamp. -/
theorem State.report_cage_same (s : State) (tw : Bool) (cage : Fin 4) (whr : BitVec 24) :
    SameCage tw cage s (s.report (cageSource tw cage) 2 whr none) := by
  obtain ⟨hclass, hval⟩ := cageSource_class tw cage
  have htile : 0x0F < (cageSource tw cage).val := by
    rw [hval]
    split <;> omega
  obtain ⟨flt, health, h | h | ⟨by_, h⟩ | h⟩ := s.report_minor whr hclass htile
  all_goals rw [h]
  · exact .of_phys rfl
  · exact .of_phys (State.majorResponse_outlasts { s with flt, health }).phys
  · exact .of_phys (State.trumpResponse_outlasts { s with flt, health } by_).phys
  · rw [State.remedy1_cage]
    exact (SameCage.of_phys (s := s) (t := { s with flt, health }) rfl).trans (State.cageDown_same _ tw cage)

/-! ## Mistakes at the connectors (R613, R615) -/

theorem State.mistake_gives (s : State) (b : Nat) : ∃ flt health host,
    s.mistake b = { s.flagPhys b with flt, health, host } ∧ flt.sticky.getLsbD 0xEA = true := by
  obtain ⟨flt, log, logSeq, hrep⟩ := (s.flagPhys b).report_note (src := 0xEA) (ev := 1) 0 none rfl
  have hsticky : Sticky (s.mistake b) 0xEA := State.report_sticky _ _ _ (c := .note) rfl rfl
  have hmistake : s.mistake b = _ := hrep
  rw [hmistake] at hsticky
  exact ⟨flt, _, _, hmistake, hsticky⟩

/-- A thermistor that fails is marked, and the mistake is reported (R610). -/
theorem State.loseTherm_gives {s : State} {outlet second : Bool} (hgood : s.thermBad outlet second = false) :
    ∃ u : State, u.thermBad outlet second = true ∧ u.phys = s.phys ∧ s.loseTherm outlet second = u.mistake 5 := by
  rw [State.loseTherm, hgood, if_neg (by decide)]
  refine ⟨_, ?_, ?_, rfl⟩
  · cases outlet <;> cases second <;> rfl
  · rfl

/-- PWR_EN reads as high, whatever the module does then (R578, R613). -/
theorem State.raiseEn_keeps (s : State) : s.raiseEn.life.pwrEn = true ∧ s.raiseEn.phys = s.phys := by
  unfold State.raiseEn
  dsimp only
  split
  · exact ⟨rfl, rfl⟩
  · split
    · exact ⟨rfl, rfl⟩
    · exact ⟨ite_keeps (fun t : State => t.life.pwrEn) rfl rfl, ite_keeps State.phys rfl rfl⟩

end Sys2Proof.Machine
end

section
/-!
CERTIFICATE of O58: sideband pins, cages, coolant, the Minor time-out and the lamps (R600 to R605, R609, R610, R613 to R616, R534).
-/
open Sys2Proof Sys2Proof.Machine

/-- Settles O58: mistakes are Notes, and what a cage holds outlasts every response to its report. -/
theorem physicalEvents : Obligations.PhysicalEvents := by
  unfold Obligations.PhysicalEvents
  intro s hup
  refine ⟨?_, fun hin hclosed => ?_, fun n hclosed => ?_, fun tw cage hpow hpres hsup => ?_, fun tw cage kind hpow => ?_, ?_, fun hrev => ?_,
    fun o b hgood => ?_, fun o b hbad => ?_, fun hin hao => ?_, fun hstand haux hao => ?_, ?_, ?_, fun tw cage hpres hlink htime => ?_,
    fun a hactive hcls htime hphase htrial => ?_, fun a hactive htime => ?_, fun port hhn hpres href hsup hreset => ?_, fun port => ?_⟩
  · have hexec : exec .faultNShort s = execFaultNShort s := rfl
    rw [Gives, hexec, execFaultNShort, if_neg (by simp [hup])]
    obtain ⟨flt, health, host, hmistake, hsticky⟩ := State.mistake_gives { s with phys := { s.phys with faultForced := some (!s.flt.faultN) } } 2
    rw [hmistake]
    exact ⟨_, rfl, rfl, rfl, hsticky⟩
  · have hexec : exec .senseOpen s = execSenseOpen s := rfl
    rw [Gives, hexec, execSenseOpen, if_neg (by simp [hup, hin, hclosed])]
    obtain ⟨flt, health, host, hmistake, hsticky⟩ := State.mistake_gives { s with phys := { s.phys with senseOpen := true, contact := 0 } } 4
    rw [hmistake]
    exact ⟨_, rfl, rfl, rfl, rfl, hsticky⟩
  · have hexec : exec (.contactResistanceLimit n) s = execContactResistanceLimit n s := rfl
    rw [hexec, execContactResistanceLimit, if_neg (by simp [hup, hclosed])]
  · have hexec : exec (.cageSupplyOvercurrent tw cage) s = execCageSupplyOvercurrent tw cage s := rfl
    rw [Gives, hexec, execCageSupplyOvercurrent]
    dsimp only
    rw [if_neg (by simp [hpow, hpres, hsup])]
    obtain ⟨hclass, hval⟩ := cageSource_class tw cage
    have hsticky (t : State) : Sticky (t.report (cageSource tw cage) 2 0 none) ((if tw then 0xB4 else 0xB0) + cage.val) :=
      State.report_sticky _ _ _ hclass hval
    have hoff := s.cageSt_modCageSt tw cage fun x => { x with supplyOff := true, amber := true }
    have hflags : (s.modCageSt tw cage fun x => { x with supplyOff := true, amber := true }).phys.flags = s.phys.flags := by cases tw <;> rfl
    generalize (s.modCageSt tw cage fun x => { x with supplyOff := true, amber := true }) = u at *
    obtain ⟨hdflags, hdsup, hdamber⟩ := u.cageDown_same tw cage
    generalize u.cageDown tw cage = v at *
    have hsame := (v.flagPhys 7).report_cage_same tw cage 0
    have hflag : (v.flagPhys 7).cageSt tw cage = v.cageSt tw cage := rfl
    refine ⟨_, rfl, ?_, ?_, hsticky _, ?_⟩
    · rw [hsame.supplyOff, hflag, hdsup, hoff]
    · rw [hsame.amber, hflag, hdamber, hoff]
    · rw [hsame.flags]
      exact congrArg (· ||| 128) (hdflags.trans hflags)
  · have hexec : exec (.cageModuleInsert tw cage kind) s = execCageModuleInsert tw cage kind s := rfl
    rw [Gives, hexec, execCageModuleInsert, if_neg (by simp [hpow])]
    refine ⟨_, rfl, ?_⟩
    rw [State.cageSt_modCageSt]
    exact ⟨rfl, rfl, rfl, rfl, rfl⟩
  · have hexec : exec .reverseFlow s = execReverseFlow s := rfl
    rw [Gives, hexec, execReverseFlow, if_neg (by simp [hup])]
    dsimp only
    have hsticky (t : State) : Sticky (t.report 0xDF 2 0 none) 0xDF := State.report_sticky _ _ _ (c := .note) rfl rfl
    refine ⟨_, rfl, ?_⟩
    obtain ⟨flt, log, logSeq, hrep⟩ := State.report_note (State.flagPhys { s with pwr := { s.pwr with reverse := true, fwdAt := none } } 6)
      (src := 0xDF) (ev := 2) 0 none rfl
    refine ⟨?_, ?_, ?_, hsticky _⟩
    all_goals rw [hrep]; rfl
  · have hexec : exec .forwardFlowRestore s = execForwardFlowRestore s := rfl
    rw [hexec, execForwardFlowRestore, if_pos hrev]
  · have hexec : exec (.thermistorFailure o b) s = execThermistorFailure o b s := rfl
    rw [Gives, hexec, execThermistorFailure, if_neg (by simp [hup])]
    obtain ⟨u, hbad, hphys, hlose⟩ := State.loseTherm_gives hgood
    obtain ⟨flt, health, host, hmistake, hsticky⟩ := u.mistake_gives 5
    rw [hlose, hmistake]
    exact ⟨_, rfl, hbad, congrArg (Phys.flags · ||| 32) hphys, hsticky⟩
  · have hexec : exec (.thermistorFailure o b) s = execThermistorFailure o b s := rfl
    rw [hexec, execThermistorFailure, if_neg (by simp [hup]), State.loseTherm, if_pos hbad]
  · have hexec : exec (.inputReversed true) s = execInputReversed true s := rfl
    rw [Gives, hexec, execInputReversed, if_pos rfl, if_neg (by simp [hin]), if_pos hao]
    dsimp only
    have hwait (u : State) : ∃ life, (if u.life.phase = .startReady then { u with life := { u.life with phase := .standby } } else u) = { u with life }
        ∧ life.auxOk = u.life.auxOk ∧ life.in48Ok = u.life.in48Ok := by
      split
      · exact ⟨_, rfl, rfl, rfl⟩
      · exact ⟨u.life, rfl, rfl, rfl⟩
    obtain ⟨life, hunready, haux, hin48⟩ := hwait { s with life := { s.life with auxOk := false, aoReady := s.life.aoReady && s.isPowered } }
    obtain ⟨flt, health, host, hmistake, hsticky⟩ := State.mistake_gives { s with life } 1
    rw [hunready, hmistake]
    exact ⟨_, rfl, haux, hin48.trans hin, rfl, hsticky⟩
  · have hexec : exec (.inputReversed false) s = execInputReversed false s := rfl
    have hlose : s.lose48 = { s with life := { s.life with in48Ok := false } } := by
      simp [State.lose48, State.isPowered, hstand, haux]
    rw [Gives, hexec, execInputReversed, if_neg (by decide), hlose]
    dsimp only
    rw [if_pos hao]
    obtain ⟨flt, health, host, hmistake, -⟩ := State.mistake_gives { s with life := { s.life with in48Ok := false } } 0
    rw [hmistake]
    exact ⟨_, rfl, rfl, hstand, rfl⟩
  · have hexec : exec (.sidebandCrossCheck true) s = execSidebandCrossCheck true s := rfl
    rw [Gives, hexec, execSidebandCrossCheck, if_neg (by simp [hup]), if_pos rfl]
    obtain ⟨flt, health, host, hmistake, -⟩ := State.mistake_gives { s with phys := { s.phys with i3cReleased := true } } 3
    obtain ⟨hen, hphys⟩ := State.raiseEn_keeps (State.mistake { s with phys := { s.phys with i3cReleased := true } } 3)
    refine ⟨_, rfl, ?_⟩
    rw [hphys, hen, hmistake]
    exact ⟨rfl, rfl, rfl⟩
  · have hexec : exec (.sidebandCrossCheck false) s = execSidebandCrossCheck false s := rfl
    rw [hexec, execSidebandCrossCheck, if_neg (by simp [hup]), if_neg (by decide)]
  · have hexec : exec (.linkDownLamp tw cage) s = execLinkDownLamp tw cage s := rfl
    rw [Gives, hexec, execLinkDownLamp]
    dsimp only
    rw [if_pos ⟨hpres, by simp [hlink], htime⟩]
    refine ⟨_, rfl, by rw [State.cageSt_modCageSt], ?_, ?_⟩
    all_goals cases tw <;> rfl
  · have hexec : exec .minorRemedyTimeout s = execMinorRemedyTimeout s := rfl
    rw [Gives, hexec, execMinorRemedyTimeout, hactive]
    dsimp only
    rw [if_pos ⟨hcls, htime⟩]
    refine ⟨_, rfl, ?_⟩
    obtain ⟨hout, hfault, -, hesc⟩ := State.majorResponse_serving
      (s := { s.escalate with flt := { s.escalate.flt with active := some { a with cls := .major } } }) hphase htrial
    exact ⟨hout, hesc, hfault⟩
  · have hexec : exec .minorRemedyTimeout s = execMinorRemedyTimeout s := rfl
    rw [hexec, execMinorRemedyTimeout, hactive]
    dsimp only
    rw [if_neg (by omega)]
  · have hexec : exec (.hostPortLinkChange port true) s = execHostPortLinkChange port true s := rfl
    rw [Gives, hexec, execHostPortLinkChange]
    dsimp only
    have hcan : ¬((!s.life.dom.hn) = true ∨ (!(s.phys.host[port]).present) = true ∨ (s.phys.host[port]).refused = true
        ∨ (s.phys.host[port]).supplyOff = true ∨ s.units.resetting.contains (.hostPort port) = true) := by
      rw [hhn, hpres, href, hsup]
      simp [hreset]
    rw [if_neg (by decide), if_neg hcan]
    have hcage := s.cageSt_modCageSt false port fun x => { x with linkUp := true, amber := false }
    exact ⟨_, rfl, congrArg CageSt.linkUp hcage, congrArg CageSt.amber hcage, rfl⟩
  · have hexec : exec (.hostPortLinkChange port false) s = execHostPortLinkChange port false s := rfl
    have hphys := s.portDown_phys port
    have hconns : ∀ c ∈ (s.portDown port).host.conns, c.port ≠ port := fun c hc => by simpa using (List.mem_filter.mp hc).2
    rw [Gives, hexec, execHostPortLinkChange]
    dsimp only
    rw [if_pos (by decide)]
    generalize s.portDown port = r at *
    refine ⟨_, rfl, ?_, hconns⟩
    rw [hphys]
    exact congrArg CageSt.linkUp (vmod_get ..)
end

section
/-!
SUPPORT. What mirrored writes, acknowledgements and adopted epochs change (R483 to R494, R508).
-/
namespace Sys2Proof.Machine

/-! ## Blocks of a mirrored write -/

/-- What the write buffer holds of a block, whatever its address. -/
def State.buffered (s : State) (nsid lba : Nat) : Option Dirty := s.flash.dirty.find? fun d => decide (d.key = blkKey nsid lba)

theorem State.blk_of_buffered {s : State} {nsid lba : Nat} {d : Dirty} (h : s.buffered nsid lba = some d) : s.blk nsid lba = d.blk := by
  rw [State.buffered] at h
  rw [State.blk, h]

theorem State.buffered_hold1 (s : State) (nsid lba l : Nat) (b : PBlk) : (s.hold1 nsid lba b).buffered nsid l
    = if l = lba then some { key := blkKey nsid lba, seq := (s.publish nsid lba b).flash.seq, blk := b } else s.buffered nsid l := by
  have hdirty := (s.publish_besideBuffer nsid lba b).2
  have hkey : blkKey nsid l = blkKey nsid lba ↔ l = lba := by
    simp only [blkKey]
    omega
  have hfind := find?_key_replaced (s.publish nsid lba b).flash.dirty
    { key := blkKey nsid lba, seq := (s.publish nsid lba b).flash.seq, blk := b } (blkKey nsid l)
  simp only [hkey, hdirty] at hfind
  rw [State.buffered, State.buffered, ← hfind, ← hdirty]
  rfl

theorem State.buffered_holdAll_below (s : State) (nsid lba : Nat) (bs : List PBlk) {l : Nat} (hl : l < lba) :
    (s.holdAll nsid lba bs).buffered nsid l = s.buffered nsid l := by
  induction bs generalizing s lba with
  | nil => rfl
  | cons b bs ih => rw [State.holdAll, ih _ _ (by omega), State.buffered_hold1, if_neg (by omega)]

theorem State.blk_holdAll_same (s : State) (nsid lba : Nat) (bs : List PBlk) {j : Nat} (hj : j < bs.length) :
    ∃ d, (s.holdAll nsid lba bs).buffered nsid (lba + j) = some d ∧ d.blk = bs[j] := by
  induction bs generalizing s lba j with
  | nil => cases hj
  | cons b bs ih =>
    rw [State.holdAll]
    cases j with
    | zero => exact ⟨_, by rw [State.buffered_holdAll_below _ _ _ _ (by omega), State.buffered_hold1, if_pos (Nat.add_zero lba)], rfl⟩
    | succ j =>
      rw [List.getElem_cons_succ, show lba + (j + 1) = lba + 1 + j by omega]
      exact ih _ _ (Nat.lt_of_succ_lt_succ hj)

/-- A held write is what its blocks read as (R451). -/
theorem State.blk_hold (s : State) (nsid lba : Nat) (bs : List PBlk) {j : Nat} (hj : j < bs.length) :
    (s.hold nsid lba bs).blk nsid (lba + j) = bs[j] := by
  obtain ⟨d, hd, hblk⟩ := s.blk_holdAll_same nsid lba bs hj
  have hbuffered : (s.hold nsid lba bs).buffered nsid (lba + j) = some d := by
    rw [← hd, State.buffered, (s.hold_besideBuffer nsid lba bs).2]
    rfl
  rw [State.blk_of_buffered hbuffered, hblk]

/-- A block reads the same when only the groups and what has been sent differ. -/
theorem State.blk_modGroup (s : State) (g : Nat) (f : Group → Group) (nsid lba : Nat) : (s.modGroup g f).blk nsid lba = s.blk nsid lba :=
  ite_keeps (fun t => t.blk nsid lba) rfl rfl

/-! ## Writes in order -/

theorem State.join_paired {s : State} (h : s.paired = true) : s.join = s := by
  refine if_neg fun hjoin => ?_
  have hsolo := hjoin.1
  revert h hsolo
  unfold State.paired State.solo
  cases s.twin.st <;> decide

theorem isSent_of_group {w : MirWrite} (hgroup : w.group ≠ 0) (hseq : w.seq < 2 ^ 64) : isSent w = false := by
  have hlow : ¬2 ^ 64 ≤ w.seq := by omega
  simp only [isSent, hgroup, hlow, decide_false, Bool.or_self]

/-- The next write of a group is applied and acknowledged at once where none waits (R486). -/
theorem takeRipe_next {s : State} {w : MirWrite} (hsent : isSent w = false) (hseq : w.seq = (s.group w.group).seq + 1) :
    takeRipe 1 { s with twin := { s.twin with waiting := [w] } } = State.takeNext { s with twin := { s.twin with waiting := [] } } w := by
  have hripe : State.ripe { s with twin := { s.twin with waiting := [w] } } = some w := by
    refine List.find?_cons_of_pos ?_
    rw [if_neg (by rw [hsent]; decide)]
    exact beq_iff_eq.mpr hseq
  have hdone : ([w] : List MirWrite).erase w = [] := List.erase_cons_head ..
  simp only [takeRipe, hripe, hsent, hdone]
  rfl

/-- A write that is taken outside resilvering is what its blocks read as, and it is acknowledged (R485). -/
theorem State.takeNext_write {s : State} {w : MirWrite} (hop : w.op = .write) (hst : s.twin.st = .paired) (hin : 1 ≤ w.group ∧ w.group ≤ 64) :
    ((s.takeNext w).group w.group).seq = w.seq ∧ (s.takeNext w).twin.out = s.twin.out ++ [.ack w.group w.seq]
      ∧ ∀ j (hj : j < w.blocks.length), (s.takeNext w).blk w.nsid (w.lba + j) = w.blocks[j] := by
  have htwin := s.applyWrite_twin w
  have hheld : s.applyWrite w = s.hold w.nsid w.lba w.blocks := by rw [State.applyWrite, hop]
  have hblk {j : Nat} (hj : j < w.blocks.length) : (s.applyWrite w).blk w.nsid (w.lba + j) = w.blocks[j] := by rw [hheld, State.blk_hold]
  unfold State.takeNext
  generalize s.applyWrite w = u at *
  have hplain : u.noteApplied w = u := if_neg (by rw [htwin, hst]; decide)
  have hgroup : ((u.modGroup w.group fun g => { g with seq := w.seq }).group w.group).seq = w.seq := by
    rw [State.group_modGroup, if_pos ⟨rfl, hin⟩]
  have hout : (u.modGroup w.group fun g => { g with seq := w.seq }).twin.out = s.twin.out := by rw [State.modGroup_twin, htwin]
  rw [hplain]
  refine ⟨hgroup, congrArg (· ++ _) hout, fun j hj => ?_⟩
  exact (State.blk_modGroup u w.group (fun g => { g with seq := w.seq }) w.nsid _).trans (hblk hj)

/-! ## Acknowledgements -/

/-- Where nothing is written through, commands that both modules hold complete. -/
theorem State.heldBoth_fold {s : State} (hthru : s.flash.wthru = false) (os : List OutCmd) :
    os.foldl State.heldBoth s = os.foldl (fun s o => s.okDw o.hdr o.dw0 o.dw1) s := by
  induction os generalizing s with
  | nil => rfl
  | cons o os ih =>
    have hdone : s.heldBoth o = s.okDw o.hdr o.dw0 o.dw1 := by
      refine if_neg ?_
      cases o.body <;> simp [State.unprogrammed, hthru]
    rw [List.foldl_cons, List.foldl_cons, hdone]
    exact ih hthru

theorem State.okDw_fold_keeps {β : Type} (p : State → β) (hp : ∀ s h, p { s with host := h } = p s) (os : List OutCmd) (s : State) :
    p (os.foldl (fun s o => s.okDw o.hdr o.dw0 o.dw1) s) = p s :=
  foldl_keeps p (fun _ _ => hp _ _) os s

/-! ## The end of a group's copies -/

/-- The end of resilvering neither loses a group's synchronisation nor sends anything. -/
theorem State.resilverEnd_keeps (s : State) : s.resilverEnd.twin.out = s.twin.out ∧ ∀ n, (s.resilverEnd.group n).synced = (s.group n).synced := by
  let u : State := { s with twin := { s.twin with groups := s.twin.groups.map fun g => { g with changed := [] }, applied := [], resLeft := 0 } }
  have hgroup (n : Nat) : (u.group n).synced = (s.group n).synced := by
    rw [State.group_map (s := s) (t := u) rfl]
    split
    · rfl
    next hn => rw [s.group_out hn]
  obtain ⟨since, hpair⟩ := u.pairTo_twin .paired
  have hend : (u.pairTo .paired).endPolicyWait.twin = { u.twin with st := .paired, since } := hpair
  have hout : (u.pairTo .paired).endPolicyWait.twin.out = s.twin.out := by rw [hend]
  have hgroups : (u.pairTo .paired).endPolicyWait.twin.groups = u.twin.groups := by rw [hend]
  unfold State.resilverEnd
  dsimp only
  split
  · refine ⟨hout, fun n => ?_⟩
    rw [← hgroup n]
    exact congrArg Group.synced (State.group_of_groups hgroups n)
  · exact ⟨rfl, fun _ => rfl⟩

/-! ## Staging areas -/

theorem State.staging?_putArea (s : State) (g : Staging) : (s.putArea g).staging? g.exec = some g := by
  have hnone : (s.twin.staging.filter fun x => x.exec != g.exec).find? (fun x => x.exec == g.exec) = none := by simp
  simp [State.staging?, State.putArea, List.find?_append, hnone]

theorem State.settleArea_open {s : State} {g : Staging} (h : g.note = none) : s.settleArea g = s.putArea g := by
  refine if_neg fun hwhole => ?_
  simp [Staging.isWhole, h] at hwhole

theorem State.settleArea_whole {s : State} {g : Staging} (hwhole : g.isWhole = true) (happlied : g.applied = false) :
    s.settleArea g = ((s.putStaging g).putArea { g with applied := true }).toPeer (.finishAck g.exec) :=
  if_pos ⟨hwhole, by rw [happlied]; rfl⟩

theorem State.putPage_mem (s : State) (key : Nat) (data : List Byte) :
    (s.putPage key data).tiers.mem = memPutAll s.tiers.mem (key * 65536) data := by
  unfold State.putPage
  dsimp only
  split
  · rw [ite_keeps (fun t : State => t.tiers.mem) (State.mapZero_mem ..) rfl]
  · rfl

/-! ## Epochs -/

theorem State.modGroup_keeps {β : Type} (p : State → β) (hp : ∀ s x, p { s with twin := x } = p s) (s : State) (g : Nat) (f : Group → Group) :
    p (s.modGroup g f) = p s := ite_keeps p rfl (hp _ _)

theorem State.handNow_twin (s : State) (num : Nat) : (s.handNow num).twin = { s.twin with groups := (s.handNow num).twin.groups }
    ∧ (s.handNow num).host = s.host ∧ (s.handNow num).part = s.part := by
  unfold State.handNow
  refine List.foldlRecOn (motive := fun t : State => t.twin = { s.twin with groups := t.twin.groups } ∧ t.host = s.host ∧ t.part = s.part)
    ((upto 64).map (· + 1)) _ ⟨rfl, rfl, rfl⟩ ?_
  rintro t ⟨htwin, hhost, hpart⟩ g -
  dsimp only
  split
  · refine ⟨?_, (State.modGroup_keeps State.host (fun _ _ => rfl) ..).trans hhost, (State.modGroup_keeps State.part (fun _ _ => rfl) ..).trans hpart⟩
    rw [State.modGroup_twin, htwin]
  · exact ⟨htwin, hhost, hpart⟩

/-- A namespace of the partner's appears here, unless one of its identifier is here (R482). -/
def State.adoptNs (s : State) (n : PeerNs) : State :=
  if (s.ns? n.nsid).isSome then s
  else { s with host := { s.host with
    nss := s.host.nss ++ [{ nsid := n.nsid, group := n.group, blocks := n.blocks, zoned := n.zoned, pit := n.pit, mediaKey := s.host.nextKey }]
    nextKey := s.host.nextKey + 1 } }

theorem State.adoptNss_first (s : State) (e : EpochImage) : s.adoptNss noEpoch e = e.nss.foldl State.adoptNs s := by
  have hstep : (fun (s : State) (n : PeerNs) => if (s.ns? n.nsid).isSome ∨ noEpoch.nss.contains n then s
      else { s with host := { s.host with
        nss := s.host.nss ++ [{ nsid := n.nsid, group := n.group, blocks := n.blocks, zoned := n.zoned, pit := n.pit, mediaKey := s.host.nextKey }]
        nextKey := s.host.nextKey + 1 } }) = State.adoptNs := by
    funext s n
    exact if_congr (or_iff_left Bool.false_ne_true) rfl rfl
  rw [← hstep]
  rfl

theorem State.mem_nss_adoptNs {s : State} (n : PeerNs) {x : Ns} (hx : x ∈ s.host.nss) : x ∈ (s.adoptNs n).host.nss := by
  unfold State.adoptNs
  split
  · exact hx
  · exact List.mem_append_left _ hx

theorem State.adoptNs_has (s : State) (n : PeerNs) : ∃ x ∈ (s.adoptNs n).host.nss, x.nsid = n.nsid := by
  unfold State.adoptNs
  split
  next h =>
    obtain ⟨x, hx⟩ := Option.isSome_iff_exists.mp h
    exact ⟨x, List.mem_of_find?_eq_some hx, by simpa using List.find?_some hx⟩
  next => exact ⟨_, List.mem_append_right _ (List.mem_singleton_self _), rfl⟩

theorem State.adoptNs_fold (ns : List PeerNs) (s : State) : (∀ x ∈ s.host.nss, x ∈ (ns.foldl State.adoptNs s).host.nss)
    ∧ ∀ n ∈ ns, ∃ x ∈ (ns.foldl State.adoptNs s).host.nss, x.nsid = n.nsid := by
  induction ns generalizing s with
  | nil => exact ⟨fun x hx => hx, fun n hn => absurd hn List.not_mem_nil⟩
  | cons n ns ih =>
    obtain ⟨hkept, hall⟩ := ih (s.adoptNs n)
    refine ⟨fun x hx => hkept x (State.mem_nss_adoptNs n hx), List.forall_mem_cons.mpr ⟨?_, hall⟩⟩
    obtain ⟨x, hx, hid⟩ := s.adoptNs_has n
    exact ⟨x, hkept x hx, hid⟩

/-- What of the partner's control state is no namespace leaves the namespaces alone. -/
theorem State.adoptRest_nss (s : State) (prev e : EpochImage) :
    (((((s.adoptGroups prev e).adoptAllocs prev e).adoptSettings prev e).adoptTable e).adoptStaging prev e).host.nss = s.host.nss := by
  have hgroups : (s.adoptGroups prev e).host.nss = s.host.nss := by
    have haer (t : State) (a : Aer) : (t.aer a).host.nss = t.host.nss := by
      obtain ⟨_, _, _, hhost⟩ := t.aer_told a
      rw [hhost]
    have hfold (f : State → Nat → Group → Group) (gs : List Nat) (t : State) :
        (gs.foldl (fun s g => s.modGroup g (f s g)) t).host.nss = t.host.nss :=
      foldl_keeps (fun t => t.host.nss) (fun t g => State.modGroup_keeps (fun t => t.host.nss) (fun _ _ => rfl) t g _) gs t
    unfold State.adoptGroups
    dsimp only
    have hall (a b c : List Nat) (f g h : State → Nat → Group → Group) : (c.foldl (fun s n => s.modGroup n (h s n))
        (b.foldl (fun s n => s.modGroup n (g s n)) (a.foldl (fun s n => s.modGroup n (f s n)) s))).host.nss = s.host.nss :=
      ((hfold h c _).trans (hfold g b _)).trans (hfold f a s)
    exact ite_keeps (fun t => t.host.nss) (hall ..) ((haer ..).trans (hall ..))
  have hallocs (t : State) : (t.adoptAllocs prev e).host.nss = t.host.nss := by
    refine (foldl_keeps (fun t => t.host.nss) (fun t a => ?_) _ _).trans (foldl_keeps (fun t => t.host.nss) (fun t a => ?_) _ t)
    · exact ite_keeps (fun t => t.host.nss) rfl rfl
    · split
      · exact ite_keeps (fun t => t.host.nss) rfl rfl
      · rfl
  have habandon (t : State) (x : Exec) : (t.abandon x).host.nss = t.host.nss :=
    foldl_keeps (f := State.abandon1) (fun t => t.host.nss) (fun _ _ => rfl) _ t
  have htable (t : State) : (t.adoptTable e).host.nss = t.host.nss :=
    ite_keeps (fun t => t.host.nss) (foldl_keeps (fun t => t.host.nss) habandon _ _) rfl
  exact (htable _).trans ((hallocs _).trans hgroups)

/-- The first epoch of the partner is adopted whole (R482, R492). -/
theorem State.adopt_first (s : State) (e : EpochImage) : (s.adopt noEpoch e).twin.adopted = some e ∧ (s.adopt noEpoch e).twin.epAdopted = e.num
    ∧ (s.adopt noEpoch e).fw.partnerMajor = e.fwMajor
    ∧ ((s.adopt noEpoch e).twin.owed = some e.num ∨ .adopted e.num ∈ (s.adopt noEpoch e).twin.out)
    ∧ ∀ n ∈ e.nss, ∃ x ∈ (s.adopt noEpoch e).host.nss, x.nsid = n.nsid := by
  have hnss := (s.adoptNs_fold e.nss).2
  have hrest := (s.adoptNss noEpoch e).adoptRest_nss noEpoch e
  rw [← s.adoptNss_first e, ← hrest] at hnss
  unfold State.adopt
  dsimp only
  generalize State.adoptStaging _ noEpoch e = r at *
  split
  · exact ⟨rfl, rfl, rfl, .inl rfl, hnss⟩
  · exact ⟨rfl, rfl, rfl, .inr (List.mem_append_right _ (List.mem_singleton_self _)), hnss⟩

end Sys2Proof.Machine
end

section
/-!
CERTIFICATE of O53: mirrored writes, allocation pages, finish notes, state epochs and resilvering copies (R483 to R494, R508).
-/
open Sys2Proof Sys2Proof.Machine

/-- Settles O53: a mirrored write in order is held and acknowledged, and each note or epoch is one branch of its definition. -/
theorem twinMirror : Obligations.TwinMirror := by
  unfold Obligations.TwinMirror
  intro s
  refine ⟨fun w hst hop hgroup hsmall hrole hsynced hnext hidle => ?_, fun w hst hgroup hsmall hrole hsynced hold => ?_,
    fun g q u hfind hq hrel hthru => ?_, fun n ctx key data hpair hnone => ?_, fun g key data cqe cntlid dl hpair harea happlied hpages hwf => ?_,
    fun e hex hphase hsent => ?_, fun n => ?_, fun hpair hdirty hflight => ?_, fun n hpair hn => ?_, fun e hbad => ?_,
    fun e hwhole hver hpair hnone => ?_, fun w hst hop hblocks hrole => ?_, fun w b hst hop hblocks hrole hnewer => ?_⟩
  · have hexec : exec (.mirroredWriteReceive w) s = execMirroredWriteReceive w s := rfl
    have hpair : s.paired = true := by rw [State.paired, hst]; rfl
    have hsent := isSent_of_group hgroup hsmall
    have hrun : exec (.mirroredWriteReceive w) s = .next (State.takeNext { s with twin := { s.twin with waiting := [] } } w) := by
      rw [hexec, execMirroredWriteReceive, State.join_paired hpair]
      simp only [hpair, hsent, hrole, hsynced, hidle]
      rw [if_neg (by decide), if_neg (by decide), if_neg (by decide), if_neg (by decide), if_neg (by omega), if_neg (by simp)]
      exact congrArg Host.Outcome.next (takeRipe_next hsent hnext)
    exact ⟨_, hrun, State.takeNext_write (s := { s with twin := { s.twin with waiting := [] } }) hop hst (State.group_in hrole (by decide))⟩
  · have hexec : exec (.mirroredWriteReceive w) s = execMirroredWriteReceive w s := rfl
    have hpair : s.paired = true := by rw [State.paired, hst]; rfl
    have hsent := isSent_of_group hgroup hsmall
    have hrun : exec (.mirroredWriteReceive w) s = .next (s.ackWrite w) := by
      rw [hexec, execMirroredWriteReceive, State.join_paired hpair]
      simp only [hpair, hsent, hrole, hsynced]
      rw [if_neg (by decide), if_neg (by decide), if_neg (by decide), if_neg (by decide), if_pos hold]
    exact ⟨_, hrun, rfl, rfl, rfl⟩
  · have hexec : exec (.mirrorAcknowledgement g q) s = execMirrorAcknowledgement g q s := rfl
    rw [Gives, hexec, execMirrorAcknowledgement, hfind]
    simp only [hrel]
    rw [if_neg (by omega), State.heldBoth_fold (by exact hthru)]
    refine ⟨_, rfl, ?_, fun o ho => ?_, fun e he => ?_, ?_, ?_⟩
    · exact State.okDw_fold_keeps (fun t => t.twin.unacked) (fun _ _ => rfl) _ _
    · simpa using State.not_waiting_of_answered (fun _ _ => rfl) ho
    · rw [State.okDw_fold_keeps State.sched (fun _ _ => rfl)] at he
      obtain ⟨x, -, rfl⟩ := List.mem_map.mp he
      simp [Exec.unwait]
    · exact State.okDw_fold_keeps State.tiers (fun _ _ => rfl) _ _
    · exact State.okDw_fold_keeps State.flash (fun _ _ => rfl) _ _
  · have hexec : exec (.allocationPageReceive n ctx key data) s = execAllocationPageReceive n ctx key data s := rfl
    rw [Gives, hexec, execAllocationPageReceive, if_neg (by simp [hpair]), hnone]
    dsimp only [Option.getD_none]
    rw [if_neg Bool.false_ne_true, State.settleArea_open (by rfl)]
    exact ⟨_, rfl, State.staging?_putArea s { exec := n, ctx, pages := [(key, data)] }, rfl, rfl⟩
  · have hexec : exec (.finishNote g.exec 1 cqe cntlid dl) s = execFinishNote g.exec 1 cqe cntlid dl s := rfl
    rw [Gives, hexec, execFinishNote, if_neg (by simp [hpair]), harea]
    dsimp only [Option.getD_some]
    have hwhole : Staging.isWhole { g with note := some (1, cqe, cntlid, dl) } = true := by simp [Staging.isWhole, hpages]
    rw [if_neg (by rw [happlied]; decide), State.settleArea_whole hwhole (by exact happlied)]
    have hmem : (s.putStaging { g with note := some (1, cqe, cntlid, dl) }).tiers.mem = memPutAll s.tiers.mem (key * 65536) data := by
      rw [State.putStaging, hpages]
      exact s.putPage_mem key data
    have htwin := s.putStaging_twin { g with note := some (1, cqe, cntlid, dl) }
    generalize s.putStaging _ = r at *
    refine ⟨_, rfl, congrArg (fun x : Twin => x.out ++ [.finishAck g.exec]) htwin, fun j hj => ?_, fun a ha => ?_, _,
      State.staging?_putArea r { g with note := some (1, cqe, cntlid, dl), applied := true }, rfl⟩
    · exact (congrArg (memGet · _) hmem).trans (memGet_putAll _ _ _ _ hwf hj)
    · exact (congrArg (memGet · _) hmem).trans (memGet_putAll_other _ _ _ _ hwf ha)
  · have hexec : exec (.finishNoteAck e.id) s = execFinishNoteAck e.id s := rfl
    rw [hexec, execFinishNoteAck, hex]
    exact congrArg Host.Outcome.next (if_pos ⟨hphase, hsent⟩)
  · have hexec : exec (.cancelNote n) s = execCancelNote n s := rfl
    rw [Gives, hexec, execCancelNote]
    refine ⟨_, rfl, fun g hg hn => ?_, rfl, rfl⟩
    simpa [hn] using (List.mem_filter.mp hg).2
  · have hexec : exec .stateEpochSend s = execStateEpochSend s := rfl
    rw [Gives, hexec, execStateEpochSend, if_pos ⟨hpair, .inl ⟨hdirty, hflight⟩⟩]
    dsimp only
    obtain ⟨htwin, hhost, hpart⟩ := State.handNow_twin { s with twin := { s.twin with
      epSent := s.twin.epSent + 1, epFlight := some (s.twin.epSent + 1), epAt := s.now, dirty := false } } (s.twin.epSent + 1)
    generalize State.handNow _ _ = r at *
    have hsent : r.twin.epSent = s.twin.epSent + 1 := by rw [htwin]
    have hflying : r.twin.epFlight = some (s.twin.epSent + 1) := by rw [htwin]
    have hat : r.twin.epAt = s.now := by rw [htwin]
    have hout : r.twin.out = s.twin.out := by rw [htwin]
    exact ⟨_, rfl, hsent, hflying, hat, r.snapshot (s.twin.epSent + 1), congrArg (· ++ _) hout, rfl, congrArg HostSt.bind hhost,
      congrArg HostSt.keys hhost, congrArg (·.epoch) hpart, rfl⟩
  · have hexec : exec (.epochAdoptionNotice n) s = execEpochAdoptionNotice n s := rfl
    rw [Gives, hexec, execEpochAdoptionNotice, if_neg (by simp [hpair]; omega)]
    dsimp only
    have htwin (c : Prop) [Decidable c] (u : State) (os os' : List OutCmd) :
        (os'.foldl (fun s o => s.okDw o.hdr o.dw0 o.dw1) (if c then u else os.foldl (fun s o => s.ok o.hdr) u)).twin = u.twin := by
      have hok : (os.foldl (fun s o => s.ok o.hdr) u).twin = u.twin := foldl_keeps (f := fun s o => State.ok s o.hdr) State.twin (fun _ _ => rfl) os u
      exact (State.okDw_fold_keeps State.twin (fun _ _ => rfl) _ _).trans (ite_keeps State.twin rfl hok)
    refine ⟨_, rfl, fun o ho m hm => ?_, ?_, fun g m hg hm => ?_⟩
    · have hdone := State.not_waiting_of_answered (fun _ _ => rfl) ho
      rw [hm] at hdone
      simpa using hdone
    · rw [htwin]
      dsimp only
      cases s.twin.epFlight with
      | none => nofun
      | some k =>
        dsimp only
        split
        · nofun
        · rintro ⟨⟩
          omega
    · have hin : 1 ≤ g ∧ g ≤ 64 := by
        by_contra hout
        rw [s.group_out hout] at hg
        cases hg
      rw [State.group_map (s := s) (f := _) (congrArg Twin.groups (htwin ..)) g, if_pos hin]
      simp [hg, hm]
  · have hexec : exec (.stateEpochAdopt e) s = execStateEpochAdopt e s := rfl
    have hdiscard : (!(e.whole && e.verified)) = true := by
      rcases hbad with h | h <;> simp [h]
    rw [hexec, execStateEpochAdopt, if_pos hdiscard]
  · have hexec : exec (.stateEpochAdopt e) s = execStateEpochAdopt e s := rfl
    have htraining : s.twin.st ≠ .training := fun h => by rw [State.paired, h] at hpair; exact absurd hpair (by decide)
    rw [Gives, hexec, execStateEpochAdopt, if_neg (by simp [hwhole, hver]), if_neg htraining, if_neg (by simp [hpair, hnone]), hnone]
    exact ⟨_, rfl, s.adopt_first e⟩
  · have hexec : exec (.resilverCopy w) s = execResilverCopy w s := rfl
    have hpair : s.paired = true := by rw [State.paired, hst]; rfl
    have hours : (if (s.group w.group).role = .conflict then s.keepTheirs w.group else s) = s := if_neg (by rw [hrole]; decide)
    have hin := State.group_in hrole (by decide)
    have hgroup : ((s.modGroup w.group fun g => { g with synced := true, seq := max g.seq w.seq }).group w.group).synced = true := by
      rw [State.group_modGroup, if_pos ⟨rfl, hin⟩]
    have hout : (s.modGroup w.group fun g => { g with synced := true, seq := max g.seq w.seq }).twin.out = s.twin.out := by rw [State.modGroup_twin]
    rw [Gives, hexec, execResilverCopy, State.join_paired hpair]
    dsimp only
    rw [if_neg (by simp [hpair]), if_neg (by rw [hop]; decide), hours, if_pos ⟨hblocks, hop⟩]
    generalize s.modGroup w.group _ = u at *
    obtain ⟨hsent, hsynced⟩ := (u.toPeer (.ack w.group (markSeq w.seq))).resilverEnd_keeps
    refine ⟨_, rfl, (hsynced w.group).trans hgroup, ?_⟩
    rw [hsent, ← hout]
    rfl
  · have hexec : exec (.resilverCopy w) s = execResilverCopy w s := rfl
    have hpair : s.paired = true := by rw [State.paired, hst]; rfl
    have hours : (if (s.group w.group).role = .conflict then s.keepTheirs w.group else s) = s := if_neg (by rw [hrole]; decide)
    have hrun : exec (.resilverCopy w) s = .next (s.hold w.nsid w.lba [b]) := by
      rw [hexec, execResilverCopy, State.join_paired hpair]
      have hcopy : s.takeCopy w = s.hold w.nsid w.lba [b] := by
        rw [State.takeCopy, hop]
        dsimp only
        rw [hnewer, if_neg Bool.false_ne_true, State.applyWrite, hop, hblocks]
      dsimp only
      rw [if_neg (by simp [hpair]), if_neg (by rw [hop]; decide), hours, if_neg (by simp [hblocks]), hcopy]
    have htwin : (s.hold w.nsid w.lba [b]).twin = s.twin := (State.gather_dieWork _).twin.trans (s.holdAll_twin ..)
    exact ⟨_, hrun, s.blk_hold w.nsid w.lba [b] (j := 0) (by simp), congrArg Twin.out htwin⟩
end
